-- ==== Sys2Proof/Word.lean ====
section
/-! DEFINITION. The word types of the model and their plainest arithmetic.
Register contents are held as the numbers their bits spell (Nat), with the width of each field in the
object catalogue; memory and frames are bytes. -/

namespace Sys2Proof

/-- One byte. -/
abbrev Byte := BitVec 8

/-- The byte whose value is `n` modulo 256. -/
def Byte.ofNat' (n : Nat) : Byte := BitVec.ofNat 8 n

end Sys2Proof
end

