-- ==== Sys2Proof/Syntax.lean ====
section
/-! DEFINITION. The commands of the IL9640, one constructor of `Instr` per row of spec/opcode_table.json, and the
types of their operands. A command is something that reaches the device from outside (a bus access, a frame, a pin)
or an event inside it that the table lists as a step of its own. -/

namespace Sys2Proof

/-! ### Dictionary and host endpoint (02, 03) -/

/-- A request frame (R36): the header's fields and the payload bytes the frame carries. -/
structure Request where
  opcode : Nat
  flags : Nat
  tag : Nat
  object : Nat
  reserved : Nat
  sub : Nat
  count : Nat
  length : Nat
  payload : List Byte
  deriving DecidableEq, Repr, Inhabited

/-- The transport a request came by (R44): the mailbox, an admitted UDP datagram (receiving port, IP family, source
address in 128-bit form, source UDP port, source element), a CAN FD transfer, or a relay from another device. -/
inductive Via where
  | mailbox
  | udp (port family source sourcePort element : Nat)
  | can
  | relay (device : Nat)
  deriving DecidableEq, Repr

/-- What a host read returned (R101). -/
inductive HostReadResult where
  | data (bytes : List Byte)
  | unsupported
  | aborted
  | poisoned
  deriving DecidableEq, Repr

/-- The configuration registers named by R69, R70, R92, R97 and R101 (the base specification places them). `capability k` and
`extendedCapability k` read the identifier of the entry at place k of each list, 0 past its end. -/
inductive CfgReg where
  | vendorId | deviceId | revisionId | classCode | subsystemVendorId | subsystemId | interruptPin | interruptLine
  | command | status | bar0 | bar2 | deviceControl | deviceControl2 | powerState | serialNumber
  | aerUncorrectableStatus | aerUncorrectableMask | aerUncorrectableSeverity
  | aerCorrectableStatus | aerCorrectableMask
  | capability (k : Nat) | extendedCapability (k : Nat) | pmCapabilities | noSoftReset | deviceCapabilities | deviceStatus
  | linkCapabilities | linkControl | linkStatus | deviceCapabilities2
  deriving DecidableEq, Repr

/-- A configuration request of the host. -/
inductive CfgRequest where
  | read (r : CfgReg)
  | write (r : CfgReg) (value : Nat)
  deriving DecidableEq, Repr
/-! ### Decode (05) -/

/-- Chroma formats of a decoded picture (R138, R141). -/
inductive Chroma where
  | c400 | c420 | c422 | c444
  deriving DecidableEq, Repr

/-- Profiles of the table of R138; `other` is any it does not list. -/
inductive CodecProfile where
  | constrainedBaseline | main | high | main10 | baseline | other
  deriving DecidableEq, Repr

/-- Tools that the table of R138 excludes; `other` is any that a supported profile does not have. -/
inductive CodecTool where
  | fieldPictures | mbaff | fmo | aso | redundantSlices | svc | mvc | rangeExtensions | screenContent | largeScaleTile
  | progressive | extended12 | arithmetic | lossless | hierarchical | other
  deriving DecidableEq, Repr

/-- What firmware found in the headers of a picture (R143), under the codec's standard: dimensions, bit depth, profile, chroma format and
the excluded tools it uses (R138); `decBuffering`, max_dec_frame_buffering if present or sps_max_dec_pic_buffering_minus1 of the highest
sub-layer, and max_num_ref_frames (R150); whether its parameter sets have been received, whether it is a key picture, all intra, or
predicted, its place in output order and how many pictures of its sequence may come before one in decode order and after it in output
order, the number firmware gives the picture, the numbers of the references it names (list 0 first), the ones the codec's rules leave
marked once it is decoded, whether it is itself kept, and, for an AV1 frame that shows an existing one, that frame; whether it is output
(an AV1 frame may be decoded and shown by a later unit), and whether it is the last picture its access unit codes. -/
structure PictureHeader where
  width : Nat
  height : Nat
  bitDepth : Nat
  profile : CodecProfile
  chroma : Chroma
  tools : List CodecTool
  decBuffering : Option Nat
  numRefFrames : Nat
  setsReceived : Bool
  key : Bool
  intra : Bool
  order : Nat
  reorder : Nat
  id : Nat
  refs : List Nat
  keep : List Nat
  kept : Bool
  showExisting : Option Nat
  shown : Bool
  last : Bool
  deriving DecidableEq, Repr

/-- How a 16 × 16 block was decoded (R157, R162): predicted as a zero-motion copy of the previous picture released for output, predicted
from a substitute or from mid-grey, or in another way. -/
inductive BlockResult where
  | zeroCopy | coded | substituted
  deriving DecidableEq, Repr

/-- A slice, slice segment, tile or scan as an engine decodes it (R161): whether its header parses and stays within its ranges, its blocks
in their order with how each was decoded, and the place among them of its first syntax error. Blocks not written when its data or its
picture ended are not among them. -/
structure SliceResult where
  parsed : Bool
  blocks : List (Nat × BlockResult)
  error : Option Nat
  deriving DecidableEq, Repr

/-- The samples an engine reconstructs under the codec's standard, row by row, and the slices of the picture. -/
structure PictureResult where
  luma : List Nat
  cb : List Nat
  cr : List Nat
  slices : List SliceResult
  deriving DecidableEq, Repr
/-! ### Encode (06) -/

/-- The planes of a picture at 4:2:0, row by row. -/
structure Planes where
  luma : List Nat
  cb : List Nat
  cr : List Nat
  deriving DecidableEq, Repr, Inhabited

/-- How an encode engine codes a block (R173, R177, R180): intra, predicted with a vector in quarter luma samples, or as skip, with the
vector that its codec predicts. -/
inductive BlockCode where
  | intra
  | inter (dx dy : Int)
  | skip (dx dy : Int)
  deriving DecidableEq, Repr, Inhabited

/-- What the coding of a picture depends on (R174): codec, profile, size, bit depth, whether it is a key picture, QP, its source with the masks
burnt in, and its reference. -/
structure CodingInput where
  codec : Nat
  profile : Nat
  width : Nat
  height : Nat
  bitDepth : Nat
  key : Bool
  qp : Nat
  source : Planes
  reference : Option Planes
  deriving DecidableEq, Repr, Inhabited
/-! ### Egress (13) -/

/-- What the device gets for its read of a ring's consumer word (R101, R387). -/
inductive ConsumerRead where
  | word (consumed : Nat)
  | refused
  | poisoned
  | timedOut
  deriving DecidableEq, Repr
/-! ### Plans and Press cores (08 to 12) -/

/-- What the tensor table says of a tensor (R303): its layout is not given, so the facts a pass needs are an operand of PLAN_LOAD
(log entry 17): adaptive or fixed with its constant bias, bfloat16 or binary16, and its channels. -/
structure TensorFacts where
  adaptive : Bool
  bf16 : Bool
  bias : Int
  channels : Nat
  deriving DecidableEq, Repr, Inhabited

/-- An operation of a Press core body: a pass of an array, whose record lies at a store offset, or a vector operation that takes so many
passes over so many elements (R235, R300). -/
inductive BodyOp where
  | pass (array offset : Nat)
  | vector (taps n : Nat)
  deriving DecidableEq, Repr

/-- What admission finds in the bodies of a variant, some of whose records have no layout in the manual (log entry 17): that those records
are valid, the highest counter below 224 that entries and bodies name, for each SIGNAL operation on a context counter the body's store offset
and the counter (R431), and, by the store offset of a body, its passes and vector operations in order. -/
structure BodyFacts where
  valid : Bool
  maxCounter : Option Nat
  signals : List (Nat × Nat)
  ops : List (Nat × List BodyOp) := []
  deriving DecidableEq, Repr, Inhabited

/-- A package's facts by variant, and its tensor table. -/
structure PlanFacts where
  bodies : List BodyFacts
  tensors : List TensorFacts
  deriving DecidableEq, Repr, Inhabited

/-- The Deckle command of an entry's body (R206): the crop list, the dimension of its count, and the result array. -/
structure DeckleBody where
  list : Nat
  dimension : Nat
  results : Nat
  deriving DecidableEq, Repr

/-- How a pass enters (R221 to R223): the cycle its load begins, the decompressor's pause, the cycle its first vector enters row 0,
the empty slots before each later vector, and the core's own cycle count at cycle 0, which is the release of the core (R483). -/
structure PassTiming where
  load : Nat
  pause : Nat
  start : Nat
  gaps : List Nat
  origin : Nat
  deriving DecidableEq, Repr

/-- Where a pass record lies and what the body fixes beside it (R321, R251, R257): the array, the store offset, the tensor it reads,
the output tensor's channel in logical column 0, for a keep pass the record of the pass that loads its weights (R348), and Kprev, the dense
count of the layer's sweeps before the pass's own (R280). -/
structure PassRef where
  array : Nat
  offset : Nat
  input : Option Nat
  channel : Nat
  loader : Nat
  kprev : Nat
  deriving DecidableEq, Repr

/-- Formats a vector load or store converts (R247, R267). -/
inductive VecFmt where
  | f32 | f16 | bf16 | i8 | i4 | i2
  deriving DecidableEq, Repr

/-- Two-operand and one-operand functions of the vector engine, and its reductions (R267, R236). -/
inductive VecBin where
  | add | sub | mul | div | max | min
  deriving DecidableEq, Repr
inductive VecUn where
  | sqrt | exp | log | rsqrt | tanh | sigmoid | erf
  deriving DecidableEq, Repr
inductive VecFold where
  | sum | max
  deriving DecidableEq, Repr

/-- A tensor in the Press buffer as a vector operation reads or writes it: its offset, its format, the tensor of the plan it belongs to
with the channel of each element, and the frame it is of, relative to the iteration's (R259, R267). -/
structure VecRef where
  address : Nat
  fmt : VecFmt
  tensor : Option Nat
  channels : List Nat
  frame : Nat
  deriving DecidableEq, Repr

/-- One operation of a vector engine (R235, R236, R267 to R271, R294 to R300, R332 to R334). Registers are numbered 0 to 31, each of 512
elements; `n` counts logical elements; `draw` is the logical index of element 0 where the plan marks a store stochastic. Pooling and the
depth-wise path store their outputs; `scan` gives element `k` the combination of elements 0 to `k`; an attention names the dimension Ls, the
query i, and o where it is causal; `logits`, `loss`, `softmaxGradient` and `gradient` are the parts of a training step (R268, R270), of
`classes` and `features`; `clear` stores +0 (R269). The records that carry them have no layout in the manual (log entry 17). -/
inductive VecOp where
  | load (dst : Nat) (from_ : VecRef) (stride n : Nat)
  | store (src : Nat) (tgt : VecRef) (stride n : Nat) (draw : Option Nat)
  | bin (op : VecBin) (dst a b n : Nat)
  | fma (dst a b c n : Nat)
  | un (op : VecUn) (dst a n : Nat)
  | fold (op : VecFold) (dst element a n : Nat)
  | scan (op : VecFold) (dst a n : Nat)
  | pool (descriptor : List Byte) (from_ tgt : VecRef) (stride count : Nat) (draw : Option Nat)
  | globalPool (op : VecFold) (from_ tgt : VecRef) (positions pitch channels stride : Nat) (draw : Option Nat)
  | product (a b n dst element : Nat)
  | attention (q : Nat) (k v : VecRef) (scale width dimension query : Nat) (causal : Option Int) (dst : Nat)
  | gather (table : VecRef) (rows width indices n dst : Nat)
  | depthwise (descriptor weights : List Byte) (fp8 : Bool) (from_ tgt : VecRef) (constants channels count pitch : Nat) (draw : Option Nat)
  | clear (tgt : VecRef) (stride n : Nat)
  | logits (w b x tgt : VecRef) (classes features : Nat)
  | loss (z : VecRef) (label classes dst element : Nat)
  | softmaxGradient (z tgt : VecRef) (label classes : Nat)
  | gradient (g : VecRef) (x : Option VecRef) (batch classes features first n dst : Nat)
  | initialise (tensor bound first n dst : Nat)
  | update (w m g rate momentum tensor first n : Nat)
  | setScalar (offset : Nat) (data : List Byte)
  deriving DecidableEq, Repr

/-- A transfer of a data mover (R212, R325, R326): from device memory into the Press buffer or back, `rows` runs of `bytes` bytes. -/
structure MoverOp where
  toPress : Bool
  press : Nat
  device : Nat
  bytes : Nat
  rows : Nat
  pressPitch : Nat
  devicePitch : Nat
  cacheable : Bool
  deriving DecidableEq, Repr

/-- A RANDOM_FILL (R274). -/
structure FillOp where
  tensor : Nat
  purpose : Nat
  step : Nat
  stream : Nat
  first : Nat
  count : Nat
  address : Nat
  deriving DecidableEq, Repr

/-- What a Press core finds wrong (R228, R240): parity of a weight in a physical column or of an accumulator half of an array, or two
wrong bits in the Press buffer. -/
inductive PressFault where
  | column (array column : Nat)
  | half (array half : Nat)
  | buffer
  deriving DecidableEq, Repr
/-! ### Coupling (17) -/

/-- A message between devices (R521 to R523). -/
inductive CouplingMessage where
  | relayRequest (r : Request)
  | relayReply (reply : List Byte)
  | boost (context counter : Nat)
  | cancel (id : Nat)
  | resetNotice
  | contextClosed (context : Nat)
  | signal (context counter n : Nat)
  | wait (id context counter n : Nat)
  | grant (id : Nat)
  | release (id code : Nat)
  | unit (start length address : Nat) (data : List Byte)
  | transferSignal (context counter n : Nat)
  deriving DecidableEq, Repr

/-- The credit classes of R521. -/
inductive CoupClass where
  | control | signal | data
  deriving DecidableEq, Repr

/-- How a TRANSFER ends (R524): every unit done, the target's window denies it, or its port goes down after some units. -/
inductive TransferOutcome where
  | completed
  | denied
  | linkLost (units : Nat)
  deriving DecidableEq, Repr
/-! ### The Vat, the Sidings and LPDDR6 (15) -/

/-- What the error-correcting codes found at an address while it was read (R447, R464, R466). -/
inductive EccKind where
  | corrected | uncorrectable | commandError
  deriving DecidableEq, Repr

/-- An error met by a read, with the device address it was met at. -/
structure EccEvent where
  kind : EccKind
  address : Nat
  deriving DecidableEq, Repr
/-! ### Power (16) -/

/-- Engines with a clock and a power domain of their own (R23, R24). -/
inductive EngineKind where
  | decode | encode | calender | deckle | tracker | points
  deriving DecidableEq, Repr

/-- The 148 switched power domains (R24): Press core array pairs, Press core shells, the random unit, engines, Vat bank groups, control
processors, and those that are on as R25 has it, Coupling ports, Ethernet ports and the halves of the LPDDR6 PHY. -/
inductive Domain where
  | arrays (core : Nat)
  | shell (core : Nat)
  | random
  | engine (kind : EngineKind) (e : Nat)
  | vatGroup (g : Nat)
  | control (n : Nat)
  | coupling (p : Nat)
  | ethernet (p : Nat)
  | phy (half : Nat)
  deriving DecidableEq, Repr

/-- The end of a domain's wake: the domain, and whether a random unit that has woken computes what R273 gives (R275). -/
structure DomainWake where
  domain : Domain
  randomGood : Bool
  deriving DecidableEq, Repr

/-- An activity counter as an epoch reads it (R479): its number and count, and what no rule gives of it (log entry 27): whether it is
on the arithmetic rail, and, if it counts Press core issue, whether of latency-critical class. -/
structure Activity where
  counter : Nat
  count : Nat
  arithmetic : Bool
  cls : Option Bool
  deriving DecidableEq, Repr

/-- A zone of the static power table in an epoch (R479; log entry 27): its sensors, its rail voltage in mV, its domains and how many of
them are powered. -/
structure ZoneLoad where
  zone : Nat
  sensors : List Nat
  millivolts : Nat
  powered : Nat
  total : Nat
  deriving DecidableEq, Repr
/-! ### Boot and trust (18) -/

/-- An owner section as the device reads it (R540; its layout is not given, log entry 20): sequence, least security version, owner
certificates of 1,088 bytes, revoked key ids, the object value list, and the whole section for its digest. -/
structure OwnerSection where
  sequence : Nat
  minSecurity : Nat
  owners : List (List Byte)
  revoked : List Nat
  values : List Byte
  bytes : List Byte
  deriving DecidableEq, Repr, Inhabited

/-- A factory section as the device reads it (R540; log entry 20). -/
structure FactorySection where
  serial : Nat
  stations : List Nat
  subsystemVendor : Nat
  subsystem : Nat
  identityCert : List Byte
  manufacturingCert : List Byte
  bytes : List Byte
  deriving DecidableEq, Repr, Inhabited

/-- The sections of a copy of the configuration block that verify (R536, R541). -/
structure ConfigCopy where
  factory : Option FactorySection
  owner : Option OwnerSection
  deriving DecidableEq, Repr, Inhabited

/-- What the board has written to the flash (R532): both copies of the first stage, both firmware slots, both copies of the
configuration block. -/
structure FlashImage where
  first0 : List Byte
  first1 : List Byte
  slotA : List Byte
  slotB : List Byte
  copy0 : ConfigCopy
  copy1 : ConfigCopy
  deriving DecidableEq, Repr, Inhabited

/-- What a ledger entry concerns (R546). The codes of byte 9 are not given (log entry 9). -/
inductive UnitType where
  | none | decodeEngine | encodeEngine | calender | deckle | pressCore | arrayColumn | arrayHalf | vectorLanes
  | trackerEngine | pointsEngine | vatBank | lpddrRank | couplingLane | voltagePoint
  deriving DecidableEq, Repr

/-- A physical unit and its sub-unit. -/
structure UnitRef where
  type : UnitType
  unit : Nat
  sub : Nat
  deriving DecidableEq, Repr

/-- What a boot stage finds (R544): whether a flash answers, and what the board has written to it since the device last read it; the
configuration block is read; whether the identity key is regenerated; the LPDDR6 ranks that train (channel × 2 + rank), and how many
ledger entries of the half in use verify, from its first; the units that fail self-test, and whether the random unit's draw is right; the firmware. -/
inductive BootReport where
  | firstStage (flash : Bool) (board : Option FlashImage)
  | configuration
  | identity (regenerated : Bool)
  | memory (trained : List Nat) (verified : Nat)
  | selfTest (failed : List UnitRef) (randomGood : Bool)
  | firmware
  deriving DecidableEq, Repr

/-- The commands and events of the block. -/
inductive Instr where
  /-- READ (R39): a dictionary READ request by a transport, or one of an opcode that R39 does not know. -/
  | read (via : Via) (r : Request)
  /-- WRITE (R40): a dictionary WRITE request by a transport. -/
  | write (via : Via) (r : Request)
  /-- DESCRIBE (R38): a dictionary DESCRIBE request by a transport. -/
  | describe (via : Via) (r : Request)
  /-- ATTENTION_ACK (R55): a write of `dictionary.attention.ack`. -/
  | attentionAck (via : Via) (r : Request)
  /-- MAILBOX_DOORBELL (R63): a write of the dictionary mailbox's doorbell. -/
  | mailboxDoorbell
  /-- DICT_UDP_DATAGRAM (R64): a datagram on `dictionary.udp.port` of an Ethernet port. -/
  | dictUdpDatagram (port family source sourcePort : Nat) (data : List Byte)
  /-- CAN_REQUEST_SEGMENT (R66): a CAN FD frame with a 29-bit identifier. -/
  | canRequestSegment (identifier : Nat) (data : List Byte)
  /-- CAN_SEGMENT_TIMEOUT (R67). -/
  | canSegmentTimeout
  /-- BAR0_BAD_ACCESS (R72): an access of a size or alignment that is not accepted. -/
  | bar0BadAccess (isWrite : Bool) (offset size : Nat)
  /-- BAR0_REGISTER_WRITE (R92): a write to a BAR0 register, or to a mailbox's request region. -/
  | bar0RegisterWrite (offset : Nat) (data : List Byte) (poisoned : Bool)
  /-- MAILBOX_CLEAR (R92): a write of the register at 0x010014. -/
  | mailboxClear (value : Nat)
  /-- BAR2_READ (R74): with what the memory codes found. -/
  | bar2Read (offset length : Nat) (ecc : List EccEvent)
  /-- BAR2_WRITE (R75). -/
  | bar2Write (offset : Nat) (data : List Byte) (poisoned : Bool)
  /-- SQ_TAIL (R81). -/
  | sqTail (queue value : Nat)
  /-- CQ_HEAD (R93). -/
  | cqHead (queue value : Nat)
  /-- COMMAND_FETCH (R83): the 64 bytes host memory holds at the queue's head. -/
  | commandFetch (queue : Nat) (entry : List Byte)
  /-- QUEUE_ENABLE (R82): a write of ones to `host.queue.enable`. -/
  | queueEnable (via : Via) (r : Request)
  /-- QUEUE_DISABLE (R85): a write of zeros to `host.queue.enable`. -/
  | queueDisable (via : Via) (r : Request)
  /-- CQ_DELAY_EXPIRY (R93). -/
  | cqDelayExpiry (queue : Nat)
  /-- BUS_MASTER_ENABLE_CLEAR (R90). -/
  | busMasterEnableClear
  /-- BUS_MASTER_ENABLE_SET (R91). -/
  | busMasterEnableSet
  /-- INTERRUPT_DISABLE_SET (R92). -/
  | interruptDisableSet
  /-- FUNDAMENTAL_RESET (R97): PERST# or power-on. -/
  | fundamentalReset
  /-- HOT_RESET (R97). -/
  | hotReset
  /-- FUNCTION_LEVEL_RESET (R97). -/
  | functionLevelReset
  /-- DL_DOWN (R96). -/
  | dlDown
  /-- D3HOT_ENTRY (R99). -/
  | d3hotEntry
  /-- D3HOT_TO_D0 (R99). -/
  | d3hotToD0
  /-- COMPLETION_TIMEOUT (R101): of a host read of the command at a submission index of a queue. -/
  | completionTimeout (queue index : Nat)
  /-- HOST_READ_COMPLETION (R101). -/
  | hostReadCompletion (queue index : Nat) (result : HostReadResult)
  /-- LINK_RATE_CHANGE (R101): trained rate in units of 0.5 GT/s, width, flit mode. -/
  | linkRateChange (rate width : Nat) (flit : Bool)
  /-- ETH_FRAME_RECEIVED (R107): a frame's bytes from its destination address to before its check sequence, whether the
  check sequence is good, and whether it came beyond the port's rate (R130). -/
  | ethFrameReceived (port : Nat) (fcsOk overRate : Bool) (frame : List Byte)
  /-- GAP_TIMER_EXPIRY (R121): of the gap at an extended sequence number. -/
  | gapTimerExpiry (stream sequence : Nat)
  /-- AU_HAND_OFF (R123): the next unit of a stream. -/
  | auHandOff (stream : Nat)
  /-- PORT_ENABLE (R104): a write of `junction.port.enable`. -/
  | portEnable (via : Via) (r : Request)
  /-- PORT_LINK_CHANGE (R109). -/
  | portLinkChange (port : Nat) (up : Bool)
  /-- JUNCTION_PUSH (R113): command 0x0401, whose bytes have been read. -/
  | junctionPush (queue index : Nat)
  /-- STREAM_ENABLE (R120): a write of ones to `junction.stream.enable`. -/
  | streamEnable (via : Via) (r : Request)
  /-- STREAM_DISABLE (R120): a write of zeros to `junction.stream.enable`. -/
  | streamDisable (via : Via) (r : Request)
  /-- STREAM_BECOMES_STOPPED (R120). -/
  | streamBecomesStopped (stream : Nat)
  /-- DECODE_START (R146): a presented engine takes the picture R146 gives it, whose headers are as firmware read them. -/
  | decodeStart (engine : Nat) (header : PictureHeader)
  /-- DECODE_FINISH (R155): with what the memory codes found in what the engine read. -/
  | decodeFinish (engine : Nat) (result : PictureResult) (ecc : List EccEvent)
  /-- BUDGET_ABORT (R163): what had been written when the budget ran out. -/
  | budgetAbort (engine : Nat) (result : PictureResult)
  /-- PICTURE_RELEASE (R154): of a stream's next picture in output order. -/
  | pictureRelease (stream : Nat)
  /-- DECODE_ENGINE_FAULT (R148): what had been written when the engine faulted. -/
  | decodeEngineFault (engine : Nat) (result : PictureResult)
  /-- ENCODE_CLIP (R167): command 0x0601. -/
  | encodeClip (queue index : Nat)
  /-- ENCODE_STOP (R172): command 0x0602. -/
  | encodeStop (queue index : Nat)
  /-- ENCODE_KEY (R181): command 0x0603. -/
  | encodeKey (queue index : Nat)
  /-- ENCODE_PICTURE_START (R186): an engine takes the picture R186 gives it. -/
  | encodePictureStart (engine : Nat)
  /-- ENCODE_PICTURE_DONE (R173): an engine finishes its picture, named by its sequence. -/
  | encodePictureDone (engine picture : Nat)
  /-- ENCODE_ENGINE_FAULT (R187). -/
  | encodeEngineFault (engine : Nat)
  /-- CALENDER_START (R195): a Calender takes the picture R195 gives it. -/
  | calenderStart (engine : Nat)
  /-- CALENDER_BUFFER_GRANT (R200): the earliest released picture that waits for an output buffer takes one that is free. -/
  | calenderBufferGrant
  /-- CALENDER_HAND_ON (R202): with what the memory codes found in what the Calender read. -/
  | calenderHandOn (engine : Nat) (ecc : List EccEvent)
  /-- CALENDER_FAULT (R197): whether the Calender was writing its stream's history when it faulted (R205). -/
  | calenderFault (engine : Nat) (writingHistory : Bool)
  /-- DECKLE_ENTRY (R207): a Deckle cuts the next crop entry waiting. -/
  | deckleEntry (engine : Nat)
  /-- DECKLE_FAULT (R211). -/
  | deckleFault (engine : Nat)
  /-- PASS_ENTRY (R222): a pass of the command a core has in service enters row 0 of an array. -/
  | passEntry (core : Nat) (pass : PassRef) (timing : PassTiming)
  /-- DRAIN (R225): the next drain of an array. -/
  | drain (core array : Nat)
  /-- TILE_BOUNDARY (R238): of an array. -/
  | tileBoundary (core array : Nat)
  /-- VECTOR_OPERATION (R235). -/
  | vectorOperation (core : Nat) (op : VecOp)
  /-- DATA_MOVER_TRANSFER (R212): with what the memory codes found in what it reads, and the cached units whose lines they could not
  correct (R447). -/
  | dataMoverTransfer (core : Nat) (op : MoverOp) (ecc : List EccEvent) (badLines : List Nat)
  /-- RANDOM_FILL (R274). -/
  | randomFill (core : Nat) (op : FillOp)
  /-- WATCHDOG_TRIP (R240). -/
  | watchdogTrip (core : Nat)
  /-- PRESS_CORE_FAULT (R242). -/
  | pressCoreFault (core : Nat) (fault : PressFault)
  /-- PLAN_LOAD (R307): command 0x0B01, whose package has been read, with what the device finds in the parts of it that have no layout
  (log entry 17). -/
  | planLoad (queue index : Nat) (facts : PlanFacts)
  /-- PLAN_BIND (R316): command 0x0B03. -/
  | planBind (queue index : Nat)
  /-- PLAN_UNBIND (R318): command 0x0B04. -/
  | planUnbind (queue index : Nat)
  /-- PLAN_UNLOAD (R319): command 0x0B02. -/
  | planUnload (queue index : Nat)
  /-- BATCH_EGRESS (R387): the oldest held batch of a stream, with its ring's consumer word as the device reads it. -/
  | batchEgress (stream : Nat) (consumer : ConsumerRead)
  /-- DETECT (R363): the operation an engine has in service commits. `slots` is where the frame's slot of the plan's scratch lies (no rule
  gives it, log entry 25); then what the memory codes found, and the tracks whose table entries read as poison. -/
  | detect (engine slot : Nat) (ecc : List EccEvent) (lost : List Nat)
  /-- EMBED (R372): the operation an engine has in service commits. -/
  | embed (engine : Nat) (ecc : List EccEvent)
  /-- EVALUATE (R378): the operation a Points engine has in service commits. -/
  | evaluate (engine : Nat) (ecc : List EccEvent)
  /-- SLICE_BOUNDARY (R361): of a tracker engine, or of a Points engine. -/
  | sliceBoundary (points : Bool) (engine : Nat)
  /-- WATCH_LOAD (R373): command 0x0D10, whose entries have been read. -/
  | watchLoad (queue index : Nat)
  /-- TRACKER_ENGINE_FAULT (R394): of a tracker engine, or of a Points engine. -/
  | trackerEngineFault (points : Bool) (engine : Nat)
  /-- DIO_PULSE_END (R380): of a discrete line. -/
  | dioPulseEnd (line : Nat)
  /-- DIO_RELEASE (R380): a write of `points.dio.release`. -/
  | dioRelease (via : Via) (r : Request)
  /-- RING_ENABLE (R386): a write of `points.egress.ring_enable`. -/
  | ringEnable (via : Via) (r : Request)
  /-- POINTS_RULE_WRITE (R375): a write of `points.rule`. -/
  | pointsRuleWrite (via : Via) (r : Request)
  /-- FRAME_READY (R398): the Calender's next signal reaches the Yard. -/
  | frameReady
  /-- STEP_DISPATCH (R401): of a context. -/
  | stepDispatch (context : Nat)
  /-- GATHER_TIMEOUT (R401). -/
  | gatherTimeout (context : Nat)
  /-- YARD_RUN (R403): command 0x1001. -/
  | yardRun (queue index : Nat)
  /-- ENTRY_ISSUE (R328): of an entry of a step, by its place, with the Deckle command its body holds. -/
  | entryIssue (context step pos : Nat) (deckle : Option DeckleBody)
  /-- ENTRY_COMPLETE (R320). -/
  | entryComplete (context step pos : Nat)
  /-- STEP_COMPLETE (R404). -/
  | stepComplete (context step : Nat)
  /-- SWITCH_POINT (R407): of a Press core; `overrun` says that the span before it was waited on beyond R416. -/
  | switchPoint (core : Nat) (overrun : Bool)
  /-- TEARDOWN_END (R434). -/
  | teardownEnd (context : Nat)
  /-- QUIESCE (R435): command 0x1002 with op 0. -/
  | quiesce (queue index : Nat)
  /-- END_QUIESCE (R435): command 0x1002 with op 1. -/
  | endQuiesce (queue index : Nat)
  /-- RESUME_HALTED (R435): command 0x1002 with op 2. -/
  | resumeHalted (queue index : Nat)
  /-- SIGNAL (R423): an operation of the command a core has in service. -/
  | signal (core counter n : Nat)
  /-- WAIT (R424): an operation of the command a core has in service. -/
  | wait (core counter n : Nat)
  /-- SIGNAL_OP_SIGNAL (R428): command 0x1101 with op 0. -/
  | signalOpSignal (queue index : Nat)
  /-- SIGNAL_OP_TAKE (R428): command 0x1101 with op 1. -/
  | signalOpTake (queue index : Nat)
  /-- SIGNAL_OP_READ (R428): command 0x1101 with op 2. -/
  | signalOpRead (queue index : Nat)
  /-- CACHE_SIZE_CHANGE (R446): a write of `vat.cache_size`. -/
  | cacheSizeChange (via : Via) (r : Request)
  /-- POOL_ENABLE (R450): a write of ones to `sidings.pool.enable`. -/
  | poolEnable (via : Via) (r : Request)
  /-- POOL_DISABLE (R450): a write of zeros to `sidings.pool.enable`. -/
  | poolDisable (via : Via) (r : Request)
  /-- POOL_ALLOC (R457): the command 0x1401 fetched at a submission index of a queue, with what the memory codes
  found in the control region it reads. -/
  | poolAlloc (queue index : Nat) (ecc : List EccEvent)
  /-- POOL_FREE (R457): command 0x1402. -/
  | poolFree (queue index : Nat) (ecc : List EccEvent)
  /-- FREE_RING_REFILL (R456). -/
  | freeRingRefill (pool : Nat) (ecc : List EccEvent)
  /-- REFRESH_DUE (R463): of the rank a remap entry names; whether any request is queued for it. -/
  | refreshDue (entry : Nat) (queued : Bool)
  /-- REFRESH_MAKE_UP (R463): `count` refreshes are made up before a request arrives. -/
  | refreshMakeUp (entry count : Nat)
  /-- RANK_TEMPERATURE_READ (R459): the reading in degrees Celsius. -/
  | rankTemperatureRead (entry : Nat) (celsius : Int)
  /-- RANK_RETIRE (R466): command 0x1501. -/
  | rankRetire (queue index : Nat)
  /-- MIGRATION_START (R467). -/
  | migrationStart
  /-- MIGRATION_DONE (R467): `unreadable` lists the units of the rank that the copy could not read. -/
  | migrationDone (unreadable : List Nat)
  /-- GAUGE_EPOCH (R479): what the counters and the zones of the epoch hold. -/
  | gaugeEpoch (events : List Activity) (zones : List ZoneLoad)
  /-- OPERATING_POINT_CHANGE (R489): the change decided is carried out; whether AVSBus confirms the rail. -/
  | operatingPointChange (confirmed : Bool)
  /-- DOMAIN_READY (R478). -/
  | domainReady (domain : DomainWake)
  /-- IDLE_CLOCK_STOP (R477). -/
  | idleClockStop (domain : Domain)
  /-- CAP_WRITE (R493): a write of `power.cap.watts`. -/
  | capWrite (via : Via) (r : Request)
  /-- LEASE_EXPIRY (R495). -/
  | leaseExpiry
  /-- DEMAND_PUBLISH (R492): with the spin of standby cores, FP32 W at the point in force. -/
  | demandPublish (standby : Nat)
  /-- VRM_READ (R499): READ_POUT of each element of `power.vrm.page` that answered, FP32 W. -/
  | vrmRead (pages : List (Nat × Nat))
  /-- ESTIMATE_RECALIBRATION_WRITE (R500): a write of `power.estimate.gain` or `power.estimate.offset`. -/
  | estimateRecalibrationWrite (via : Via) (r : Request)
  /-- POWER_RECALIBRATE_FIT (R501): command 0x1601 with byte 8 = 0. -/
  | powerRecalibrateFit (queue index : Nat)
  /-- POWER_RECALIBRATE_END (R501): command 0x1601 with byte 8 = 1. -/
  | powerRecalibrateEnd (queue index : Nat)
  /-- AVS_TRIM (R503): the slack of each monitor in mV, and whether AVSBus takes a write. -/
  | avsTrim (slacks : List Int) (acknowledged : Bool)
  /-- MARGIN_NARROWING (R504). -/
  | marginNarrowing
  /-- VOLTAGE_DAILY_RECORD (R504). -/
  | voltageDailyRecord
  /-- THERMAL_SAMPLE (R506): the 72 readings in 1/16 °C. -/
  | thermalSample (readings : List Int)
  /-- THERMAL_TRIP (R509): the comparator of a sensor sees 115 °C or more. -/
  | thermalTrip (sensor : Nat)
  /-- VDD_AON_REMOVAL (R509): the board removes the always-on rail. -/
  | vddAonRemoval
  /-- CODE_BLOCK_RECEIVED (R515): whether its CRC is good, the symbol errors corrected in it, and the messages it carries. -/
  | codeBlockReceived (port : Nat) (good : Bool) (symbolErrors : Nat) (messages : List CouplingMessage)
  /-- LANE_REPAIR (R516): a lane in service of a port fails. -/
  | laneRepair (port lane : Nat)
  /-- BLOCK_LOCK_LOSS (R525). -/
  | blockLockLoss (port : Nat)
  /-- RESET_NOTICE (R525): the notice of a port's partner is taken. -/
  | resetNotice (port : Nat)
  /-- PORT_TRAINED (R519): with the identifier, size and number the other end sends. -/
  | portTrained (port identifier size number : Nat)
  /-- PORT_TRAIN_RETRY (R516). -/
  | portTrainRetry (port : Nat)
  /-- COUPLING_PORT_ENABLE (R529): a write of `coupling.port.enable`. -/
  | couplingPortEnable (via : Via) (r : Request)
  /-- TRANSFER (R523): an operation of the command a core has in service, its record, and how it ends. -/
  | transfer (core : Nat) (record : List Byte) (outcome : TransferOutcome)
  /-- TRANSFER_UNIT_RECEIVED (R524): the next message of the data class on a port is taken. -/
  | transferUnitReceived (port : Nat)
  /-- REMOTE_SIGNAL (R522): the next message of the signal class on a port is a signal and is taken. -/
  | remoteSignal (port : Nat)
  /-- REMOTE_WAIT (R522): the next message of the signal class is a wait. -/
  | remoteWait (port : Nat)
  /-- GRANT (R414): the next message of the signal class is a grant or a release. -/
  | grant (port : Nat)
  /-- CANCEL (R414): the next message of the control class is a cancel. -/
  | cancel (port : Nat)
  /-- BOOST_REQUEST (R418): the next message of the control class is a boost request. -/
  | boostRequest (port : Nat)
  /-- CREDIT_RETURN (R521): a credit of a class returns. -/
  | creditReturn (port : Nat) (cls : CoupClass)
  /-- RELAY_DOORBELL (R520): a write of the doorbell of relay mailbox 1 to 3. -/
  | relayDoorbell (mailbox : Nat)
  /-- RELAY_REQUEST_RECEIVED (R520): the next message of the control class is a relayed request. -/
  | relayRequestReceived (port : Nat)
  /-- RELAY_REPLY_RECEIVED (R520): the next message of the control class is a relayed reply. -/
  | relayReplyReceived (port : Nat)
  /-- BOOT_STAGE_COMPLETE (R544): with what the stage finds. -/
  | bootStageComplete (report : BootReport)
  /-- CONFIG_STAGE (R543): command 0x1A05, whose section has been read, as the device reads it, and whether it passes R536. -/
  | configStage (queue index : Nat) (section_ : OwnerSection) (verifies : Bool)
  /-- ATTEST (R551): command 0x1A01. -/
  | attest (queue index : Nat)
  /-- FW_STAGE (R552): command 0x1A02, whose piece has been read. -/
  | fwStage (queue index : Nat)
  /-- FW_ACTIVATE (R553): command 0x1A03. -/
  | fwActivate (queue index : Nat)
  /-- FIRMWARE_SWITCH_DONE (R554): whether the image verified again. -/
  | firmwareSwitchDone (verified : Bool)
  /-- FW_CONFIRM (R555): command 0x1A04. -/
  | fwConfirm (queue index : Nat)
  /-- LEDGER_EXPORT (R556): command 0x1A06. -/
  | ledgerExport (queue index : Nat)
  /-- FLASH_STEP_DONE (R533): whether the erase or program succeeded. -/
  | flashStepDone (ok : Bool)
  /-- PWRGOOD_RISE (R570): with the straps' levels. -/
  | pwrgoodRise (strap0 strap1 : Bool)
  /-- PWRGOOD_FALL (R569). -/
  | pwrgoodFall
  /-- DIO_OUT (R575): a write of `pins.dio.out`. -/
  | dioOut (via : Via) (r : Request)
  /-- DIO_CONFIG_WRITE (R574): a write of `pins.dio.config`. -/
  | dioConfigWrite (via : Via) (r : Request)
  /-- DIO_INPUT_FILTERED (R576): a line's level has held for its filter time. -/
  | dioInputFiltered (line : Nat) (level : Bool)
  /-- CAN_ENABLE (R577): a write of `pins.can.enable`. -/
  | canEnable (via : Via) (r : Request)
  /-- CAN_BUS_OFF (R578). -/
  | canBusOff
  /-- CAN_BUS_OFF_RECOVERY (R578). -/
  | canBusOffRecovery
  /-- PMB_ALERT (R579): STATUS_WORD of each element of `power.vrm.page`, by element. -/
  | pmbAlert (words : List Nat)
  /-- EXTEST (R581). -/
  | extest
  /-- SAMPLE_PRELOAD (R581). -/
  | samplePreload
  /-- CLAMP (R581). -/
  | clamp
  /-- HIGHZ (R581). -/
  | highz
  /-- BOOTSTAT (R545). -/
  | bootstat
  /-- BYPASS (R581): its own code, or any code that is no other instruction's. -/
  | bypass (code : Nat)
  /-- CAN_FRAME_TRANSMITTED (R381): the frame at the head leaves, transmitted or failed. -/
  | canFrameTransmitted (ok : Bool)
  /-- CONFIGURATION_REQUEST (R98). -/
  | configurationRequest (r : CfgRequest)
  /-- PCIE_LINK_TRAINED (R96). -/
  | pcieLinkTrained (rate width : Nat) (flit : Bool)
  /-- MAILBOX_STATE_READ (R62): of the dictionary mailbox (0) or relay mailbox 1 to 3. -/
  | mailboxStateRead (mailbox : Nat)
  /-- CLIP_COPY_DONE (R171): the copy of a live picture of a clip, by its unit sequence. -/
  | clipCopyDone (clip sequence : Nat)
  deriving DecidableEq, Repr

end Sys2Proof
end

