-- ==== Sys2Proof/Config.lean ====
section
/-! DEFINITION. What the manual leaves to the implementation or takes from a published standard, as
constants with no body: nothing in Lean can evaluate them, so a statement about one holds for every value. -/

namespace Sys2Proof.Config

/-- A fresh value the manual leaves open, by the counter `Dev.free` the step advances (log entry 4). -/
opaque freeNat : Nat → Nat

/-- What a byte of device memory reads as after hot or function-level reset, by reset and address
(R598: undefined; log entry 5). -/
opaque freeByte : Nat → Nat → Byte

/-- What a Press core's read of a poisoned byte, or of an address with no memory, returns, by read and address (no rule gives it). -/
opaque poisonByte : Nat → Nat → Byte

/-- How the one fixed method of an elementwise function rounds, by argument: a choice among the FP32 values within 2 units in the last
place of the exact one, and the result where the function has no finite value (R267; log entry 6). -/
opaque fexp : Nat → Nat
opaque flog : Nat → Nat
opaque frsqrt : Nat → Nat
opaque ftanh : Nat → Nat
opaque fsigmoid : Nat → Nat
opaque ferf : Nat → Nat

/-- SHA-512 of a byte string, as a 512-bit number (R304, R534; the algorithm is FIPS 180-4, log entry 7). -/
opaque sha512 : List Byte → Nat

/-- Whether an RSASSA-PSS signature (R534) verifies: modulus, message digest, signature octets
(the algorithm is RFC 8017, log entry 7). -/
opaque rsaVerifies : List Byte → Nat → List Byte → Bool

/-- The identity key's signature over a message digest (R546, R551); the key is a secret of the part. -/
opaque identitySign : Nat → List Byte

/-- What the decompressor makes of a weight tile, whose compressed form is not given (log entry 8): a byte of an output channel's packed
weights (R248), and the binary16 scale of a group of 64 of its reduction indices (R250), by tile bytes, quadrant, logical column, and byte or
group. -/
opaque packedByte : List Byte → Nat → Nat → Nat → Byte
opaque groupScale : List Byte → Nat → Nat → Nat → Nat

/-- What a Press core reads beyond its buffer of 4 MiB, by offset (no rule gives it; log entry 148). -/
opaque beyondBuffer : Nat → Byte

/-- Set of the Vat cache a 256-byte unit of LPDDR6 belongs to, among `sets` sets (R445 gives no index). -/
opaque cacheSet : Nat → Nat

/-- Static power of a zone in FP32 W, by zone, temperature in 1/16 °C and rail voltage in mV: the table of the
signed configuration block (R479). -/
opaque staticPower : Nat → Int → Nat → Nat

/-- What the 8 bytes of a clamp entry show of a field wider than 64 bits, by its value (R43 gives no rule). -/
opaque wideValue : Nat → Nat

/-- A minimum, maximum or step of a field record that no chapter gives (R38), by object, bit offset and which of the three. -/
opaque describeValue : Nat → Nat → Nat → Nat

/-- How an encode engine's search codes a block (R177): codec, QP, the block's source samples, the samples of its search window that it may
read, and the codes of the blocks before it. -/
opaque searched : Nat → Nat → Planes → Planes → List BlockCode → BlockCode

/-- The vector a codec predicts for a skipped block, by the codes of the blocks before it. -/
opaque skipVector : List BlockCode → Int × Int

/-- The bits a block takes when it is coded so (R180). -/
opaque blockBits : Nat → Nat → Planes → Planes → BlockCode → Nat

/-- The slice a picture's blocks are coded in, after its NAL unit header, and the picture that the codec rebuilds from it (R173, R174). -/
opaque sliceBytes : CodingInput → List BlockCode → List Byte
opaque rebuilt : CodingInput → List BlockCode → Planes

/-- A parameter set after its NAL unit header, by its NAL unit type, profile, level, width and height (R173). -/
opaque parameterSet : Nat → Nat → Nat → Nat → Nat → List Byte

/-- The modulus of the Synandor root key, whose hash the mask ROM holds (R536). -/
opaque rootModulus : List Byte

/-- Byte 9 of a ledger entry, by the number of the unit type, and the data of an entry's kind (R546 gives no codes and no layout). -/
opaque ledgerUnitByte : Nat → Byte
opaque ledgerData : Nat → List Byte → List Byte

end Sys2Proof.Config
end

