-- ==== Sys2Proof/Machine/Bits.lean ====
section
/-! DEFINITION. Bit fields, byte order and two's complement over the numbers that spell register contents
(R9, R11), and the sparse tables the state is made of. -/

namespace Sys2Proof.Machine

/-- Field [off + w - 1 : off] of a number. -/
def bits (v off w : Nat) : Nat := (v >>> off) % 2 ^ w

/-- A number with field [off + w - 1 : off] replaced by the low bits of `x`. -/
def setBits (v off w x : Nat) : Nat := v - (bits v off w <<< off) + ((x % 2 ^ w) <<< off)

/-- Bool as a bit. -/
def b2n (b : Bool) : Nat := if b then 1 else 0

/-- The two's complement value of the low `w` bits. -/
def toSigned (w v : Nat) : Int :=
  let x := v % 2 ^ w
  if x < 2 ^ (w - 1) then (x : Int) else (x : Int) - (2 ^ w : Nat)

/-- The low `w` bits that encode an integer in two's complement. -/
def ofSigned (w : Nat) (i : Int) : Nat := (i % (2 ^ w : Nat)).toNat

/-- `n` bytes of a number, least significant first (R11). -/
def leBytes : (n : Nat) → Nat → List Byte
  | 0, _ => []
  | n + 1, v => Byte.ofNat' v :: leBytes n (v / 256)

/-- The number that bytes spell, least significant first (R11). -/
def leNat : List Byte → Nat
  | [] => 0
  | b :: bs => b.toNat + 256 * leNat bs

/-- The number that bytes spell, most significant first (network order, R11). -/
def beNat (bs : List Byte) : Nat := bs.foldl (fun a b => a * 256 + b.toNat) 0

/-- `n` bytes of a number, most significant first. -/
def beBytes (n v : Nat) : List Byte := (leBytes n v).reverse

/-- `n` bytes of a frame from offset `i`; bytes beyond the end read as zero. -/
def slice (bs : List Byte) (i n : Nat) : List Byte :=
  let x := (bs.drop i).take n
  x ++ List.replicate (n - x.length) 0#8

/-- The little-endian number in bytes i to i + n - 1. -/
def le (bs : List Byte) (i n : Nat) : Nat := leNat (slice bs i n)

/-- The big-endian number in bytes i to i + n - 1. -/
def be (bs : List Byte) (i n : Nat) : Nat := beNat (slice bs i n)

/-- One byte as a number. -/
def byteAt (bs : List Byte) (i : Nat) : Nat := (bs.getD i 0#8).toNat

/-- The number's bytes as zero padding to `n` bytes. -/
def padTo (n : Nat) (bs : List Byte) : List Byte := (bs ++ List.replicate (n - bs.length) 0#8).take n

/-- Smallest multiple of `m` at or above `x`. -/
def roundUp (x m : Nat) : Nat := (x + m - 1) / m * m

/-- Quotient rounded up. -/
def ceilDiv (a b : Nat) : Nat := (a + b - 1) / b

/-- Population count of the low `n` bits. -/
def popCount (n v : Nat) : Nat := ((List.range n).filter fun i => v.testBit i).length

/-- An element placed before the first that it may stand before, and a list sorted: a stable insertion sort. -/
def insertBy {α : Type} (before : α → α → Bool) (a : α) : List α → List α
  | [] => [a]
  | b :: l => if before a b then a :: b :: l else b :: insertBy before a l
def isort {α : Type} (before : α → α → Bool) (l : List α) : List α := l.foldr (insertBy before) []

/-- A sparse table: keys with values, each key at most once. -/
abbrev Tbl (κ α : Type) := List (κ × α)

/-- The value stored under a key, if any. -/
def Tbl.find? {κ α : Type} [DecidableEq κ] : Tbl κ α → κ → Option α
  | [], _ => none
  | (k', a) :: t, k => if k' = k then some a else Tbl.find? t k

/-- The value stored under a key, or a default. -/
def Tbl.getD {κ α : Type} [DecidableEq κ] (t : Tbl κ α) (k : κ) (d : α) : α := (Tbl.find? t k).getD d

/-- The table with a value stored under a key. -/
def Tbl.put {κ α : Type} [DecidableEq κ] : Tbl κ α → κ → α → Tbl κ α
  | [], k, a => [(k, a)]
  | (k', a') :: t, k, a => if k' = k then (k, a) :: t else (k', a') :: Tbl.put t k a

/-- The table without a key. -/
def Tbl.erase {κ α : Type} [DecidableEq κ] (t : Tbl κ α) (k : κ) : Tbl κ α := t.filter fun e => e.1 ≠ k

/-- The table with the value under a key (or a default) changed. -/
def Tbl.modify {κ α : Type} [DecidableEq κ] (t : Tbl κ α) (k : κ) (d : α) (f : α → α) : Tbl κ α :=
  t.put k (f (t.getD k d))

end Sys2Proof.Machine
end

