-- ==== Sys2Proof/Machine/Catalogue.lean ====
section
/-! DEFINITION. The object dictionary (R27 to R35, R59 and the object tables and field maps of the other
chapters): one name per object, with its number, type, access right, element count, element size and fields.
An index of the objects by area stands in `Obj.all`. -/

namespace Sys2Proof.Machine

/-- The objects of the dictionary (R27), in rising number. -/
inductive Obj where
  /-- 0x00_0001 `identity.part` -/
  | identityPart
  /-- 0x00_0002 `identity.revision` -/
  | identityRevision
  /-- 0x01_0001 `dictionary.version` -/
  | dictionaryVersion
  /-- 0x01_0002 `dictionary.object_count` -/
  | dictionaryObjectCount
  /-- 0x01_0010 `dictionary.status` -/
  | dictionaryStatus
  /-- 0x01_0011 `dictionary.attention.ack` -/
  | dictionaryAttentionAck
  /-- 0x01_0012 `dictionary.attention.cause` -/
  | dictionaryAttentionCause
  /-- 0x01_0013 `dictionary.attention.log` -/
  | dictionaryAttentionLog
  /-- 0x01_0014 `dictionary.attention.log_head` -/
  | dictionaryAttentionLogHead
  /-- 0x01_0015 `dictionary.attention.log_read` -/
  | dictionaryAttentionLogRead
  /-- 0x01_0020 `dictionary.clamp.mailbox` -/
  | dictionaryClampMailbox
  /-- 0x01_0021 `dictionary.clamp.udp` -/
  | dictionaryClampUdp
  /-- 0x01_0022 `dictionary.clamp.can` -/
  | dictionaryClampCan
  /-- 0x01_0030 `dictionary.udp.enable` -/
  | dictionaryUdpEnable
  /-- 0x01_0031 `dictionary.udp.port` -/
  | dictionaryUdpPort
  /-- 0x01_0032 `dictionary.udp.write_areas` -/
  | dictionaryUdpWriteAreas
  /-- 0x01_0033 `dictionary.udp.sources` -/
  | dictionaryUdpSources
  /-- 0x01_0034 `dictionary.udp.dropped` -/
  | dictionaryUdpDropped
  /-- 0x01_0040 `dictionary.can.enable` -/
  | dictionaryCanEnable
  /-- 0x01_0041 `dictionary.can.node` -/
  | dictionaryCanNode
  /-- 0x01_0042 `dictionary.can.id_base` -/
  | dictionaryCanIdBase
  /-- 0x01_0043 `dictionary.can.write_areas` -/
  | dictionaryCanWriteAreas
  /-- 0x02_0001 `host.link.state` -/
  | hostLinkState
  /-- 0x02_0002 `host.link.downs` -/
  | hostLinkDowns
  /-- 0x02_0010 `host.queue.enable` -/
  | hostQueueEnable
  /-- 0x02_0011 `host.queue.config` -/
  | hostQueueConfig
  /-- 0x02_0012 `host.queue.reset_report` -/
  | hostQueueResetReport
  /-- 0x02_0020 `host.bar2.write_enable` -/
  | hostBar2WriteEnable
  /-- 0x02_0021 `host.bar2.discarded` -/
  | hostBar2Discarded
  /-- 0x02_0031 `host.egress.held_dropped` -/
  | hostEgressHeldDropped
  /-- 0x02_0032 `host.bar0.bad_access` -/
  | hostBar0BadAccess
  /-- 0x04_0001 `junction.au_pool` -/
  | junctionAuPool
  /-- 0x04_0002 `junction.ring_pool` -/
  | junctionRingPool
  /-- 0x04_0010 `junction.port.enable` -/
  | junctionPortEnable
  /-- 0x04_0011 `junction.port.config` -/
  | junctionPortConfig
  /-- 0x04_0012 `junction.port.state` -/
  | junctionPortState
  /-- 0x04_0013 `junction.port.counters` -/
  | junctionPortCounters
  /-- 0x04_0100 `junction.stream.enable` -/
  | junctionStreamEnable
  /-- 0x04_0101 `junction.stream.config` -/
  | junctionStreamConfig
  /-- 0x04_0102 `junction.stream.state` -/
  | junctionStreamState
  /-- 0x04_0103 `junction.stream.counters` -/
  | junctionStreamCounters
  /-- 0x05_0001 `decode.frame_pool` -/
  | decodeFramePool
  /-- 0x05_0002 `decode.lc_engines` -/
  | decodeLcEngines
  /-- 0x05_0003 `decode.engines_presented` -/
  | decodeEnginesPresented
  /-- 0x05_0004 `decode.lc_misses` -/
  | decodeLcMisses
  /-- 0x05_0010 `decode.engine.state` -/
  | decodeEngineState
  /-- 0x05_0100 `decode.stream.config` -/
  | decodeStreamConfig
  /-- 0x05_0101 `decode.stream.state` -/
  | decodeStreamState
  /-- 0x05_0102 `decode.stream.counters` -/
  | decodeStreamCounters
  /-- 0x06_0001 `encode.clip_pool` -/
  | encodeClipPool
  /-- 0x06_0002 `encode.clip_backlog` -/
  | encodeClipBacklog
  /-- 0x06_0003 `encode.engines_presented` -/
  | encodeEnginesPresented
  /-- 0x06_0010 `encode.engine.state` -/
  | encodeEngineState
  /-- 0x06_0020 `encode.profile` -/
  | encodeProfile
  /-- 0x06_0030 `encode.rtp_target` -/
  | encodeRtpTarget
  /-- 0x06_0040 `encode.clip.state` -/
  | encodeClipState
  /-- 0x06_0041 `encode.clip.overflows` -/
  | encodeClipOverflows
  /-- 0x06_0100 `encode.stream.mask` -/
  | encodeStreamMask
  /-- 0x07_0001 `calender.vat_pool` -/
  | calenderVatPool
  /-- 0x07_0002 `calender.history_pool` -/
  | calenderHistoryPool
  /-- 0x07_0003 `calender.lc_reserved` -/
  | calenderLcReserved
  /-- 0x07_0004 `calender.lc_misses` -/
  | calenderLcMisses
  /-- 0x07_0005 `calender.engines_presented` -/
  | calenderEnginesPresented
  /-- 0x07_0006 `deckle.engines_presented` -/
  | deckleEnginesPresented
  /-- 0x07_0010 `calender.engine.state` -/
  | calenderEngineState
  /-- 0x07_0011 `deckle.engine.state` -/
  | deckleEngineState
  /-- 0x07_0100 `calender.stream.config` -/
  | calenderStreamConfig
  /-- 0x07_0101 `calender.stream.counters` -/
  | calenderStreamCounters
  /-- 0x08_0001 `press.cores_presented` -/
  | pressCoresPresented
  /-- 0x08_0002 `press.cores_by_class` -/
  | pressCoresByClass
  /-- 0x08_0010 `press.core.state` -/
  | pressCoreState
  /-- 0x08_0011 `press.array.state` -/
  | pressArrayState
  /-- 0x08_0012 `press.array.column_map` -/
  | pressArrayColumnMap
  /-- 0x08_0020 `press.counters` -/
  | pressCounters
  /-- 0x09_0001 `numerics.bias.sat_min` -/
  | numericsBiasSatMin
  /-- 0x09_0002 `numerics.bias.under_shift` -/
  | numericsBiasUnderShift
  /-- 0x09_0003 `numerics.bias.down_frames` -/
  | numericsBiasDownFrames
  /-- 0x09_0010 `numerics.bias.changes` -/
  | numericsBiasChanges
  /-- 0x09_0011 `numerics.bias.pinned` -/
  | numericsBiasPinned
  /-- 0x09_0012 `numerics.counters` -/
  | numericsCounters
  /-- 0x09_0020 `numerics.bias.log` -/
  | numericsBiasLog
  /-- 0x09_0021 `numerics.bias.log_head` -/
  | numericsBiasLogHead
  /-- 0x09_0022 `numerics.bias.log_read` -/
  | numericsBiasLogRead
  /-- 0x09_0023 `numerics.bias.log_lost` -/
  | numericsBiasLogLost
  /-- 0x0A_0001 `random.selftest` -/
  | randomSelftest
  /-- 0x0A_0002 `random.draws` -/
  | randomDraws
  /-- 0x0B_0001 `plans.heap` -/
  | plansHeap
  /-- 0x0B_0002 `plans.heap_free` -/
  | plansHeapFree
  /-- 0x0B_0010 `plans.context.state` -/
  | plansContextState
  /-- 0x0B_0011 `plans.context.cores` -/
  | plansContextCores
  /-- 0x0B_0012 `plans.context.refusal` -/
  | plansContextRefusal
  /-- 0x0B_0013 `plans.context.bound` -/
  | plansContextBound
  /-- 0x0B_0014 `plans.context.shape_clamp` -/
  | plansContextShapeClamp
  /-- 0x0B_0015 `plans.stream.contexts` -/
  | plansStreamContexts
  /-- 0x0C_0001 `recompute.ledger_lost` -/
  | recomputeLedgerLost
  /-- 0x0C_0100 `recompute.stream.config` -/
  | recomputeStreamConfig
  /-- 0x0C_0101 `recompute.stream.state` -/
  | recomputeStreamState
  /-- 0x0C_0102 `recompute.stream.counters` -/
  | recomputeStreamCounters
  /-- 0x0D_0001 `tracker.region` -/
  | trackerRegion
  /-- 0x0D_0002 `tracker.engines_presented` -/
  | trackerEnginesPresented
  /-- 0x0D_0003 `tracker.lc_misses` -/
  | trackerLcMisses
  /-- 0x0D_0004 `tracker.unreserved` -/
  | trackerUnreserved
  /-- 0x0D_0010 `tracker.engine.state` -/
  | trackerEngineState
  /-- 0x0D_0020 `tracker.watch.threshold` -/
  | trackerWatchThreshold
  /-- 0x0D_0021 `tracker.watch.count` -/
  | trackerWatchCount
  /-- 0x0D_0100 `tracker.stream.config` -/
  | trackerStreamConfig
  /-- 0x0D_0101 `tracker.stream.counters` -/
  | trackerStreamCounters
  /-- 0x0E_0001 `points.lc_misses` -/
  | pointsLcMisses
  /-- 0x0E_0002 `points.egress_pool` -/
  | pointsEgressPool
  /-- 0x0E_0003 `points.engines_presented` -/
  | pointsEnginesPresented
  /-- 0x0E_0004 `points.dio.release` -/
  | pointsDioRelease
  /-- 0x0E_0010 `points.rule` -/
  | pointsRule
  /-- 0x0E_0011 `points.action` -/
  | pointsAction
  /-- 0x0E_0020 `points.egress.ring` -/
  | pointsEgressRing
  /-- 0x0E_0021 `points.egress.ring_enable` -/
  | pointsEgressRingEnable
  /-- 0x0E_0022 `points.egress.ring_state` -/
  | pointsEgressRingState
  /-- 0x0E_0030 `points.egress.udp` -/
  | pointsEgressUdp
  /-- 0x0E_0101 `points.stream.egress` -/
  | pointsStreamEgress
  /-- 0x0E_0102 `points.counters` -/
  | pointsCounters
  /-- 0x10_0001 `yard.lc_misses` -/
  | yardLcMisses
  /-- 0x10_0002 `yard.preempt_overruns` -/
  | yardPreemptOverruns
  /-- 0x10_0003 `yard.state` -/
  | yardState
  /-- 0x10_0010 `yard.context.config` -/
  | yardContextConfig
  /-- 0x10_0011 `yard.context.state` -/
  | yardContextState
  /-- 0x10_0012 `yard.context.counters` -/
  | yardContextCounters
  /-- 0x11_0001 `signal.counter.state` -/
  | signalCounterState
  /-- 0x11_0002 `signal.alias` -/
  | signalAlias
  /-- 0x11_0003 `signal.counters` -/
  | signalCounters
  /-- 0x14_0001 `vat.layout` -/
  | vatLayout
  /-- 0x14_0002 `vat.cache_size` -/
  | vatCacheSize
  /-- 0x14_0003 `vat.banks_presented` -/
  | vatBanksPresented
  /-- 0x14_0004 `vat.plan_free` -/
  | vatPlanFree
  /-- 0x14_0005 `vat.counters` -/
  | vatCounters
  /-- 0x14_0010 `sidings.pool.enable` -/
  | sidingsPoolEnable
  /-- 0x14_0011 `sidings.pool.config` -/
  | sidingsPoolConfig
  /-- 0x14_0012 `sidings.pool.state` -/
  | sidingsPoolState
  /-- 0x14_0013 `sidings.pool.counters` -/
  | sidingsPoolCounters
  /-- 0x14_0014 `sidings.buffers` -/
  | sidingsBuffers
  /-- 0x15_0001 `lpddr6.map` -/
  | lpddr6Map
  /-- 0x15_0002 `lpddr6.remap` -/
  | lpddr6Remap
  /-- 0x15_0003 `lpddr6.migration` -/
  | lpddr6Migration
  /-- 0x15_0004 `lpddr6.migrate_share` -/
  | lpddr6MigrateShare
  /-- 0x15_0005 `lpddr6.ce_limit` -/
  | lpddr6CeLimit
  /-- 0x15_0006 `lpddr6.spares` -/
  | lpddr6Spares
  /-- 0x15_0007 `lpddr6.rank.counters` -/
  | lpddr6RankCounters
  /-- 0x15_0010 `lpddr6.log` -/
  | lpddr6Log
  /-- 0x15_0011 `lpddr6.log_head` -/
  | lpddr6LogHead
  /-- 0x15_0012 `lpddr6.log_read` -/
  | lpddr6LogRead
  /-- 0x15_0013 `lpddr6.log_lost` -/
  | lpddr6LogLost
  /-- 0x16_0001 `power.op.state` -/
  | powerOpState
  /-- 0x16_0002 `power.op.max` -/
  | powerOpMax
  /-- 0x16_0003 `power.op.initial` -/
  | powerOpInitial
  /-- 0x16_0004 `power.cap.watts` -/
  | powerCapWatts
  /-- 0x16_0005 `power.cap.lease_ms` -/
  | powerCapLeaseMs
  /-- 0x16_0006 `power.cap.fallback` -/
  | powerCapFallback
  /-- 0x16_0007 `power.cap.sequence` -/
  | powerCapSequence
  /-- 0x16_0008 `power.demand` -/
  | powerDemand
  /-- 0x16_0009 `power.be_hold` -/
  | powerBeHold
  /-- 0x16_000A `power.lc_standby` -/
  | powerLcStandby
  /-- 0x16_000B `power.idle_off_us` -/
  | powerIdleOffUs
  /-- 0x16_0010 `power.estimate` -/
  | powerEstimate
  /-- 0x16_0011 `power.estimate.gain` -/
  | powerEstimateGain
  /-- 0x16_0012 `power.estimate.offset` -/
  | powerEstimateOffset
  /-- 0x16_0013 `power.weights` -/
  | powerWeights
  /-- 0x16_0014 `power.counters` -/
  | powerCounters
  /-- 0x16_0020 `power.vrm.page` -/
  | powerVrmPage
  /-- 0x16_0030 `power.avs.state` -/
  | powerAvsState
  /-- 0x16_0032 `power.avs.rail` -/
  | powerAvsRail
  /-- 0x17_0001 `thermal.sensor` -/
  | thermalSensor
  /-- 0x17_0002 `thermal.hottest` -/
  | thermalHottest
  /-- 0x17_0003 `thermal.warn` -/
  | thermalWarn
  /-- 0x17_0004 `thermal.counters` -/
  | thermalCounters
  /-- 0x17_0010 `clocks.domains.awake` -/
  | clocksDomainsAwake
  /-- 0x18_0001 `coupling.device` -/
  | couplingDevice
  /-- 0x18_0002 `coupling.system` -/
  | couplingSystem
  /-- 0x18_0010 `coupling.port.enable` -/
  | couplingPortEnable
  /-- 0x18_0011 `coupling.port.state` -/
  | couplingPortState
  /-- 0x18_0012 `coupling.port.counters` -/
  | couplingPortCounters
  /-- 0x18_0013 `coupling.lane_error_limit` -/
  | couplingLaneErrorLimit
  /-- 0x18_0020 `coupling.peer.window` -/
  | couplingPeerWindow
  /-- 0x18_0021 `coupling.context.peers` -/
  | couplingContextPeers
  /-- 0x18_0030 `coupling.system.state` -/
  | couplingSystemState
  /-- 0x1A_0001 `boot.state` -/
  | bootState
  /-- 0x1A_0002 `boot.count` -/
  | bootCount
  /-- 0x1A_0003 `boot.firmware` -/
  | bootFirmware
  /-- 0x1A_0004 `boot.config` -/
  | bootConfig
  /-- 0x1A_0005 `boot.ledger` -/
  | bootLedger
  /-- 0x1A_0006 `boot.serial` -/
  | bootSerial
  /-- 0x1A_0007 `boot.trial_boots` -/
  | bootTrialBoots
  /-- 0x1A_0010 `boot.identity.cert` -/
  | bootIdentityCert
  /-- 0x1A_0011 `boot.manufacturing.cert` -/
  | bootManufacturingCert
  /-- 0x1A_0012 `boot.root_hash` -/
  | bootRootHash
  /-- 0x1A_0013 `boot.owner.keys` -/
  | bootOwnerKeys
  /-- 0x1A_0020 `boot.switch.discarded` -/
  | bootSwitchDiscarded
  /-- 0x1A_0021 `boot.flash.counters` -/
  | bootFlashCounters
  /-- 0x1B_0001 `pins.dio.config` -/
  | pinsDioConfig
  /-- 0x1B_0002 `pins.dio.out` -/
  | pinsDioOut
  /-- 0x1B_0004 `pins.dio.state` -/
  | pinsDioState
  /-- 0x1B_0005 `pins.dio.edges` -/
  | pinsDioEdges
  /-- 0x1B_0006 `pins.dio.ignored` -/
  | pinsDioIgnored
  /-- 0x1B_0010 `pins.can.config` -/
  | pinsCanConfig
  /-- 0x1B_0011 `pins.can.enable` -/
  | pinsCanEnable
  /-- 0x1B_0012 `pins.can.state` -/
  | pinsCanState
  /-- 0x1B_0020 `pins.pmbus.config` -/
  | pinsPmbusConfig
  /-- 0x1B_0021 `pins.pmbus.status` -/
  | pinsPmbusStatus
  /-- 0x1B_0030 `pins.straps` -/
  | pinsStraps
  deriving DecidableEq, Repr

/-- The objects of area 0x00. -/
def Obj.area00 : List Obj :=
  [.identityPart, .identityRevision]

/-- The objects of area 0x01. -/
def Obj.area01 : List Obj :=
  [.dictionaryVersion, .dictionaryObjectCount, .dictionaryStatus, .dictionaryAttentionAck,
   .dictionaryAttentionCause, .dictionaryAttentionLog, .dictionaryAttentionLogHead,
   .dictionaryAttentionLogRead, .dictionaryClampMailbox, .dictionaryClampUdp, .dictionaryClampCan,
   .dictionaryUdpEnable, .dictionaryUdpPort, .dictionaryUdpWriteAreas, .dictionaryUdpSources,
   .dictionaryUdpDropped, .dictionaryCanEnable, .dictionaryCanNode, .dictionaryCanIdBase,
   .dictionaryCanWriteAreas]

/-- The objects of area 0x02. -/
def Obj.area02 : List Obj :=
  [.hostLinkState, .hostLinkDowns, .hostQueueEnable, .hostQueueConfig, .hostQueueResetReport,
   .hostBar2WriteEnable, .hostBar2Discarded, .hostEgressHeldDropped, .hostBar0BadAccess]

/-- The objects of area 0x04. -/
def Obj.area04 : List Obj :=
  [.junctionAuPool, .junctionRingPool, .junctionPortEnable, .junctionPortConfig, .junctionPortState,
   .junctionPortCounters, .junctionStreamEnable, .junctionStreamConfig, .junctionStreamState,
   .junctionStreamCounters]

/-- The objects of area 0x05. -/
def Obj.area05 : List Obj :=
  [.decodeFramePool, .decodeLcEngines, .decodeEnginesPresented, .decodeLcMisses, .decodeEngineState,
   .decodeStreamConfig, .decodeStreamState, .decodeStreamCounters]

/-- The objects of area 0x06. -/
def Obj.area06 : List Obj :=
  [.encodeClipPool, .encodeClipBacklog, .encodeEnginesPresented, .encodeEngineState, .encodeProfile,
   .encodeRtpTarget, .encodeClipState, .encodeClipOverflows, .encodeStreamMask]

/-- The objects of area 0x07. -/
def Obj.area07 : List Obj :=
  [.calenderVatPool, .calenderHistoryPool, .calenderLcReserved, .calenderLcMisses,
   .calenderEnginesPresented, .deckleEnginesPresented, .calenderEngineState, .deckleEngineState,
   .calenderStreamConfig, .calenderStreamCounters]

/-- The objects of area 0x08. -/
def Obj.area08 : List Obj :=
  [.pressCoresPresented, .pressCoresByClass, .pressCoreState, .pressArrayState, .pressArrayColumnMap,
   .pressCounters]

/-- The objects of area 0x09. -/
def Obj.area09 : List Obj :=
  [.numericsBiasSatMin, .numericsBiasUnderShift, .numericsBiasDownFrames, .numericsBiasChanges,
   .numericsBiasPinned, .numericsCounters, .numericsBiasLog, .numericsBiasLogHead, .numericsBiasLogRead,
   .numericsBiasLogLost]

/-- The objects of area 0x0A. -/
def Obj.area0A : List Obj :=
  [.randomSelftest, .randomDraws]

/-- The objects of area 0x0B. -/
def Obj.area0B : List Obj :=
  [.plansHeap, .plansHeapFree, .plansContextState, .plansContextCores, .plansContextRefusal,
   .plansContextBound, .plansContextShapeClamp, .plansStreamContexts]

/-- The objects of area 0x0C. -/
def Obj.area0C : List Obj :=
  [.recomputeLedgerLost, .recomputeStreamConfig, .recomputeStreamState, .recomputeStreamCounters]

/-- The objects of area 0x0D. -/
def Obj.area0D : List Obj :=
  [.trackerRegion, .trackerEnginesPresented, .trackerLcMisses, .trackerUnreserved, .trackerEngineState,
   .trackerWatchThreshold, .trackerWatchCount, .trackerStreamConfig, .trackerStreamCounters]

/-- The objects of area 0x0E. -/
def Obj.area0E : List Obj :=
  [.pointsLcMisses, .pointsEgressPool, .pointsEnginesPresented, .pointsDioRelease, .pointsRule,
   .pointsAction, .pointsEgressRing, .pointsEgressRingEnable, .pointsEgressRingState, .pointsEgressUdp,
   .pointsStreamEgress, .pointsCounters]

/-- The objects of area 0x10. -/
def Obj.area10 : List Obj :=
  [.yardLcMisses, .yardPreemptOverruns, .yardState, .yardContextConfig, .yardContextState,
   .yardContextCounters]

/-- The objects of area 0x11. -/
def Obj.area11 : List Obj :=
  [.signalCounterState, .signalAlias, .signalCounters]

/-- The objects of area 0x14. -/
def Obj.area14 : List Obj :=
  [.vatLayout, .vatCacheSize, .vatBanksPresented, .vatPlanFree, .vatCounters, .sidingsPoolEnable,
   .sidingsPoolConfig, .sidingsPoolState, .sidingsPoolCounters, .sidingsBuffers]

/-- The objects of area 0x15. -/
def Obj.area15 : List Obj :=
  [.lpddr6Map, .lpddr6Remap, .lpddr6Migration, .lpddr6MigrateShare, .lpddr6CeLimit, .lpddr6Spares,
   .lpddr6RankCounters, .lpddr6Log, .lpddr6LogHead, .lpddr6LogRead, .lpddr6LogLost]

/-- The objects of area 0x16. -/
def Obj.area16 : List Obj :=
  [.powerOpState, .powerOpMax, .powerOpInitial, .powerCapWatts, .powerCapLeaseMs, .powerCapFallback,
   .powerCapSequence, .powerDemand, .powerBeHold, .powerLcStandby, .powerIdleOffUs, .powerEstimate,
   .powerEstimateGain, .powerEstimateOffset, .powerWeights, .powerCounters, .powerVrmPage, .powerAvsState,
   .powerAvsRail]

/-- The objects of area 0x17. -/
def Obj.area17 : List Obj :=
  [.thermalSensor, .thermalHottest, .thermalWarn, .thermalCounters, .clocksDomainsAwake]

/-- The objects of area 0x18. -/
def Obj.area18 : List Obj :=
  [.couplingDevice, .couplingSystem, .couplingPortEnable, .couplingPortState, .couplingPortCounters,
   .couplingLaneErrorLimit, .couplingPeerWindow, .couplingContextPeers, .couplingSystemState]

/-- The objects of area 0x1A. -/
def Obj.area1A : List Obj :=
  [.bootState, .bootCount, .bootFirmware, .bootConfig, .bootLedger, .bootSerial, .bootTrialBoots,
   .bootIdentityCert, .bootManufacturingCert, .bootRootHash, .bootOwnerKeys, .bootSwitchDiscarded,
   .bootFlashCounters]

/-- The objects of area 0x1B. -/
def Obj.area1B : List Obj :=
  [.pinsDioConfig, .pinsDioOut, .pinsDioState, .pinsDioEdges, .pinsDioIgnored, .pinsCanConfig,
   .pinsCanEnable, .pinsCanState, .pinsPmbusConfig, .pinsPmbusStatus, .pinsStraps]

/-- Every object of the dictionary, in rising number. -/
def Obj.all : List Obj :=
  area00 ++ area01 ++ area02 ++ area04 ++ area05 ++ area06 ++ area07 ++ area08 ++ area09 ++ area0A ++ area0B ++ area0C ++
  area0D ++ area0E ++ area10 ++ area11 ++ area14 ++ area15 ++ area16 ++ area17 ++ area18 ++ area1A ++ area1B

/-- The value types of R29. -/
inductive ObjType where
  | bool | u8 | u16 | u32 | u64 | s16 | s32 | f32 | enum8 | enum16 | bits | str | record
  deriving DecidableEq, Repr

/-- The access rights of R32. -/
inductive Access where
  | ro | rw | rws | wo | rc
  deriving DecidableEq, Repr

/-- One field of an object's element (R30, R35): its bit offset, its width, its range and its default, the
default as the bits that encode it. -/
inductive Field where
  /-- An unsigned integer whose range is its whole width. -/
  | full (off width dflt : Nat)
  /-- An unsigned integer with minimum, maximum and step. -/
  | uint (off width lo hi step dflt : Nat)
  /-- A two's complement integer with minimum and maximum. -/
  | sint (off width : Nat) (lo hi : Int) (dflt : Nat)
  /-- A bool field. -/
  | flag (off width dflt : Nat)
  /-- An enum field with its listed set. -/
  | enum (off width : Nat) (set : List Nat) (dflt : Nat)
  /-- An f32 field with the encodings of its minimum, maximum and default. -/
  | real (off lo hi dflt : Nat)
  /-- A bits field with its defined bits. -/
  | mask (off width mask dflt : Nat)
  /-- The page byte of `power.vrm.page`: 0 to 31, or 0xFF. -/
  | page (off : Nat)
  /-- A run of reserved bits. -/
  | rsv (off width : Nat)
  deriving DecidableEq, Repr

def Field.off : Field → Nat
  | .full o _ _ => o | .uint o _ _ _ _ _ => o | .sint o _ _ _ _ => o | .flag o _ _ => o | .enum o _ _ _ => o
  | .real o _ _ _ => o | .mask o _ _ _ => o | .page o => o | .rsv o _ => o

def Field.width : Field → Nat
  | .full _ w _ => w | .uint _ w _ _ _ _ => w | .sint _ w _ _ _ => w | .flag _ w _ => w | .enum _ w _ _ => w
  | .real _ _ _ _ => 32 | .mask _ w _ _ => w | .page _ => 8 | .rsv _ w => w

def Field.dflt : Field → Nat
  | .full _ _ d => d | .uint _ _ _ _ _ d => d | .sint _ _ _ _ d => d | .flag _ _ d => d | .enum _ _ _ d => d
  | .real _ _ _ d => d | .mask _ _ _ d => d | .page _ => 255 | .rsv _ _ => 0

/-- What the dictionary says of one object. `relations` are the pairs of field offsets (a, b) with a ≤ b (R41). -/
structure ObjInfo where
  number : Nat
  name : String
  type : ObjType
  access : Access
  count : Nat
  size : Nat
  mailboxOnly : Bool := false
  fields : List Field
  relations : List (Nat × Nat) := []
  deriving DecidableEq, Repr

/-- The field map of `dictionary.attention.ack`. -/
def Obj.dictionaryAttentionAckFields : List Field :=
  [.full 0 8 0, .rsv 8 24, .full 32 32 0]

/-- The field map of `dictionary.attention.cause`. -/
def Obj.dictionaryAttentionCauseFields : List Field :=
  [.full 0 32 0, .full 32 32 0, .full 64 8 0, .full 72 8 0, .full 80 16 0, .full 96 16 0, .full 112 16 0]

/-- The field map of `dictionary.attention.log`. -/
def Obj.dictionaryAttentionLogFields : List Field :=
  [.full 0 32 0, .full 32 32 0, .full 64 8 0, .full 72 8 0, .full 80 16 0, .full 96 16 0, .full 112 16 0]

/-- The field map of `dictionary.clamp.mailbox`. -/
def Obj.dictionaryClampMailboxFields : List Field :=
  [.full 0 16 0, .full 16 16 0, .full 32 16 0, .rsv 48 16, .full 64 64 0, .full 128 64 0]

/-- The field map of `dictionary.clamp.udp`. -/
def Obj.dictionaryClampUdpFields : List Field :=
  [.full 0 16 0, .full 16 16 0, .full 32 16 0, .rsv 48 16, .full 64 64 0, .full 128 64 0]

/-- The field map of `dictionary.clamp.can`. -/
def Obj.dictionaryClampCanFields : List Field :=
  [.full 0 16 0, .full 16 16 0, .full 32 16 0, .rsv 48 16, .full 64 64 0, .full 128 64 0]

/-- The field map of `dictionary.udp.sources`. -/
def Obj.dictionaryUdpSourcesFields : List Field :=
  [.enum 0 8 [4, 6] 6, .uint 8 8 0 128 1 128, .rsv 16 16, .full 32 128 0]

/-- The field map of `host.link.state`. -/
def Obj.hostLinkStateFields : List Field :=
  [.full 0 8 5, .full 8 8 0, .flag 16 1 0, .flag 17 1 0, .rsv 18 14]

/-- The field map of `host.queue.config`. -/
def Obj.hostQueueConfigFields : List Field :=
  [.uint 0 64 0 4503599627370495 1 0, .uint 64 64 0 4503599627370495 1 0, .uint 128 8 4 12 1 6,
   .uint 136 8 4 12 1 6, .uint 144 8 1 255 1 1, .flag 152 8 1, .full 160 16 0, .rsv 176 80]

/-- The field map of `host.queue.reset_report`. -/
def Obj.hostQueueResetReportFields : List Field :=
  [.full 0 16 0, .full 16 16 0, .full 32 32 0, .full 64 8 0, .rsv 72 24, .full 96 32 0]

/-- The field map of `junction.port.config`. -/
def Obj.junctionPortConfigFields : List Field :=
  [.full 0 48 0, .enum 48 8 [0, 1] 0, .enum 56 2 [0, 1, 2] 2, .rsv 58 6, .uint 64 12 0 4094 1 0, .rsv 76 4,
   .uint 80 16 1500 9000 1 1500, .full 96 32 0, .uint 128 8 0 32 1 24, .rsv 136 24, .full 160 32 0,
   .full 192 128 0, .uint 320 8 0 128 1 64, .rsv 328 8, .full 336 128 0, .rsv 464 48]

/-- The field map of `junction.port.state`. -/
def Obj.junctionPortStateFields : List Field :=
  [.flag 0 1 0, .full 1 2 0, .full 3 2 0, .rsv 5 27, .full 32 32 0]

/-- The field map of `junction.port.counters`. -/
def Obj.junctionPortCountersFields : List Field :=
  [.full 0 64 0, .full 64 64 0, .full 128 64 0, .full 192 64 0, .full 256 64 0, .full 320 64 0,
   .full 384 64 0, .full 448 64 0]

/-- The field map of `junction.stream.config`. -/
def Obj.junctionStreamConfigFields : List Field :=
  [.enum 0 4 [0, 1, 2, 3, 4] 0, .enum 4 4 [1, 2, 3, 4] 1, .enum 8 2 [0, 1, 2] 2, .rsv 10 6, .full 16 7 96,
   .flag 23 1 0, .rsv 24 8, .uint 32 16 1024 65535 1 5004, .full 48 16 0, .full 64 32 0, .flag 96 1 0,
   .flag 97 1 0, .rsv 98 30, .full 128 128 0, .uint 256 16 16 8190 1 256, .rsv 272 16,
   .uint 288 32 1 4294967295 1 1, .uint 320 16 64 8192 1 1920, .uint 336 16 64 4352 1 1088,
   .uint 352 8 1 120 1 30, .rsv 360 8, .uint 368 16 16 16384 1 1024, .uint 384 16 8 1024 1 64,
   .uint 400 16 32 31250 1 3125, .uint 416 8 2 64 1 4, .uint 424 8 1 60 1 10, .uint 432 16 0 256 1 0,
   .rsv 448 64]

/-- The field map of `junction.stream.state`. -/
def Obj.junctionStreamStateFields : List Field :=
  [.full 0 4 0, .rsv 4 28, .full 32 32 0, .full 64 32 0, .full 96 16 0, .full 112 16 0]

/-- The field map of `junction.stream.counters`. -/
def Obj.junctionStreamCountersFields : List Field :=
  [.full 0 32 0, .full 32 32 0, .full 64 32 0, .full 96 32 0, .full 128 32 0, .full 160 32 0,
   .full 192 32 0, .full 224 32 0, .full 256 32 0, .full 288 32 0, .full 320 32 0, .full 352 32 0]

/-- The field map of `decode.engine.state`. -/
def Obj.decodeEngineStateFields : List Field :=
  [.flag 0 1 0, .flag 1 1 0, .flag 2 1 0, .rsv 3 5, .full 8 8 0, .full 16 16 65535, .full 32 32 0,
   .rsv 64 64]

/-- The field map of `decode.stream.config`. -/
def Obj.decodeStreamConfigFields : List Field :=
  [.flag 0 1 0, .flag 1 1 0, .rsv 2 6, .uint 8 5 1 16 1 6, .rsv 13 3, .flag 16 1 1, .rsv 17 111]

/-- The field map of `decode.stream.state`. -/
def Obj.decodeStreamStateFields : List Field :=
  [.full 0 4 0, .flag 4 1 0, .rsv 5 3, .full 8 16 0, .full 24 16 0, .full 40 4 0, .rsv 44 20, .full 64 8 0,
   .full 72 8 0, .rsv 80 48]

/-- The field map of `decode.stream.counters`. -/
def Obj.decodeStreamCountersFields : List Field :=
  [.full 0 32 0, .full 32 32 0, .full 64 32 0, .full 96 32 0, .full 128 32 0, .full 160 32 0,
   .full 192 32 0, .full 224 32 0, .full 256 32 0, .full 288 32 0]

/-- The field map of `encode.engine.state`. -/
def Obj.encodeEngineStateFields : List Field :=
  [.rsv 0 1, .flag 1 1 0, .flag 2 1 0, .rsv 3 5, .full 8 8 0, .full 16 16 65535, .full 32 32 0, .rsv 64 64]

/-- The field map of `encode.profile`. -/
def Obj.encodeProfileFields : List Field :=
  [.enum 0 2 [0, 1] 1, .rsv 2 6, .uint 8 6 0 51 1 30, .rsv 14 2, .uint 16 16 100 60000 1 4000,
   .uint 32 16 100 60000 1 8000, .uint 48 16 100 10000 1 1000, .full 64 16 60, .uint 80 8 0 120 1 0,
   .uint 88 6 0 51 1 10, .rsv 94 2, .uint 96 6 0 51 1 51, .rsv 102 26]

/-- The field map of `encode.rtp_target`. -/
def Obj.encodeRtpTargetFields : List Field :=
  [.uint 0 8 0 1 1 0, .full 8 7 96, .rsv 15 1, .uint 16 16 1024 65535 1 5004,
   .uint 32 16 1024 65535 1 5006, .rsv 48 16, .full 64 32 0, .rsv 96 32, .full 128 128 0, .rsv 256 128]

/-- The field map of `encode.clip.state`. -/
def Obj.encodeClipStateFields : List Field :=
  [.full 0 4 0, .flag 4 1 0, .flag 5 1 0, .flag 6 1 0, .flag 7 1 0, .rsv 8 8, .full 16 16 0, .full 32 32 0,
   .full 64 32 0, .full 96 32 0, .full 128 64 0, .full 192 64 0]

/-- The field map of `encode.stream.mask`. -/
def Obj.encodeStreamMaskFields : List Field :=
  [.uint 0 16 0 8192 1 0, .uint 16 16 0 4352 1 0, .uint 32 16 0 8192 1 0, .uint 48 16 0 4352 1 0,
   .uint 64 16 0 8192 1 0, .uint 80 16 0 4352 1 0, .uint 96 16 0 8192 1 0, .uint 112 16 0 4352 1 0,
   .uint 128 16 0 8192 1 0, .uint 144 16 0 4352 1 0, .uint 160 16 0 8192 1 0, .uint 176 16 0 4352 1 0,
   .uint 192 16 0 8192 1 0, .uint 208 16 0 4352 1 0, .uint 224 16 0 8192 1 0, .uint 240 16 0 4352 1 0,
   .uint 256 16 0 8192 1 0, .uint 272 16 0 4352 1 0, .uint 288 16 0 8192 1 0, .uint 304 16 0 4352 1 0,
   .uint 320 16 0 8192 1 0, .uint 336 16 0 4352 1 0, .uint 352 16 0 8192 1 0, .uint 368 16 0 4352 1 0,
   .uint 384 16 0 8192 1 0, .uint 400 16 0 4352 1 0, .uint 416 16 0 8192 1 0, .uint 432 16 0 4352 1 0,
   .uint 448 16 0 8192 1 0, .uint 464 16 0 4352 1 0, .uint 480 16 0 8192 1 0, .uint 496 16 0 4352 1 0,
   .full 512 8 0, .full 520 8 16, .full 528 8 128, .full 536 8 128, .rsv 544 32]

/-- The field map of `calender.engine.state`. -/
def Obj.calenderEngineStateFields : List Field :=
  [.flag 0 1 0, .flag 1 1 0, .flag 2 1 0, .rsv 3 5, .full 8 8 0, .full 16 16 65535, .full 32 32 0,
   .rsv 64 64]

/-- The field map of `deckle.engine.state`. -/
def Obj.deckleEngineStateFields : List Field :=
  [.rsv 0 1, .flag 1 1 0, .flag 2 1 0, .rsv 3 5, .full 8 8 0, .full 16 16 65535, .full 32 32 0, .rsv 64 64]

/-- The field map of `calender.stream.config`. -/
def Obj.calenderStreamConfigFields : List Field :=
  [.flag 0 1 0, .full 1 3 0, .rsv 4 4, .enum 8 4 [0, 1, 2, 3] 0, .enum 12 2 [0, 1, 2] 1, .flag 14 1 0,
   .rsv 15 1, .uint 16 4 0 8 1 0, .rsv 20 12, .uint 32 16 32 256 1 256, .uint 48 16 32 256 1 128,
   .uint 64 16 32 256 1 128, .uint 80 16 32 256 1 128, .uint 96 16 32 256 1 128, .uint 112 16 32 256 1 128,
   .uint 128 16 32 256 1 128, .uint 144 16 32 256 1 128, .real 160 3347046400 1199562752 0,
   .real 192 3347046400 1199562752 0, .real 224 3347046400 1199562752 0,
   .real 256 3347046400 1199562752 1065353216, .real 288 3347046400 1199562752 1065353216,
   .real 320 3347046400 1199562752 1065353216, .flag 352 1 1, .rsv 353 159]

/-- The field map of `calender.stream.counters`. -/
def Obj.calenderStreamCountersFields : List Field :=
  [.full 0 32 0, .full 32 32 0, .full 64 32 0, .rsv 96 32]

/-- The field map of `press.cores_by_class`. -/
def Obj.pressCoresByClassFields : List Field :=
  [.full 0 8 32, .full 8 8 0, .full 16 8 0, .rsv 24 8]

/-- The field map of `press.core.state`. -/
def Obj.pressCoreStateFields : List Field :=
  [.flag 0 1 0, .flag 1 1 0, .rsv 2 6, .full 8 8 0, .full 16 16 65535, .full 32 9 256, .full 41 2 0,
   .full 43 2 2, .rsv 45 3, .full 48 10 512, .rsv 58 6, .full 64 64 0]

/-- The field map of `press.array.state`. -/
def Obj.pressArrayStateFields : List Field :=
  [.full 0 9 256, .full 9 2 0, .full 11 2 3, .rsv 13 3, .full 16 8 0, .full 24 8 0, .full 32 16 65535,
   .rsv 48 16, .full 64 64 0]

/-- The field map of `press.array.column_map`. -/
def Obj.pressArrayColumnMapFields : List Field :=
  [.full 0 260 1852673427797059126777135760139006525652319754650249024631321344126610074238975, .rsv 260 252]

/-- The field map of `press.counters`. -/
def Obj.pressCountersFields : List Field :=
  [.full 0 64 0, .full 64 64 0, .full 128 64 0, .full 192 64 0, .full 256 64 0, .rsv 320 64]

/-- The field map of `numerics.counters`. -/
def Obj.numericsCountersFields : List Field :=
  [.full 0 64 0, .full 64 64 0, .full 128 64 0, .full 192 64 0]

/-- The field map of `numerics.bias.log`. -/
def Obj.numericsBiasLogFields : List Field :=
  [.full 0 32 0, .full 32 16 0, .full 48 16 0, .full 64 16 0, .full 80 16 0, .full 96 8 0, .full 104 8 0,
   .full 112 8 0, .rsv 120 8, .full 128 32 0, .full 160 16 0, .full 176 16 0]

/-- The field map of `plans.heap`. -/
def Obj.plansHeapFields : List Field :=
  [.uint 0 64 0 64424509440 65536 4294967296, .uint 64 64 0 64424509440 65536 55834574848]

/-- The field map of `plans.context.state`. -/
def Obj.plansContextStateFields : List Field :=
  [.full 0 3 0, .flag 3 1 0, .flag 4 1 0, .flag 5 1 0, .full 6 2 0, .full 8 8 0, .full 16 16 0,
   .full 32 32 0, .full 64 32 0, .full 96 32 0, .full 128 64 0, .full 192 64 0]

/-- The field map of `plans.context.cores`. -/
def Obj.plansContextCoresFields : List Field :=
  [.full 0 32 0, .full 32 8 255, .full 40 8 255, .full 48 8 255, .full 56 8 255, .full 64 8 255,
   .full 72 8 255, .full 80 8 255, .full 88 8 255, .full 96 8 255, .full 104 8 255, .full 112 8 255,
   .full 120 8 255, .full 128 8 255, .full 136 8 255, .full 144 8 255, .full 152 8 255, .full 160 8 255,
   .full 168 8 255, .full 176 8 255, .full 184 8 255, .full 192 8 255, .full 200 8 255, .full 208 8 255,
   .full 216 8 255, .full 224 8 255, .full 232 8 255, .full 240 8 255, .full 248 8 255, .full 256 8 255,
   .full 264 8 255, .full 272 8 255, .full 280 8 255, .rsv 288 32]

/-- The field map of `plans.context.refusal`. -/
def Obj.plansContextRefusalFields : List Field :=
  [.full 0 8 0, .rsv 8 56, .full 64 8 0, .full 72 8 0, .full 80 8 0, .rsv 88 40, .full 128 64 0,
   .full 192 64 0, .full 256 8 0, .full 264 8 0, .full 272 8 0, .rsv 280 40, .full 320 64 0,
   .full 384 64 0, .full 448 8 0, .full 456 8 0, .full 464 8 0, .rsv 472 40, .full 512 64 0, .full 576 64 0]

/-- The field map of `plans.context.bound`. -/
def Obj.plansContextBoundFields : List Field :=
  [.full 0 32 0, .full 32 32 0, .full 64 32 0, .full 96 32 0, .full 128 32 0, .full 160 32 0,
   .full 192 32 0, .full 224 32 0, .full 256 32 0, .full 288 32 0, .full 320 32 0, .full 352 32 0,
   .full 384 32 0, .full 416 32 0, .full 448 32 0, .full 480 32 0]

/-- The field map of `plans.context.shape_clamp`. -/
def Obj.plansContextShapeClampFields : List Field :=
  [.full 0 8 0, .rsv 8 24, .full 32 32 0, .full 64 32 0, .full 96 32 0]

/-- The field map of `plans.stream.contexts`. -/
def Obj.plansStreamContextsFields : List Field :=
  [.full 0 8 0, .full 8 8 0, .full 16 8 0, .full 24 8 0]

/-- The field map of `recompute.stream.config`. -/
def Obj.recomputeStreamConfigFields : List Field :=
  [.flag 0 1 1, .rsv 1 7, .uint 8 8 8 64 1 32, .uint 16 7 1 100 1 60, .rsv 23 9, .uint 32 16 0 31743 1 0,
   .rsv 48 16]

/-- The field map of `recompute.stream.state`. -/
def Obj.recomputeStreamStateFields : List Field :=
  [.full 0 8 0, .full 8 8 0, .full 16 16 0, .full 32 32 0, .full 64 32 0, .full 96 16 0, .full 112 8 0,
   .rsv 120 8, .full 128 8 0, .full 136 8 0, .full 144 16 0, .full 160 32 0, .full 192 32 0,
   .full 224 16 0, .full 240 8 0, .rsv 248 8, .full 256 8 0, .full 264 8 0, .full 272 16 0, .full 288 32 0,
   .full 320 32 0, .full 352 16 0, .full 368 8 0, .rsv 376 8, .full 384 8 0, .full 392 8 0, .full 400 16 0,
   .full 416 32 0, .full 448 32 0, .full 480 16 0, .full 496 8 0, .rsv 504 8]

/-- The field map of `recompute.stream.counters`. -/
def Obj.recomputeStreamCountersFields : List Field :=
  [.full 0 64 0, .full 64 64 0, .full 128 32 0, .full 160 32 0, .full 192 32 0, .full 224 32 0,
   .full 256 32 0, .full 288 32 0, .full 320 32 0, .full 352 32 0, .full 384 32 0, .full 416 32 0,
   .full 448 32 0, .full 480 32 0]

/-- The field map of `tracker.engine.state`. -/
def Obj.trackerEngineStateFields : List Field :=
  [.rsv 0 1, .flag 1 1 0, .flag 2 1 0, .rsv 3 5, .full 8 8 0, .full 16 16 65535, .full 32 32 0, .rsv 64 64]

/-- The field map of `tracker.stream.config`. -/
def Obj.trackerStreamConfigFields : List Field :=
  [.uint 0 16 0 4096 1 256, .uint 16 16 1 16384 1 1024, .uint 32 8 1 16 1 3, .full 40 8 30, .rsv 48 16,
   .real 64 0 1065353216 1050253722, .real 96 0 1065353216 1056964608, .real 128 0 1065353216 1028443341,
   .real 160 0 1065353216 1003277517, .real 192 0 1065353216 1028443341, .real 224 0 1065353216 1063675494]

/-- The field map of `tracker.stream.counters`. -/
def Obj.trackerStreamCountersFields : List Field :=
  [.full 0 32 0, .full 32 32 0, .full 64 32 0, .full 96 32 0, .full 128 32 0, .full 160 32 0,
   .full 192 32 0, .rsv 224 32]

/-- The field map of `points.rule`. -/
def Obj.pointsRuleFields : List Field :=
  [.flag 0 1 0, .enum 1 3 [0, 1, 2, 3, 4, 5] 0, .flag 4 1 1, .enum 5 2 [0, 1] 0, .enum 7 2 [0, 1, 2] 0,
   .rsv 9 7, .uint 16 16 0 1023 1 0, .uint 32 8 1 63 1 1, .uint 40 7 0 64 1 64, .rsv 47 1,
   .uint 48 8 2 16 1 2, .uint 56 8 1 30 1 1, .full 64 64 18446744073709551615,
   .uint 128 32 0 3600000 1 10000, .uint 160 16 0 16384 1 0, .uint 176 16 0 16384 1 1, .full 192 4 0,
   .rsv 196 60, .uint 256 16 0 32768 1 0, .uint 272 16 0 17408 1 0, .uint 288 16 0 32768 1 0,
   .uint 304 16 0 17408 1 0, .uint 320 16 0 32768 1 0, .uint 336 16 0 17408 1 0, .uint 352 16 0 32768 1 0,
   .uint 368 16 0 17408 1 0, .uint 384 16 0 32768 1 0, .uint 400 16 0 17408 1 0, .uint 416 16 0 32768 1 0,
   .uint 432 16 0 17408 1 0, .uint 448 16 0 32768 1 0, .uint 464 16 0 17408 1 0, .uint 480 16 0 32768 1 0,
   .uint 496 16 0 17408 1 0, .uint 512 16 0 32768 1 0, .uint 528 16 0 17408 1 0, .uint 544 16 0 32768 1 0,
   .uint 560 16 0 17408 1 0, .uint 576 16 0 32768 1 0, .uint 592 16 0 17408 1 0, .uint 608 16 0 32768 1 0,
   .uint 624 16 0 17408 1 0, .uint 640 16 0 32768 1 0, .uint 656 16 0 17408 1 0, .uint 672 16 0 32768 1 0,
   .uint 688 16 0 17408 1 0, .uint 704 16 0 32768 1 0, .uint 720 16 0 17408 1 0, .uint 736 16 0 32768 1 0,
   .uint 752 16 0 17408 1 0, .rsv 768 256]

/-- The field map of `points.action`. -/
def Obj.pointsActionFields : List Field :=
  [.flag 0 1 0, .full 1 4 0, .flag 5 1 0, .rsv 6 10, .uint 16 16 1 10000 1 100, .flag 32 1 0, .flag 33 1 1,
   .rsv 34 30, .full 64 29 0, .rsv 93 35, .full 128 128 0, .rsv 256 128]

/-- The field map of `points.egress.ring`. -/
def Obj.pointsEgressRingFields : List Field :=
  [.full 0 64 0, .uint 64 64 0 18446744073709551608 8 0, .uint 128 8 16 30 1 20, .rsv 136 120]

/-- The field map of `points.egress.ring_state`. -/
def Obj.pointsEgressRingStateFields : List Field :=
  [.full 0 64 0, .full 64 32 0, .rsv 96 32]

/-- The field map of `points.egress.udp`. -/
def Obj.pointsEgressUdpFields : List Field :=
  [.uint 0 8 0 1 1 0, .rsv 8 8, .uint 16 16 1024 65535 1 5004, .uint 32 16 1024 65535 1 5006, .rsv 48 80,
   .full 128 128 0, .rsv 256 128]

/-- The field map of `points.stream.egress`. -/
def Obj.pointsStreamEgressFields : List Field :=
  [.uint 0 4 0 8 1 8, .uint 4 4 0 8 1 8, .rsv 8 24]

/-- The field map of `points.counters`. -/
def Obj.pointsCountersFields : List Field :=
  [.full 0 32 0, .full 32 32 0, .full 64 32 0, .full 96 32 0, .full 128 32 0, .full 160 32 0, .rsv 192 32,
   .rsv 224 32]

/-- The field map of `yard.context.config`. -/
def Obj.yardContextConfigFields : List Field :=
  [.uint 0 5 1 16 1 1, .rsv 5 3, .uint 8 4 1 8 1 2, .flag 12 1 0, .rsv 13 3, .uint 16 9 1 256 1 1,
   .rsv 25 7, .full 32 16 3125, .rsv 48 80]

/-- The field map of `yard.context.state`. -/
def Obj.yardContextStateFields : List Field :=
  [.full 0 3 0, .flag 3 1 0, .flag 4 1 0, .flag 5 1 0, .rsv 6 2, .full 8 5 0, .rsv 13 3, .full 16 8 0,
   .full 24 8 0, .full 32 32 0, .full 64 32 0, .full 96 32 0, .full 128 8 0, .full 136 8 0, .full 144 16 0,
   .full 160 32 0, .full 192 64 0]

/-- The field map of `yard.context.counters`. -/
def Obj.yardContextCountersFields : List Field :=
  [.full 0 64 0, .full 64 64 0, .full 128 64 0, .full 192 64 0, .full 256 64 0, .full 320 64 0]

/-- The field map of `signal.counter.state`. -/
def Obj.signalCounterStateFields : List Field :=
  [.full 0 16 0, .flag 16 1 0, .flag 17 1 0, .rsv 18 6, .full 24 8 0]

/-- The field map of `signal.alias`. -/
def Obj.signalAliasFields : List Field :=
  [.flag 0 1 0, .full 1 2 0, .rsv 3 5, .uint 8 6 1 63 1 1, .rsv 14 2, .uint 16 8 224 239 1 224, .rsv 24 40]

/-- The field map of `signal.counters`. -/
def Obj.signalCountersFields : List Field :=
  [.full 0 32 0, .full 32 32 0, .full 64 32 0, .full 96 32 0]

/-- The field map of `vat.layout`. -/
def Obj.vatLayoutFields : List Field :=
  [.uint 0 11 0 1024 16 512, .rsv 11 5, .uint 16 11 0 1024 16 384, .rsv 27 37]

/-- The field map of `vat.counters`. -/
def Obj.vatCountersFields : List Field :=
  [.full 0 64 0, .full 64 64 0, .full 128 64 0, .full 192 64 0, .full 256 64 0, .full 320 64 0]

/-- The field map of `sidings.pool.config`. -/
def Obj.sidingsPoolConfigFields : List Field :=
  [.uint 0 64 0 68719472640 4096 0, .uint 64 64 0 68719472640 4096 0, .full 128 1 0, .rsv 129 63,
   .uint 192 32 0 4294963200 4096 0, .uint 224 32 0 4294963200 4096 0, .uint 256 32 0 4294963200 4096 0,
   .uint 288 32 0 4294963200 4096 0, .uint 320 32 0 4294963200 4096 0, .uint 352 32 0 4294963200 4096 0,
   .uint 384 32 0 4294963200 4096 0, .uint 416 32 0 4294963200 4096 0, .uint 448 32 0 4194304 1 0,
   .uint 480 32 0 4194304 1 0, .uint 512 32 0 4194304 1 0, .uint 544 32 0 4194304 1 0,
   .uint 576 32 0 4194304 1 0, .uint 608 32 0 4194304 1 0, .uint 640 32 0 4194304 1 0,
   .uint 672 32 0 4194304 1 0, .rsv 704 64]

/-- The field map of `sidings.pool.state`. -/
def Obj.sidingsPoolStateFields : List Field :=
  [.full 0 2 0, .rsv 2 6, .full 8 8 0, .rsv 16 16, .full 32 32 0, .full 64 32 0, .full 96 32 0,
   .full 128 32 0, .full 160 32 0, .full 192 32 0, .rsv 224 32]

/-- The field map of `sidings.pool.counters`. -/
def Obj.sidingsPoolCountersFields : List Field :=
  [.full 0 32 0, .full 32 32 0, .full 64 32 0, .full 96 32 0]

/-- The field map of `lpddr6.map`. -/
def Obj.lpddr6MapFields : List Field :=
  [.full 0 2 0, .rsv 2 14, .full 16 15 1, .rsv 31 1, .full 32 15 2, .rsv 47 1, .full 48 15 4, .rsv 63 1,
   .full 64 15 8, .rsv 79 1, .rsv 80 48]

/-- The field map of `lpddr6.remap`. -/
def Obj.lpddr6RemapFields : List Field :=
  [.full 0 5 0, .full 5 1 0, .rsv 6 2, .full 8 3 0, .rsv 11 21]

/-- The field map of `lpddr6.migration`. -/
def Obj.lpddr6MigrationFields : List Field :=
  [.full 0 2 0, .rsv 2 6, .full 8 8 0, .full 16 8 0, .full 24 8 0, .full 32 32 0, .full 64 32 0, .rsv 96 32]

/-- The field map of `lpddr6.rank.counters`. -/
def Obj.lpddr6RankCountersFields : List Field :=
  [.full 0 32 0, .full 32 32 0, .full 64 32 0, .full 96 32 0, .full 128 32 0, .full 160 32 0, .rsv 192 32,
   .rsv 224 32]

/-- The field map of `lpddr6.log`. -/
def Obj.lpddr6LogFields : List Field :=
  [.full 0 32 0, .full 32 8 0, .full 40 8 0, .full 48 8 0, .full 56 8 0, .full 64 64 0, .full 128 32 0,
   .rsv 160 96]

/-- The field map of `power.op.state`. -/
def Obj.powerOpStateFields : List Field :=
  [.full 0 2 0, .full 2 2 0, .flag 4 1 0, .flag 5 1 0, .flag 6 1 0, .flag 7 1 0, .full 8 6 0, .full 14 6 0,
   .flag 20 1 0, .flag 21 1 0, .flag 22 1 0, .rsv 23 9, .full 32 32 0]

/-- The field map of `power.demand`. -/
def Obj.powerDemandFields : List Field :=
  [.real 0 4286578687 2139095039 0, .real 32 4286578687 2139095039 0, .full 64 32 0, .rsv 96 32]

/-- The field map of `power.estimate`. -/
def Obj.powerEstimateFields : List Field :=
  [.real 0 4286578687 2139095039 0, .real 32 4286578687 2139095039 0, .real 64 4286578687 2139095039 0,
   .real 96 4286578687 2139095039 0, .real 128 4286578687 2139095039 0, .real 160 4286578687 2139095039 0,
   .real 192 4286578687 2139095039 0, .real 224 4286578687 2139095039 0]

/-- The field map of `power.counters`. -/
def Obj.powerCountersFields : List Field :=
  [.full 0 64 0, .full 64 64 0, .full 128 64 0, .full 192 64 0, .full 256 64 0, .full 320 64 0]

/-- The field map of `power.vrm.page`. -/
def Obj.powerVrmPageFields : List Field :=
  [.uint 0 7 8 119 1 64, .flag 7 1 0, .page 8, .flag 16 1 1, .flag 17 1 1, .rsv 18 46]

/-- The field map of `power.avs.state`. -/
def Obj.powerAvsStateFields : List Field :=
  [.full 0 16 600, .full 16 16 550, .full 32 16 500, .full 48 16 450, .full 64 8 40, .full 72 8 0,
   .rsv 80 16, .full 96 32 0]

/-- The field map of `thermal.hottest`. -/
def Obj.thermalHottestFields : List Field :=
  [.sint 0 16 (-32768) (32767) 0, .full 16 8 0, .rsv 24 8, .real 32 1109393408 1132593152 1132593152]

/-- The field map of `thermal.counters`. -/
def Obj.thermalCountersFields : List Field :=
  [.full 0 32 0, .full 32 32 0, .full 64 32 0, .full 96 32 0]

/-- The field map of `coupling.system`. -/
def Obj.couplingSystemFields : List Field :=
  [.full 0 32 0, .uint 32 3 1 4 1 1, .rsv 35 29]

/-- The field map of `coupling.port.state`. -/
def Obj.couplingPortStateFields : List Field :=
  [.full 0 3 0, .full 3 2 0, .flag 5 1 0, .rsv 6 2, .full 8 9 255, .rsv 17 15, .full 32 32 0, .rsv 64 64]

/-- The field map of `coupling.port.counters`. -/
def Obj.couplingPortCountersFields : List Field :=
  [.full 0 64 0, .full 64 64 0, .full 128 64 0, .full 192 64 0, .full 256 64 0, .full 320 64 0]

/-- The field map of `coupling.peer.window`. -/
def Obj.couplingPeerWindowFields : List Field :=
  [.uint 0 64 0 18446744073709551360 256 0, .uint 64 64 0 18446744073709551360 256 0]

/-- The field map of `coupling.system.state`. -/
def Obj.couplingSystemStateFields : List Field :=
  [.flag 0 1 0, .full 1 4 0, .rsv 5 27]

/-- The field map of `boot.firmware`. -/
def Obj.bootFirmwareFields : List Field :=
  [.full 0 1 0, .rsv 1 7, .full 8 8 0, .full 16 8 0, .rsv 24 8, .full 32 32 0, .full 64 32 0,
   .full 96 32 0, .rsv 128 128]

/-- The field map of `boot.config`. -/
def Obj.bootConfigFields : List Field :=
  [.full 0 32 0, .full 32 8 0, .rsv 40 24, .full 64 16 0, .full 80 16 0, .full 96 16 0, .rsv 112 16]

/-- The field map of `boot.ledger`. -/
def Obj.bootLedgerFields : List Field :=
  [.full 0 32 0, .full 32 16 0, .full 48 8 0, .rsv 56 8, .full 64 32 0, .full 96 32 0]

/-- The field map of `boot.identity.cert`. -/
def Obj.bootIdentityCertFields : List Field :=
  [.full 0 32 0, .full 32 8 0, .rsv 40 24, .full 64 64 0, .full 128 64 0, .full 192 64 0, .full 256 32 0,
   .full 288 32 0, .rsv 320 192, .full 512 4096 0, .full 4608 4096 0]

/-- The field map of `boot.manufacturing.cert`. -/
def Obj.bootManufacturingCertFields : List Field :=
  [.full 0 32 0, .full 32 8 0, .rsv 40 24, .full 64 64 0, .full 128 64 0, .full 192 64 0, .full 256 32 0,
   .full 288 32 0, .rsv 320 192, .full 512 4096 0, .full 4608 4096 0]

/-- The field map of `boot.root_hash`. -/
def Obj.bootRootHashFields : List Field :=
  [.full 0 512 0]

/-- The field map of `boot.owner.keys`. -/
def Obj.bootOwnerKeysFields : List Field :=
  [.full 0 64 0]

/-- The field map of `boot.flash.counters`. -/
def Obj.bootFlashCountersFields : List Field :=
  [.full 0 32 0, .full 32 32 0, .full 64 32 0, .full 96 32 0]

/-- The field map of `pins.dio.config`. -/
def Obj.pinsDioConfigFields : List Field :=
  [.enum 0 2 [0, 1, 2] 0, .full 2 1 0, .full 3 1 0, .enum 4 2 [0, 1, 2] 2, .enum 6 2 [0, 1, 2] 0,
   .full 8 8 2, .rsv 16 48]

/-- The field map of `pins.dio.out`. -/
def Obj.pinsDioOutFields : List Field :=
  [.full 0 16 0, .full 16 16 0]

/-- The field map of `pins.dio.state`. -/
def Obj.pinsDioStateFields : List Field :=
  [.full 0 16 0, .full 16 16 0, .full 32 16 65535, .rsv 48 16]

/-- The field map of `pins.can.config`. -/
def Obj.pinsCanConfigFields : List Field :=
  [.enum 0 3 [0, 1, 2, 3] 2, .enum 3 3 [0, 1, 2, 3] 1, .rsv 6 10, .uint 16 10 500 900 1 800, .rsv 26 6,
   .uint 32 10 500 900 1 750, .rsv 42 6, .flag 48 1 1, .rsv 49 15]

/-- The field map of `pins.can.state`. -/
def Obj.pinsCanStateFields : List Field :=
  [.full 0 2 0, .rsv 2 6, .full 8 8 0, .full 16 8 0, .rsv 24 8, .full 32 32 0]

/-- The field map of `pins.pmbus.config`. -/
def Obj.pinsPmbusConfigFields : List Field :=
  [.enum 0 2 [0, 1, 2] 1, .rsv 2 30]

/-- The field map of `pins.pmbus.status`. -/
def Obj.pinsPmbusStatusFields : List Field :=
  [.full 0 16 0, .rsv 16 16]

/-- An object's row, its parts in the order of the object table. -/
def mkInfo (number : Nat) (name : String) (type : ObjType) (access : Access) (count size : Nat)
    (mailboxOnly : Bool) (fields : List Field) (relations : List (Nat × Nat)) : ObjInfo :=
  { number, name, type, access, count, size, mailboxOnly, fields, relations }

/-- The object table: number, name, type, access right, elements, element size and fields of each object. -/
def Obj.info : Obj → ObjInfo
  | .identityPart => mkInfo 0x000001 "identity.part" .u16 .ro 1 2
      false [.full 0 16 9640] []
  | .identityRevision => mkInfo 0x000002 "identity.revision" .u16 .ro 1 2
      false [.full 0 16 16897] []
  | .dictionaryVersion => mkInfo 0x010001 "dictionary.version" .u16 .ro 1 2
      false [.full 0 16 256] []
  | .dictionaryObjectCount => mkInfo 0x010002 "dictionary.object_count" .u32 .ro 1 4
      false [.full 0 32 206] []
  | .dictionaryStatus => mkInfo 0x010010 "dictionary.status" .u32 .ro 1 4
      false [.full 0 32 0] []
  | .dictionaryAttentionAck => mkInfo 0x010011 "dictionary.attention.ack" .record .wo 1 8
      false Obj.dictionaryAttentionAckFields []
  | .dictionaryAttentionCause => mkInfo 0x010012 "dictionary.attention.cause" .record .ro 8 16
      false Obj.dictionaryAttentionCauseFields []
  | .dictionaryAttentionLog => mkInfo 0x010013 "dictionary.attention.log" .record .ro 256 16
      false Obj.dictionaryAttentionLogFields []
  | .dictionaryAttentionLogHead => mkInfo 0x010014 "dictionary.attention.log_head" .u32 .ro 1 4
      false [.full 0 32 0] []
  | .dictionaryAttentionLogRead => mkInfo 0x010015 "dictionary.attention.log_read" .u32 .rw 1 4
      false [.full 0 32 0] []
  | .dictionaryClampMailbox => mkInfo 0x010020 "dictionary.clamp.mailbox" .record .ro 65 24
      false Obj.dictionaryClampMailboxFields []
  | .dictionaryClampUdp => mkInfo 0x010021 "dictionary.clamp.udp" .record .ro 65 24
      false Obj.dictionaryClampUdpFields []
  | .dictionaryClampCan => mkInfo 0x010022 "dictionary.clamp.can" .record .ro 65 24
      false Obj.dictionaryClampCanFields []
  | .dictionaryUdpEnable => mkInfo 0x010030 "dictionary.udp.enable" .bool .rw 1 1
      true [.flag 0 8 0] []
  | .dictionaryUdpPort => mkInfo 0x010031 "dictionary.udp.port" .u16 .rw 1 2
      true [.uint 0 16 1024 65535 1 47260] []
  | .dictionaryUdpWriteAreas => mkInfo 0x010032 "dictionary.udp.write_areas" .bits .rw 1 32
      true [.mask 0 256 234061815 0] []
  | .dictionaryUdpSources => mkInfo 0x010033 "dictionary.udp.sources" .record .rw 8 20
      true Obj.dictionaryUdpSourcesFields []
  | .dictionaryUdpDropped => mkInfo 0x010034 "dictionary.udp.dropped" .u32 .rc 1 4
      false [.full 0 32 0] []
  | .dictionaryCanEnable => mkInfo 0x010040 "dictionary.can.enable" .bool .rw 1 1
      true [.flag 0 8 0] []
  | .dictionaryCanNode => mkInfo 0x010041 "dictionary.can.node" .u8 .rw 1 1
      true [.uint 0 8 1 254 1 1] []
  | .dictionaryCanIdBase => mkInfo 0x010042 "dictionary.can.id_base" .u16 .rw 1 2
      true [.uint 0 16 0 8191 1 7258] []
  | .dictionaryCanWriteAreas => mkInfo 0x010043 "dictionary.can.write_areas" .bits .rw 1 32
      true [.mask 0 256 234061815 0] []
  | .hostLinkState => mkInfo 0x020001 "host.link.state" .record .ro 1 4
      false Obj.hostLinkStateFields []
  | .hostLinkDowns => mkInfo 0x020002 "host.link.downs" .u32 .rc 1 4
      false [.full 0 32 0] []
  | .hostQueueEnable => mkInfo 0x020010 "host.queue.enable" .bool .rw 64 1
      false [.flag 0 8 0] []
  | .hostQueueConfig => mkInfo 0x020011 "host.queue.config" .record .rws 64 32
      false Obj.hostQueueConfigFields [(128, 136)]
  | .hostQueueResetReport => mkInfo 0x020012 "host.queue.reset_report" .record .ro 64 16
      false Obj.hostQueueResetReportFields []
  | .hostBar2WriteEnable => mkInfo 0x020020 "host.bar2.write_enable" .bool .rw 1 1
      false [.flag 0 8 1] []
  | .hostBar2Discarded => mkInfo 0x020021 "host.bar2.discarded" .u32 .rc 1 4
      false [.full 0 32 0] []
  | .hostEgressHeldDropped => mkInfo 0x020031 "host.egress.held_dropped" .u32 .rc 1 4
      false [.full 0 32 0] []
  | .hostBar0BadAccess => mkInfo 0x020032 "host.bar0.bad_access" .u32 .rc 1 4
      false [.full 0 32 0] []
  | .junctionAuPool => mkInfo 0x040001 "junction.au_pool" .u8 .rws 1 1
      false [.uint 0 8 0 31 1 0] []
  | .junctionRingPool => mkInfo 0x040002 "junction.ring_pool" .u8 .rws 1 1
      false [.uint 0 8 0 31 1 1] []
  | .junctionPortEnable => mkInfo 0x040010 "junction.port.enable" .bool .rw 2 1
      false [.flag 0 8 0] []
  | .junctionPortConfig => mkInfo 0x040011 "junction.port.config" .record .rws 2 64
      false Obj.junctionPortConfigFields []
  | .junctionPortState => mkInfo 0x040012 "junction.port.state" .record .ro 2 8
      false Obj.junctionPortStateFields []
  | .junctionPortCounters => mkInfo 0x040013 "junction.port.counters" .record .rc 2 64
      false Obj.junctionPortCountersFields []
  | .junctionStreamEnable => mkInfo 0x040100 "junction.stream.enable" .bool .rw 1024 1
      false [.flag 0 8 0] []
  | .junctionStreamConfig => mkInfo 0x040101 "junction.stream.config" .record .rws 1024 64
      false Obj.junctionStreamConfigFields []
  | .junctionStreamState => mkInfo 0x040102 "junction.stream.state" .record .ro 1024 16
      false Obj.junctionStreamStateFields []
  | .junctionStreamCounters => mkInfo 0x040103 "junction.stream.counters" .record .rc 1024 48
      false Obj.junctionStreamCountersFields []
  | .decodeFramePool => mkInfo 0x050001 "decode.frame_pool" .u8 .rws 1 1
      false [.uint 0 8 0 31 1 2] []
  | .decodeLcEngines => mkInfo 0x050002 "decode.lc_engines" .u8 .rws 1 1
      false [.uint 0 8 0 12 1 0] []
  | .decodeEnginesPresented => mkInfo 0x050003 "decode.engines_presented" .u8 .ro 1 1
      false [.full 0 8 24] []
  | .decodeLcMisses => mkInfo 0x050004 "decode.lc_misses" .u32 .rc 1 4
      false [.full 0 32 0] []
  | .decodeEngineState => mkInfo 0x050010 "decode.engine.state" .record .ro 24 16
      false Obj.decodeEngineStateFields []
  | .decodeStreamConfig => mkInfo 0x050100 "decode.stream.config" .record .rws 1024 16
      false Obj.decodeStreamConfigFields []
  | .decodeStreamState => mkInfo 0x050101 "decode.stream.state" .record .ro 1024 16
      false Obj.decodeStreamStateFields []
  | .decodeStreamCounters => mkInfo 0x050102 "decode.stream.counters" .record .rc 1024 40
      false Obj.decodeStreamCountersFields []
  | .encodeClipPool => mkInfo 0x060001 "encode.clip_pool" .u8 .rws 1 1
      false [.uint 0 8 0 31 1 3] []
  | .encodeClipBacklog => mkInfo 0x060002 "encode.clip_backlog" .u8 .rw 1 1
      false [.uint 0 8 2 32 1 8] []
  | .encodeEnginesPresented => mkInfo 0x060003 "encode.engines_presented" .u8 .ro 1 1
      false [.full 0 8 4] []
  | .encodeEngineState => mkInfo 0x060010 "encode.engine.state" .record .ro 4 16
      false Obj.encodeEngineStateFields []
  | .encodeProfile => mkInfo 0x060020 "encode.profile" .record .rw 16 16
      false Obj.encodeProfileFields [(16, 32), (88, 96)]
  | .encodeRtpTarget => mkInfo 0x060030 "encode.rtp_target" .record .rw 16 48
      false Obj.encodeRtpTargetFields []
  | .encodeClipState => mkInfo 0x060040 "encode.clip.state" .record .ro 64 32
      false Obj.encodeClipStateFields []
  | .encodeClipOverflows => mkInfo 0x060041 "encode.clip.overflows" .u32 .rc 64 4
      false [.full 0 32 0] []
  | .encodeStreamMask => mkInfo 0x060100 "encode.stream.mask" .record .rw 1024 72
      false Obj.encodeStreamMaskFields [(0, 32), (16, 48), (64, 96), (80, 112), (128, 160), (144, 176), (192, 224), (208, 240), (256, 288), (272, 304), (320, 352), (336, 368), (384, 416), (400, 432), (448, 480), (464, 496)]
  | .calenderVatPool => mkInfo 0x070001 "calender.vat_pool" .u8 .rws 1 1
      false [.uint 0 8 0 31 1 4] []
  | .calenderHistoryPool => mkInfo 0x070002 "calender.history_pool" .u8 .rws 1 1
      false [.uint 0 8 0 31 1 5] []
  | .calenderLcReserved => mkInfo 0x070003 "calender.lc_reserved" .u8 .rws 1 1
      false [.uint 0 8 0 3 1 0] []
  | .calenderLcMisses => mkInfo 0x070004 "calender.lc_misses" .u32 .rc 1 4
      false [.full 0 32 0] []
  | .calenderEnginesPresented => mkInfo 0x070005 "calender.engines_presented" .u8 .ro 1 1
      false [.full 0 8 4] []
  | .deckleEnginesPresented => mkInfo 0x070006 "deckle.engines_presented" .u8 .ro 1 1
      false [.full 0 8 2] []
  | .calenderEngineState => mkInfo 0x070010 "calender.engine.state" .record .ro 4 16
      false Obj.calenderEngineStateFields []
  | .deckleEngineState => mkInfo 0x070011 "deckle.engine.state" .record .ro 2 16
      false Obj.deckleEngineStateFields []
  | .calenderStreamConfig => mkInfo 0x070100 "calender.stream.config" .record .rws 1024 64
      false Obj.calenderStreamConfigFields []
  | .calenderStreamCounters => mkInfo 0x070101 "calender.stream.counters" .record .rc 1024 16
      false Obj.calenderStreamCountersFields []
  | .pressCoresPresented => mkInfo 0x080001 "press.cores_presented" .u8 .ro 1 1
      false [.full 0 8 32] []
  | .pressCoresByClass => mkInfo 0x080002 "press.cores_by_class" .record .ro 1 4
      false Obj.pressCoresByClassFields []
  | .pressCoreState => mkInfo 0x080010 "press.core.state" .record .ro 32 16
      false Obj.pressCoreStateFields []
  | .pressArrayState => mkInfo 0x080011 "press.array.state" .record .ro 64 16
      false Obj.pressArrayStateFields []
  | .pressArrayColumnMap => mkInfo 0x080012 "press.array.column_map" .record .ro 64 64
      false Obj.pressArrayColumnMapFields []
  | .pressCounters => mkInfo 0x080020 "press.counters" .record .rc 32 48
      false Obj.pressCountersFields []
  | .numericsBiasSatMin => mkInfo 0x090001 "numerics.bias.sat_min" .u16 .rws 1 2
      false [.uint 0 16 1 65535 1 1] []
  | .numericsBiasUnderShift => mkInfo 0x090002 "numerics.bias.under_shift" .u8 .rws 1 1
      false [.uint 0 8 0 16 1 6] []
  | .numericsBiasDownFrames => mkInfo 0x090003 "numerics.bias.down_frames" .u8 .rws 1 1
      false [.uint 0 8 1 64 1 4] []
  | .numericsBiasChanges => mkInfo 0x090010 "numerics.bias.changes" .u32 .rc 1 4
      false [.full 0 32 0] []
  | .numericsBiasPinned => mkInfo 0x090011 "numerics.bias.pinned" .u32 .rc 1 4
      false [.full 0 32 0] []
  | .numericsCounters => mkInfo 0x090012 "numerics.counters" .record .rc 1 32
      false Obj.numericsCountersFields []
  | .numericsBiasLog => mkInfo 0x090020 "numerics.bias.log" .record .ro 4096 24
      false Obj.numericsBiasLogFields []
  | .numericsBiasLogHead => mkInfo 0x090021 "numerics.bias.log_head" .u32 .ro 1 4
      false [.full 0 32 0] []
  | .numericsBiasLogRead => mkInfo 0x090022 "numerics.bias.log_read" .u32 .rw 1 4
      false [.full 0 32 0] []
  | .numericsBiasLogLost => mkInfo 0x090023 "numerics.bias.log_lost" .u32 .rc 1 4
      false [.full 0 32 0] []
  | .randomSelftest => mkInfo 0x0A0001 "random.selftest" .bool .ro 1 1
      false [.flag 0 8 0] []
  | .randomDraws => mkInfo 0x0A0002 "random.draws" .u64 .rc 1 8
      false [.full 0 64 0] []
  | .plansHeap => mkInfo 0x0B0001 "plans.heap" .record .rws 1 16
      false Obj.plansHeapFields [(0, 64)]
  | .plansHeapFree => mkInfo 0x0B0002 "plans.heap_free" .u64 .ro 1 8
      false [.full 0 64 0] []
  | .plansContextState => mkInfo 0x0B0010 "plans.context.state" .record .ro 64 32
      false Obj.plansContextStateFields []
  | .plansContextCores => mkInfo 0x0B0011 "plans.context.cores" .record .ro 64 40
      false Obj.plansContextCoresFields []
  | .plansContextRefusal => mkInfo 0x0B0012 "plans.context.refusal" .record .ro 64 80
      false Obj.plansContextRefusalFields []
  | .plansContextBound => mkInfo 0x0B0013 "plans.context.bound" .record .rw 64 64
      false Obj.plansContextBoundFields []
  | .plansContextShapeClamp => mkInfo 0x0B0014 "plans.context.shape_clamp" .record .ro 64 16
      false Obj.plansContextShapeClampFields []
  | .plansStreamContexts => mkInfo 0x0B0015 "plans.stream.contexts" .record .ro 1024 4
      false Obj.plansStreamContextsFields []
  | .recomputeLedgerLost => mkInfo 0x0C0001 "recompute.ledger_lost" .u32 .rc 1 4
      false [.full 0 32 0] []
  | .recomputeStreamConfig => mkInfo 0x0C0100 "recompute.stream.config" .record .rw 1024 8
      false Obj.recomputeStreamConfigFields []
  | .recomputeStreamState => mkInfo 0x0C0101 "recompute.stream.state" .record .ro 1024 64
      false Obj.recomputeStreamStateFields []
  | .recomputeStreamCounters => mkInfo 0x0C0102 "recompute.stream.counters" .record .rc 1024 64
      false Obj.recomputeStreamCountersFields []
  | .trackerRegion => mkInfo 0x0D0001 "tracker.region" .u64 .rws 1 8
      false [.uint 0 64 0 64322797568 65536 60129542144] []
  | .trackerEnginesPresented => mkInfo 0x0D0002 "tracker.engines_presented" .u8 .ro 1 1
      false [.full 0 8 2] []
  | .trackerLcMisses => mkInfo 0x0D0003 "tracker.lc_misses" .u32 .rc 1 4
      false [.full 0 32 0] []
  | .trackerUnreserved => mkInfo 0x0D0004 "tracker.unreserved" .u32 .ro 1 4
      false [.full 0 32 0] []
  | .trackerEngineState => mkInfo 0x0D0010 "tracker.engine.state" .record .ro 2 16
      false Obj.trackerEngineStateFields []
  | .trackerWatchThreshold => mkInfo 0x0D0020 "tracker.watch.threshold" .f32 .rw 16 4
      false [.real 0 3212836864 1065353216 1060320051] []
  | .trackerWatchCount => mkInfo 0x0D0021 "tracker.watch.count" .u16 .ro 16 2
      false [.full 0 16 0] []
  | .trackerStreamConfig => mkInfo 0x0D0100 "tracker.stream.config" .record .rw 1024 32
      false Obj.trackerStreamConfigFields [(0, 16)]
  | .trackerStreamCounters => mkInfo 0x0D0101 "tracker.stream.counters" .record .rc 1024 32
      false Obj.trackerStreamCountersFields []
  | .pointsLcMisses => mkInfo 0x0E0001 "points.lc_misses" .u32 .rc 1 4
      false [.full 0 32 0] []
  | .pointsEgressPool => mkInfo 0x0E0002 "points.egress_pool" .u8 .rws 1 1
      false [.uint 0 8 0 31 1 6] []
  | .pointsEnginesPresented => mkInfo 0x0E0003 "points.engines_presented" .u8 .ro 1 1
      false [.full 0 8 1] []
  | .pointsDioRelease => mkInfo 0x0E0004 "points.dio.release" .bits .wo 1 2
      false [.mask 0 16 65535 0] []
  | .pointsRule => mkInfo 0x0E0010 "points.rule" .record .rw 4096 128
      false Obj.pointsRuleFields [(160, 176)]
  | .pointsAction => mkInfo 0x0E0011 "points.action" .record .rw 64 48
      false Obj.pointsActionFields []
  | .pointsEgressRing => mkInfo 0x0E0020 "points.egress.ring" .record .rws 8 32
      false Obj.pointsEgressRingFields []
  | .pointsEgressRingEnable => mkInfo 0x0E0021 "points.egress.ring_enable" .bool .rw 8 1
      false [.flag 0 8 0] []
  | .pointsEgressRingState => mkInfo 0x0E0022 "points.egress.ring_state" .record .ro 8 16
      false Obj.pointsEgressRingStateFields []
  | .pointsEgressUdp => mkInfo 0x0E0030 "points.egress.udp" .record .rw 8 48
      false Obj.pointsEgressUdpFields []
  | .pointsStreamEgress => mkInfo 0x0E0101 "points.stream.egress" .record .rw 1024 4
      false Obj.pointsStreamEgressFields []
  | .pointsCounters => mkInfo 0x0E0102 "points.counters" .record .rc 1 32
      false Obj.pointsCountersFields []
  | .yardLcMisses => mkInfo 0x100001 "yard.lc_misses" .u32 .rc 1 4
      false [.full 0 32 0] []
  | .yardPreemptOverruns => mkInfo 0x100002 "yard.preempt_overruns" .u32 .rc 1 4
      false [.full 0 32 0] []
  | .yardState => mkInfo 0x100003 "yard.state" .u8 .ro 1 1
      false [.full 0 8 0] []
  | .yardContextConfig => mkInfo 0x100010 "yard.context.config" .record .rw 64 16
      false Obj.yardContextConfigFields []
  | .yardContextState => mkInfo 0x100011 "yard.context.state" .record .ro 64 32
      false Obj.yardContextStateFields []
  | .yardContextCounters => mkInfo 0x100012 "yard.context.counters" .record .rc 64 48
      false Obj.yardContextCountersFields []
  | .signalCounterState => mkInfo 0x110001 "signal.counter.state" .record .ro 16384 4
      false Obj.signalCounterStateFields []
  | .signalAlias => mkInfo 0x110002 "signal.alias" .record .rws 1024 8
      false Obj.signalAliasFields []
  | .signalCounters => mkInfo 0x110003 "signal.counters" .record .rc 1 16
      false Obj.signalCountersFields []
  | .vatLayout => mkInfo 0x140001 "vat.layout" .record .rws 1 8
      false Obj.vatLayoutFields []
  | .vatCacheSize => mkInfo 0x140002 "vat.cache_size" .enum8 .rw 1 1
      false [.enum 0 8 [0, 1, 2, 3] 2] []
  | .vatBanksPresented => mkInfo 0x140003 "vat.banks_presented" .u16 .ro 1 2
      false [.full 0 16 1024] []
  | .vatPlanFree => mkInfo 0x140004 "vat.plan_free" .u32 .ro 1 4
      false [.full 0 32 0] []
  | .vatCounters => mkInfo 0x140005 "vat.counters" .record .rc 1 48
      false Obj.vatCountersFields []
  | .sidingsPoolEnable => mkInfo 0x140010 "sidings.pool.enable" .bool .rw 32 1
      false [.flag 0 8 0] []
  | .sidingsPoolConfig => mkInfo 0x140011 "sidings.pool.config" .record .rws 32 96
      false Obj.sidingsPoolConfigFields [(192, 224), (224, 256), (256, 288), (288, 320), (320, 352), (352, 384), (384, 416)]
  | .sidingsPoolState => mkInfo 0x140012 "sidings.pool.state" .record .ro 32 32
      false Obj.sidingsPoolStateFields []
  | .sidingsPoolCounters => mkInfo 0x140013 "sidings.pool.counters" .record .rc 32 16
      false Obj.sidingsPoolCountersFields []
  | .sidingsBuffers => mkInfo 0x140014 "sidings.buffers" .u32 .ro 1 4
      false [.full 0 32 0] []
  | .lpddr6Map => mkInfo 0x150001 "lpddr6.map" .record .rws 1 16
      false Obj.lpddr6MapFields []
  | .lpddr6Remap => mkInfo 0x150002 "lpddr6.remap" .record .ro 64 4
      false Obj.lpddr6RemapFields []
  | .lpddr6Migration => mkInfo 0x150003 "lpddr6.migration" .record .ro 1 16
      false Obj.lpddr6MigrationFields []
  | .lpddr6MigrateShare => mkInfo 0x150004 "lpddr6.migrate_share" .u8 .rw 1 1
      false [.uint 0 8 1 16 1 4] []
  | .lpddr6CeLimit => mkInfo 0x150005 "lpddr6.ce_limit" .u16 .rw 1 2
      false [.full 0 16 1000] []
  | .lpddr6Spares => mkInfo 0x150006 "lpddr6.spares" .u8 .ro 1 1
      false [.full 0 8 4] []
  | .lpddr6RankCounters => mkInfo 0x150007 "lpddr6.rank.counters" .record .rc 64 32
      false Obj.lpddr6RankCountersFields []
  | .lpddr6Log => mkInfo 0x150010 "lpddr6.log" .record .ro 1024 32
      false Obj.lpddr6LogFields []
  | .lpddr6LogHead => mkInfo 0x150011 "lpddr6.log_head" .u32 .ro 1 4
      false [.full 0 32 0] []
  | .lpddr6LogRead => mkInfo 0x150012 "lpddr6.log_read" .u32 .rw 1 4
      false [.full 0 32 0] []
  | .lpddr6LogLost => mkInfo 0x150013 "lpddr6.log_lost" .u32 .rc 1 4
      false [.full 0 32 0] []
  | .powerOpState => mkInfo 0x160001 "power.op.state" .record .ro 1 8
      false Obj.powerOpStateFields []
  | .powerOpMax => mkInfo 0x160002 "power.op.max" .u8 .rw 1 1
      false [.uint 0 8 0 3 1 0] []
  | .powerOpInitial => mkInfo 0x160003 "power.op.initial" .u8 .rw 1 1
      false [.uint 0 8 0 3 1 1] []
  | .powerCapWatts => mkInfo 0x160004 "power.cap.watts" .f32 .rw 1 4
      false [.real 0 1109393408 1132593152 1132593152] []
  | .powerCapLeaseMs => mkInfo 0x160005 "power.cap.lease_ms" .u32 .rw 1 4
      false [.uint 0 32 0 600000 1 0] []
  | .powerCapFallback => mkInfo 0x160006 "power.cap.fallback" .f32 .rw 1 4
      false [.real 0 1109393408 1132593152 1123024896] []
  | .powerCapSequence => mkInfo 0x160007 "power.cap.sequence" .u32 .ro 1 4
      false [.full 0 32 0] []
  | .powerDemand => mkInfo 0x160008 "power.demand" .record .ro 1 16
      false Obj.powerDemandFields []
  | .powerBeHold => mkInfo 0x160009 "power.be_hold" .u8 .rw 1 1
      false [.uint 0 8 16 60 1 48] []
  | .powerLcStandby => mkInfo 0x16000A "power.lc_standby" .bool .rw 1 1
      false [.flag 0 8 1] []
  | .powerIdleOffUs => mkInfo 0x16000B "power.idle_off_us" .u16 .rw 1 2
      false [.uint 0 16 10 10000 1 100] []
  | .powerEstimate => mkInfo 0x160010 "power.estimate" .record .ro 1 32
      false Obj.powerEstimateFields []
  | .powerEstimateGain => mkInfo 0x160011 "power.estimate.gain" .f32 .rw 1 4
      false [.real 0 1056964608 1073741824 1065353216] []
  | .powerEstimateOffset => mkInfo 0x160012 "power.estimate.offset" .f32 .rw 1 4
      false [.real 0 3259498496 1112014848 0] []
  | .powerWeights => mkInfo 0x160013 "power.weights" .u32 .ro 1900 4
      false [.full 0 32 0] []
  | .powerCounters => mkInfo 0x160014 "power.counters" .record .rc 1 48
      false Obj.powerCountersFields []
  | .powerVrmPage => mkInfo 0x160020 "power.vrm.page" .record .rw 8 8
      false Obj.powerVrmPageFields []
  | .powerAvsState => mkInfo 0x160030 "power.avs.state" .record .ro 1 16
      false Obj.powerAvsStateFields []
  | .powerAvsRail => mkInfo 0x160032 "power.avs.rail" .u8 .rw 1 1
      false [.uint 0 8 0 15 1 0] []
  | .thermalSensor => mkInfo 0x170001 "thermal.sensor" .s16 .ro 72 2
      false [.sint 0 16 (-32768) (32767) 0] []
  | .thermalHottest => mkInfo 0x170002 "thermal.hottest" .record .ro 1 8
      false Obj.thermalHottestFields []
  | .thermalWarn => mkInfo 0x170003 "thermal.warn" .s16 .rw 1 2
      false [.sint 0 16 (60) (104) 95] []
  | .thermalCounters => mkInfo 0x170004 "thermal.counters" .record .rc 1 16
      false Obj.thermalCountersFields []
  | .clocksDomainsAwake => mkInfo 0x170010 "clocks.domains.awake" .u16 .ro 1 2
      false [.full 0 16 0] []
  | .couplingDevice => mkInfo 0x180001 "coupling.device" .u8 .rws 1 1
      false [.uint 0 8 0 3 1 0] []
  | .couplingSystem => mkInfo 0x180002 "coupling.system" .record .rws 1 8
      false Obj.couplingSystemFields []
  | .couplingPortEnable => mkInfo 0x180010 "coupling.port.enable" .bool .rw 3 1
      false [.flag 0 8 0] []
  | .couplingPortState => mkInfo 0x180011 "coupling.port.state" .record .ro 3 16
      false Obj.couplingPortStateFields []
  | .couplingPortCounters => mkInfo 0x180012 "coupling.port.counters" .record .rc 3 48
      false Obj.couplingPortCountersFields []
  | .couplingLaneErrorLimit => mkInfo 0x180013 "coupling.lane_error_limit" .u32 .rw 1 4
      false [.uint 0 32 1 4294967295 1 10000] []
  | .couplingPeerWindow => mkInfo 0x180020 "coupling.peer.window" .record .rw 4 16
      false Obj.couplingPeerWindowFields [(0, 64)]
  | .couplingContextPeers => mkInfo 0x180021 "coupling.context.peers" .bits .rw 64 1
      false [.mask 0 8 15 0] []
  | .couplingSystemState => mkInfo 0x180030 "coupling.system.state" .record .ro 1 4
      false Obj.couplingSystemStateFields []
  | .bootState => mkInfo 0x1A0001 "boot.state" .u32 .ro 1 4
      false [.full 0 4 0, .rsv 4 4, .full 8 8 0, .full 16 1 0, .full 17 1 0, .flag 18 1 0, .flag 19 1 0, .flag 20 1 0, .flag 21 1 0, .rsv 22 10] []
  | .bootCount => mkInfo 0x1A0002 "boot.count" .u32 .ro 1 4
      false [.full 0 32 0] []
  | .bootFirmware => mkInfo 0x1A0003 "boot.firmware" .record .ro 1 32
      false Obj.bootFirmwareFields []
  | .bootConfig => mkInfo 0x1A0004 "boot.config" .record .ro 1 16
      false Obj.bootConfigFields []
  | .bootLedger => mkInfo 0x1A0005 "boot.ledger" .record .ro 1 16
      false Obj.bootLedgerFields []
  | .bootSerial => mkInfo 0x1A0006 "boot.serial" .u64 .ro 1 8
      false [.full 0 64 0] []
  | .bootTrialBoots => mkInfo 0x1A0007 "boot.trial_boots" .u8 .rw 1 1
      false [.uint 0 8 1 7 1 3] []
  | .bootIdentityCert => mkInfo 0x1A0010 "boot.identity.cert" .record .ro 1 1088
      false Obj.bootIdentityCertFields []
  | .bootManufacturingCert => mkInfo 0x1A0011 "boot.manufacturing.cert" .record .ro 1 1088
      false Obj.bootManufacturingCertFields []
  | .bootRootHash => mkInfo 0x1A0012 "boot.root_hash" .record .ro 1 64
      false Obj.bootRootHashFields []
  | .bootOwnerKeys => mkInfo 0x1A0013 "boot.owner.keys" .record .ro 4 8
      false Obj.bootOwnerKeysFields []
  | .bootSwitchDiscarded => mkInfo 0x1A0020 "boot.switch.discarded" .u32 .rc 1 4
      false [.full 0 32 0] []
  | .bootFlashCounters => mkInfo 0x1A0021 "boot.flash.counters" .record .rc 1 16
      false Obj.bootFlashCountersFields []
  | .pinsDioConfig => mkInfo 0x1B0001 "pins.dio.config" .record .rw 16 8
      false Obj.pinsDioConfigFields []
  | .pinsDioOut => mkInfo 0x1B0002 "pins.dio.out" .record .wo 1 4
      false Obj.pinsDioOutFields []
  | .pinsDioState => mkInfo 0x1B0004 "pins.dio.state" .record .ro 1 8
      false Obj.pinsDioStateFields []
  | .pinsDioEdges => mkInfo 0x1B0005 "pins.dio.edges" .u32 .rc 16 4
      false [.full 0 32 0] []
  | .pinsDioIgnored => mkInfo 0x1B0006 "pins.dio.ignored" .u32 .rc 1 4
      false [.full 0 32 0] []
  | .pinsCanConfig => mkInfo 0x1B0010 "pins.can.config" .record .rws 1 8
      false Obj.pinsCanConfigFields []
  | .pinsCanEnable => mkInfo 0x1B0011 "pins.can.enable" .bool .rw 1 1
      false [.flag 0 8 0] []
  | .pinsCanState => mkInfo 0x1B0012 "pins.can.state" .record .ro 1 8
      false Obj.pinsCanStateFields []
  | .pinsPmbusConfig => mkInfo 0x1B0020 "pins.pmbus.config" .record .rw 1 4
      false Obj.pinsPmbusConfigFields []
  | .pinsPmbusStatus => mkInfo 0x1B0021 "pins.pmbus.status" .record .ro 8 4
      false Obj.pinsPmbusStatusFields []
  | .pinsStraps => mkInfo 0x1B0030 "pins.straps" .u8 .ro 1 1
      false [.full 0 8 0] []

/-- The object a number names, if any (R28). -/
def Obj.ofNumber (n : Nat) : Option Obj := Obj.all.find? fun o => o.info.number == n

/-- The area byte of an object's number (R27). -/
def Obj.area (o : Obj) : Nat := o.info.number / 0x10000

/-- The field of an object at a bit offset. -/
def Obj.fieldAt (o : Obj) (off : Nat) : Option Field := o.info.fields.find? fun f => f.off == off

/-- The default bits of the field at a bit offset. -/
def Obj.dfltAt (o : Obj) (off : Nat) : Nat := ((o.fieldAt off).map Field.dflt).getD 0

end Sys2Proof.Machine
end

