-- ==== Sys2Proof/Machine/Registers.lean ====
section
/-! DEFINITION. A name for every field of every object, as the field maps of the chapters give them:
the object and the field's bit offset. A field map that repeats a row for k = 0, 1, … has one name taking k. -/

namespace Sys2Proof.Machine

/-- One field of an object: the object and the field's bit offset in an element. -/
structure Reg where
  obj : Obj
  off : Nat
  deriving DecidableEq, Repr

abbrev Reg.identityPart : Reg := ⟨.identityPart, 0⟩
abbrev Reg.identityRevision : Reg := ⟨.identityRevision, 0⟩
abbrev Reg.dictionaryVersion : Reg := ⟨.dictionaryVersion, 0⟩
abbrev Reg.dictionaryObjectCount : Reg := ⟨.dictionaryObjectCount, 0⟩
abbrev Reg.dictionaryStatus : Reg := ⟨.dictionaryStatus, 0⟩
abbrev Reg.dictionaryAttentionAck_mask : Reg := ⟨.dictionaryAttentionAck, 0⟩
abbrev Reg.dictionaryAttentionAck_sequence : Reg := ⟨.dictionaryAttentionAck, 32⟩
abbrev Reg.dictionaryAttentionCause_sequence : Reg := ⟨.dictionaryAttentionCause, 0⟩
abbrev Reg.dictionaryAttentionCause_status : Reg := ⟨.dictionaryAttentionCause, 32⟩
abbrev Reg.dictionaryAttentionCause_bit : Reg := ⟨.dictionaryAttentionCause, 64⟩
abbrev Reg.dictionaryAttentionCause_kind : Reg := ⟨.dictionaryAttentionCause, 72⟩
abbrev Reg.dictionaryAttentionCause_context : Reg := ⟨.dictionaryAttentionCause, 80⟩
abbrev Reg.dictionaryAttentionCause_stream : Reg := ⟨.dictionaryAttentionCause, 96⟩
abbrev Reg.dictionaryAttentionCause_detail : Reg := ⟨.dictionaryAttentionCause, 112⟩
abbrev Reg.dictionaryAttentionLog_sequence : Reg := ⟨.dictionaryAttentionLog, 0⟩
abbrev Reg.dictionaryAttentionLog_status : Reg := ⟨.dictionaryAttentionLog, 32⟩
abbrev Reg.dictionaryAttentionLog_bit : Reg := ⟨.dictionaryAttentionLog, 64⟩
abbrev Reg.dictionaryAttentionLog_kind : Reg := ⟨.dictionaryAttentionLog, 72⟩
abbrev Reg.dictionaryAttentionLog_context : Reg := ⟨.dictionaryAttentionLog, 80⟩
abbrev Reg.dictionaryAttentionLog_stream : Reg := ⟨.dictionaryAttentionLog, 96⟩
abbrev Reg.dictionaryAttentionLog_detail : Reg := ⟨.dictionaryAttentionLog, 112⟩
abbrev Reg.dictionaryAttentionLogHead : Reg := ⟨.dictionaryAttentionLogHead, 0⟩
abbrev Reg.dictionaryAttentionLogRead : Reg := ⟨.dictionaryAttentionLogRead, 0⟩
abbrev Reg.dictionaryClampMailbox_element : Reg := ⟨.dictionaryClampMailbox, 0⟩
abbrev Reg.dictionaryClampMailbox_bitOffset : Reg := ⟨.dictionaryClampMailbox, 16⟩
abbrev Reg.dictionaryClampMailbox_width : Reg := ⟨.dictionaryClampMailbox, 32⟩
abbrev Reg.dictionaryClampMailbox_requested : Reg := ⟨.dictionaryClampMailbox, 64⟩
abbrev Reg.dictionaryClampMailbox_stored : Reg := ⟨.dictionaryClampMailbox, 128⟩
abbrev Reg.dictionaryClampUdp_element : Reg := ⟨.dictionaryClampUdp, 0⟩
abbrev Reg.dictionaryClampUdp_bitOffset : Reg := ⟨.dictionaryClampUdp, 16⟩
abbrev Reg.dictionaryClampUdp_width : Reg := ⟨.dictionaryClampUdp, 32⟩
abbrev Reg.dictionaryClampUdp_requested : Reg := ⟨.dictionaryClampUdp, 64⟩
abbrev Reg.dictionaryClampUdp_stored : Reg := ⟨.dictionaryClampUdp, 128⟩
abbrev Reg.dictionaryClampCan_element : Reg := ⟨.dictionaryClampCan, 0⟩
abbrev Reg.dictionaryClampCan_bitOffset : Reg := ⟨.dictionaryClampCan, 16⟩
abbrev Reg.dictionaryClampCan_width : Reg := ⟨.dictionaryClampCan, 32⟩
abbrev Reg.dictionaryClampCan_requested : Reg := ⟨.dictionaryClampCan, 64⟩
abbrev Reg.dictionaryClampCan_stored : Reg := ⟨.dictionaryClampCan, 128⟩
abbrev Reg.dictionaryUdpEnable : Reg := ⟨.dictionaryUdpEnable, 0⟩
abbrev Reg.dictionaryUdpPort : Reg := ⟨.dictionaryUdpPort, 0⟩
abbrev Reg.dictionaryUdpWriteAreas : Reg := ⟨.dictionaryUdpWriteAreas, 0⟩
abbrev Reg.dictionaryUdpSources_family : Reg := ⟨.dictionaryUdpSources, 0⟩
abbrev Reg.dictionaryUdpSources_prefix : Reg := ⟨.dictionaryUdpSources, 8⟩
abbrev Reg.dictionaryUdpSources_address : Reg := ⟨.dictionaryUdpSources, 32⟩
abbrev Reg.dictionaryUdpDropped : Reg := ⟨.dictionaryUdpDropped, 0⟩
abbrev Reg.dictionaryCanEnable : Reg := ⟨.dictionaryCanEnable, 0⟩
abbrev Reg.dictionaryCanNode : Reg := ⟨.dictionaryCanNode, 0⟩
abbrev Reg.dictionaryCanIdBase : Reg := ⟨.dictionaryCanIdBase, 0⟩
abbrev Reg.dictionaryCanWriteAreas : Reg := ⟨.dictionaryCanWriteAreas, 0⟩
abbrev Reg.hostLinkState_rate : Reg := ⟨.hostLinkState, 0⟩
abbrev Reg.hostLinkState_width : Reg := ⟨.hostLinkState, 8⟩
abbrev Reg.hostLinkState_flit : Reg := ⟨.hostLinkState, 16⟩
abbrev Reg.hostLinkState_busMaster : Reg := ⟨.hostLinkState, 17⟩
abbrev Reg.hostLinkDowns : Reg := ⟨.hostLinkDowns, 0⟩
abbrev Reg.hostQueueEnable : Reg := ⟨.hostQueueEnable, 0⟩
abbrev Reg.hostQueueConfig_sqPage : Reg := ⟨.hostQueueConfig, 0⟩
abbrev Reg.hostQueueConfig_cqPage : Reg := ⟨.hostQueueConfig, 64⟩
abbrev Reg.hostQueueConfig_sqLog2 : Reg := ⟨.hostQueueConfig, 128⟩
abbrev Reg.hostQueueConfig_cqLog2 : Reg := ⟨.hostQueueConfig, 136⟩
abbrev Reg.hostQueueConfig_cqThreshold : Reg := ⟨.hostQueueConfig, 144⟩
abbrev Reg.hostQueueConfig_irq : Reg := ⟨.hostQueueConfig, 152⟩
abbrev Reg.hostQueueConfig_cqDelay : Reg := ⟨.hostQueueConfig, 160⟩
abbrev Reg.hostQueueResetReport_first : Reg := ⟨.hostQueueResetReport, 0⟩
abbrev Reg.hostQueueResetReport_count : Reg := ⟨.hostQueueResetReport, 16⟩
abbrev Reg.hostQueueResetReport_status : Reg := ⟨.hostQueueResetReport, 32⟩
abbrev Reg.hostQueueResetReport_kind : Reg := ⟨.hostQueueResetReport, 64⟩
abbrev Reg.hostQueueResetReport_sequence : Reg := ⟨.hostQueueResetReport, 96⟩
abbrev Reg.hostBar2WriteEnable : Reg := ⟨.hostBar2WriteEnable, 0⟩
abbrev Reg.hostBar2Discarded : Reg := ⟨.hostBar2Discarded, 0⟩
abbrev Reg.hostEgressHeldDropped : Reg := ⟨.hostEgressHeldDropped, 0⟩
abbrev Reg.hostBar0BadAccess : Reg := ⟨.hostBar0BadAccess, 0⟩
abbrev Reg.junctionAuPool : Reg := ⟨.junctionAuPool, 0⟩
abbrev Reg.junctionRingPool : Reg := ⟨.junctionRingPool, 0⟩
abbrev Reg.junctionPortEnable : Reg := ⟨.junctionPortEnable, 0⟩
abbrev Reg.junctionPortConfig_mac : Reg := ⟨.junctionPortConfig, 0⟩
abbrev Reg.junctionPortConfig_speed : Reg := ⟨.junctionPortConfig, 48⟩
abbrev Reg.junctionPortConfig_fec : Reg := ⟨.junctionPortConfig, 56⟩
abbrev Reg.junctionPortConfig_vlan : Reg := ⟨.junctionPortConfig, 64⟩
abbrev Reg.junctionPortConfig_mtu : Reg := ⟨.junctionPortConfig, 80⟩
abbrev Reg.junctionPortConfig_ipv4Address : Reg := ⟨.junctionPortConfig, 96⟩
abbrev Reg.junctionPortConfig_ipv4Prefix : Reg := ⟨.junctionPortConfig, 128⟩
abbrev Reg.junctionPortConfig_ipv4Gateway : Reg := ⟨.junctionPortConfig, 160⟩
abbrev Reg.junctionPortConfig_ipv6Address : Reg := ⟨.junctionPortConfig, 192⟩
abbrev Reg.junctionPortConfig_ipv6Prefix : Reg := ⟨.junctionPortConfig, 320⟩
abbrev Reg.junctionPortConfig_ipv6Gateway : Reg := ⟨.junctionPortConfig, 336⟩
abbrev Reg.junctionPortState_linkUp : Reg := ⟨.junctionPortState, 0⟩
abbrev Reg.junctionPortState_speed : Reg := ⟨.junctionPortState, 1⟩
abbrev Reg.junctionPortState_fec : Reg := ⟨.junctionPortState, 3⟩
abbrev Reg.junctionPortState_linkChanges : Reg := ⟨.junctionPortState, 32⟩
abbrev Reg.junctionPortCounters_received : Reg := ⟨.junctionPortCounters, 0⟩
abbrev Reg.junctionPortCounters_droppedAtRate : Reg := ⟨.junctionPortCounters, 64⟩
abbrev Reg.junctionPortCounters_badFcs : Reg := ⟨.junctionPortCounters, 128⟩
abbrev Reg.junctionPortCounters_notAddressed : Reg := ⟨.junctionPortCounters, 192⟩
abbrev Reg.junctionPortCounters_fragments : Reg := ⟨.junctionPortCounters, 256⟩
abbrev Reg.junctionPortCounters_checksumErrors : Reg := ⟨.junctionPortCounters, 320⟩
abbrev Reg.junctionPortCounters_unbound : Reg := ⟨.junctionPortCounters, 384⟩
abbrev Reg.junctionPortCounters_sent : Reg := ⟨.junctionPortCounters, 448⟩
abbrev Reg.junctionStreamEnable : Reg := ⟨.junctionStreamEnable, 0⟩
abbrev Reg.junctionStreamConfig_source : Reg := ⟨.junctionStreamConfig, 0⟩
abbrev Reg.junctionStreamConfig_codec : Reg := ⟨.junctionStreamConfig, 4⟩
abbrev Reg.junctionStreamConfig_port : Reg := ⟨.junctionStreamConfig, 8⟩
abbrev Reg.junctionStreamConfig_payloadType : Reg := ⟨.junctionStreamConfig, 16⟩
abbrev Reg.junctionStreamConfig_ptAny : Reg := ⟨.junctionStreamConfig, 23⟩
abbrev Reg.junctionStreamConfig_udpPort : Reg := ⟨.junctionStreamConfig, 32⟩
abbrev Reg.junctionStreamConfig_srcUdpPort : Reg := ⟨.junctionStreamConfig, 48⟩
abbrev Reg.junctionStreamConfig_ssrc : Reg := ⟨.junctionStreamConfig, 64⟩
abbrev Reg.junctionStreamConfig_ssrcFixed : Reg := ⟨.junctionStreamConfig, 96⟩
abbrev Reg.junctionStreamConfig_multicast : Reg := ⟨.junctionStreamConfig, 97⟩
abbrev Reg.junctionStreamConfig_address : Reg := ⟨.junctionStreamConfig, 128⟩
abbrev Reg.junctionStreamConfig_pid : Reg := ⟨.junctionStreamConfig, 256⟩
abbrev Reg.junctionStreamConfig_trackId : Reg := ⟨.junctionStreamConfig, 288⟩
abbrev Reg.junctionStreamConfig_maxWidth : Reg := ⟨.junctionStreamConfig, 320⟩
abbrev Reg.junctionStreamConfig_maxHeight : Reg := ⟨.junctionStreamConfig, 336⟩
abbrev Reg.junctionStreamConfig_maxFps : Reg := ⟨.junctionStreamConfig, 352⟩
abbrev Reg.junctionStreamConfig_maxAuKib : Reg := ⟨.junctionStreamConfig, 368⟩
abbrev Reg.junctionStreamConfig_windowPackets : Reg := ⟨.junctionStreamConfig, 384⟩
abbrev Reg.junctionStreamConfig_gapTicks : Reg := ⟨.junctionStreamConfig, 400⟩
abbrev Reg.junctionStreamConfig_auReserve : Reg := ⟨.junctionStreamConfig, 416⟩
abbrev Reg.junctionStreamConfig_ringSeconds : Reg := ⟨.junctionStreamConfig, 424⟩
abbrev Reg.junctionStreamConfig_ringMib : Reg := ⟨.junctionStreamConfig, 432⟩
abbrev Reg.junctionStreamState_state : Reg := ⟨.junctionStreamState, 0⟩
abbrev Reg.junctionStreamState_ssrc : Reg := ⟨.junctionStreamState, 32⟩
abbrev Reg.junctionStreamState_timestamp : Reg := ⟨.junctionStreamState, 64⟩
abbrev Reg.junctionStreamState_wraps : Reg := ⟨.junctionStreamState, 96⟩
abbrev Reg.junctionStreamState_unitsHeld : Reg := ⟨.junctionStreamState, 112⟩
abbrev Reg.junctionStreamCounters_packets : Reg := ⟨.junctionStreamCounters, 0⟩
abbrev Reg.junctionStreamCounters_lost : Reg := ⟨.junctionStreamCounters, 32⟩
abbrev Reg.junctionStreamCounters_duplicate : Reg := ⟨.junctionStreamCounters, 64⟩
abbrev Reg.junctionStreamCounters_late : Reg := ⟨.junctionStreamCounters, 96⟩
abbrev Reg.junctionStreamCounters_resyncs : Reg := ⟨.junctionStreamCounters, 128⟩
abbrev Reg.junctionStreamCounters_wrongSsrc : Reg := ⟨.junctionStreamCounters, 160⟩
abbrev Reg.junctionStreamCounters_units : Reg := ⟨.junctionStreamCounters, 192⟩
abbrev Reg.junctionStreamCounters_damaged : Reg := ⟨.junctionStreamCounters, 224⟩
abbrev Reg.junctionStreamCounters_truncated : Reg := ⟨.junctionStreamCounters, 256⟩
abbrev Reg.junctionStreamCounters_discarded : Reg := ⟨.junctionStreamCounters, 288⟩
abbrev Reg.junctionStreamCounters_ringGopsDropped : Reg := ⟨.junctionStreamCounters, 320⟩
abbrev Reg.junctionStreamCounters_notRtp : Reg := ⟨.junctionStreamCounters, 352⟩
abbrev Reg.decodeFramePool : Reg := ⟨.decodeFramePool, 0⟩
abbrev Reg.decodeLcEngines : Reg := ⟨.decodeLcEngines, 0⟩
abbrev Reg.decodeEnginesPresented : Reg := ⟨.decodeEnginesPresented, 0⟩
abbrev Reg.decodeLcMisses : Reg := ⟨.decodeLcMisses, 0⟩
abbrev Reg.decodeEngineState_latency : Reg := ⟨.decodeEngineState, 0⟩
abbrev Reg.decodeEngineState_busy : Reg := ⟨.decodeEngineState, 1⟩
abbrev Reg.decodeEngineState_retired : Reg := ⟨.decodeEngineState, 2⟩
abbrev Reg.decodeEngineState_resets : Reg := ⟨.decodeEngineState, 8⟩
abbrev Reg.decodeEngineState_stream : Reg := ⟨.decodeEngineState, 16⟩
abbrev Reg.decodeEngineState_finished : Reg := ⟨.decodeEngineState, 32⟩
abbrev Reg.decodeStreamConfig_latencyCritical : Reg := ⟨.decodeStreamConfig, 0⟩
abbrev Reg.decodeStreamConfig_tenBit : Reg := ⟨.decodeStreamConfig, 1⟩
abbrev Reg.decodeStreamConfig_dpbMax : Reg := ⟨.decodeStreamConfig, 8⟩
abbrev Reg.decodeStreamConfig_releaseConcealed : Reg := ⟨.decodeStreamConfig, 16⟩
abbrev Reg.decodeStreamState_state : Reg := ⟨.decodeStreamState, 0⟩
abbrev Reg.decodeStreamState_tainted : Reg := ⟨.decodeStreamState, 4⟩
abbrev Reg.decodeStreamState_width : Reg := ⟨.decodeStreamState, 8⟩
abbrev Reg.decodeStreamState_height : Reg := ⟨.decodeStreamState, 24⟩
abbrev Reg.decodeStreamState_bitDepth : Reg := ⟨.decodeStreamState, 40⟩
abbrev Reg.decodeStreamState_refsUsed : Reg := ⟨.decodeStreamState, 64⟩
abbrev Reg.decodeStreamState_held : Reg := ⟨.decodeStreamState, 72⟩
abbrev Reg.decodeStreamCounters_finished : Reg := ⟨.decodeStreamCounters, 0⟩
abbrev Reg.decodeStreamCounters_released : Reg := ⟨.decodeStreamCounters, 32⟩
abbrev Reg.decodeStreamCounters_concealed : Reg := ⟨.decodeStreamCounters, 64⟩
abbrev Reg.decodeStreamCounters_greyReferenced : Reg := ⟨.decodeStreamCounters, 96⟩
abbrev Reg.decodeStreamCounters_rejectedDimension : Reg := ⟨.decodeStreamCounters, 128⟩
abbrev Reg.decodeStreamCounters_rejectedUnsupported : Reg := ⟨.decodeStreamCounters, 160⟩
abbrev Reg.decodeStreamCounters_aborted : Reg := ⟨.decodeStreamCounters, 192⟩
abbrev Reg.decodeStreamCounters_reset : Reg := ⟨.decodeStreamCounters, 224⟩
abbrev Reg.decodeStreamCounters_nalsDiscarded : Reg := ⟨.decodeStreamCounters, 256⟩
abbrev Reg.decodeStreamCounters_noBuffers : Reg := ⟨.decodeStreamCounters, 288⟩
abbrev Reg.encodeClipPool : Reg := ⟨.encodeClipPool, 0⟩
abbrev Reg.encodeClipBacklog : Reg := ⟨.encodeClipBacklog, 0⟩
abbrev Reg.encodeEnginesPresented : Reg := ⟨.encodeEnginesPresented, 0⟩
abbrev Reg.encodeEngineState_busy : Reg := ⟨.encodeEngineState, 1⟩
abbrev Reg.encodeEngineState_retired : Reg := ⟨.encodeEngineState, 2⟩
abbrev Reg.encodeEngineState_resets : Reg := ⟨.encodeEngineState, 8⟩
abbrev Reg.encodeEngineState_clip : Reg := ⟨.encodeEngineState, 16⟩
abbrev Reg.encodeEngineState_encoded : Reg := ⟨.encodeEngineState, 32⟩
abbrev Reg.encodeProfile_mode : Reg := ⟨.encodeProfile, 0⟩
abbrev Reg.encodeProfile_qp : Reg := ⟨.encodeProfile, 8⟩
abbrev Reg.encodeProfile_targetKbps : Reg := ⟨.encodeProfile, 16⟩
abbrev Reg.encodeProfile_maxKbps : Reg := ⟨.encodeProfile, 32⟩
abbrev Reg.encodeProfile_bufferMs : Reg := ⟨.encodeProfile, 48⟩
abbrev Reg.encodeProfile_gopLength : Reg := ⟨.encodeProfile, 64⟩
abbrev Reg.encodeProfile_refreshPeriod : Reg := ⟨.encodeProfile, 80⟩
abbrev Reg.encodeProfile_qpMin : Reg := ⟨.encodeProfile, 88⟩
abbrev Reg.encodeProfile_qpMax : Reg := ⟨.encodeProfile, 96⟩
abbrev Reg.encodeRtpTarget_port : Reg := ⟨.encodeRtpTarget, 0⟩
abbrev Reg.encodeRtpTarget_payloadType : Reg := ⟨.encodeRtpTarget, 8⟩
abbrev Reg.encodeRtpTarget_dstUdpPort : Reg := ⟨.encodeRtpTarget, 16⟩
abbrev Reg.encodeRtpTarget_srcUdpPort : Reg := ⟨.encodeRtpTarget, 32⟩
abbrev Reg.encodeRtpTarget_ssrcBase : Reg := ⟨.encodeRtpTarget, 64⟩
abbrev Reg.encodeRtpTarget_address : Reg := ⟨.encodeRtpTarget, 128⟩
abbrev Reg.encodeClipState_state : Reg := ⟨.encodeClipState, 0⟩
abbrev Reg.encodeClipState_shortPre : Reg := ⟨.encodeClipState, 4⟩
abbrev Reg.encodeClipState_gap : Reg := ⟨.encodeClipState, 5⟩
abbrev Reg.encodeClipState_concealed : Reg := ⟨.encodeClipState, 6⟩
abbrev Reg.encodeClipState_streamEnded : Reg := ⟨.encodeClipState, 7⟩
abbrev Reg.encodeClipState_stream : Reg := ⟨.encodeClipState, 16⟩
abbrev Reg.encodeClipState_encoded : Reg := ⟨.encodeClipState, 32⟩
abbrev Reg.encodeClipState_bytes : Reg := ⟨.encodeClipState, 64⟩
abbrev Reg.encodeClipState_dropped : Reg := ⟨.encodeClipState, 96⟩
abbrev Reg.encodeClipState_firstTs : Reg := ⟨.encodeClipState, 128⟩
abbrev Reg.encodeClipState_lastTs : Reg := ⟨.encodeClipState, 192⟩
abbrev Reg.encodeClipOverflows : Reg := ⟨.encodeClipOverflows, 0⟩
abbrev Reg.encodeStreamMask_x0 (k : Nat) : Reg := ⟨.encodeStreamMask, 0 + 64 * k⟩
abbrev Reg.encodeStreamMask_y0 (k : Nat) : Reg := ⟨.encodeStreamMask, 16 + 64 * k⟩
abbrev Reg.encodeStreamMask_x1 (k : Nat) : Reg := ⟨.encodeStreamMask, 32 + 64 * k⟩
abbrev Reg.encodeStreamMask_y1 (k : Nat) : Reg := ⟨.encodeStreamMask, 48 + 64 * k⟩
abbrev Reg.encodeStreamMask_pixelate : Reg := ⟨.encodeStreamMask, 512⟩
abbrev Reg.encodeStreamMask_fillY : Reg := ⟨.encodeStreamMask, 520⟩
abbrev Reg.encodeStreamMask_fillCb : Reg := ⟨.encodeStreamMask, 528⟩
abbrev Reg.encodeStreamMask_fillCr : Reg := ⟨.encodeStreamMask, 536⟩
abbrev Reg.calenderVatPool : Reg := ⟨.calenderVatPool, 0⟩
abbrev Reg.calenderHistoryPool : Reg := ⟨.calenderHistoryPool, 0⟩
abbrev Reg.calenderLcReserved : Reg := ⟨.calenderLcReserved, 0⟩
abbrev Reg.calenderLcMisses : Reg := ⟨.calenderLcMisses, 0⟩
abbrev Reg.calenderEnginesPresented : Reg := ⟨.calenderEnginesPresented, 0⟩
abbrev Reg.deckleEnginesPresented : Reg := ⟨.deckleEnginesPresented, 0⟩
abbrev Reg.calenderEngineState_latency : Reg := ⟨.calenderEngineState, 0⟩
abbrev Reg.calenderEngineState_busy : Reg := ⟨.calenderEngineState, 1⟩
abbrev Reg.calenderEngineState_retired : Reg := ⟨.calenderEngineState, 2⟩
abbrev Reg.calenderEngineState_resets : Reg := ⟨.calenderEngineState, 8⟩
abbrev Reg.calenderEngineState_stream : Reg := ⟨.calenderEngineState, 16⟩
abbrev Reg.calenderEngineState_handedOn : Reg := ⟨.calenderEngineState, 32⟩
abbrev Reg.deckleEngineState_busy : Reg := ⟨.deckleEngineState, 1⟩
abbrev Reg.deckleEngineState_retired : Reg := ⟨.deckleEngineState, 2⟩
abbrev Reg.deckleEngineState_resets : Reg := ⟨.deckleEngineState, 8⟩
abbrev Reg.deckleEngineState_context : Reg := ⟨.deckleEngineState, 16⟩
abbrev Reg.deckleEngineState_cut : Reg := ⟨.deckleEngineState, 32⟩
abbrev Reg.calenderStreamConfig_produce : Reg := ⟨.calenderStreamConfig, 0⟩
abbrev Reg.calenderStreamConfig_levels : Reg := ⟨.calenderStreamConfig, 1⟩
abbrev Reg.calenderStreamConfig_colour : Reg := ⟨.calenderStreamConfig, 8⟩
abbrev Reg.calenderStreamConfig_matrix : Reg := ⟨.calenderStreamConfig, 12⟩
abbrev Reg.calenderStreamConfig_fullRange : Reg := ⟨.calenderStreamConfig, 14⟩
abbrev Reg.calenderStreamConfig_outReserve : Reg := ⟨.calenderStreamConfig, 16⟩
abbrev Reg.calenderStreamConfig_scale (k : Nat) : Reg := ⟨.calenderStreamConfig, 32 + 16 * k⟩
abbrev Reg.calenderStreamConfig_mean (k : Nat) : Reg := ⟨.calenderStreamConfig, 160 + 32 * k⟩
abbrev Reg.calenderStreamConfig_norm (k : Nat) : Reg := ⟨.calenderStreamConfig, 256 + 32 * k⟩
abbrev Reg.calenderStreamConfig_diffMap : Reg := ⟨.calenderStreamConfig, 352⟩
abbrev Reg.calenderStreamCounters_handedOn : Reg := ⟨.calenderStreamCounters, 0⟩
abbrev Reg.calenderStreamCounters_noHistory : Reg := ⟨.calenderStreamCounters, 32⟩
abbrev Reg.calenderStreamCounters_bufferWaits : Reg := ⟨.calenderStreamCounters, 64⟩
abbrev Reg.pressCoresPresented : Reg := ⟨.pressCoresPresented, 0⟩
abbrev Reg.pressCoresByClass_c256 : Reg := ⟨.pressCoresByClass, 0⟩
abbrev Reg.pressCoresByClass_c252 : Reg := ⟨.pressCoresByClass, 8⟩
abbrev Reg.pressCoresByClass_c248 : Reg := ⟨.pressCoresByClass, 16⟩
abbrev Reg.pressCoreState_busy : Reg := ⟨.pressCoreState, 0⟩
abbrev Reg.pressCoreState_retired : Reg := ⟨.pressCoreState, 1⟩
abbrev Reg.pressCoreState_resets : Reg := ⟨.pressCoreState, 8⟩
abbrev Reg.pressCoreState_context : Reg := ⟨.pressCoreState, 16⟩
abbrev Reg.pressCoreState_width : Reg := ⟨.pressCoreState, 32⟩
abbrev Reg.pressCoreState_class : Reg := ⟨.pressCoreState, 41⟩
abbrev Reg.pressCoreState_halves : Reg := ⟨.pressCoreState, 43⟩
abbrev Reg.pressCoreState_lanes : Reg := ⟨.pressCoreState, 48⟩
abbrev Reg.pressCoreState_completed : Reg := ⟨.pressCoreState, 64⟩
abbrev Reg.pressArrayState_width : Reg := ⟨.pressArrayState, 0⟩
abbrev Reg.pressArrayState_class : Reg := ⟨.pressArrayState, 9⟩
abbrev Reg.pressArrayState_halves : Reg := ⟨.pressArrayState, 11⟩
abbrev Reg.pressArrayState_out0 : Reg := ⟨.pressArrayState, 16⟩
abbrev Reg.pressArrayState_out1 : Reg := ⟨.pressArrayState, 24⟩
abbrev Reg.pressArrayState_suspect : Reg := ⟨.pressArrayState, 32⟩
abbrev Reg.pressArrayState_passes : Reg := ⟨.pressArrayState, 64⟩
abbrev Reg.pressArrayColumnMap_map : Reg := ⟨.pressArrayColumnMap, 0⟩
abbrev Reg.pressCounters_entry : Reg := ⟨.pressCounters, 0⟩
abbrev Reg.pressCounters_loadWait : Reg := ⟨.pressCounters, 64⟩
abbrev Reg.pressCounters_modeWait : Reg := ⟨.pressCounters, 128⟩
abbrev Reg.pressCounters_drainHold : Reg := ⟨.pressCounters, 192⟩
abbrev Reg.pressCounters_idle : Reg := ⟨.pressCounters, 256⟩
abbrev Reg.numericsBiasSatMin : Reg := ⟨.numericsBiasSatMin, 0⟩
abbrev Reg.numericsBiasUnderShift : Reg := ⟨.numericsBiasUnderShift, 0⟩
abbrev Reg.numericsBiasDownFrames : Reg := ⟨.numericsBiasDownFrames, 0⟩
abbrev Reg.numericsBiasChanges : Reg := ⟨.numericsBiasChanges, 0⟩
abbrev Reg.numericsBiasPinned : Reg := ⟨.numericsBiasPinned, 0⟩
abbrev Reg.numericsCounters_saturated : Reg := ⟨.numericsCounters, 0⟩
abbrev Reg.numericsCounters_underflowed : Reg := ⟨.numericsCounters, 64⟩
abbrev Reg.numericsCounters_nan : Reg := ⟨.numericsCounters, 128⟩
abbrev Reg.numericsCounters_stochastic : Reg := ⟨.numericsCounters, 192⟩
abbrev Reg.numericsBiasLog_sequence : Reg := ⟨.numericsBiasLog, 0⟩
abbrev Reg.numericsBiasLog_context : Reg := ⟨.numericsBiasLog, 32⟩
abbrev Reg.numericsBiasLog_stream : Reg := ⟨.numericsBiasLog, 48⟩
abbrev Reg.numericsBiasLog_tensor : Reg := ⟨.numericsBiasLog, 64⟩
abbrev Reg.numericsBiasLog_channel : Reg := ⟨.numericsBiasLog, 80⟩
abbrev Reg.numericsBiasLog_old : Reg := ⟨.numericsBiasLog, 96⟩
abbrev Reg.numericsBiasLog_new : Reg := ⟨.numericsBiasLog, 104⟩
abbrev Reg.numericsBiasLog_cause : Reg := ⟨.numericsBiasLog, 112⟩
abbrev Reg.numericsBiasLog_unit : Reg := ⟨.numericsBiasLog, 128⟩
abbrev Reg.numericsBiasLog_saturated : Reg := ⟨.numericsBiasLog, 160⟩
abbrev Reg.numericsBiasLog_underflowed : Reg := ⟨.numericsBiasLog, 176⟩
abbrev Reg.numericsBiasLogHead : Reg := ⟨.numericsBiasLogHead, 0⟩
abbrev Reg.numericsBiasLogRead : Reg := ⟨.numericsBiasLogRead, 0⟩
abbrev Reg.numericsBiasLogLost : Reg := ⟨.numericsBiasLogLost, 0⟩
abbrev Reg.randomSelftest : Reg := ⟨.randomSelftest, 0⟩
abbrev Reg.randomDraws : Reg := ⟨.randomDraws, 0⟩
abbrev Reg.plansHeap_start : Reg := ⟨.plansHeap, 0⟩
abbrev Reg.plansHeap_end : Reg := ⟨.plansHeap, 64⟩
abbrev Reg.plansHeapFree : Reg := ⟨.plansHeapFree, 0⟩
abbrev Reg.plansContextState_state : Reg := ⟨.plansContextState, 0⟩
abbrev Reg.plansContextState_latencyCritical : Reg := ⟨.plansContextState, 3⟩
abbrev Reg.plansContextState_reduced : Reg := ⟨.plansContextState, 4⟩
abbrev Reg.plansContextState_underProvisioned : Reg := ⟨.plansContextState, 5⟩
abbrev Reg.plansContextState_wclass : Reg := ⟨.plansContextState, 6⟩
abbrev Reg.plansContextState_variant : Reg := ⟨.plansContextState, 8⟩
abbrev Reg.plansContextState_streams : Reg := ⟨.plansContextState, 16⟩
abbrev Reg.plansContextState_steps : Reg := ⟨.plansContextState, 32⟩
abbrev Reg.plansContextState_gatherOob : Reg := ⟨.plansContextState, 64⟩
abbrev Reg.plansContextState_shapeClamps : Reg := ⟨.plansContextState, 96⟩
abbrev Reg.plansContextState_heap : Reg := ⟨.plansContextState, 128⟩
abbrev Reg.plansContextState_planId : Reg := ⟨.plansContextState, 192⟩
abbrev Reg.plansContextCores_mask : Reg := ⟨.plansContextCores, 0⟩
abbrev Reg.plansContextCores_cell (k : Nat) : Reg := ⟨.plansContextCores, 32 + 8 * k⟩
abbrev Reg.plansContextRefusal_entries : Reg := ⟨.plansContextRefusal, 0⟩
abbrev Reg.plansContextRefusal_variant (k : Nat) : Reg := ⟨.plansContextRefusal, 64 + 192 * k⟩
abbrev Reg.plansContextRefusal_row (k : Nat) : Reg := ⟨.plansContextRefusal, 72 + 192 * k⟩
abbrev Reg.plansContextRefusal_code (k : Nat) : Reg := ⟨.plansContextRefusal, 80 + 192 * k⟩
abbrev Reg.plansContextRefusal_demand (k : Nat) : Reg := ⟨.plansContextRefusal, 128 + 192 * k⟩
abbrev Reg.plansContextRefusal_supply (k : Nat) : Reg := ⟨.plansContextRefusal, 192 + 192 * k⟩
abbrev Reg.plansContextBound_dim (k : Nat) : Reg := ⟨.plansContextBound, 0 + 32 * k⟩
abbrev Reg.plansContextShapeClamp_dimension : Reg := ⟨.plansContextShapeClamp, 0⟩
abbrev Reg.plansContextShapeClamp_requested : Reg := ⟨.plansContextShapeClamp, 32⟩
abbrev Reg.plansContextShapeClamp_used : Reg := ⟨.plansContextShapeClamp, 64⟩
abbrev Reg.plansContextShapeClamp_step : Reg := ⟨.plansContextShapeClamp, 96⟩
abbrev Reg.plansStreamContexts_context (k : Nat) : Reg := ⟨.plansStreamContexts, 0 + 8 * k⟩
abbrev Reg.recomputeLedgerLost : Reg := ⟨.recomputeLedgerLost, 0⟩
abbrev Reg.recomputeStreamConfig_enable : Reg := ⟨.recomputeStreamConfig, 0⟩
abbrev Reg.recomputeStreamConfig_refreshN : Reg := ⟨.recomputeStreamConfig, 8⟩
abbrev Reg.recomputeStreamConfig_cutPercent : Reg := ⟨.recomputeStreamConfig, 16⟩
abbrev Reg.recomputeStreamConfig_threshold : Reg := ⟨.recomputeStreamConfig, 32⟩
abbrev Reg.recomputeStreamState_context (k : Nat) : Reg := ⟨.recomputeStreamState, 0 + 128 * k⟩
abbrev Reg.recomputeStreamState_flags (k : Nat) : Reg := ⟨.recomputeStreamState, 8 + 128 * k⟩
abbrev Reg.recomputeStreamState_slot (k : Nat) : Reg := ⟨.recomputeStreamState, 16 + 128 * k⟩
abbrev Reg.recomputeStreamState_lastUnit (k : Nat) : Reg := ⟨.recomputeStreamState, 32 + 128 * k⟩
abbrev Reg.recomputeStreamState_computed (k : Nat) : Reg := ⟨.recomputeStreamState, 64 + 128 * k⟩
abbrev Reg.recomputeStreamState_dirty (k : Nat) : Reg := ⟨.recomputeStreamState, 96 + 128 * k⟩
abbrev Reg.recomputeStreamState_cause (k : Nat) : Reg := ⟨.recomputeStreamState, 112 + 128 * k⟩
abbrev Reg.recomputeStreamCounters_computed : Reg := ⟨.recomputeStreamCounters, 0⟩
abbrev Reg.recomputeStreamCounters_reused : Reg := ⟨.recomputeStreamCounters, 64⟩
abbrev Reg.recomputeStreamCounters_frames : Reg := ⟨.recomputeStreamCounters, 128⟩
abbrev Reg.recomputeStreamCounters_partial : Reg := ⟨.recomputeStreamCounters, 160⟩
abbrev Reg.recomputeStreamCounters_cause (k : Nat) : Reg := ⟨.recomputeStreamCounters, 192 + 32 * (k - 1)⟩
abbrev Reg.recomputeStreamCounters_restartBias : Reg := ⟨.recomputeStreamCounters, 448⟩
abbrev Reg.recomputeStreamCounters_restartDim : Reg := ⟨.recomputeStreamCounters, 480⟩
abbrev Reg.trackerRegion : Reg := ⟨.trackerRegion, 0⟩
abbrev Reg.trackerEnginesPresented : Reg := ⟨.trackerEnginesPresented, 0⟩
abbrev Reg.trackerLcMisses : Reg := ⟨.trackerLcMisses, 0⟩
abbrev Reg.trackerUnreserved : Reg := ⟨.trackerUnreserved, 0⟩
abbrev Reg.trackerEngineState_busy : Reg := ⟨.trackerEngineState, 1⟩
abbrev Reg.trackerEngineState_retired : Reg := ⟨.trackerEngineState, 2⟩
abbrev Reg.trackerEngineState_resets : Reg := ⟨.trackerEngineState, 8⟩
abbrev Reg.trackerEngineState_context : Reg := ⟨.trackerEngineState, 16⟩
abbrev Reg.trackerEngineState_committed : Reg := ⟨.trackerEngineState, 32⟩
abbrev Reg.trackerWatchThreshold : Reg := ⟨.trackerWatchThreshold, 0⟩
abbrev Reg.trackerWatchCount : Reg := ⟨.trackerWatchCount, 0⟩
abbrev Reg.trackerStreamConfig_trackReserve : Reg := ⟨.trackerStreamConfig, 0⟩
abbrev Reg.trackerStreamConfig_trackMax : Reg := ⟨.trackerStreamConfig, 16⟩
abbrev Reg.trackerStreamConfig_confirmHits : Reg := ⟨.trackerStreamConfig, 32⟩
abbrev Reg.trackerStreamConfig_maxMiss : Reg := ⟨.trackerStreamConfig, 40⟩
abbrev Reg.trackerStreamConfig_iouMatch : Reg := ⟨.trackerStreamConfig, 64⟩
abbrev Reg.trackerStreamConfig_birthThreshold : Reg := ⟨.trackerStreamConfig, 96⟩
abbrev Reg.trackerStreamConfig_qPos : Reg := ⟨.trackerStreamConfig, 128⟩
abbrev Reg.trackerStreamConfig_qVel : Reg := ⟨.trackerStreamConfig, 160⟩
abbrev Reg.trackerStreamConfig_rMeas : Reg := ⟨.trackerStreamConfig, 192⟩
abbrev Reg.trackerStreamConfig_embedAlpha : Reg := ⟨.trackerStreamConfig, 224⟩
abbrev Reg.trackerStreamCounters_frames : Reg := ⟨.trackerStreamCounters, 0⟩
abbrev Reg.trackerStreamCounters_clamped : Reg := ⟨.trackerStreamCounters, 32⟩
abbrev Reg.trackerStreamCounters_refused : Reg := ⟨.trackerStreamCounters, 64⟩
abbrev Reg.trackerStreamCounters_born : Reg := ⟨.trackerStreamCounters, 96⟩
abbrev Reg.trackerStreamCounters_deleted : Reg := ⟨.trackerStreamCounters, 128⟩
abbrev Reg.trackerStreamCounters_nanCells : Reg := ⟨.trackerStreamCounters, 160⟩
abbrev Reg.trackerStreamCounters_embeddingsDiscarded : Reg := ⟨.trackerStreamCounters, 192⟩
abbrev Reg.pointsLcMisses : Reg := ⟨.pointsLcMisses, 0⟩
abbrev Reg.pointsEgressPool : Reg := ⟨.pointsEgressPool, 0⟩
abbrev Reg.pointsEnginesPresented : Reg := ⟨.pointsEnginesPresented, 0⟩
abbrev Reg.pointsDioRelease : Reg := ⟨.pointsDioRelease, 0⟩
abbrev Reg.pointsRule_enable : Reg := ⟨.pointsRule, 0⟩
abbrev Reg.pointsRule_kind : Reg := ⟨.pointsRule, 1⟩
abbrev Reg.pointsRule_record : Reg := ⟨.pointsRule, 4⟩
abbrev Reg.pointsRule_anchor : Reg := ⟨.pointsRule, 5⟩
abbrev Reg.pointsRule_direction : Reg := ⟨.pointsRule, 7⟩
abbrev Reg.pointsRule_stream : Reg := ⟨.pointsRule, 16⟩
abbrev Reg.pointsRule_context : Reg := ⟨.pointsRule, 32⟩
abbrev Reg.pointsRule_action : Reg := ⟨.pointsRule, 40⟩
abbrev Reg.pointsRule_vertices : Reg := ⟨.pointsRule, 48⟩
abbrev Reg.pointsRule_debounce : Reg := ⟨.pointsRule, 56⟩
abbrev Reg.pointsRule_classMask : Reg := ⟨.pointsRule, 64⟩
abbrev Reg.pointsRule_dwellMs : Reg := ⟨.pointsRule, 128⟩
abbrev Reg.pointsRule_countLow : Reg := ⟨.pointsRule, 160⟩
abbrev Reg.pointsRule_countHigh : Reg := ⟨.pointsRule, 176⟩
abbrev Reg.pointsRule_watch : Reg := ⟨.pointsRule, 192⟩
abbrev Reg.pointsRule_x (k : Nat) : Reg := ⟨.pointsRule, 256 + 32 * k⟩
abbrev Reg.pointsRule_y (k : Nat) : Reg := ⟨.pointsRule, 272 + 32 * k⟩
abbrev Reg.pointsAction_dio : Reg := ⟨.pointsAction, 0⟩
abbrev Reg.pointsAction_line : Reg := ⟨.pointsAction, 1⟩
abbrev Reg.pointsAction_latch : Reg := ⟨.pointsAction, 5⟩
abbrev Reg.pointsAction_pulseMs : Reg := ⟨.pointsAction, 16⟩
abbrev Reg.pointsAction_can : Reg := ⟨.pointsAction, 32⟩
abbrev Reg.pointsAction_extended : Reg := ⟨.pointsAction, 33⟩
abbrev Reg.pointsAction_canId : Reg := ⟨.pointsAction, 64⟩
abbrev Reg.pointsAction_template : Reg := ⟨.pointsAction, 128⟩
abbrev Reg.pointsEgressRing_page : Reg := ⟨.pointsEgressRing, 0⟩
abbrev Reg.pointsEgressRing_consumer : Reg := ⟨.pointsEgressRing, 64⟩
abbrev Reg.pointsEgressRing_sizeLog2 : Reg := ⟨.pointsEgressRing, 128⟩
abbrev Reg.pointsEgressRingEnable : Reg := ⟨.pointsEgressRingEnable, 0⟩
abbrev Reg.pointsEgressRingState_produced : Reg := ⟨.pointsEgressRingState, 0⟩
abbrev Reg.pointsEgressRingState_held : Reg := ⟨.pointsEgressRingState, 64⟩
abbrev Reg.pointsEgressUdp_port : Reg := ⟨.pointsEgressUdp, 0⟩
abbrev Reg.pointsEgressUdp_dstUdpPort : Reg := ⟨.pointsEgressUdp, 16⟩
abbrev Reg.pointsEgressUdp_srcUdpPort : Reg := ⟨.pointsEgressUdp, 32⟩
abbrev Reg.pointsEgressUdp_address : Reg := ⟨.pointsEgressUdp, 128⟩
abbrev Reg.pointsStreamEgress_ring : Reg := ⟨.pointsStreamEgress, 0⟩
abbrev Reg.pointsStreamEgress_udp : Reg := ⟨.pointsStreamEgress, 4⟩
abbrev Reg.pointsCounters_events : Reg := ⟨.pointsCounters, 0⟩
abbrev Reg.pointsCounters_linesNotGiven : Reg := ⟨.pointsCounters, 32⟩
abbrev Reg.pointsCounters_canDropped : Reg := ⟨.pointsCounters, 64⟩
abbrev Reg.pointsCounters_batchesDiscarded : Reg := ⟨.pointsCounters, 96⟩
abbrev Reg.pointsCounters_datagramsDiscarded : Reg := ⟨.pointsCounters, 128⟩
abbrev Reg.pointsCounters_pulsesExtended : Reg := ⟨.pointsCounters, 160⟩
abbrev Reg.yardLcMisses : Reg := ⟨.yardLcMisses, 0⟩
abbrev Reg.yardPreemptOverruns : Reg := ⟨.yardPreemptOverruns, 0⟩
abbrev Reg.yardState : Reg := ⟨.yardState, 0⟩
abbrev Reg.yardContextConfig_depth : Reg := ⟨.yardContextConfig, 0⟩
abbrev Reg.yardContextConfig_backlog : Reg := ⟨.yardContextConfig, 8⟩
abbrev Reg.yardContextConfig_haltOnFault : Reg := ⟨.yardContextConfig, 12⟩
abbrev Reg.yardContextConfig_minBatch : Reg := ⟨.yardContextConfig, 16⟩
abbrev Reg.yardContextConfig_gatherTicks : Reg := ⟨.yardContextConfig, 32⟩
abbrev Reg.yardContextState_state : Reg := ⟨.yardContextState, 0⟩
abbrev Reg.yardContextState_latencyCritical : Reg := ⟨.yardContextState, 3⟩
abbrev Reg.yardContextState_boosted : Reg := ⟨.yardContextState, 4⟩
abbrev Reg.yardContextState_underProvisioned : Reg := ⟨.yardContextState, 5⟩
abbrev Reg.yardContextState_depth : Reg := ⟨.yardContextState, 8⟩
abbrev Reg.yardContextState_inFlight : Reg := ⟨.yardContextState, 16⟩
abbrev Reg.yardContextState_k : Reg := ⟨.yardContextState, 24⟩
abbrev Reg.yardContextState_ready : Reg := ⟨.yardContextState, 32⟩
abbrev Reg.yardContextState_suspended : Reg := ⟨.yardContextState, 64⟩
abbrev Reg.yardContextState_faults : Reg := ⟨.yardContextState, 96⟩
abbrev Reg.yardContextState_faultCode : Reg := ⟨.yardContextState, 128⟩
abbrev Reg.yardContextState_faultArea : Reg := ⟨.yardContextState, 136⟩
abbrev Reg.yardContextState_faultDetail : Reg := ⟨.yardContextState, 144⟩
abbrev Reg.yardContextState_credit : Reg := ⟨.yardContextState, 160⟩
abbrev Reg.yardContextState_dispatched : Reg := ⟨.yardContextState, 192⟩
abbrev Reg.yardContextCounters_completed : Reg := ⟨.yardContextCounters, 0⟩
abbrev Reg.yardContextCounters_abandoned : Reg := ⟨.yardContextCounters, 64⟩
abbrev Reg.yardContextCounters_bound : Reg := ⟨.yardContextCounters, 128⟩
abbrev Reg.yardContextCounters_passedOver : Reg := ⟨.yardContextCounters, 192⟩
abbrev Reg.yardContextCounters_suspensions : Reg := ⟨.yardContextCounters, 256⟩
abbrev Reg.yardContextCounters_saveBytes : Reg := ⟨.yardContextCounters, 320⟩
abbrev Reg.signalCounterState_count : Reg := ⟨.signalCounterState, 0⟩
abbrev Reg.signalCounterState_saturated : Reg := ⟨.signalCounterState, 16⟩
abbrev Reg.signalCounterState_misuse : Reg := ⟨.signalCounterState, 17⟩
abbrev Reg.signalCounterState_waiters : Reg := ⟨.signalCounterState, 24⟩
abbrev Reg.signalAlias_valid : Reg := ⟨.signalAlias, 0⟩
abbrev Reg.signalAlias_device : Reg := ⟨.signalAlias, 1⟩
abbrev Reg.signalAlias_context : Reg := ⟨.signalAlias, 8⟩
abbrev Reg.signalAlias_counter : Reg := ⟨.signalAlias, 16⟩
abbrev Reg.signalCounters_saturations : Reg := ⟨.signalCounters, 0⟩
abbrev Reg.signalCounters_misuses : Reg := ⟨.signalCounters, 32⟩
abbrev Reg.signalCounters_discarded : Reg := ⟨.signalCounters, 64⟩
abbrev Reg.signalCounters_holderGone : Reg := ⟨.signalCounters, 96⟩
abbrev Reg.vatLayout_planBanks : Reg := ⟨.vatLayout, 0⟩
abbrev Reg.vatLayout_poolBanks : Reg := ⟨.vatLayout, 16⟩
abbrev Reg.vatCacheSize : Reg := ⟨.vatCacheSize, 0⟩
abbrev Reg.vatBanksPresented : Reg := ⟨.vatBanksPresented, 0⟩
abbrev Reg.vatPlanFree : Reg := ⟨.vatPlanFree, 0⟩
abbrev Reg.vatCounters_hits : Reg := ⟨.vatCounters, 0⟩
abbrev Reg.vatCounters_misses : Reg := ⟨.vatCounters, 64⟩
abbrev Reg.vatCounters_invalidated : Reg := ⟨.vatCounters, 128⟩
abbrev Reg.vatCounters_reread : Reg := ⟨.vatCounters, 192⟩
abbrev Reg.vatCounters_corrected : Reg := ⟨.vatCounters, 256⟩
abbrev Reg.vatCounters_uncorrectable : Reg := ⟨.vatCounters, 320⟩
abbrev Reg.sidingsPoolEnable : Reg := ⟨.sidingsPoolEnable, 0⟩
abbrev Reg.sidingsPoolConfig_base : Reg := ⟨.sidingsPoolConfig, 0⟩
abbrev Reg.sidingsPoolConfig_control : Reg := ⟨.sidingsPoolConfig, 64⟩
abbrev Reg.sidingsPoolConfig_kind : Reg := ⟨.sidingsPoolConfig, 128⟩
abbrev Reg.sidingsPoolConfig_size (k : Nat) : Reg := ⟨.sidingsPoolConfig, 192 + 32 * k⟩
abbrev Reg.sidingsPoolConfig_count (k : Nat) : Reg := ⟨.sidingsPoolConfig, 448 + 32 * k⟩
abbrev Reg.sidingsPoolState_state : Reg := ⟨.sidingsPoolState, 0⟩
abbrev Reg.sidingsPoolState_cause : Reg := ⟨.sidingsPoolState, 8⟩
abbrev Reg.sidingsPoolState_firstBit : Reg := ⟨.sidingsPoolState, 32⟩
abbrev Reg.sidingsPoolState_buffers : Reg := ⟨.sidingsPoolState, 64⟩
abbrev Reg.sidingsPoolState_free : Reg := ⟨.sidingsPoolState, 96⟩
abbrev Reg.sidingsPoolState_reservedSum : Reg := ⟨.sidingsPoolState, 128⟩
abbrev Reg.sidingsPoolState_owners : Reg := ⟨.sidingsPoolState, 160⟩
abbrev Reg.sidingsPoolState_fewest : Reg := ⟨.sidingsPoolState, 192⟩
abbrev Reg.sidingsPoolCounters_poolEmpty : Reg := ⟨.sidingsPoolCounters, 0⟩
abbrev Reg.sidingsPoolCounters_badPointer : Reg := ⟨.sidingsPoolCounters, 32⟩
abbrev Reg.sidingsPoolCounters_doubleFree : Reg := ⟨.sidingsPoolCounters, 64⟩
abbrev Reg.sidingsPoolCounters_claimsRefused : Reg := ⟨.sidingsPoolCounters, 96⟩
abbrev Reg.sidingsBuffers : Reg := ⟨.sidingsBuffers, 0⟩
abbrev Reg.lpddr6Map_order : Reg := ⟨.lpddr6Map, 0⟩
abbrev Reg.lpddr6Map_mask (k : Nat) : Reg := ⟨.lpddr6Map, 16 + 16 * k⟩
abbrev Reg.lpddr6Remap_channel : Reg := ⟨.lpddr6Remap, 0⟩
abbrev Reg.lpddr6Remap_rank : Reg := ⟨.lpddr6Remap, 5⟩
abbrev Reg.lpddr6Remap_state : Reg := ⟨.lpddr6Remap, 8⟩
abbrev Reg.lpddr6Migration_state : Reg := ⟨.lpddr6Migration, 0⟩
abbrev Reg.lpddr6Migration_rank : Reg := ⟨.lpddr6Migration, 8⟩
abbrev Reg.lpddr6Migration_target : Reg := ⟨.lpddr6Migration, 16⟩
abbrev Reg.lpddr6Migration_queued : Reg := ⟨.lpddr6Migration, 24⟩
abbrev Reg.lpddr6Migration_copied : Reg := ⟨.lpddr6Migration, 32⟩
abbrev Reg.lpddr6Migration_poisoned : Reg := ⟨.lpddr6Migration, 64⟩
abbrev Reg.lpddr6MigrateShare : Reg := ⟨.lpddr6MigrateShare, 0⟩
abbrev Reg.lpddr6CeLimit : Reg := ⟨.lpddr6CeLimit, 0⟩
abbrev Reg.lpddr6Spares : Reg := ⟨.lpddr6Spares, 0⟩
abbrev Reg.lpddr6RankCounters_corrected : Reg := ⟨.lpddr6RankCounters, 0⟩
abbrev Reg.lpddr6RankCounters_uncorrectable : Reg := ⟨.lpddr6RankCounters, 32⟩
abbrev Reg.lpddr6RankCounters_commandErrors : Reg := ⟨.lpddr6RankCounters, 64⟩
abbrev Reg.lpddr6RankCounters_postponed : Reg := ⟨.lpddr6RankCounters, 96⟩
abbrev Reg.lpddr6RankCounters_forced : Reg := ⟨.lpddr6RankCounters, 128⟩
abbrev Reg.lpddr6RankCounters_makeUp : Reg := ⟨.lpddr6RankCounters, 160⟩
abbrev Reg.lpddr6Log_sequence : Reg := ⟨.lpddr6Log, 0⟩
abbrev Reg.lpddr6Log_kind : Reg := ⟨.lpddr6Log, 32⟩
abbrev Reg.lpddr6Log_logical : Reg := ⟨.lpddr6Log, 40⟩
abbrev Reg.lpddr6Log_channel : Reg := ⟨.lpddr6Log, 48⟩
abbrev Reg.lpddr6Log_rank : Reg := ⟨.lpddr6Log, 56⟩
abbrev Reg.lpddr6Log_address : Reg := ⟨.lpddr6Log, 64⟩
abbrev Reg.lpddr6Log_units : Reg := ⟨.lpddr6Log, 128⟩
abbrev Reg.lpddr6LogHead : Reg := ⟨.lpddr6LogHead, 0⟩
abbrev Reg.lpddr6LogRead : Reg := ⟨.lpddr6LogRead, 0⟩
abbrev Reg.lpddr6LogLost : Reg := ⟨.lpddr6LogLost, 0⟩
abbrev Reg.powerOpState_point : Reg := ⟨.powerOpState, 0⟩
abbrev Reg.powerOpState_ceiling : Reg := ⟨.powerOpState, 2⟩
abbrev Reg.powerOpState_capped : Reg := ⟨.powerOpState, 4⟩
abbrev Reg.powerOpState_beStopped : Reg := ⟨.powerOpState, 5⟩
abbrev Reg.powerOpState_beHeld : Reg := ⟨.powerOpState, 6⟩
abbrev Reg.powerOpState_changing : Reg := ⟨.powerOpState, 7⟩
abbrev Reg.powerOpState_kBe : Reg := ⟨.powerOpState, 8⟩
abbrev Reg.powerOpState_kLc : Reg := ⟨.powerOpState, 14⟩
abbrev Reg.powerOpState_disagreement : Reg := ⟨.powerOpState, 20⟩
abbrev Reg.powerOpState_leaseLapsed : Reg := ⟨.powerOpState, 21⟩
abbrev Reg.powerOpState_unreachable : Reg := ⟨.powerOpState, 22⟩
abbrev Reg.powerOpState_changes : Reg := ⟨.powerOpState, 32⟩
abbrev Reg.powerOpMax : Reg := ⟨.powerOpMax, 0⟩
abbrev Reg.powerOpInitial : Reg := ⟨.powerOpInitial, 0⟩
abbrev Reg.powerCapWatts : Reg := ⟨.powerCapWatts, 0⟩
abbrev Reg.powerCapLeaseMs : Reg := ⟨.powerCapLeaseMs, 0⟩
abbrev Reg.powerCapFallback : Reg := ⟨.powerCapFallback, 0⟩
abbrev Reg.powerCapSequence : Reg := ⟨.powerCapSequence, 0⟩
abbrev Reg.powerDemand_demand : Reg := ⟨.powerDemand, 0⟩
abbrev Reg.powerDemand_floor : Reg := ⟨.powerDemand, 32⟩
abbrev Reg.powerDemand_sequence : Reg := ⟨.powerDemand, 64⟩
abbrev Reg.powerBeHold : Reg := ⟨.powerBeHold, 0⟩
abbrev Reg.powerLcStandby : Reg := ⟨.powerLcStandby, 0⟩
abbrev Reg.powerIdleOffUs : Reg := ⟨.powerIdleOffUs, 0⟩
abbrev Reg.powerEstimate_pEst : Reg := ⟨.powerEstimate, 0⟩
abbrev Reg.powerEstimate_pCtl : Reg := ⟨.powerEstimate, 32⟩
abbrev Reg.powerEstimate_pMeas : Reg := ⟨.powerEstimate, 64⟩
abbrev Reg.powerEstimate_eMean : Reg := ⟨.powerEstimate, 96⟩
abbrev Reg.powerEstimate_capEff : Reg := ⟨.powerEstimate, 128⟩
abbrev Reg.powerEstimate_aBe : Reg := ⟨.powerEstimate, 160⟩
abbrev Reg.powerEstimate_aLc : Reg := ⟨.powerEstimate, 192⟩
abbrev Reg.powerEstimate_headroom : Reg := ⟨.powerEstimate, 224⟩
abbrev Reg.powerEstimateGain : Reg := ⟨.powerEstimateGain, 0⟩
abbrev Reg.powerEstimateOffset : Reg := ⟨.powerEstimateOffset, 0⟩
abbrev Reg.powerWeights : Reg := ⟨.powerWeights, 0⟩
abbrev Reg.powerCounters_lcEpochs : Reg := ⟨.powerCounters, 0⟩
abbrev Reg.powerCounters_heldEpochs : Reg := ⟨.powerCounters, 64⟩
abbrev Reg.powerCounters_wakeWaits : Reg := ⟨.powerCounters, 128⟩
abbrev Reg.powerCounters_slopeHeld : Reg := ⟨.powerCounters, 192⟩
abbrev Reg.powerCounters_disagreeing : Reg := ⟨.powerCounters, 256⟩
abbrev Reg.powerCounters_missing : Reg := ⟨.powerCounters, 320⟩
abbrev Reg.powerVrmPage_address : Reg := ⟨.powerVrmPage, 0⟩
abbrev Reg.powerVrmPage_enable : Reg := ⟨.powerVrmPage, 7⟩
abbrev Reg.powerVrmPage_page : Reg := ⟨.powerVrmPage, 8⟩
abbrev Reg.powerVrmPage_sum : Reg := ⟨.powerVrmPage, 16⟩
abbrev Reg.powerVrmPage_tripOff : Reg := ⟨.powerVrmPage, 17⟩
abbrev Reg.powerAvsState_v0 : Reg := ⟨.powerAvsState, 0⟩
abbrev Reg.powerAvsState_v1 : Reg := ⟨.powerAvsState, 16⟩
abbrev Reg.powerAvsState_v2 : Reg := ⟨.powerAvsState, 32⟩
abbrev Reg.powerAvsState_v3 : Reg := ⟨.powerAvsState, 48⟩
abbrev Reg.powerAvsState_margin : Reg := ⟨.powerAvsState, 64⟩
abbrev Reg.powerAvsState_alarms : Reg := ⟨.powerAvsState, 72⟩
abbrev Reg.powerAvsState_hours : Reg := ⟨.powerAvsState, 96⟩
abbrev Reg.powerAvsRail : Reg := ⟨.powerAvsRail, 0⟩
abbrev Reg.thermalSensor : Reg := ⟨.thermalSensor, 0⟩
abbrev Reg.thermalHottest_tHot : Reg := ⟨.thermalHottest, 0⟩
abbrev Reg.thermalHottest_sensor : Reg := ⟨.thermalHottest, 16⟩
abbrev Reg.thermalHottest_pTh : Reg := ⟨.thermalHottest, 32⟩
abbrev Reg.thermalWarn : Reg := ⟨.thermalWarn, 0⟩
abbrev Reg.thermalCounters_warns : Reg := ⟨.thermalCounters, 0⟩
abbrev Reg.thermalCounters_throttles : Reg := ⟨.thermalCounters, 32⟩
abbrev Reg.thermalCounters_throttledEpochs : Reg := ⟨.thermalCounters, 64⟩
abbrev Reg.thermalCounters_failed : Reg := ⟨.thermalCounters, 96⟩
abbrev Reg.clocksDomainsAwake : Reg := ⟨.clocksDomainsAwake, 0⟩
abbrev Reg.couplingDevice : Reg := ⟨.couplingDevice, 0⟩
abbrev Reg.couplingSystem_identifier : Reg := ⟨.couplingSystem, 0⟩
abbrev Reg.couplingSystem_size : Reg := ⟨.couplingSystem, 32⟩
abbrev Reg.couplingPortEnable : Reg := ⟨.couplingPortEnable, 0⟩
abbrev Reg.couplingPortState_state : Reg := ⟨.couplingPortState, 0⟩
abbrev Reg.couplingPortState_peer : Reg := ⟨.couplingPortState, 3⟩
abbrev Reg.couplingPortState_spareUsed : Reg := ⟨.couplingPortState, 5⟩
abbrev Reg.couplingPortState_lanes : Reg := ⟨.couplingPortState, 8⟩
abbrev Reg.couplingPortState_downs : Reg := ⟨.couplingPortState, 32⟩
abbrev Reg.couplingPortCounters_sent : Reg := ⟨.couplingPortCounters, 0⟩
abbrev Reg.couplingPortCounters_received : Reg := ⟨.couplingPortCounters, 64⟩
abbrev Reg.couplingPortCounters_replays : Reg := ⟨.couplingPortCounters, 128⟩
abbrev Reg.couplingPortCounters_symbolErrors : Reg := ⟨.couplingPortCounters, 192⟩
abbrev Reg.couplingPortCounters_discarded : Reg := ⟨.couplingPortCounters, 256⟩
abbrev Reg.couplingPortCounters_denied : Reg := ⟨.couplingPortCounters, 320⟩
abbrev Reg.couplingLaneErrorLimit : Reg := ⟨.couplingLaneErrorLimit, 0⟩
abbrev Reg.couplingPeerWindow_start : Reg := ⟨.couplingPeerWindow, 0⟩
abbrev Reg.couplingPeerWindow_end : Reg := ⟨.couplingPeerWindow, 64⟩
abbrev Reg.couplingContextPeers : Reg := ⟨.couplingContextPeers, 0⟩
abbrev Reg.couplingSystemState_joined : Reg := ⟨.couplingSystemState, 0⟩
abbrev Reg.couplingSystemState_devices : Reg := ⟨.couplingSystemState, 1⟩
abbrev Reg.bootState_stage : Reg := ⟨.bootState, 0⟩
abbrev Reg.bootState_failure : Reg := ⟨.bootState, 8⟩
abbrev Reg.bootState_firstCopy : Reg := ⟨.bootState, 16⟩
abbrev Reg.bootState_slot : Reg := ⟨.bootState, 17⟩
abbrev Reg.bootState_config0 : Reg := ⟨.bootState, 18⟩
abbrev Reg.bootState_config1 : Reg := ⟨.bootState, 19⟩
abbrev Reg.bootState_identity : Reg := ⟨.bootState, 20⟩
abbrev Reg.bootState_ledger : Reg := ⟨.bootState, 21⟩
abbrev Reg.bootCount : Reg := ⟨.bootCount, 0⟩
abbrev Reg.bootFirmware_slot : Reg := ⟨.bootFirmware, 0⟩
abbrev Reg.bootFirmware_other : Reg := ⟨.bootFirmware, 8⟩
abbrev Reg.bootFirmware_trialLeft : Reg := ⟨.bootFirmware, 16⟩
abbrev Reg.bootFirmware_version : Reg := ⟨.bootFirmware, 32⟩
abbrev Reg.bootFirmware_security : Reg := ⟨.bootFirmware, 64⟩
abbrev Reg.bootFirmware_stagedVersion : Reg := ⟨.bootFirmware, 96⟩
abbrev Reg.bootConfig_sequence : Reg := ⟨.bootConfig, 0⟩
abbrev Reg.bootConfig_copy : Reg := ⟨.bootConfig, 32⟩
abbrev Reg.bootConfig_applied : Reg := ⟨.bootConfig, 64⟩
abbrev Reg.bootConfig_skipped : Reg := ⟨.bootConfig, 80⟩
abbrev Reg.bootConfig_clamped : Reg := ⟨.bootConfig, 96⟩
abbrev Reg.bootLedger_head : Reg := ⟨.bootLedger, 0⟩
abbrev Reg.bootLedger_entries : Reg := ⟨.bootLedger, 32⟩
abbrev Reg.bootLedger_half : Reg := ⟨.bootLedger, 48⟩
abbrev Reg.bootLedger_compactions : Reg := ⟨.bootLedger, 64⟩
abbrev Reg.bootLedger_rejected : Reg := ⟨.bootLedger, 96⟩
abbrev Reg.bootSerial : Reg := ⟨.bootSerial, 0⟩
abbrev Reg.bootTrialBoots : Reg := ⟨.bootTrialBoots, 0⟩
abbrev Reg.bootIdentityCert_magic : Reg := ⟨.bootIdentityCert, 0⟩
abbrev Reg.bootIdentityCert_kind : Reg := ⟨.bootIdentityCert, 32⟩
abbrev Reg.bootIdentityCert_keyId : Reg := ⟨.bootIdentityCert, 64⟩
abbrev Reg.bootIdentityCert_issuer : Reg := ⟨.bootIdentityCert, 128⟩
abbrev Reg.bootIdentityCert_serial : Reg := ⟨.bootIdentityCert, 192⟩
abbrev Reg.bootIdentityCert_exponent : Reg := ⟨.bootIdentityCert, 256⟩
abbrev Reg.bootIdentityCert_version : Reg := ⟨.bootIdentityCert, 288⟩
abbrev Reg.bootIdentityCert_modulus : Reg := ⟨.bootIdentityCert, 512⟩
abbrev Reg.bootIdentityCert_signature : Reg := ⟨.bootIdentityCert, 4608⟩
abbrev Reg.bootManufacturingCert_magic : Reg := ⟨.bootManufacturingCert, 0⟩
abbrev Reg.bootManufacturingCert_kind : Reg := ⟨.bootManufacturingCert, 32⟩
abbrev Reg.bootManufacturingCert_keyId : Reg := ⟨.bootManufacturingCert, 64⟩
abbrev Reg.bootManufacturingCert_issuer : Reg := ⟨.bootManufacturingCert, 128⟩
abbrev Reg.bootManufacturingCert_serial : Reg := ⟨.bootManufacturingCert, 192⟩
abbrev Reg.bootManufacturingCert_exponent : Reg := ⟨.bootManufacturingCert, 256⟩
abbrev Reg.bootManufacturingCert_version : Reg := ⟨.bootManufacturingCert, 288⟩
abbrev Reg.bootManufacturingCert_modulus : Reg := ⟨.bootManufacturingCert, 512⟩
abbrev Reg.bootManufacturingCert_signature : Reg := ⟨.bootManufacturingCert, 4608⟩
abbrev Reg.bootRootHash_hash : Reg := ⟨.bootRootHash, 0⟩
abbrev Reg.bootOwnerKeys_keyId : Reg := ⟨.bootOwnerKeys, 0⟩
abbrev Reg.bootSwitchDiscarded : Reg := ⟨.bootSwitchDiscarded, 0⟩
abbrev Reg.bootFlashCounters_erased : Reg := ⟨.bootFlashCounters, 0⟩
abbrev Reg.bootFlashCounters_failures : Reg := ⟨.bootFlashCounters, 32⟩
abbrev Reg.bootFlashCounters_appends : Reg := ⟨.bootFlashCounters, 64⟩
abbrev Reg.bootFlashCounters_deferred : Reg := ⟨.bootFlashCounters, 96⟩
abbrev Reg.pinsDioConfig_owner : Reg := ⟨.pinsDioConfig, 0⟩
abbrev Reg.pinsDioConfig_drive : Reg := ⟨.pinsDioConfig, 2⟩
abbrev Reg.pinsDioConfig_activeLow : Reg := ⟨.pinsDioConfig, 3⟩
abbrev Reg.pinsDioConfig_safe : Reg := ⟨.pinsDioConfig, 4⟩
abbrev Reg.pinsDioConfig_pull : Reg := ⟨.pinsDioConfig, 6⟩
abbrev Reg.pinsDioConfig_filter : Reg := ⟨.pinsDioConfig, 8⟩
abbrev Reg.pinsDioOut_mask : Reg := ⟨.pinsDioOut, 0⟩
abbrev Reg.pinsDioOut : Reg := ⟨.pinsDioOut, 0⟩
abbrev Reg.pinsDioState_levels : Reg := ⟨.pinsDioState, 0⟩
abbrev Reg.pinsDioState_asserted : Reg := ⟨.pinsDioState, 16⟩
abbrev Reg.pinsDioState_safe : Reg := ⟨.pinsDioState, 32⟩
abbrev Reg.pinsDioEdges : Reg := ⟨.pinsDioEdges, 0⟩
abbrev Reg.pinsDioIgnored : Reg := ⟨.pinsDioIgnored, 0⟩
abbrev Reg.pinsCanConfig_nominal : Reg := ⟨.pinsCanConfig, 0⟩
abbrev Reg.pinsCanConfig_data : Reg := ⟨.pinsCanConfig, 3⟩
abbrev Reg.pinsCanConfig_nominalSp : Reg := ⟨.pinsCanConfig, 16⟩
abbrev Reg.pinsCanConfig_dataSp : Reg := ⟨.pinsCanConfig, 32⟩
abbrev Reg.pinsCanConfig_tdc : Reg := ⟨.pinsCanConfig, 48⟩
abbrev Reg.pinsCanEnable : Reg := ⟨.pinsCanEnable, 0⟩
abbrev Reg.pinsCanState_state : Reg := ⟨.pinsCanState, 0⟩
abbrev Reg.pinsCanState_txErrors : Reg := ⟨.pinsCanState, 8⟩
abbrev Reg.pinsCanState_rxErrors : Reg := ⟨.pinsCanState, 16⟩
abbrev Reg.pinsCanState_busOffs : Reg := ⟨.pinsCanState, 32⟩
abbrev Reg.pinsPmbusConfig_rate : Reg := ⟨.pinsPmbusConfig, 0⟩
abbrev Reg.pinsPmbusStatus_status : Reg := ⟨.pinsPmbusStatus, 0⟩
abbrev Reg.pinsStraps : Reg := ⟨.pinsStraps, 0⟩

end Sys2Proof.Machine
end

