-- ==== Sys2Proof/Machine/State.lean ====
section
/-! DEFINITION. The state of the block: everything the spec gives the IL9640, as plain data. Every object of the dictionary
lives in `Dev.regs` under its fields; what the chapters describe beside the objects has a field of its own. -/

namespace Sys2Proof.Machine

/-- One field of one element of an object. -/
structure RegKey where
  obj : Obj
  sub : Nat
  off : Nat
  deriving DecidableEq, Repr

/-- A lasting cause that still holds (R54): its attention bit, and what it concerns. -/
structure Lasting where
  bit : Nat
  area : Nat
  code : Nat
  context : Nat
  stream : Nat
  detail : Nat
  deriving DecidableEq, Repr

/-- A reply kept for a UDP source element (R65). -/
structure Kept where
  sourcePort : Nat
  tag : Nat
  reply : List Byte
  deriving DecidableEq, Repr

/-- The open CAN FD request transfer (R66). -/
structure CanTransfer where
  transfer : Nat
  next : Nat
  data : List Byte
  tick : Nat
  deriving DecidableEq, Repr

/-- One mailbox of BAR0 (R62): the dictionary mailbox or a relay mailbox. `queued` is the copy taken at the doorbell. -/
structure Mailbox where
  request : Tbl Nat Byte := []
  reply : List Byte := []
  queued : Option Request := none
  busy : Bool := false
  overrun : Bool := false
  doneTag : Nat := 0
  mirror : Nat := 0
  deriving DecidableEq, Repr, Inhabited

/-- A fetched command (R79): its submission index, its 64 bytes, the bytes of host memory whose reads have been issued for it and the
data that has arrived, whether its work has started, and, once it has completed, its status word and detail. -/
structure Fetched where
  order : Nat := 0
  index : Nat
  entry : List Byte
  issued : Nat := 0
  data : List Byte := []
  started : Bool := false
  done : Option (Nat × Nat) := none
  deriving DecidableEq, Repr

/-- One queue pair (R77 to R85); its enable and configuration are objects. `waits` holds the ticks at which the unconsumed
completions were written, oldest first. -/
structure Queue where
  draining : Bool := false
  badDoorbell : Bool := false
  sqHead : Nat := 0
  sqTail : Nat := 0
  cqHead : Nat := 0
  cqTail : Nat := 0
  phase : Bool := true
  inflight : List Fetched := []
  waits : List Nat := []
  pending : Bool := false
  deriving DecidableEq, Repr, Inhabited

/-- Device power states of the function (R69). -/
inductive PowerState where
  | d0 | d3hot
  deriving DecidableEq, Repr

/-- The host endpoint beside its objects (R69 to R101). `answered` says that a configuration request has completed
successfully since the last reset (R72, R98); `linkDownPending` that the log is still to begin with LINK_DOWN (R96). -/
structure Endpoint where
  linkTrained : Bool := false
  trainedBefore : Bool := false
  linkDownPending : Bool := false
  busMaster : Bool := false
  memorySpace : Bool := false
  intDisable : Bool := false
  power : PowerState := .d0
  answered : Bool := false
  cfg : Tbl Nat Nat := []
  aerUncorrectable : Nat := 0
  aerCorrectable : Nat := 0
  firmwareReady : Bool := false
  selftestDone : Bool := false
  memoryReady : Bool := false
  lastReset : Nat := 1
  resetSequence : Nat := 0
  mailboxPending : Bool := false
  intEnable : Nat := 0
  genSeen : Nat := 0
  intaWire : Bool := false
  deriving DecidableEq, Repr, Inhabited
/-! ### The Junction (R104 to R137) -/

/-- An item of an RTP payload (R112): a whole NAL unit or OBU, a fragment of one (first, last, header, data), or a piece of a
JPEG scan (offset, header, data). -/
inductive RtpItem where
  | whole (data : List Byte)
  | fragment (first last : Bool) (header data : List Byte)
  | jpeg (offset : Nat) (header data : List Byte)
  deriving DecidableEq, Repr

/-- A packet held in a reorder window: timestamp, marker, and its items unless its packetisation is not supported. -/
structure HeldPacket where
  timestamp : Nat
  marker : Bool
  items : Option (List RtpItem)
  deriving DecidableEq, Repr

/-- A packet set aside (R125). -/
structure AsidePacket where
  sequence : Nat
  packet : HeldPacket
  deriving DecidableEq, Repr

/-- A reorder window (R121 to R125), over extended sequence numbers: the oldest not yet handed on, the highest received, the
packets held, the gaps with the ticks their timers started at, the losses, numbers handed on lately, the packet set aside, and
where end of data or a resynchronisation ends the unit in assembly. -/
structure Window where
  started : Bool := false
  next : Nat := 0
  highest : Nat := 0
  held : Tbl Nat HeldPacket := []
  gaps : List (Nat × Nat) := []
  losses : List Nat := []
  gone : List Nat := []
  aside : Option AsidePacket := none
  endAt : Option Nat := none
  endDamaged : Bool := false
  /-- The window has restarted: the next unit it gives carries the discontinuity flag (R125). -/
  discontinuity : Bool := false
  deriving DecidableEq, Repr, Inhabited

/-- A unit that is complete or settled, before it is handed on: its NAL units or OBUs, its timestamp of a kind (R128), and whether
it is damaged or a key picture. -/
structure AuUnit where
  parts : List (List Byte)
  timestamp : Option Nat
  kind : Nat
  damaged : Bool
  key : Bool
  discontinuity : Bool := false
  deriving DecidableEq, Repr

/-- What fixes the layout of a stream's frame buffers at enable (R151). -/
structure FrameForm where
  maxWidth : Nat
  maxHeight : Nat
  tenBit : Bool
  deriving DecidableEq, Repr, Inhabited

/-- A unit handed on with its descriptor (R129), its codec, the configuration it was assembled under (R120), and its NAL units that R140
discards. -/
structure AccessUnit where
  stream : Nat
  flags : Nat
  sequence : Nat
  pointer : Nat
  pool : Nat
  length : Nat
  timestamp : Nat
  wraps : Nat
  kind : Nat
  codec : Nat
  maxWidth : Nat
  maxHeight : Nat
  maxFps : Nat
  tenBit : Bool := false
  dpbMax : Nat := 6
  releaseConcealed : Bool := true
  nalsDiscarded : Nat := 0
  deriving DecidableEq, Repr

/-- The layout of the frame buffers of a unit's stream, as its enable fixed it (R151). -/
def AccessUnit.form (u : AccessUnit) : FrameForm := { maxWidth := u.maxWidth, maxHeight := u.maxHeight, tenBit := u.tenBit }

/-- A unit in a pre-event ring (R132): its first cell, its cells, its descriptor. -/
structure RingUnit where
  cell : Nat
  cells : Nat
  unit : AccessUnit
  deriving DecidableEq, Repr

/-- A key-picture group of a pre-event ring, with the clips that pin it (R133, R134). -/
structure RingGroup where
  units : List RingUnit
  pins : List Nat := []
  deriving DecidableEq, Repr

/-- A transport stream in parsing (R114): the last continuity counter and the packet that had it, whether a PES packet is open, its bytes so far, and the
positions among them at which continuity was lost. -/
structure TsState where
  counter : Option Nat := none
  last : List Byte := []
  opened : Bool := false
  bytes : List Byte := []
  breaks : List Nat := []
  deriving DecidableEq, Repr, Inhabited

/-- A sample a movie fragment announces (R115): where in the file it lies, size, presentation time, whether it is a key picture. -/
structure Sample where
  place : Nat
  size : Nat
  time : Nat
  key : Bool
  deriving DecidableEq, Repr

/-- A fragmented file in parsing (R115): the configuration record's sets, still to be prepended or not, whether an
initialisation segment that matches has been read, the samples of the fragment still to come, and the bytes of the boxes parsed so
far. -/
structure FileState where
  timescale : Nat := 0
  ready : Bool := false
  sets : List (List Byte) := []
  prepend : Bool := false
  nalLength : Nat := 4
  samples : List Sample := []
  place : Nat := 0
  badFragment : Bool := false
  deriving DecidableEq, Repr, Inhabited

/-- The states of a stream (R119). -/
inductive StreamPhase where
  | stopped | waiting | running | draining | discarding | error
  deriving DecidableEq, Repr, Inhabited

/-- A stream context beside its objects. `scalable` says that an AV1 stream has more than one operating point (R112), `blocked` that its ring
takes nothing because of a pinned group (R134). -/
structure Stream where
  phase : StreamPhase := .stopped
  restart : Bool := false
  ssrc : Option Nat := none
  window : Window := {}
  carry : List Byte := []
  ts : TsState := {}
  file : FileState := {}
  ready : List AuUnit := []
  sequence : Nat := 0
  lastTimestamp : Nat := 0
  anyTimestamp : Bool := false
  wraps : Nat := 0
  handed : Nat := 0
  damagedBefore : Bool := false
  discontinuity : Bool := false
  first : Bool := true
  claimed : Bool := false
  ringActive : Bool := false
  ring : List RingGroup := []
  /-- The unit sequence of the last unit appended to the ring (R169). -/
  appended : Option Nat := none
  blocked : Bool := false
  scalable : Bool := false
  deriving DecidableEq, Repr, Inhabited

/-- A datagram that waits for the station address of its next hop (R106). -/
structure WaitingDatagram where
  hop : Nat
  address : Nat
  destination : Nat
  source : Nat
  data : List Byte
  deriving DecidableEq, Repr

/-- An Ethernet port beside its objects: its neighbours (128-bit address, station address), newest first, and the datagrams that wait for one
(R106); the groups it has joined, in the order it joined them (R108). -/
structure EthPort where
  up : Bool := false
  neighbours : List (Nat × Nat) := []
  waiting : List WaitingDatagram := []
  joined : List Nat := []
  deriving DecidableEq, Repr, Inhabited

/-- A datagram passed to the dictionary that waits to be served (R44, R110). -/
structure Datagram where
  port : Nat
  family : Nat
  source : Nat
  sourcePort : Nat
  data : List Byte
  deriving DecidableEq, Repr
/-! ### Decode (R138 to R166) -/

/-- A frame buffer of a stream with its marks (R153) and what its picture carries downstream (R155). Until its picture has finished, `engine`
is the engine that decoded it, and `unitHeld` says that its access-unit buffer is still to return. -/
structure Frame where
  pointer : Nat
  pool : Nat := 0
  unit : AccessUnit
  width : Nat
  height : Nat
  bitDepth : Nat
  key : Bool
  order : Nat
  id : Nat
  reference : Bool := false
  awaiting : Bool := false
  held : Nat := 0
  source : Bool := false
  concealed : Bool := false
  grey : Bool := false
  tainted : Bool := false
  passOver : Bool := false
  engine : Option Nat := none
  unitHeld : Bool := false
  deriving DecidableEq, Repr

/-- The access-unit buffer of the frame's picture has not returned (R155). -/
def Frame.holdsUnit (f : Frame) : Bool := f.unitHeld

/-- A picture in decode: the unit, its headers, its buffer with its pool, the tick its engine took it (R163), and the clip it is decoded for, if
any. -/
structure DecodeJob where
  unit : AccessUnit
  header : PictureHeader
  pointer : Nat
  pool : Nat := 0
  start : Nat := 0
  clip : Option Nat := none
  deriving DecidableEq, Repr

/-- A stream as the decoder holds it: its frame buffers in decode order, whether its reserve is claimed, whether it waits for a
key picture after a rejection and with which code, after a firmware switch, or for want of buffers, whether a discontinuity or a
key picture bars its next picture from unchanged blocks (R157), the last picture's form, and how many pictures may wait for their place in
output order (R154). -/
structure DecodeStream where
  frames : List Frame := []
  reorder : Nat := 0
  claimed : Bool := false
  rejected : Option Nat := none
  switching : Bool := false
  noBuffers : Bool := false
  lastOutput : Option Nat := none
  freshOutput : Bool := true
  barred : Bool := false
  width : Nat := 0
  height : Nat := 0
  bitDepth : Nat := 0
  deriving DecidableEq, Repr, Inhabited

/-- A picture released to the Calender (R155), with the Calender that has it in service, whether it waits in its slot for an output
buffer, and the buffer it has with its pool (R195, R200). -/
structure Picture where
  stream : Nat
  flags : Nat
  sequence : Nat
  pointer : Nat
  width : Nat
  height : Nat
  timestamp : Nat
  wraps : Nat
  kind : Nat
  form : FrameForm := default
  engine : Option Nat := none
  waited : Bool := false
  buffer : Option Nat := none
  bufferPool : Nat := 0
  /-- Its stream has stopped since it was released: it has no history (R205). -/
  old : Bool := false
  deriving DecidableEq, Repr
/-! ### Egress (R386 to R391) and clips (R167 to R192) -/

/-- A sealed batch waiting in its egress buffer for its destinations (R389), and whether its egress has missed R391. -/
structure HeldBatch where
  stream : Nat
  context : Nat
  sequence : Nat
  pointer : Nat
  length : Nat
  ringDone : Bool
  udpDone : Bool
  missed : Bool := false
  /-- Bus Master Enable was clear while the batch waited for its ring: fetching resumes after it (R91). -/
  parked : Bool := false
  deriving DecidableEq, Repr

/-- A picture of a clip that waits to be encoded or is in encode: its buffer in encode.clip_pool, its place in the clip, the ring
group it came from, and whether its copy is complete. -/
structure ClipPicture where
  pointer : Nat
  sequence : Nat
  wraps : Nat
  timestamp : Nat
  kind : Nat
  width : Nat
  height : Nat
  bitDepth : Nat := 8
  form : FrameForm := default
  concealed : Bool
  fromRing : Bool
  order : Nat
  ready : Bool
  source : Nat
  deriving DecidableEq, Repr

/-- Rate control and refresh of a clip (R180 to R184). -/
structure ClipControl where
  fullness : Nat := 0
  qp : Option Nat := none
  lastBits : List Nat := []
  keyRequested : Bool := false
  sinceKey : Nat := 0
  column : Nat := 0
  encoded : Nat := 0
  deriving DecidableEq, Repr, Inhabited

/-- An open clip (R167 to R172). `units` are the ring units still to be decoded; live pictures are those of units from `liveFrom` on. -/
structure Clip where
  stream : Nat
  codec : Nat
  endless : Bool
  rtp : Bool
  postMs : Nat
  profile : Nat
  target : Nat
  eventTime : Nat
  eventWraps : Nat
  kind : Nat
  liveFrom : Nat
  accepted : Nat
  tenBit : Bool
  units : List RingUnit := []
  pictures : List ClipPicture := []
  inService : Option ClipPicture := none
  livePassed : Bool := false
  stopping : Bool := false
  shortPre : Bool := false
  gap : Bool := false
  concealed : Bool := false
  streamEnded : Bool := false
  dropped : Nat := 0
  bytes : Nat := 0
  firstTime : Option Nat := none
  lastTime : Nat := 0
  rtpSequence : Nat := 0
  /-- The previous encoded picture as its codec rebuilds it, with its width and height: the one reference of a P picture (R173). -/
  reference : Option (Nat × Nat × Planes) := none
  rc : ClipControl := {}
  deriving DecidableEq, Repr

/-- The place of an engine's on-die window of reference samples (R177): its left and top edge, its width and height, in luma samples. -/
structure SearchWindow where
  left : Int
  top : Int
  width : Nat
  height : Nat
  deriving DecidableEq, Repr, Inhabited

/-- A picture in encode: the clip, the picture, whether it is to be a key picture, its QP, the most bits a P picture may take, the
block columns refreshed and how many pictures their cycle has, the mask element in force when it began (R176), the window loaded for its first
block (R178), the level of its clip (R173), and, as its profile stood then, whether its rate is capped, the size of the rate buffer and what
it loses by each picture (R179, R180). -/
structure EncodeJob where
  clip : Nat
  picture : ClipPicture
  key : Bool
  qp : Nat
  limit : Option Nat
  columns : Nat × Nat
  cycle : Nat := 0
  mask : Nat
  window : SearchWindow := default
  level : Nat := 0
  capped : Bool
  size : Nat
  drain : Nat
  deriving DecidableEq, Repr
/-! ### The Calender (R193 to R211) -/

/-- A stream as the Calender holds it: its history buffer, whether its output reserve is held, whether no frame has been handed on
since it was enabled, and whether a reset interrupted the writes of its history, and the size of the level 0 in it (R200, R205). -/
structure CalStream where
  history : Option Nat := none
  claimed : Bool := false
  fresh : Bool := true
  stale : Bool := false
  width : Nat := 0
  height : Nat := 0
  deriving DecidableEq, Repr, Inhabited

/-- A frame the Calender has handed on (R201, R202): what its header says, the place of its hand-on among all, the size of the
decoded picture, the contexts that hold it (R317), and those that counted it under R419. -/
structure CalFrame where
  stream : Nat
  flags : Nat
  sequence : Nat
  pointer : Nat
  pool : Nat := 0
  width : Nat
  height : Nat
  levels : Nat
  planes : Nat
  timestamp : Nat
  wraps : Nat
  kind : Nat
  number : Nat
  pictureWidth : Nat
  pictureHeight : Nat
  hasMap : Bool
  holds : List Nat := []
  missed : List Nat := []
  deriving DecidableEq, Repr
/-! ### Press cores (R212 to R246) -/

/-- A weight tile as a pass loaded it (R220, R250, R348): its bytes, the mode word, the pass record that loads it, Kprev, and the window
descriptors of its quadrants as numbers. -/
structure WeightTile where
  bytes : List Byte
  mode : Nat
  loader : Nat
  kprev : Nat
  windows : List (Nat × Nat)
  deriving DecidableEq, Repr, Inhabited

/-- One accumulator half (R224): entries by column and entry, and the M of the write pass since it was last drained. -/
structure AccHalf where
  cells : Tbl (Nat × Nat) Nat := []
  opened : Option Nat := none
  deriving DecidableEq, Repr, Inhabited

/-- What a drain writes of one quadrant, or of the whole array in gang mode (R225, R253): the half and its first column, the
destination, the state slot whose biases it takes, the first output position, and the vectors it has. -/
structure DrainTo where
  half : Nat
  column : Nat
  dest : Nat
  slot : Nat
  stream : Nat
  position : Nat
  vectors : Nat
  deriving DecidableEq, Repr

/-- A drain to come (R225): the mode word and operands of its pass, the halves as the pass left them, and the cycle at which each
entry is read. -/
structure DrainJob where
  mode : Nat
  constants : Nat
  pitch : Nat
  tensor : Nat
  channel : Nat
  tgt : List DrainTo
  half0 : AccHalf
  half1 : AccHalf
  reads : List Nat
  deriving DecidableEq, Repr

/-- An array between passes (R220 to R225): its accumulator halves, its two weight sets, the tag of its last pass, whether no pass has
entered since it was released, E of the last pass and its mode, E of the last pass that used each set, the cycle at which the shift chain
of column 0 has done the last load (R221), the cycles at which the latest drain of each half reads, the drains to come, the cycle of the boundary it has reached, and whether it stands at it. Cycles count from
the release of the core. -/
structure PressArray where
  halfA : AccHalf := {}
  halfB : AccHalf := {}
  set0 : Option WeightTile := none
  set1 : Option WeightTile := none
  tag : Bool := false
  idle : Bool := true
  ended : Nat := 0
  split : Bool := false
  used0 : Nat := 0
  used1 : Nat := 0
  loadEnd : Nat := 0
  readsA : List Nat := []
  readsB : List Nat := []
  drains : List DrainJob := []
  boundary : Option Nat := none
  stopped : Bool := false
  deriving DecidableEq, Repr, Inhabited

/-- A draw region a RANDOM_FILL of a command has filled (R257, R274): the tensor, the purpose, the step and the stream, the first logical
16-bit index, how many, and where it lies in the Press buffer. -/
structure DrawRegion where
  tensor : Nat
  purpose : Nat
  step : Nat
  stream : Nat
  first : Nat
  count : Nat
  address : Nat
  deriving DecidableEq, Repr

/-- A Press core: the command in service, its Press buffer, its vector registers and scalar and control bytes (R235), its arrays, the
context served last (R407), the core's own cycle count at its release, modulo 64, once a pass has entered since (R483), and `some k` once its
shell has lost its contents for the k-th time (R25). -/
structure Core where
  serving : Option (Nat × Nat × Nat) := none
  buffer : List Host.Cell := []
  vregs : Tbl (Nat × Nat) Nat := []
  scalars : Tbl Nat Byte := []
  array0 : PressArray := {}
  array1 : PressArray := {}
  last : Nat := 0
  origin : Option Nat := none
  lost : Option Nat := none
  deriving DecidableEq, Repr, Inhabited
/-! ### Plans (R301 to R330) and the Yard (R396 to R435) -/

/-- A variant's manifest (R305). -/
structure Manifest where
  wclass : Nat
  cls : Nat
  reduced : Bool
  sround : Bool
  enrol : Bool
  dw7120 : Bool
  grid : Nat
  halves : Nat
  lanesTimed : Nat
  cacheMin : Nat
  batchMax : Nat
  maxStreams : Nat
  bounds : Nat
  vatBytes : Nat
  pressBytes : Nat
  ledgerBytes : Nat
  biasChannels : Nat
  frameHold : Nat
  storeBytes : Nat
  inLevels : Nat
  inPlanes : Nat
  inWidth : Nat
  inHeight : Nat
  deriving DecidableEq, Repr, Inhabited

/-- A section of an admitted package: its type, its variant, where it lies in the store block, its length (R303, R315). -/
structure PlanSection where
  kind : Nat
  variant : Nat
  offset : Nat
  length : Nat
  deriving DecidableEq, Repr, Inhabited

/-- The entry of the bounds table for one dimension (R327). -/
structure BoundEntry where
  max : Nat
  source : Nat
  fatal : Bool
  offset : Nat
  deriving DecidableEq, Repr, Inhabited

/-- An entry of a command list (R320). -/
structure ListEntry where
  engine : Nat
  frameLoop : Bool
  stepEnd : Bool
  cell : Nat
  waitCounter : Nat
  signalCounter : Nat
  waitCount : Nat
  signalCount : Nat
  boundsUsed : Nat
  body : Nat
  bodyBytes : Nat
  deriving DecidableEq, Repr, Inhabited

/-- Where an entry of a step stands: placed in its queue with its wait armed or met, at its engine, in service, suspended, done by
its engine, and complete with its signals given (R404, R407, R412). -/
inductive EntryState where
  | placed | queued | service | suspended | done | complete
  deriving DecidableEq, Repr, Inhabited

/-- The wait an entry or an operation has armed: the counter as it names it and the need, the remote wait's number where the
counter is another device's, and whether it has been met (R414, R424). -/
structure Armed where
  counter : Nat
  need : Nat
  remote : Option Nat := none
  met : Bool := false
  deriving DecidableEq, Repr

/-- A crop list a Deckle command works through (R206): its address, how many entries it cuts, where the results go, and how many
entries are cut. -/
structure CropWork where
  list : Nat
  count : Nat
  results : Nat
  cut : Nat := 0
  deriving DecidableEq, Repr

/-- A setting as it was before a write that takes effect only at the next operation that begins (R373, R375, R393): an element of an
object, or a watch list with its count and its stored bytes. -/
inductive OldSetting where
  | elem (o : Obj) (i value : Nat)
  | watchList (list count : Nat) (bytes : List Byte)
  deriving DecidableEq, Repr

/-- One expanded entry of a step (R404): the frame of the step it is for, its place among everything dispatched, the core its cell
is placed on, whether a dimension it reads is 0 (R329), whether it stands at a switch
point, its wait, its crop work, and the slices a tracker engine or Points has it in (R361),
the context counters its body has signalled, the pass records entered so far by array (R321), its draw regions (R274), whether its
operation has begun on a tracker engine or Points engine, and the settings replaced since, which it still works with. -/
structure StepEntry where
  e : ListEntry
  frame : Option Nat := none
  order : Nat := 0
  core : Nat := 0
  state : EntryState := .placed
  idle : Bool := false
  atSwitch : Bool := false
  wait : Option Armed := none
  crops : Option CropWork := none
  engine : Option Nat := none
  boundaries : Nat := 0
  given : List Nat := []
  passed : List (Nat × Nat) := []
  draws : List DrawRegion := []
  begun : Bool := false
  olds : List OldSetting := []
  deriving DecidableEq, Repr, Inhabited

/-- What DETECT leaves of a frame for its batch (R382, R383): flags, records, deleted tracks; and for R390 its T_d and T_e, and whether
an earlier latency-critical entry was still waiting. -/
structure Detections where
  flags : Nat := 0
  records : List (List Byte) := []
  ends : List (List Byte) := []
  td : Nat := 0
  te : Nat := 0
  late : Bool := false
  deriving DecidableEq, Repr, Inhabited

/-- A frame bound in a step: the frame, its state slot, the cause for which it has no history, its batch's parts, whether its
batch is sealed, and whether its outputs are withheld (R355). -/
structure StepFrame where
  frame : CalFrame
  slot : Nat
  cause : Option Nat := none
  found : Detections := {}
  sealed : Bool := false
  withheld : Bool := false
  deriving DecidableEq, Repr

/-- A batch step in flight (R400 to R404). -/
structure Step where
  number : Nat
  instance_ : Nat
  reduced : Bool
  frames : List StepFrame
  entries : List StepEntry
  dims : Tbl Nat Nat := []
  clamped : Bool := false
  deriving DecidableEq, Repr

/-- A stream bound to a plan, or work bound to no stream under 0xFFFF (R316): its slot and seed, its next batch sequence, the ledger
header of its slot (R337), the flags of `recompute.stream.state` (R358), and the PLAN_UNBIND that waits for it. -/
structure Binding where
  stream : Nat
  slot : Nat
  seed : Nat
  batch : Nat := 0
  history : Bool := false
  lastUnit : Nat := 0
  computed : Nat := 0
  dims : Tbl Nat Nat := []
  first : Bool := true
  lost : Bool := false
  missed : Bool := false
  faulted : Bool := false
  switched : Bool := false
  biases : List Int := []
  dirtyShare : Nat := 0
  lastCause : Nat := 0
  leaving : List (Nat × Nat) := []
  deriving DecidableEq, Repr

/-- A frame ready for a context, and the tick it became so (R398). -/
structure Ready where
  number : Nat
  stream : Nat
  since : Nat
  deriving DecidableEq, Repr

/-- A frame held after its step by frame_hold, and the later frames of its stream bound since (R317). -/
structure Kept1 where
  number : Nat
  stream : Nat
  later : Nat
  ended : Bool
  deriving DecidableEq, Repr

/-- A frame of an abandoned step whose batch waits for those of the stream's earlier frames (R385, R432). -/
structure LateSeal where
  frame : CalFrame
  code : Nat
  area : Nat
  deriving DecidableEq, Repr

/-- States of a context with a plan (R396); a context with no entry is free. -/
inductive YardState where
  | idle | active | faulting | halted | closing
  deriving DecidableEq, Repr, Inhabited

/-- A context that holds a plan. -/
structure Context where
  state : YardState := .idle
  latency : Bool
  variant : Nat
  coreOffset : Nat
  manifest : Manifest
  seed : Nat
  planId : Nat
  digest : Nat
  sections : List PlanSection
  store : Nat
  block : Nat
  save : Nat
  scratch : Nat
  counters : Nat
  placement : List Nat := []
  reduced : Bool := false
  bindings : List Binding := []
  ready : List Ready := []
  kept : List Kept1 := []
  steps : List Step := []
  gathered : Bool := false
  credit : Nat := 0
  dispatched : Nat := 0
  completed : Nat := 0
  gatherOut : Nat := 0
  shapeClamps : Nat := 0
  faults : Nat := 0
  faultCode : Nat := 0
  faultArea : Nat := 0
  faultDetail : Nat := 0
  late : List LateSeal := []
  unloading : List (Nat × Nat) := []
  facts : PlanFacts
  deriving DecidableEq, Repr

/-- Who waits on a counter (R424): an entry of a step or an operation of one in service, or a remote wait of another device. -/
inductive Who where
  | entry (context step pos : Nat)
  | remote (device id : Nat)
  deriving DecidableEq, Repr

/-- A waiter in a counter's queue, its need, and whether it boosts the counter's holder (R418): it is latency-critical, and the holder
has not signalled the counter since it came. -/
structure Waiter where
  who : Who
  need : Nat
  boosts : Bool
  deriving DecidableEq, Repr

/-- A wait of this device on a counter of another (R414, R522). -/
structure RemoteWait where
  id : Nat
  device : Nat
  context : Nat
  step : Nat
  pos : Nat
  deriving DecidableEq, Repr
/-! ### Tracks and Points (R366 to R381) -/

/-- States of a track (R370). -/
inductive TrackState where
  | tentative | confirmed | coasting
  deriving DecidableEq, Repr, Inhabited

/-- One coordinate of a track's filter, FP32 (R368): position, velocity and covariance. -/
structure Kalman where
  p : Nat
  v : Nat
  a : Nat
  b : Nat
  c : Nat
  deriving DecidableEq, Repr, Inhabited

/-- What a rule keeps of a track (R377): the debounced state, none while unknown; how many frames the other state has held; the
stream time its stay began, and whether its dwell event has been given. -/
structure RuleTrack where
  inside : Option Bool := none
  other : Nat := 0
  since : Nat := 0
  dwelt : Bool := false
  deriving DecidableEq, Repr, Inhabited

/-- A track (R366): its detection's box in quarter luma samples, its filter for cx, cy, w and h, the unit it last matched and the unit of
its last crop, its embedding, the anchor data of its last EVALUATE (unit and box), what each rule keeps of it, and the watch entries
reported for it. -/
structure Track where
  id : Nat
  state : TrackState
  cls : Nat
  hits : Nat
  misses : Nat
  filter : List Kalman
  box : List Nat
  lastUnit : Nat
  lastTimestamp : Nat
  lastCrop : Option Nat := none
  embedding : Option (List Nat) := none
  prev : Option (Nat × List Nat) := none
  rules : Tbl Nat RuleTrack := []
  reported : List (Nat × Nat) := []
  deriving DecidableEq, Repr, Inhabited

/-- A watch list match waiting for Points (R374): track, class, box, list, entry, its id, the similarity, and the crop's unit. -/
structure Match where
  track : Nat
  cls : Nat
  box : List Nat
  list : Nat
  entry : Nat
  entryId : Nat
  similarity : Nat
  unit : Nat
  deriving DecidableEq, Repr

/-- A confirmed track deleted while inside zones, for the next EVALUATE (R377). -/
structure Gone where
  track : Nat
  cls : Nat
  box : List Nat
  rules : Tbl Nat RuleTrack
  deriving DecidableEq, Repr

/-- A track set (R366, R367): the entries of its reserve, the ones it still lacks, its tracks in rising id, the next id, the unit of its
last DETECT, the matches and deleted tracks that wait for Points, and what count rules last counted. -/
structure TrackSet where
  context : Nat
  stream : Nat
  reserve : Nat
  short : Nat
  tracks : List Track := []
  nextId : Nat := 1
  lastUnit : Nat := 0
  fresh : Bool := true
  matchQueue : List Match := []
  gone : List Gone := []
  counts : Tbl Nat Nat := []
  deriving DecidableEq, Repr, Inhabited

/-- What a tracker or Points engine has in service (R361): the entry, and slices done. -/
structure SliceJob where
  context : Nat
  step : Nat
  pos : Nat
  deriving DecidableEq, Repr

/-- A discrete line (R380, R573 to R576): the tick its pulses end, its latch, the host's assertion, whether its owner has set it since
its configuration took effect, and the filtered level of its ball. -/
structure DioLine where
  pulseEnd : Option Nat := none
  latched : Bool := false
  host : Bool := false
  taken : Bool := false
  level : Bool := false
  deriving DecidableEq, Repr, Inhabited

/-- A CAN FD event frame in the queue of R381. -/
structure CanFrame where
  identifier : Nat
  extended : Bool
  data : List Byte
  deriving DecidableEq, Repr
/-! ### Sidings and LPDDR6 (R448 to R475) -/

/-- A reserve an owner holds in a class of a pool (R453). -/
structure Reserve where
  owner : Nat
  cls : Nat
  amount : Nat
  deriving DecidableEq, Repr

/-- An enabled pool (R448 to R456): its first on-die state bit, the buffers allocated with their owner tags, in rising
buffer number, its reserves, the entries in its free-ring cache, and the fewest buffers free since it was enabled. -/
structure Pool where
  on : Bool := false
  broken : Bool := false
  firstBit : Nat := 0
  allocated : List (Nat × Nat) := []
  reserves : List Reserve := []
  ring : Nat := 0
  fewest : Nat := 0
  deriving DecidableEq, Repr, Inhabited

/-- The rank behind one entry of `lpddr6.remap`: refreshes postponed, whether it was last read above 85 °C, and corrected
errors counted in the ce_limit period that began at a tick (R463, R466). -/
structure Rank where
  postponed : Nat := 0
  hot : Bool := false
  corrected : Nat := 0
  periodStart : Nat := 0
  deriving DecidableEq, Repr, Inhabited

/-- The migration in progress (R467): logical rank, target entry, units whose written bit is set, units poisoned. -/
structure Migration where
  rank : Nat
  target : Nat
  written : List Nat := []
  poisoned : Nat := 0
  deriving DecidableEq, Repr

/-- The LPDDR6 controller beside its objects: ranks by remap entry, migrations queued with their reserved spares, the one in
progress, ranks that have failed without a spare, those among them that take no write (R470), and the tick at which the log last raised LOG. -/
structure Lpddr where
  ranks : Tbl Nat Rank := []
  queued : List (Nat × Nat) := []
  current : Option Migration := none
  lost : List Nat := []
  dead : List Nat := []
  logRaised : Option Nat := none
  logWrapped : Bool := false
  deriving DecidableEq, Repr, Inhabited

/-! ### Power (R476 to R513) -/

/-- A domain: whether its clock runs, whether it is powered, the tick a wake admitted for it makes it ready, and the tick since which its
engine has had no command. -/
structure DomainState where
  running : Bool := false
  powered : Bool := false
  readyAt : Option Nat := none
  idleSince : Option Nat := none
  deriving DecidableEq, Repr, Inhabited

/-- The Gauge, the operating point controller, the rail and the thermal sensors beside their objects. Powers are FP32 encodings in W. -/
structure Power where
  /-- Domains, and those a command waits for with its class, oldest first (R477, R478, R485). -/
  domains : Tbl Domain DomainState := []
  wanted : List (Domain × Bool) := []
  /-- P_est of the last four epochs, newest first, and P_pred after the changes admitted (R485). -/
  hist : List Nat := []
  pred : Nat := 0
  epoch : Nat := 0
  /-- The sum and the number of the epochs' P_est since the last reading (R481, R500). -/
  sumEst : Rat := 0
  countEst : Nat := 0
  /-- The last 64 readings with their Ē, newest first; consecutive missing and disagreeing readings (R500 to R502). -/
  readings : List (Nat × Nat) := []
  missing : Nat := 0
  disagree : Nat := 0
  /-- The tick of the last accepted cap write (R495). -/
  leaseFrom : Nat := 0
  /-- The point a change in progress goes to (R488), and consecutive epochs of its conditions and those of R491, R496 and R497. -/
  changeTo : Option Nat := none
  highFor : Nat := 0
  lowFor : Nat := 0
  lcFor : Nat := 0
  lcZeroFor : Nat := 0
  overFor : Nat := 0
  underFor : Nat := 0
  uncappedFor : Nat := 0
  /-- cap_eff was not above floor in the last epoch (R496). -/
  below : Bool := false
  /-- Demands of the last 39,063 epochs that no later one exceeds, oldest first, with their epochs (R492). -/
  demands : List (Nat × Nat) := []
  /-- Epochs at or above 105 °C, and at or below 100 °C (R507); whether throttling has begun and not recovered. -/
  hotFor : Nat := 0
  coolFor : Nat := 0
  throttling : Bool := false
  /-- The last raw reading of each sensor and the tick since which it has not changed; the failed sensors (R506). -/
  sensors : Tbl Nat (Int × Nat) := []
  failed : List Nat := []
  /-- The latched thermal trip (R509). -/
  tripped : Bool := false
  /-- The arithmetic rail in mV; whether its last write failed; powered hours at the start of the quiet span; consecutive readings of at
  least M + 15 mV; the tick of the last daily record (R503 to R505). -/
  rail : Nat := 0
  avsFailed : Bool := false
  quietFrom : Nat := 0
  slackOk : Nat := 0
  lastDaily : Nat := 0
  deriving DecidableEq, Repr, Inhabited
/-! ### Coupling ports (R514 to R530) -/

/-- A Coupling port beside its objects: credits of the control and signal classes, messages that wait for one, messages received and
not taken, failures of the block last received bad, lanes found failed, the tick of its last try to train, whether it comes up again
without training after a reset of the device (R527), and whether the transfer its next units belong to has been denied (R524). -/
structure CoupPort where
  control : Nat := 32
  signal : Nat := 64
  waiting : List CouplingMessage := []
  inbox : List CouplingMessage := []
  badRun : Nat := 0
  badLanes : List Nat := []
  lastTry : Nat := 0
  resuming : Bool := false
  denied : Bool := false
  deriving DecidableEq, Repr, Inhabited
/-! ### The repair ledger (R546 to R548) -/

/-- An entry of the repair ledger (R546): its fields, the data of its kind, and the digest of the entry before it. -/
structure LedgerEntry where
  sequence : Nat
  kind : Nat
  unitType : UnitType
  unit : Nat
  sub : Nat
  hours : Nat
  boots : Nat
  data : List Byte
  prev : Nat := 0
  deriving DecidableEq, Repr

/-- The repair ledger as the flash holds it: the entries of each half, the half in use, and the appends that wait for a flash
step to end (R533). -/
structure Ledger where
  half0 : List LedgerEntry := []
  half1 : List LedgerEntry := []
  active : Nat := 0
  waiting : List LedgerEntry := []
  stepping : Bool := false
  identity : Bool := false
  deriving DecidableEq, Repr, Inhabited
/-! ### Boot and trust (R531 to R558) -/

/-- A firmware slot of the flash: its bytes as programmed so far, and whether they hold an image that has verified. -/
structure FwSlot where
  bytes : List Byte := []
  verified : Bool := false
  deriving DecidableEq, Repr, Inhabited

/-- How the running slot stands (R555). -/
inductive SlotState where
  | confirmed | trial
  deriving DecidableEq, Repr, Inhabited

/-- A staging command whose flash steps run (R533): its queue and index, the erase and program steps to come, and, for CONFIG_STAGE, the
section it writes. -/
structure FlashJob where
  queue : Nat
  index : Nat
  erases : Nat
  programs : Nat
  section_ : Option OwnerSection := none
  deriving DecidableEq, Repr

/-- The flash as it stands and what the last boot found (R532, R541, R552 to R555): both copies of the first stage, the configuration
copies, the firmware slots; the sections in use, the areas of the entries of the value list that were clamped, the running slot with its state and the
boots left, the last confirmed slot, whether pieces are being staged, the flash steps that run, and the FW_ACTIVATE that runs. -/
structure Boot where
  first0 : List Byte := []
  first1 : List Byte := []
  copy0 : ConfigCopy := { factory := none, owner := none }
  copy1 : ConfigCopy := { factory := none, owner := none }
  slotA : FwSlot := {}
  slotB : FwSlot := {}
  factory : Option FactorySection := none
  owner : Option OwnerSection := none
  clamped : List Nat := []
  running : Nat := 0
  state : SlotState := .confirmed
  trialLeft : Nat := 0
  confirmed : Nat := 0
  staging : Bool := false
  job : Option FlashJob := none
  switching : Option (Nat × Nat) := none
  /-- A reset that arrived during the switch, as last_reset names it (R593). -/
  heldReset : Option Nat := none
  /-- Presented units of each type by physical number, where they are not the first ones (R17). -/
  units : Tbl UnitType (List Nat) := []
  deriving DecidableEq, Repr, Inhabited

/-- Where a frame that an Ethernet port sends goes: the port, its VLAN tag (0 for none), and the station address (R105, R106). -/
structure EthTo where
  port : Nat
  vlan : Nat
  mac : Nat
  deriving DecidableEq, Repr

/-- What the device sends to the world outside it. -/
inductive Sent where
  /-- A posted write to host memory (R87): address and bytes. -/
  | hostWrite (address : Nat) (data : List Byte)
  | assertInta
  | deassertInta
  /-- An error message of Advanced Error Reporting (R101). -/
  | aerMessage (fatal : Bool) (error : Nat)
  /-- The completion of a host read of BAR0 or BAR2: bytes, and whether it is poisoned. -/
  | readCompletion (data : List Byte) (poisoned : Bool)
  /-- An access answered with Unsupported Request. -/
  | unsupportedRequest
  /-- The completion of a configuration request: Request Retry Status, or a value. -/
  | configRetry
  | configCompletion (value : Nat)
  /-- A UDP datagram: where its frame goes, destination address in 128-bit form, destination and source UDP port, payload. -/
  | udp (peer : EthTo) (address destination source : Nat) (data : List Byte)
  /-- A CAN FD frame of the dictionary transfer: identifier and data (R66, R67). -/
  | canSegment (identifier : Nat) (data : List Byte)
  /-- What an Ethernet port answers or announces of its own (R106, R108): an ARP reply or neighbour advertisement for one of
  its addresses, an echo reply, a membership report or leave for a group and a source. -/
  | neighborReply (peer : EthTo) (address target : Nat)
  | echoReply (peer : EthTo) (destination source : Nat) (data : List Byte)
  | membership (peer : EthTo) (group source : Nat) (leave : Bool)
  /-- An ARP request or Neighbor Solicitation for a next hop (R106). -/
  | neighborRequest (peer : EthTo) (hop : Nat)
  /-- A PMBus command to the page of an element of `power.vrm.page`: OPERATION off (R509). -/
  | operationOff (element : Nat)
  /-- The arithmetic rail set through AVSBus, in mV (R503). -/
  | avsWrite (rail millivolts : Nat)
  /-- THERMTRIP_N asserted (R509). -/
  | thermTrip
  /-- A message on a Coupling port (R521). -/
  | coupling (port : Nat) (m : CouplingMessage)
  /-- A credit of a class returned on a Coupling port (R521). -/
  | coupCredit (port : Nat) (cls : CoupClass)
  /-- BOOTSTAT's data register shifted out (R545). -/
  | bootStatus (value : Nat)
  deriving DecidableEq, Repr

/-- The device: all of its state but the queue of waiting commands. -/
structure Dev where
  /-- Always-on ticks since power-on (R6); counted on an idle step. -/
  now : Nat := 0
  /-- The model's own counter of free values drawn so far. -/
  free : Nat := 0
  /-- Every field of every object that does not read its default. -/
  regs : Tbl RegKey Nat := []
  /-- Everything the device has sent, newest first. -/
  sent : List Sent := []
  /-- Device memory: byte address and byte, rising, none equal to what an unlisted byte reads (R74). -/
  mem : List Host.Cell := []
  /-- `some k` after the k-th hot or function-level reset, whose memory contents are undefined (R598). -/
  memFree : Option Nat := none
  /-- Addresses of the 32-byte units that are marked poisoned (R447, R465). -/
  poison : List Nat := []
  /-- Bits [15:8] of the status word (R47). -/
  attention : BitVec 8 := 0
  /-- The attention log's head has wrapped since the log was last cleared (R58). -/
  logWrapped : Bool := false
  lasting : List Lasting := []
  kept : Tbl Nat (List Kept) := []
  canOpen : Option CanTransfer := none
  mailboxes : Tbl Nat Mailbox := []
  queues : Tbl Nat Queue := []
  ep : Endpoint := {}
  streams : Tbl Nat Stream := []
  ports : Tbl Nat EthPort := []
  dictWaiting : List Datagram := []
  /-- Requests of CAN FD transfers that wait to be served, and the transport whose turn of R44 it is: 0 mailbox, 1 UDP, 2 CAN FD. -/
  canWaiting : List Request := []
  dictTurn : Nat := 0
  /-- Entries fetched so far, which orders the pushes of a stream (R113). -/
  fetchCount : Nat := 0
  /-- The queue whose turn of R84 it is, and the entries fetched from it in this turn. -/
  fetchTurn : Nat := 0
  fetchRun : Nat := 0
  /-- Units handed to decode and not yet taken by an engine, oldest first. -/
  handedUnits : List AccessUnit := []
  decoders : Tbl Nat DecodeStream := []
  decodeJobs : Tbl Nat DecodeJob := []
  /-- The tick each engine last faulted at: decode, encode, Calender, Deckle, tracker engines and Press cores. -/
  faults : Tbl (Nat × Nat) Nat := []
  /-- Pictures released and not yet taken by a Calender, in release order. -/
  released : List Picture := []
  held : List HeldBatch := []
  /-- Streams whose next batch written sets dropped_before (R389). -/
  droppedBefore : List Nat := []
  /-- Ticks at which STREAM was last raised, by area, stream and detail. -/
  raisedAt : Tbl (Nat × Nat × Nat) Nat := []
  clips : Tbl Nat Clip := []
  clipCount : Nat := 0
  encodeJobs : Tbl Nat EncodeJob := []
  calStreams : Tbl Nat CalStream := []
  /-- Frames handed on whose buffer has not returned, in the order they were handed on, and how many have been. -/
  frames : List CalFrame := []
  frameCount : Nat := 0
  /-- Numbers of frames handed on that have not become ready yet (R398). -/
  signalled : List Nat := []
  cores : Tbl Nat Core := []
  contexts : Tbl Nat Context := []
  /-- Heap blocks in use, rising: address and bytes (R315); granules of the Vat plan partition in use (R443). -/
  heap : List (Nat × Nat) := []
  scratch : List (Nat × Nat) := []
  /-- Queues of waiters by counter, 256 × context + counter, in arrival order (R421). -/
  waiters : Tbl Nat (List Waiter) := []
  remoteWaits : List RemoteWait := []
  remoteCount : Nat := 0
  /-- Contexts boosted for another device, with the counter (R418). -/
  boosted : List (Nat × Nat) := []
  /-- Counters that another device has signalled or waited on since their window was cleared (R526). -/
  heard : List (Nat × Nat) := []
  /-- Commands of YARD_CONTROL op 0 that wait for the steps in flight (R435). -/
  quiescing : List (Nat × Nat) := []
  /-- Entries dispatched so far, which orders commands (R407). -/
  orderCount : Nat := 0
  trackSets : List TrackSet := []
  /-- What the tracker engines and Points engines have in service, by area and engine (R361). -/
  sliceJobs : Tbl (Nat × Nat) SliceJob := []
  /-- Points engines retired since boot (R394). -/
  pointsRetired : List Nat := []
  dio : Tbl Nat DioLine := []
  /-- Event frames that wait for the bus, and dictionary segments behind them (R68, R381). -/
  canEvents : List CanFrame := []
  canSegments : List CanFrame := []
  pools : Tbl Nat Pool := []
  /-- Lines of the cache partition, most recently used first, as LPDDR6 units (R445). -/
  cache : List Nat := []
  lp : Lpddr := {}
  pw : Power := {}
  coup : Tbl Nat CoupPort := []
  ledger : Ledger := {}
  boot : Boot := {}
  /-- PWRGOOD is high, PERST_N is low, and the code in the instruction register of the test access port (R569, R581). -/
  pwrgood : Bool := false
  perstLow : Bool := true
  tap : Nat := 0xFF
  deriving DecidableEq, Repr, Inhabited

/-- The state of the model: the device, and the commands that wait, first in first out. -/
structure State where
  dev : Dev
  pending : List Instr
  deriving DecidableEq, Repr

/-- Why a run stops with a fault. -/
inductive Fault where
  /-- Raised by no meaning of this model: every address a command can name outside the address space has an effect that
  the spec gives (R74, R442). Kept so that the type has a member; safe. -/
  | unmappedAddress (address : Nat)
  deriving DecidableEq, Repr

/-- Why a command has no meaning. -/
inductive Refusal where
  /-- An arm of `exec` that has no meaning yet; safe. -/
  | notModelled (mnemonic : String)
  /-- Raised by `act` for operands that no such event can carry (`Instr.wf`): a field wider than its
  register, an entry that is not 64 bytes; safe. -/
  | illFormed
  deriving DecidableEq, Repr

/-- The machine right after power-on: every object at its default, PWRGOOD not yet risen, nothing in memory, no command
waiting. -/
def State.reset : State := { dev := {}, pending := [] }

end Sys2Proof.Machine
end

