-- ==== Sys2Proof/WellFormed.lean ====
section
/-! DEFINITION. Which commands are well formed: operands that fit the fields, frames and numbers of units that the
spec gives. A value the device itself checks (R79, R39) is not checked here. -/

namespace Sys2Proof

/-- A request's header fields fit the header of R36. -/
def Request.wf (r : Request) : Bool :=
  r.opcode < 256 && r.flags < 256 && r.tag < 65536 && r.object < 2 ^ 24 && r.reserved < 256 && r.sub < 65536 &&
  r.count < 65536 && r.length < 2 ^ 32

/-- A transport's parameters fit. -/
def Via.wf : Via → Bool
  | .mailbox => true
  | .udp p f s sp e => p < 2 && (f == 4 || f == 6) && s < 2 ^ 128 && sp < 65536 && e < 8
  | .can => true
  | .relay dev => dev < 4

/-- A consumer word has 64 bits. -/
def ConsumerRead.wf : ConsumerRead → Bool
  | .word n => n < 2 ^ 64
  | _ => true

/-- A WRITE request of one object. -/
def writesObject (r : Request) (number : Nat) : Bool := r.opcode == 2 && r.object == number

/-- Every payload byte of a bool write is non-zero (stored as 1 by R40), or every one is zero. -/
def allOnes (r : Request) : Bool := r.payload.all fun b => b != 0#8
def allZeros (r : Request) : Bool := r.payload.all fun b => b == 0#8

/-- A message's fields fit: context counters of windows 0 to 63, 16-bit counts, 256-byte units (R421, R521 to R523). -/
def CouplingMessage.wf : CouplingMessage → Bool
  | .relayRequest r => r.wf
  | .relayReply reply => 24 ≤ reply.length && reply.length ≤ 4096
  | .boost c n => c < 64 && n < 240
  | .cancel _ => true
  | .resetNotice => true
  | .contextClosed c => c < 64
  | .signal c n k => c < 64 && n < 240 && k < 65536
  | .wait _ c n k => c < 64 && n < 240 && k < 65536
  | .grant _ => true
  | .release _ k => k < 256
  | .unit s n a data => s < 2 ^ 64 && n ≤ 2 ^ 26 && data.length == 256 && s ≤ a && a + 256 ≤ s + n
  | .transferSignal c n k => c < 64 && n < 240 && k < 65536

/-- A little-endian number of a record's bytes. -/
def recordNat (b : List Byte) (i n : Nat) : Nat := ((b.drop i).take n).foldr (fun x a => x.toNat + 256 * a) 0

/-- A TRANSFER record that admission passes (R523, row 6 of R309). -/
def transferRecordWf (b : List Byte) : Bool :=
  let al := recordNat b 2 1
  let length := recordNat b 24 4
  b.length == 32 && recordNat b 0 1 == 0x0C && recordNat b 1 1 < 4 && (al == 0 || 240 ≤ al) && recordNat b 3 1 == 0 &&
    recordNat b 6 2 == 0 && recordNat b 8 8 % 256 == 0 && recordNat b 16 8 % 256 == 0 && length % 256 == 0 && 256 ≤ length &&
    length ≤ 2 ^ 26 && recordNat b 28 4 == 0

/-- A reference in a format that stores take (R267). -/
def VecRef.stores (r : VecRef) : Bool := r.fmt == .f32 || r.fmt == .f16 || r.fmt == .bf16

/-- The most parameters a head has (R268). -/
def headParameters : Nat := 8000000

/-- A vector operation names registers and elements that exist, and stores a format of R267. -/
def VecOp.wf : VecOp → Bool
  | .load d _ _ n => d < 32 && n ≤ 512
  | .store r t _ n _ => r < 32 && n ≤ 512 && t.stores
  | .bin _ d a b n => d < 32 && a < 32 && b < 32 && n ≤ 512
  | .fma d a b c n => d < 32 && a < 32 && b < 32 && c < 32 && n ≤ 512
  | .un _ d a n => d < 32 && a < 32 && n ≤ 512
  | .fold _ d e a n => d < 32 && e < 512 && a < 32 && n ≤ 512
  | .scan _ d a n => d < 32 && a < 32 && n ≤ 512
  | .pool b _ t _ _ _ => b.length == 64 && t.stores
  | .globalPool _ _ t _ _ _ _ _ => t.stores
  | .product a b n d e => a < 32 && b < 32 && n ≤ 512 && d < 32 && e < 512
  | .attention q _ _ s w m _ _ d => q < 32 && s < 2 ^ 32 && w ≤ 512 && m < 16 && d < 32
  | .gather _ _ w _ n d => n * w ≤ 512 && d < 32
  | .depthwise b _ _ r t _ _ _ _ _ => b.length == 64 && (r.fmt == .f16 || r.fmt == .bf16) && (t.fmt == .f16 || t.fmt == .bf16)
  | .clear t _ _ => t.stores
  | .logits w b x t c n => w.fmt == .bf16 && b.fmt == .bf16 && (x.fmt == .f16 || x.fmt == .bf16 || x.fmt == .f32) && t.fmt == .f32 &&
      c * n + c ≤ headParameters
  | .loss z l c d e => z.fmt == .f32 && l < c && d < 32 && e < 512
  | .softmaxGradient z t l c => z.fmt == .f32 && t.fmt == .f32 && l < c
  | .gradient g _ b c k f n d => g.fmt == .f32 && 0 < b && c * k + c ≤ headParameters && f + n ≤ c * k && n ≤ 512 && d < 32
  | .initialise _ b f n d => b < 2 ^ 32 && n ≤ 512 && d < 32 && f + n ≤ headParameters
  | .update w m g r u _ f n => w < 32 && m < 32 && g < 32 && r < 2 ^ 32 && u < 2 ^ 32 && n ≤ 512 && f + n ≤ headParameters
  | .setScalar o b => o + b.length ≤ 256

/-- A Press core's fault names a part of an array that exists. -/
def PressFault.wf : PressFault → Bool
  | .column a p => a < 2 && p < 260
  | .half a h => a < 2 && h < 2
  | .buffer => true

/-- The well-formed commands. -/
def Instr.wf : Instr → Bool
  | .read v r => v.wf && r.wf && r.opcode != 2 && r.opcode != 3
  | .write v r => v.wf && r.wf && r.opcode == 2
  | .describe v r => v.wf && r.wf && r.opcode == 3
  | .attentionAck v r => v.wf && r.wf && writesObject r 0x010011
  | .mailboxDoorbell => true
  | .dictUdpDatagram p f s sp _ => p < 2 && (f == 4 || f == 6) && s < 2 ^ 128 && sp < 65536
  | .canRequestSegment i data => i < 2 ^ 29 && 2 ≤ data.length && data.length ≤ 64
  | .canSegmentTimeout => true
  | .bar0BadAccess _ o _ => o < 2 ^ 24
  | .bar0RegisterWrite o data _ => o + data.length ≤ 2 ^ 24 && 0 < data.length
  | .mailboxClear v => v < 2 ^ 32
  | .bar2Read o n _ => o + n ≤ 2 ^ 36
  | .bar2Write o data _ => o + data.length ≤ 2 ^ 36
  | .sqTail q v => q < 64 && v < 2 ^ 32
  | .cqHead q v => q < 64 && v < 2 ^ 32
  | .commandFetch q e => q < 64 && e.length == 64
  | .queueEnable v r => v.wf && r.wf && writesObject r 0x020010 && allOnes r
  | .queueDisable v r => v.wf && r.wf && writesObject r 0x020010 && allZeros r
  | .cqDelayExpiry q => q < 64
  | .busMasterEnableClear => true
  | .busMasterEnableSet => true
  | .interruptDisableSet => true
  | .fundamentalReset => true
  | .hotReset => true
  | .functionLevelReset => true
  | .dlDown => true
  | .d3hotEntry => true
  | .d3hotToD0 => true
  | .completionTimeout q i => q < 64 && i < 4096
  | .hostReadCompletion q i _ => q < 64 && i < 4096
  | .linkRateChange r w _ => r < 256 && w < 256
  | .ethFrameReceived p _ _ f => p < 2 && 14 ≤ f.length
  | .gapTimerExpiry s _ => s < 1024
  | .auHandOff s => s < 1024
  | .portEnable v r => v.wf && r.wf && writesObject r 0x040010
  | .portLinkChange p _ => p < 2
  | .junctionPush q i => q < 64 && i < 4096
  | .streamEnable v r => v.wf && r.wf && writesObject r 0x040100 && allOnes r
  | .streamDisable v r => v.wf && r.wf && writesObject r 0x040100 && allZeros r
  | .streamBecomesStopped s => s < 1024
  | .decodeStart e h => e < 24 && h.width < 65536 && h.height < 65536 && h.bitDepth < 16
  | .decodeFinish e _ _ => e < 24
  | .budgetAbort e _ => e < 24
  | .pictureRelease s => s < 1024
  | .decodeEngineFault e _ => e < 24
  | .encodeClip q i => q < 64 && i < 4096
  | .encodeStop q i => q < 64 && i < 4096
  | .encodeKey q i => q < 64 && i < 4096
  | .encodePictureStart e => e < 4
  | .encodePictureDone e _ => e < 4
  | .encodeEngineFault e => e < 4
  | .calenderStart e => e < 4
  | .calenderBufferGrant => true
  | .calenderHandOn e _ => e < 4
  | .calenderFault e _ => e < 4
  | .deckleEntry e => e < 2
  | .deckleFault e => e < 2
  | .passEntry k p t => k < 32 && p.array < 2 && t.gaps.length < 256 && t.origin < 64
  | .drain k a => k < 32 && a < 2
  | .tileBoundary k a => k < 32 && a < 2
  | .vectorOperation k op => k < 32 && op.wf
  | .dataMoverTransfer k op _ _ => k < 32 && op.press + op.bytes ≤ 2 ^ 22 && op.device < 2 ^ 36
  | .randomFill k op => k < 32 && op.purpose < 2 && op.tensor < 65536 && op.stream < 65536 && op.step < 2 ^ 32 && op.first < 2 ^ 51 &&
      0 < op.count && op.address < 2 ^ 22
  | .watchdogTrip k => k < 32
  | .pressCoreFault k f => k < 32 && f.wf
  | .planLoad q i _ => q < 64 && i < 4096
  | .planBind q i => q < 64 && i < 4096
  | .planUnbind q i => q < 64 && i < 4096
  | .planUnload q i => q < 64 && i < 4096
  | .batchEgress s c => s < 1024 && c.wf
  | .detect _ _ _ _ => true
  | .embed _ _ => true
  | .evaluate _ _ => true
  | .sliceBoundary p e => if p then e < 2 else e < 3
  | .watchLoad q i => q < 64 && i < 4096
  | .trackerEngineFault p e => if p then e < 2 else e < 3
  | .dioPulseEnd k => k < 16
  | .dioRelease v r => v.wf && r.wf && writesObject r 0x0E0004
  | .ringEnable v r => v.wf && r.wf && writesObject r 0x0E0021
  | .pointsRuleWrite v r => v.wf && r.wf && writesObject r 0x0E0010
  | .frameReady => true
  | .stepDispatch c => c < 64
  | .gatherTimeout c => c < 64
  | .yardRun q i => q < 64 && i < 4096
  | .entryIssue c _ _ _ => c < 64
  | .entryComplete c _ _ => c < 64
  | .stepComplete c _ => c < 64
  | .switchPoint k _ => k < 32
  | .teardownEnd c => c < 64
  | .quiesce q i => q < 64 && i < 4096
  | .endQuiesce q i => q < 64 && i < 4096
  | .resumeHalted q i => q < 64 && i < 4096
  | .signal k n u => k < 32 && n < 256 && u < 65536
  | .wait k n u => k < 32 && n < 256 && u < 65536
  | .signalOpSignal q i => q < 64 && i < 4096
  | .signalOpTake q i => q < 64 && i < 4096
  | .signalOpRead q i => q < 64 && i < 4096
  | .cacheSizeChange v r => v.wf && r.wf && writesObject r 0x140002
  | .poolEnable v r => v.wf && r.wf && writesObject r 0x140010 && allOnes r
  | .poolDisable v r => v.wf && r.wf && writesObject r 0x140010 && allZeros r
  | .poolAlloc q i _ => q < 64 && i < 4096
  | .poolFree q i _ => q < 64 && i < 4096
  | .freeRingRefill p _ => p < 32
  | .refreshDue e _ => e < 64
  | .refreshMakeUp e _ => e < 64
  | .rankTemperatureRead e _ => e < 64
  | .rankRetire q i => q < 64 && i < 4096
  | .migrationStart => true
  | .migrationDone l => l.all fun v => v < 2 ^ 22
  | .gaugeEpoch es zs => es.all (fun e => e.counter < 1900) && zs.all fun z => z.sensors.all (· < 72) && z.powered ≤ z.total
  | .operatingPointChange _ => true
  | .domainReady _ => true
  | .idleClockStop _ => true
  | .capWrite v r => v.wf && r.wf && writesObject r 0x160004
  | .leaseExpiry => true
  | .demandPublish w => w < 0x7F800000
  | .vrmRead ps => ps.all fun p => p.1 < 8 && p.2 < 0x7F800000
  | .estimateRecalibrationWrite v r => v.wf && r.wf && (writesObject r 0x160011 || writesObject r 0x160012)
  | .powerRecalibrateFit q i => q < 64 && i < 4096
  | .powerRecalibrateEnd q i => q < 64 && i < 4096
  | .avsTrim l _ => l.length == 96
  | .marginNarrowing => true
  | .voltageDailyRecord => true
  | .thermalSample l => l.length == 72 && l.all fun v => (-32768 : Int) < v && v < 32768
  | .thermalTrip k => k < 72
  | .vddAonRemoval => true
  | .codeBlockReceived p _ e ms => p < 3 && e < 2 ^ 32 && ms.all CouplingMessage.wf
  | .laneRepair p l => p < 3 && l < 9
  | .blockLockLoss p => p < 3
  | .resetNotice p => p < 3
  | .portTrained p i z n => p < 3 && i < 2 ^ 32 && z < 8 && n < 4
  | .portTrainRetry p => p < 3
  | .couplingPortEnable v r => v.wf && r.wf && writesObject r 0x180010
  | .transfer k b _ => k < 32 && transferRecordWf b
  | .transferUnitReceived p => p < 3
  | .remoteSignal p => p < 3
  | .remoteWait p => p < 3
  | .grant p => p < 3
  | .cancel p => p < 3
  | .boostRequest p => p < 3
  | .creditReturn p _ => p < 3
  | .relayDoorbell m => 1 ≤ m && m < 4
  | .relayRequestReceived p => p < 3
  | .relayReplyReceived p => p < 3
  | .bootStageComplete _ => true
  | .configStage q i _ _ => q < 64 && i < 4096
  | .attest q i => q < 64 && i < 4096
  | .fwStage q i => q < 64 && i < 4096
  | .fwActivate q i => q < 64 && i < 4096
  | .firmwareSwitchDone _ => true
  | .fwConfirm q i => q < 64 && i < 4096
  | .ledgerExport q i => q < 64 && i < 4096
  | .flashStepDone _ => true
  | .pwrgoodRise _ _ => true
  | .pwrgoodFall => true
  | .dioOut v r => v.wf && r.wf && writesObject r 0x1B0002
  | .dioConfigWrite v r => v.wf && r.wf && writesObject r 0x1B0001
  | .dioInputFiltered k _ => k < 16
  | .canEnable v r => v.wf && r.wf && writesObject r 0x1B0011
  | .canBusOff => true
  | .canBusOffRecovery => true
  | .pmbAlert ws => ws.length == 8 && ws.all fun w => w < 65536
  | .extest => true
  | .samplePreload => true
  | .clamp => true
  | .highz => true
  | .bootstat => true
  | .bypass c => c < 256 && c != 0x00 && c != 0x01 && c != 0x04 && c != 0x05 && c != 0x20
  | .canFrameTransmitted _ => true
  | .configurationRequest _ => true
  | .pcieLinkTrained r w _ => r < 256 && w < 256
  | .mailboxStateRead m => m < 4
  | .clipCopyDone c _ => c < 64

end Sys2Proof
end

