-- ==== Sys2Proof/Machine/Ops.lean ====
section
/-! DEFINITION. The named operations every meaning is written with: fields of objects, counters, free values, device
memory, the status word, attention, and the shape all meanings share. -/

namespace Sys2Proof.Machine

/-! ### Fields of objects -/

/-- The value of a field of element `i` of an object: the value stored, or its default (R34). -/
def Dev.rd (d : Dev) (r : Reg) (i : Nat := 0) : Nat :=
  d.regs.getD ⟨r.obj, i, r.off⟩ (r.obj.dfltAt r.off)

/-- A field of element `i` of an object set to `v`. -/
def Dev.wr (d : Dev) (r : Reg) (i v : Nat) : Dev := { d with regs := d.regs.put ⟨r.obj, i, r.off⟩ v }

/-- A field read as a flag. -/
def Dev.flag (d : Dev) (r : Reg) (i : Nat := 0) : Bool := d.rd r i != 0

/-- A flag set. -/
def Dev.setFlag (d : Dev) (r : Reg) (i : Nat) (b : Bool) : Dev := d.wr r i (b2n b)

/-- The width of a field. -/
def Reg.width (r : Reg) : Nat := ((r.obj.fieldAt r.off).map Field.width).getD 0

/-- Every stored field of element `i` of an object back to its default. -/
def Dev.clearElem (d : Dev) (o : Obj) (i : Nat) : Dev :=
  { d with regs := d.regs.filter fun e => !(e.1.obj == o && e.1.sub == i) }

/-- Every element of an object back to its default. -/
def Dev.clearObj (d : Dev) (o : Obj) : Dev := { d with regs := d.regs.filter fun e => !(e.1.obj == o) }

/-- A value the manual leaves open (log entry 4), and the state that has drawn it. -/
def Dev.fresh (d : Dev) : Nat × Dev := (Config.freeNat d.free, { d with free := d.free + 1 })

/-- A counting field raised by `n`. What it reads once it has passed its width is not given: a free value (log entry 4). -/
def Dev.count (d : Dev) (r : Reg) (i : Nat := 0) (n : Nat := 1) : Dev :=
  let v := d.rd r i + n
  if v < 2 ^ r.width then d.wr r i v
  else { d with free := d.free + 1, regs := d.regs.put ⟨r.obj, i, r.off⟩ (Config.freeNat d.free % 2 ^ r.width) }

/-- The number whose bytes are element `i` of an object (R30): every field at its offset. -/
def Dev.elemNat (d : Dev) (o : Obj) (i : Nat) : Nat :=
  o.info.fields.foldl (fun a f => a + (bits (d.rd ⟨o, f.off⟩ i) 0 f.width <<< f.off)) 0

/-- Element `i` of an object set from the number its bytes spell. -/
def Dev.setElem (d : Dev) (o : Obj) (i v : Nat) : Dev :=
  o.info.fields.foldl (fun d f => d.wr ⟨o, f.off⟩ i (bits v f.off f.width)) d

/-- The bytes of element `i`. -/
def Dev.elemBytes (d : Dev) (o : Obj) (i : Nat) : List Byte := leBytes o.info.size (d.elemNat o i)

/-- Something leaves the device. -/
def Dev.send (d : Dev) (x : Sent) : Dev := { d with sent := x :: d.sent }

/-! ### Device memory (R74, R442) -/

/-- The first device address of the Vat (R74), the end of presented LPDDR6, and the end of the Vat's range. -/
def vatBase : Nat := 0xF00000000
def lpddrEnd : Nat := 0xF00000000
def vatEnd : Nat := 0xF20000000

/-- The bytes of the configured Vat partitions: addresses beyond the pool partition are unmapped (R442). -/
def Dev.vatMapped (d : Dev) : Nat := (d.rd Reg.vatLayout_planBanks + d.rd Reg.vatLayout_poolBanks) * 524288

/-- A device address at which there is memory: presented LPDDR6, or the mapped part of the Vat (R74, R442). -/
def Dev.mapped (d : Dev) (a : Nat) : Bool := a < lpddrEnd || (vatBase ≤ a && a < vatBase + d.vatMapped)

/-- What a byte of memory that nothing has written reads as (log entries 3 and 5). -/
def blank (memFree : Option Nat) (a : Nat) : Byte :=
  match memFree with
  | none => 0#8
  | some k => Config.freeByte k a

/-- The byte listed at an address of a memory in canonical form. -/
def Memory.find? : List Host.Cell → Nat → Option Byte
  | [], _ => none
  | (a', b) :: m, a => if a' = a then some b else if a < a' then none else Memory.find? m a

/-- A byte listed at an address, in place. -/
def Memory.insert : List Host.Cell → Nat → Byte → List Host.Cell
  | [], a, b => [(a, b)]
  | (a', b') :: m, a, b =>
    if a' = a then (a, b) :: m else if a < a' then (a, b) :: (a', b') :: m else (a', b') :: Memory.insert m a b

/-- A memory with nothing listed at an address. -/
def Memory.remove : List Host.Cell → Nat → List Host.Cell
  | [], _ => []
  | (a', b') :: m, a => if a' = a then m else if a < a' then (a', b') :: m else (a', b') :: Memory.remove m a

/-- A byte of memory. -/
def Dev.getByte (d : Dev) (a : Nat) : Byte := (Memory.find? d.mem a).getD (blank d.memFree a)

/-- A memory with the byte at `a` changed; a byte equal to what an unlisted one reads is not listed. -/
def Memory.set (memFree : Option Nat) (m : List Host.Cell) (a : Nat) (b : Byte) : List Host.Cell :=
  if b = blank memFree a then Memory.remove m a else Memory.insert m a b

/-- A byte of memory changed. -/
def Dev.setByte (d : Dev) (a : Nat) (b : Byte) : Dev := { d with mem := Memory.set d.memFree d.mem a b }

/-- The canonical form of a memory: addresses strictly rising, and no byte listed that equals what an unlisted one reads. -/
abbrev Memory.wf (memFree : Option Nat) (m : List Host.Cell) : Prop :=
  m.Pairwise (fun x y => x.1 < y.1) ∧ ∀ x ∈ m, x.2 ≠ blank memFree x.1

/-- `n` bytes of memory from an address. -/
def Dev.getBytes (d : Dev) (a n : Nat) : List Byte := (List.range n).map fun i => d.getByte (a + i)

/-- The poison unit an address lies in: 256 bytes of LPDDR6 (R465), 32 bytes of the Vat (R447). -/
def poisonUnit (a : Nat) : Nat := if a < vatBase then a / 256 * 256 else a / 32 * 32

/-- The size of the poison unit that starts at an address. -/
def poisonSize (a : Nat) : Nat := if a < vatBase then 256 else 32

/-- An address of a logical rank that takes no write: it met a command error while no spare remained (R470). -/
def deadAt (dead : List Nat) (a : Nat) : Bool := a < lpddrEnd && dead.contains (a / 256 % 60)

/-- Bytes stored from an address on, and poison marks as they are. Writes to a dead rank are discarded (R470). -/
def Dev.putBytes : Dev → Nat → List Byte → Dev
  | d, _, [] => d
  | d, a, b :: bs => Dev.putBytes (if deadAt d.lp.dead a then d else d.setByte a b) (a + 1) bs

/-- The poison marks left after a write of `n` bytes at `a`: a unit written whole loses its mark (R447, R465). -/
def poisonAfter (marks : List Nat) (a n : Nat) : List Nat :=
  marks.filter fun u => !(a ≤ u && u + poisonSize u ≤ a + n)

/-- `n` bytes at `a` reach a unit of logical rank `lr` (R460). -/
def touchesRank (a n lr : Nat) : Bool :=
  n != 0 && a < lpddrEnd && a / 256 + (lr + 60 - a / 256 % 60) % 60 ≤ (min (a + n) lpddrEnd - 1) / 256

/-- The 256-byte units of LPDDR6 that `n` bytes at `a` touch (R460). -/
def unitsTouched (a n : Nat) : List Nat :=
  if n = 0 then [] else
    ((List.range ((a + n - 1) / 256 + 1 - a / 256)).map fun i => a / 256 + i).filter fun u => u * 256 < lpddrEnd

/-- The written bits of a migration after units are written (R467): only units of the rank being copied count. -/
def Migration.write (m : Migration) (units : List Nat) : Migration :=
  let vs := (units.filter fun u => u % 60 == m.rank).map (· / 60)
  { m with written := m.written ++ vs.filter fun v => !m.written.contains v }

/-- What a write does beside storing its bytes: poison of units written whole is cleared (R447, R465), cached copies of the
units are invalidated (R445), and a running migration marks them written (R467). -/
def Dev.afterStore (d : Dev) (a n : Nat) : Dev :=
  let units := unitsTouched a n
  let gone := d.cache.filter units.contains
  let d := { d with poison := poisonAfter d.poison a n,
                    cache := d.cache.filter fun u => !units.contains u,
                    lp := { d.lp with current := d.lp.current.map (·.write units) } }
  if gone = [] then d else d.count Reg.vatCounters_invalidated 0 gone.length

/-- Bytes written to memory. -/
def Dev.store (d : Dev) (a : Nat) (bs : List Byte) : Dev := (d.putBytes a bs).afterStore a bs.length

/-- Whether a read of `n` bytes at `a` meets poison. -/
def Dev.poisoned (d : Dev) (a n : Nat) : Bool :=
  d.poison.any (fun u => u < a + n && a < u + poisonSize u) || d.lp.dead.any (touchesRank a n)

/-- A little-endian number in memory. -/
def Dev.getNat (d : Dev) (a n : Nat) : Nat := leNat (d.getBytes a n)

/-! ### The status word and attention (R47 to R58) -/

/-- Attention bits 8 to 15 by name (R47). -/
def Bit.fault : Nat := 8
def Bit.power : Nat := 9
def Bit.thermal : Nat := 10
def Bit.memory : Nat := 11
def Bit.link : Nat := 12
def Bit.stream : Nat := 13
def Bit.clamped : Nat := 14
def Bit.log : Nat := 15

/-- The status word with a result code and an area (R47). -/
def Dev.statusWord (d : Dev) (code area : Nat) : Nat :=
  code % 256 + 256 * d.attention.toNat + 65536 * (d.rd Reg.dictionaryAttentionLogHead % 256) + 16777216 * (area % 256)

/-- The code and area a reply, record or batch carries: a standing code replaces OK (R52). -/
def Dev.standing (d : Dev) (code area : Nat) : Nat × Nat :=
  if code = 0 then
    if d.flag Reg.powerOpState_unreachable then (0x50, 0x16)
    else if d.flag Reg.powerOpState_disagreement then (0x51, 0x16)
    else (0, area)
  else (code, area)

/-- The status word of a reply, record or batch. -/
def Dev.resultWord (d : Dev) (code area : Nat) : Nat :=
  let p := d.standing code area
  d.statusWord p.1 p.2

/-- A cause as the attention log records it. -/
structure Cause where
  bit : Nat
  code : Nat := 0
  area : Nat
  context : Nat := 0xFFFF
  stream : Nat := 0xFFFF
  detail : Nat := 0
  deriving DecidableEq, Repr

/-- One entry of the attention log written, with the attention bits as they stand (R53). Kinds 1 and 2 also become the
bit's latest cause (R54). -/
def Dev.logEntry (d : Dev) (kind : Nat) (c : Cause) : Dev :=
  let h := d.rd Reg.dictionaryAttentionLogHead
  let d := Dev.wr { d with logWrapped := d.logWrapped || h + 1 == 2 ^ 32 } Reg.dictionaryAttentionLogHead 0 ((h + 1) % 2 ^ 32)
  let put (d : Dev) (o : Obj) (i : Nat) : Dev :=
    ((((((d.wr ⟨o, 0⟩ i h).wr ⟨o, 32⟩ i (d.statusWord c.code c.area)).wr ⟨o, 64⟩ i c.bit).wr ⟨o, 72⟩ i kind).wr
      ⟨o, 80⟩ i c.context).wr ⟨o, 96⟩ i c.stream).wr ⟨o, 112⟩ i (c.detail % 65536)
  let d := put d .dictionaryAttentionLog (h % 256)
  if kind = 0 then d else put d .dictionaryAttentionCause (c.bit - 8)

/-- Whether the next entry of a log of `n` would overwrite one whose sequence is not below what software has read, by the head `h` and the
read sequence `r` (R56, R473). Once the head has wrapped (R58), sequences compare on the circle of 2^32 (log entry 124). -/
def overwrites (wrapped : Bool) (n h r : Nat) : Bool :=
  if wrapped then (h + 2 ^ 32 - n + (2 ^ 32 - r)) % 2 ^ 32 < 2 ^ 31 else n ≤ h && r ≤ h - n

/-- Whether the next entry of the attention log would overwrite one that software has not read (R56). -/
def Dev.logFull (d : Dev) : Bool :=
  overwrites d.logWrapped 256 (d.rd Reg.dictionaryAttentionLogHead) (d.rd Reg.dictionaryAttentionLogRead)

/-- Attention bit `b`. -/
def Dev.attentionBit (d : Dev) (b : Nat) : Bool := d.attention.getLsbD (b - 8)

/-- One attention event: the bit is set, and the event is recorded (R53). -/
def Dev.record (d : Dev) (c : Cause) : Dev :=
  let kind := if d.attentionBit c.bit then 2 else 1
  Dev.logEntry { d with attention := d.attention ||| (1#8 <<< (c.bit - 8)) } kind c

/-- Whether LOG stands for an overflow of the attention log (R597). -/
def Dev.logOverflowStands (d : Dev) : Bool :=
  d.attentionBit Bit.log &&
    bits (d.rd Reg.dictionaryAttentionCause_status (Bit.log - 8)) 24 8 == 1

/-- A cause raises its bit; an overflow of the attention log raises LOG (R54, R56, R597). -/
def Dev.attend (d : Dev) (c : Cause) : Dev :=
  let full := d.logFull
  let d := d.record c
  if full && !d.logOverflowStands then d.record { bit := Bit.log, area := 0x01 } else d

/-- The lasting cause a cause names. -/
def Cause.lasting (c : Cause) : Lasting :=
  { bit := c.bit, area := c.area, code := c.code, context := c.context, stream := c.stream, detail := c.detail }

/-- A lasting cause begins: it raises its bit once, and holds until its condition ends (R54). -/
def Dev.beginLasting (d : Dev) (c : Cause) : Dev :=
  if d.lasting.contains c.lasting then d
  else Dev.attend { d with lasting := c.lasting :: d.lasting } c

/-- Lasting causes that a predicate names end (R54); the bit stays until it is acknowledged (R55). -/
def Dev.endLasting (d : Dev) (p : Lasting → Bool) : Dev := { d with lasting := d.lasting.filter fun l => !p l }

/-- A log of R597 other than the attention log has discarded an entry; LOG is raised at most once per second of
always-on ticks, `last` being the field of state that remembers when. -/
def secondTicks : Nat := 3125000

/-! ### The endpoint as seen by every block -/

/-- The device may issue requests to host memory (R90, R99). -/
def Dev.canMaster (d : Dev) : Bool := d.ep.busMaster && d.ep.power == .d0

/-! ### Queues and completion records (R79 to R93) -/

def Dev.queue (d : Dev) (q : Nat) : Queue := d.queues.getD q {}
def Dev.setQueue (d : Dev) (q : Nat) (x : Queue) : Dev := { d with queues := d.queues.put q x }

def Dev.sqSize (d : Dev) (q : Nat) : Nat := 2 ^ d.rd Reg.hostQueueConfig_sqLog2 q
def Dev.cqSize (d : Dev) (q : Nat) : Nat := 2 ^ d.rd Reg.hostQueueConfig_cqLog2 q

/-- Completions software has not consumed. -/
def Dev.unconsumed (d : Dev) (q : Nat) : Nat := (d.queue q).waits.length

/-- The pending rule of R93 without the delay. -/
def Dev.updatePending (d : Dev) (q : Nat) : Dev :=
  let x := d.queue q
  if x.cqHead = x.cqTail ∧ x.waits = [] then d.setQueue q { x with pending := false }
  else if d.rd Reg.hostQueueConfig_cqThreshold q ≤ x.waits.length then d.setQueue q { x with pending := true }
  else d

/-- A completion record (R80). -/
def completionRecord (status tag sqHead detail : Nat) (phase : Bool) : List Byte :=
  leBytes 4 status ++ leBytes 2 tag ++ leBytes 2 sqHead ++ leBytes 4 detail ++ [0, 0, 0, Byte.ofNat' (b2n phase)]

/-- The fields of a submission entry (R79). -/
def Fetched.opcode (f : Fetched) : Nat := le f.entry 0 2
def Fetched.fence (f : Fetched) : Bool := (byteAt f.entry 2).testBit 0
def Fetched.tag (f : Fetched) : Nat := le f.entry 4 2
def Fetched.context (f : Fetched) : Nat := le f.entry 6 2

/-- Writes the record of the oldest fetched command. -/
def Dev.writeRecord (d : Dev) (q : Nat) (f : Fetched) (rest : List Fetched) (status detail : Nat) : Dev :=
  let x := d.queue q
  let record := completionRecord status f.tag x.sqHead detail x.phase
  let d := d.send (.hostWrite (d.rd Reg.hostQueueConfig_cqPage q * 4096 + x.cqTail * 16) record)
  let tail := (x.cqTail + 1) % d.cqSize q
  d.setQueue q { x with inflight := rest, cqTail := tail, phase := (if tail = 0 then !x.phase else x.phase),
                        waits := x.waits ++ [d.now] }

/-- Writes, in submission order, the records of finished commands that no earlier one holds back (R84), `n` at most. -/
def Dev.flushRecords : (n : Nat) → Dev → Nat → Dev
  | 0, d, _ => d
  | n + 1, d, q =>
    match (d.queue q).inflight with
    | f :: rest =>
      match f.done with
      | some (status, detail) => Dev.flushRecords n (d.writeRecord q f rest status detail) q
      | none => d
    | [] => d

/-- Records that may be written are written; draining ends with the last of them (R84, R85, R91). -/
def Dev.flushQueue (d : Dev) (q : Nat) : Dev :=
  if d.canMaster then
    let d := d.flushRecords (d.queue q).inflight.length q
    let x := d.queue q
    let d := if x.inflight = [] then d.setQueue q { x with draining := false } else d
    d.updatePending q
  else d

/-- The fetched command at a submission index of a queue, if it has not completed. -/
def Dev.fetched? (d : Dev) (q i : Nat) : Option Fetched :=
  (d.queue q).inflight.find? fun f => f.index == i && f.done == none

/-- A fetched command changed. -/
def Dev.updFetched (d : Dev) (q i : Nat) (g : Fetched → Fetched) : Dev :=
  let x := d.queue q
  d.setQueue q { x with inflight := x.inflight.map fun f => if f.index = i then g f else f }

/-- A command completes with a code, an area and a detail: its status word is formed now (R47), and its record is written when
R84 and R91 allow. -/
def Dev.complete (d : Dev) (q i code area : Nat) (detail : Nat := 0) : Dev :=
  let w := d.resultWord code area
  (d.updFetched q i fun f => if f.done = none then { f with done := some (w, detail % 2 ^ 32) } else f).flushQueue q

/-- Whether a fetched command may start (R79): an earlier fenced command has started, and a fenced one waits for every earlier
command to complete. -/
def startable : List Fetched → Nat → Bool
  | [], _ => false
  | f :: fs, i =>
    if f.index = i then f.done == none
    else (!f.fence || f.started || f.done != none) && startable fs i &&
      (f.done != none || !((fs.find? fun g => g.index == i).any Fetched.fence))

/-- A command of a queue, taken up for its work: it is fetched, not completed, and R79 lets it start. -/
def Dev.takeCommand (d : Dev) (q i opcode : Nat) : Option Fetched :=
  match d.fetched? q i with
  | some f => if f.opcode = opcode ∧ startable (d.queue q).inflight i then some f else none
  | none => none

/-- Marks a command as started. -/
def Dev.startCommand (d : Dev) (q i : Nat) : Dev := d.updFetched q i fun f => { f with started := true }

/-- Headroom admits best-effort work (R490). -/
def Dev.headroom (d : Dev) : Bool :=
  !d.flag Reg.powerOpState_beStopped && d.rd Reg.powerOpState_kBe < d.rd Reg.powerBeHold

/-! ### The shape of a meaning -/

/-- The masked pending set of R92 is not empty. -/
def Dev.irqPending (d : Dev) : Bool :=
  let completion := d.queues.any fun e => e.2.pending && d.flag Reg.hostQueueConfig_irq e.1
  let attention := d.rd Reg.dictionaryAttentionLogHead != d.ep.genSeen
  (completion && d.ep.intEnable.testBit 0) || (attention && d.ep.intEnable.testBit 1) ||
    (d.ep.mailboxPending && d.ep.intEnable.testBit 2)

/-- The level the virtual wire has (R92, R99). -/
def Dev.wireLevel (d : Dev) : Bool := d.irqPending && !d.ep.intDisable && d.ep.power == .d0

/-- The virtual wire follows the masked pending set, with a message at each change (R92, R94). -/
def settle (d : Dev) : Dev :=
  if d.wireLevel = d.ep.intaWire then d
  else Dev.send { d with ep := { d.ep with intaWire := d.wireLevel } } (if d.wireLevel then .assertInta else .deassertInta)

/-- A switched power domain as it stands (R24, R25): a port's is on while the port is enabled, the LPDDR6 PHY's from the end of memory
training on, and every other one from its wake to its stop (log entry 154). -/
def Dev.domain (d : Dev) (x : Domain) : DomainState :=
  let while_ (b : Bool) : DomainState := { running := b && !d.pw.tripped, powered := b && !d.pw.tripped }
  match x with
  | .coupling p => while_ (d.flag Reg.couplingPortEnable p)
  | .ethernet p => while_ (d.flag Reg.junctionPortEnable p)
  | .phy _ => while_ d.ep.memoryReady
  | x => d.pw.domains.getD x {}

def Dev.updDomain (d : Dev) (x : Domain) (f : DomainState → DomainState) : Dev :=
  { d with pw := { d.pw with domains := d.pw.domains.put x (f (d.domain x)) } }

/-- The switched domains in which a command's work is done: it waits for their wake (R25, R477, R478). -/
def domainsOf : Instr → List Domain
  | .decodeFinish e _ _ => [.engine .decode e]
  | .budgetAbort e _ => [.engine .decode e]
  | .encodePictureDone e _ => [.engine .encode e]
  | .calenderHandOn e _ => [.engine .calender e]
  | .deckleEntry e => [.engine .deckle e]
  | .passEntry k _ _ => [.arrays k, .shell k]
  | .drain k _ => [.arrays k, .shell k]
  | .tileBoundary k _ => [.arrays k, .shell k]
  | .vectorOperation k _ => [.shell k]
  | .dataMoverTransfer k _ _ _ => [.shell k]
  | .randomFill k _ => [.shell k, .random]
  | .signal k _ _ => [.shell k]
  | .wait k _ _ => [.shell k]
  | .transfer k _ _ => [.shell k]
  | .detect e _ _ _ => [.engine .tracker e]
  | .embed e _ => [.engine .tracker e]
  | .evaluate e _ => [.engine .points e]
  | .sliceBoundary points e => [.engine (if points then .points else .tracker) e]
  | _ => []

/-- Commands that act while PWRGOOD is low: the rest of the device is held in reset (R569). -/
def atPower : Instr → Bool
  | .pwrgoodRise _ _ => true
  | .pwrgoodFall => true
  | .vddAonRemoval => true
  | _ => false

/-- Commands of the always-on island, which acts while PERST_N is low and while a thermal trip holds (R24, R509, R569). -/
def alwaysOn : Instr → Bool
  | .fundamentalReset => true
  | .gaugeEpoch _ _ => true
  | .vrmRead _ => true
  | .avsTrim _ _ => true
  | .leaseExpiry => true
  | .demandPublish _ => true
  | .thermalSample _ => true
  | .thermalTrip _ => true
  | .pmbAlert _ => true
  | .dioPulseEnd _ => true
  | .dioInputFiltered _ _ => true
  | .extest => true
  | .samplePreload => true
  | .clamp => true
  | .highz => true
  | .bootstat => true
  | .bypass _ => true
  | c => atPower c

/-- The blocks a command acts on run: the device is not held in reset, no thermal trip has stopped their clocks, and the switched domains
its work needs are awake. -/
def Dev.runs (d : Dev) (c : Instr) : Bool :=
  if !d.pwrgood then atPower c
  else (!(d.perstLow || d.pw.tripped) || alwaysOn c) && (domainsOf c).all fun x => (d.domain x).running

/-- The shape of every meaning: a well-formed command has its effect on the device, and then the wire follows. A command for a block
that does not run has none. The queue of commands is not touched. -/
def act (c : Instr) (f : Dev → Dev) (s : State) : Host.Outcome State Fault Refusal :=
  if c.wf then .next (if s.dev.runs c then { s with dev := settle (f s.dev) } else s) else .refused .illFormed

end Sys2Proof.Machine
end

