-- ==== Sys2Proof/Machine/Clock.lean ====
section
/-! DEFINITION. The always-on clock (R6, R503): what passes while no command waits. -/

namespace Sys2Proof.Machine

/-- Always-on ticks in an hour of powered operation, at 3.125 MHz. -/
def hourTicks : Nat := 11250000000

/-- One tick of the always-on clock while PWRGOOD is high (log entry 1): the tick counter, and powered hours. -/
def tick (d : Dev) : Dev :=
  if d.pwrgood then
    let e : Dev := { d with now := d.now + 1 }
    if e.now % hourTicks = 0 then e.wr Reg.powerAvsState_hours 0 (e.rd Reg.powerAvsState_hours + 1) else e
  else d

end Sys2Proof.Machine
end

