-- ==== Sys2Proof/Machine/Frames.lean ====
section
/-! DEFINITION. The frames of the object dictionary (R36, R37, R43) and the mailboxes that carry them (R62, R63). -/

namespace Sys2Proof.Machine

/-- A clamp entry (R43): the element, counted from the request's first, the field, and both values as 64-bit numbers. -/
structure Clamp where
  element : Nat
  offset : Nat
  width : Nat
  requested : Nat
  stored : Nat
  deriving DecidableEq, Repr

/-- The 24 bytes of a clamp entry. -/
def Clamp.bytes (c : Clamp) : List Byte :=
  leBytes 2 c.element ++ leBytes 2 c.offset ++ leBytes 2 c.width ++ leBytes 2 0 ++ leBytes 8 c.requested ++ leBytes 8 c.stored

/-- A reply (R37): at most 8 clamp entries are listed. -/
def replyBytes (r : Request) (word : Nat) (payload : List Byte) (clamps : List Clamp) : List Byte :=
  let listed := clamps.take 8
  leBytes 1 (r.opcode % 128 + 128) ++ leBytes 1 (b2n (clamps != []) + 2 * b2n (8 < clamps.length)) ++ leBytes 2 r.tag ++
    leBytes 4 word ++ leBytes 3 r.object ++ leBytes 1 0 ++ leBytes 2 r.sub ++ leBytes 2 r.count ++ leBytes 4 payload.length ++
    leBytes 2 listed.length ++ leBytes 2 0 ++ payload ++ listed.flatMap Clamp.bytes

/-- The request a frame holds (R36): the header, and the bytes after it. -/
def parseRequest (bs : List Byte) : Request :=
  { opcode := byteAt bs 0, flags := byteAt bs 1, tag := le bs 2 2, object := le bs 4 3, reserved := byteAt bs 7, sub := le bs 8 2,
    count := le bs 10 2, length := le bs 12 4, payload := bs.drop 16 }

/-! ### Mailboxes (R62, R63) -/

/-- BAR0 and BAR2 are answered: Memory Space Enable is set, the function has completed a configuration request since its last reset,
and it is in D0 (R72, R99). -/
def Dev.barOpen (d : Dev) : Bool := d.ep.memorySpace && d.ep.answered && d.ep.power == .d0

def Dev.mailbox (d : Dev) (m : Nat) : Mailbox := d.mailboxes.getD m {}
def Dev.setMailbox (d : Dev) (m : Nat) (x : Mailbox) : Dev := { d with mailboxes := d.mailboxes.put m x }

/-- A byte of a mailbox's request region. -/
def Mailbox.requestByte (x : Mailbox) (i : Nat) : Byte := x.request.getD i 0#8

/-- The request the region holds: exactly the payload bytes its length field gives, at most the region (R39). -/
def Mailbox.frame (x : Mailbox) : Request :=
  let r := parseRequest ((List.range 4096).map x.requestByte)
  { r with payload := r.payload.take r.length }

/-- A relay mailbox whose number is the device's own is a reserved location (R520). -/
def Dev.mailboxExists (d : Dev) (m : Nat) : Bool := m == 0 || (m < 4 && m != d.rd Reg.couplingDevice)

/-- The doorbell (R62, R63): the frame is copied and busy set, or overrun when it was busy. -/
def Dev.ringDoorbell (d : Dev) (m : Nat) : Dev :=
  let x := d.mailbox m
  if x.busy then d.setMailbox m { x with overrun := true } else d.setMailbox m { x with busy := true, queued := some x.frame }

/-- A doorbell written by the host through BAR0. -/
def Dev.hostDoorbell (d : Dev) (m : Nat) : Dev := if d.barOpen then d.ringDoorbell m else d.send .unsupportedRequest

/-- A reply completes in a mailbox: it is written whole, then busy clears; interrupt pending bit 2 is set (R63, R92, R520). DESIGN
CHOICE (log entry 132): past the reply's end its region reads zero. -/
def Dev.completeMailbox (d : Dev) (m : Nat) (reply : List Byte) : Dev :=
  let x := d.mailbox m
  let d := d.setMailbox m { x with reply, queued := none, busy := false, doneTag := le reply 2 2 }
  { d with ep := { d.ep with mailboxPending := true } }

/-- The status word as a mirror shows it: result 0x00 and area 0x01 (R62, R520). -/
def mirrorOf (word : Nat) : Nat := word / 256 % 65536 * 256 + 0x01000000

/-- The reply a relay forms itself (R520): LINK_DOWN, area 0x18. -/
def Dev.relayLinkDown (d : Dev) (m : Nat) : Dev :=
  match (d.mailbox m).queued with
  | some r => d.completeMailbox m (replyBytes r (d.statusWord 0x32 0x18) [] [])
  | none => d

end Sys2Proof.Machine
end

