-- ==== Sys2Proof/Machine/Window.lean ====
section
/-! DEFINITION. Pass mode words (R217, R218) and window descriptors (R278 to R287): their fields, their checks, and the element that
enters a row of a vector. -/

namespace Sys2Proof.Machine

/-! ### The mode word (R218) -/

def modeSplit (m : Nat) : Bool := m.testBit 0
def modeMask (m : Nat) : Nat := bits m 2 4
def modeClass (m : Nat) : Nat := bits m 6 2
def modeHalf (m : Nat) : Nat := bits m 8 1
def modeAccumulate (m : Nat) : Bool := m.testBit 9
def modeDrain (m : Nat) : Bool := m.testBit 10
def modeArgmax (m : Nat) : Bool := m.testBit 11
def modeSround (m : Nat) : Bool := m.testBit 12
def modeBoundary (m : Nat) : Bool := m.testBit 13
def modeKeep (m : Nat) : Bool := m.testBit 14
def modeWfmt (m : Nat) : Nat := bits m 16 3
def modeBf16 (m : Nat) : Bool := m.testBit 19
def modeVectors (m : Nat) : Nat := bits m 24 8 + 1
def modeRows (m : Nat) : Nat := bits m 32 8 + 1
def modeCols (m : Nat) : Nat := bits m 40 8 + 1
def modeReserved (m : Nat) : Nat := bits m 1 1 + bits m 15 1 + bits m 20 4 + bits m 48 16

/-- C of a width class. -/
def classWidth (k : Nat) : Nat := 256 - 4 * k

/-- The quadrants a pass uses; gang mode is served by the first operand set alone. -/
def modeQuads (m : Nat) : List Nat := if modeSplit m then (List.range 4).filter fun q => (modeMask m).testBit q else [0]

/-- The halves a pass writes (R224): half 0 is A. -/
def modeHalves (m : Nat) : List Nat := if modeSplit m then ((modeQuads m).map (· / 2)).eraseDups else [modeHalf m]

/-! ### Window descriptors (R286) -/

/-- A window descriptor. -/
structure WinDesc where
  h : Nat
  w : Nat
  cg : Nat
  g0 : Nat
  kh : Nat
  kw : Nat
  sy : Nat
  sx : Nat
  dy : Nat
  dx : Nat
  pt : Nat
  pb : Nat
  pl : Nat
  pr : Nat
  pmode : Nat
  poolOp : Nat
  exclude : Bool
  divisor : Bool
  pconst : Nat
  ky0 : Nat
  kx0 : Nat
  sh : Nat
  sw : Nat
  gpack : Nat
  og : Nat
  k0 : Nat
  stageW : Nat
  mask : Nat
  inBase : Nat
  q0 : Nat
  stageY0 : Nat
  stageX0 : Nat
  stageH : Nat
  sCol : Nat
  sChan : Nat
  sRow : Nat
  reserved : Nat
  deriving DecidableEq, Repr, Inhabited

/-- A descriptor from its 64 bytes. -/
def parseWindow (v : Nat) : WinDesc :=
  { h := bits v 0 16, w := bits v 16 16, cg := bits v 32 16, g0 := bits v 48 16, kh := bits v 64 8 + 1, kw := bits v 72 8 + 1,
    sy := bits v 80 4 + 1, sx := bits v 84 4 + 1, dy := bits v 88 8 + 1, dx := bits v 96 8 + 1, pt := bits v 104 12,
    pb := bits v 116 12, pl := bits v 128 12, pr := bits v 140 12, pmode := bits v 152 2, poolOp := bits v 154 2,
    exclude := v.testBit 156, divisor := v.testBit 157, pconst := bits v 160 16, ky0 := bits v 176 8, kx0 := bits v 184 8,
    sh := bits v 192 3 + 1, sw := bits v 195 3 + 1, gpack := bits v 200 8 + 1, og := bits v 208 8 + 1, k0 := bits v 216 24,
    stageW := bits v 240 16, mask := bits v 256 49, inBase := bits v 320 32, q0 := bits v 352 32, stageY0 := bits v 384 16,
    stageX0 := bits v 400 16, stageH := bits v 416 16, sCol := bits v 432 16, sChan := bits v 448 32, sRow := bits v 480 32,
    reserved := bits v 158 2 + bits v 198 2 + bits v 305 15 }

/-- Ho and Wo (R279). -/
def WinDesc.ho (x : WinDesc) : Int := ((x.h + x.pt + x.pb : Nat) - (x.dy * (x.kh - 1) : Nat) - 1 : Int) / (x.sy : Int) + 1
def WinDesc.wo (x : WinDesc) : Int := ((x.w + x.pl + x.pr : Nat) - (x.dx * (x.kw - 1) : Nat) - 1 : Int) / (x.sx : Int) + 1
def WinDesc.positions (x : WinDesc) : Nat := x.ho.toNat * x.wo.toNat

/-- Set bits of the tap mask in rising order, n of them, and the rows of one group (R281). -/
def WinDesc.taps (x : WinDesc) : List Nat := (List.range 49).filter fun i => x.mask.testBit i
def WinDesc.kg (x : WinDesc) : Nat := x.taps.length * x.cg

/-- Field ranges of R286: those of the map, which pooling and the depth-wise path read, and those of the sweep. -/
def WinDesc.mapInRange (x : WinDesc) : Bool :=
  let side (v : Nat) : Bool := 1 ≤ v && v ≤ 16384
  side x.h && side x.w && side x.stageW && side x.stageH && x.cg != 0 && x.g0 ≤ 65534 && x.kh ≤ 255 && x.kw ≤ 255 &&
    bits x.pconst 10 5 != 31 && x.reserved == 0 && x.inBase % 2 == 0 && x.inBase < 2 ^ 22 && x.sCol % 2 == 0 &&
    x.sChan % 2 == 0 && x.sRow % 2 == 0 && 1 ≤ x.ho && 1 ≤ x.wo
def WinDesc.inRange (x : WinDesc) : Bool := x.mapInRange && x.ky0 ≤ 254 && x.kx0 ≤ 254 && x.sh ≤ 7 && x.sw ≤ 7

/-! ### The element of a row (R281 to R285) -/

/-- ρ of R283. -/
def reflect (i : Int) (n : Nat) : Int :=
  if n = 1 then 0
  else
    let t := i % (2 * (n : Int) - 2)
    if t ≤ (n : Int) - 1 then t else 2 * (n : Int) - 2 - t

/-- A coordinate as the padding mode maps it; none where the mode reads nothing. -/
def mapCoord (pmode : Nat) (i : Int) (n : Nat) : Option Int :=
  if 0 ≤ i ∧ i < (n : Int) then some i
  else match pmode with
    | 2 => some (min (max i 0) ((n : Int) - 1))
    | 3 => some (reflect i n)
    | _ => none

/-- What enters a row: a padding element marked, the padding constant, or the element stored at a Press buffer offset for an input
channel. `outside` is an element outside the staged rectangle or the Press buffer. -/
inductive Element where
  | marked
  | constant
  | stored (address channel : Nat) (padding : Bool)
  | outside
  deriving DecidableEq, Repr

/-- The element at a filter tap of an output position, for an input channel. -/
def WinDesc.element (x : WinDesc) (q ky kx c : Nat) : Element :=
  let wo := x.wo.toNat
  let iy : Int := (q / wo * x.sy : Nat) - (x.pt : Int) + (ky * x.dy : Nat)
  let ix : Int := (q % wo * x.sx : Nat) - (x.pl : Int) + (kx * x.dx : Nat)
  match mapCoord x.pmode iy x.h, mapCoord x.pmode ix x.w with
  | some y, some z =>
    let row := y - (x.stageY0 : Int)
    let col := z - (x.stageX0 : Int)
    if row < 0 ∨ col < 0 ∨ (x.stageH : Int) ≤ row ∨ (x.stageW : Int) ≤ col then .outside
    else
      let a := x.inBase + c * x.sChan + row.toNat * x.sRow + col.toNat * x.sCol
      if a + 2 ≤ 2 ^ 22 then .stored a c (y != iy || z != ix) else .outside
  | _, _ => if x.pmode = 1 then .constant else .marked

/-- The element that row `r` of the vector at position `q` reads in a convolution pass (R281). -/
def WinDesc.rowElement (x : WinDesc) (q r : Nat) : Element :=
  let g := if x.gpack = 1 then x.g0 else x.g0 + r / x.kg
  let k := if x.gpack = 1 then x.k0 + r else r % x.kg
  let bit := x.taps.getD (k / x.cg) 0
  x.element q (x.ky0 + bit / 7) (x.kx0 + bit % 7) (g * x.cg + k % x.cg)

/-- The dense index of a row's reduction index, with Kprev of the sweep (R280, R281). -/
def WinDesc.denseIndex (x : WinDesc) (kprev r : Nat) : Nat :=
  let k := if x.gpack = 1 then x.k0 + r else r % x.kg
  let bit := x.taps.getD (k / x.cg) 0
  kprev + (bit / 7 * x.sw + bit % 7) * x.cg + k % x.cg

/-- A cell that the decompressor expands as a structural zero (R292). -/
def WinDesc.structural (x : WinDesc) (row column : Nat) : Bool := 1 < x.gpack && row / x.kg != column / x.og

/-- The checks of R287 on a convolution pass. -/
def WinDesc.passValid (x : WinDesc) (m rows cols : Nat) : Bool :=
  x.inRange && x.poolOp == 0 && x.ky0 + x.sh ≤ x.kh && x.kx0 + x.sw ≤ x.kw && x.mask != 0 &&
    (x.taps.all fun i => i / 7 < x.sh && i % 7 < x.sw) &&
    (if x.gpack = 1 then x.k0 + rows ≤ x.kg else x.k0 == 0 && rows == x.gpack * x.kg && cols == x.gpack * x.og) &&
    x.q0 + m ≤ x.positions &&
    (List.range m).all fun v => (List.range rows).all fun r => x.rowElement (x.q0 + v) r != .outside

/-- No element of a window of `count` positions and `channels` channels lies outside. -/
def WinDesc.windowInside (x : WinDesc) (count first channels : Nat) : Bool :=
  x.q0 + count ≤ x.positions && (List.range count).all fun v => (List.range x.kh).all fun ky => (List.range x.kw).all fun kx =>
    (List.range channels).all fun c => x.element (x.q0 + v) ky kx (first + c) != .outside

end Sys2Proof.Machine
end

