-- ==== Sys2Proof/Machine/Passes.lean ====
section
/-! DEFINITION. Passes of an array apart from their values (R219 to R225, R323, R483): the check at row 0, entry cycles, the conditions of
R222, and the walk along a body's passes that admission makes. -/

namespace Sys2Proof.Machine

def PressArray.half (x : PressArray) (h : Nat) : AccHalf := if h = 0 then x.halfA else x.halfB
def PressArray.updHalf (x : PressArray) (h : Nat) (f : AccHalf → AccHalf) : PressArray :=
  if h = 0 then { x with halfA := f x.halfA } else { x with halfB := f x.halfB }
def PressArray.used (x : PressArray) (t : Bool) : Nat := if t then x.used1 else x.used0
def PressArray.reads (x : PressArray) (h : Nat) : List Nat := if h = 0 then x.readsA else x.readsB

/-! ### The check at row 0 (R219) -/

/-- The checks of R219 and R287. `width` is the core's presented width, `halves` the array's. -/
def passValid (r : PressArray) (width halves m : Nat) (loads : Bool) (ws : List WinDesc) : Bool :=
  let split := modeSplit m
  let c := classWidth (modeClass m)
  modeReserved m == 0 && modeClass m != 3 && c ≤ width && (if split then modeMask m != 0 else modeMask m == 0) &&
    !(split && modeHalf m != 0) && !(halves == 1 && (split || modeHalf m == 1)) &&
    (if split then modeRows m ≤ 128 && modeCols m ≤ c / 2 else modeCols m ≤ c) && (!modeBoundary m || modeDrain m) &&
    !(!loads && r.idle) && modeWfmt m ≤ 3 &&
    (!modeAccumulate m || (modeHalves m).all fun h => (r.half h).opened == some (modeVectors m)) &&
    ws.all fun w => w.passValid (modeVectors m) (modeRows m) (modeCols m)

/-! ### Entry cycles (R222, R223) -/

/-- The cycle at which each vector enters row 0. -/
def entryCycles (start : Nat) : (gaps : List Nat) → (n : Nat) → List Nat
  | _, 0 => []
  | gaps, n + 1 => start :: entryCycles (start + 1 + gaps.headD 0) gaps.tail n

/-- The earliest cycle each condition of R222 gives: row 0 free, weights loaded, gang to split; and, for each vector, the drain ahead of
its write. -/
structure Earliest where
  free : Nat
  loaded : Nat
  mode : Nat
  drain : List Nat
  deriving DecidableEq, Repr

def PressArray.earliest (r : PressArray) (m : Nat) (loads : Bool) (t : PassTiming) : Earliest :=
  let back := if modeSplit m then 127 else 255
  let reads := (modeHalves m).map r.reads
  { free := if r.idle then 0 else r.ended, loaded := if loads then t.load + 256 + t.pause else 0,
    mode := if !r.idle && !r.split && modeSplit m then r.ended + 258 else 0,
    drain := (List.range (modeVectors m)).map fun v => reads.foldl (fun a l => max a (l.getD v 0 - back)) 0 }

/-- A bubble of a class whose fraction is `k` 64ths (R483): cycle `c` counts from the release, where the core's own count is `origin`. -/
def bubble (k origin c : Nat) : Bool :=
  let j := (origin + c) % 64
  j * k / 64 < (j + 1) * k / 64

/-- The cycles are those of R483: no vector enters in a bubble, only bubbles lie between vectors, and no weight row is delivered in one. -/
def bubblesFit (t : PassTiming) (k : Nat) (loads : Bool) (es : List Nat) : Bool :=
  es.all (fun e => !bubble k t.origin e) &&
    (es.zip es.tail).all (fun e => (List.range (e.2 - e.1 - 1)).all fun i => bubble k t.origin (e.1 + 1 + i)) &&
    (!loads || ((List.range (256 + t.pause)).filter fun i => bubble k t.origin (t.load + i)).length ≤ t.pause)

/-- Every condition of R222 holds, with `k` the bubble fraction of the pass's class. The pass takes the tag opposite to the pass before it
when it loads (R220), and its load begins when the one shift chain of each column has done the load before it (R221). -/
def PressArray.mayEnter (r : PressArray) (k m : Nat) (loads : Bool) (t : PassTiming) : Bool :=
  let x := r.earliest m loads t
  let es := entryCycles t.start t.gaps (modeVectors m)
  x.free ≤ t.start && x.loaded ≤ t.start && x.mode ≤ t.start &&
    (!loads || r.loadEnd ≤ t.load && (r.idle || r.used (!r.tag) ≤ t.load)) && bubblesFit t k loads es &&
    (es.zip x.drain).all fun e => e.2 ≤ e.1

/-- Cycles lost before the pass to its load, to the mode change, to the drain and otherwise, each counted once (R245). The drain holds the
pass for the vector it binds most. -/
def Earliest.lost (x : Earliest) (start : Nat) (es : List Nat) : Nat × Nat × Nat × Nat :=
  let a := max x.free (min start x.loaded)
  let b := max a (min start x.mode)
  let hold := (es.zip x.drain).foldl (fun h e => max h (e.2 - (e.1 - start))) 0
  let c := max b (min start hold)
  (a - x.free, b - a, c - b, start - c)

/-- The tag of a pass (R220): 0 after the array was idle, else the other one when the pass loads. -/
def PressArray.nextTag (r : PressArray) (loads : Bool) : Bool := if r.idle then false else if loads then !r.tag else r.tag

/-- Whether the halves of a pass are written by it: each is opened, or stays open for an accumulation (R219, R227). -/
def PressArray.opened (r : PressArray) (m : Nat) : PressArray :=
  if modeAccumulate m then r
  else (modeHalves m).foldl (fun r h => r.updHalf h fun y => { y with opened := some (modeVectors m) }) r

/-- The halves a pass drains, and the cycles at which their entries are read (R225). -/
def drainHalves (m : Nat) : List Nat := if modeSplit m then [0, 1] else [modeHalf m]
def drainReads (m : Nat) (es : List Nat) : List Nat := es.map fun e => e + if modeSplit m then 258 else 516

/-- An array as a pass enters it, its sums and weights apart (R220 to R225, R227): tag, mode, cycles, and which halves are open. -/
def PressArray.entered (r : PressArray) (m : Nat) (loads : Bool) (t : PassTiming) : PressArray :=
  let tag := r.nextTag loads
  let es := entryCycles t.start t.gaps (modeVectors m)
  let ended := (es.getLast?.getD t.start) + 1
  let r := { r.opened m with idle := false, tag, ended, split := modeSplit m }
  let r := if tag then { r with used1 := ended } else { r with used0 := ended }
  let r := if loads then { r with loadEnd := t.load + 256 + t.pause } else r
  if modeDrain m then
    let r := (drainHalves m).foldl (fun r h => r.updHalf h fun y => { y with opened := none }) r
    let r := if (drainHalves m).contains 0 then { r with readsA := drainReads m es } else r
    if (drainHalves m).contains 1 then { r with readsB := drainReads m es } else r
  else r

/-- The cycle of the boundary that follows a drain (R225): the last row is written 12 cycles after its read. -/
def boundaryCycle (reads : List Nat) : Nat := reads.getLast?.getD 0 + 13

/-! ### A body's passes ahead of time (R219, R323, R349) -/

/-- The timing of a pass that enters as early as R222 lets it, with no pause and no bubble. -/
def PressArray.soonest (r : PressArray) (m : Nat) (loads : Bool) : PassTiming :=
  let load := max r.loadEnd (if r.idle then 0 else r.used (!r.tag))
  let x := r.earliest m loads { load, pause := 0, start := 0, gaps := [], origin := 0 }
  let start := ((List.range (modeVectors m)).zip x.drain).foldl (fun a e => max a (e.2 - e.1)) (max x.free (max x.loaded x.mode))
  { load, pause := 0, start, gaps := [], origin := 0 }

/-- The arrays of a cell along a body, the cycles of vector operations since the last boundary, the tiles the last pass of each array names,
and whether all was valid so far. -/
structure BodyWalk where
  array0 : PressArray := {}
  array1 : PressArray := {}
  vector : Nat := 0
  tiles0 : Option Nat := none
  tiles1 : Option Nat := none
  ok : Bool := true
  deriving DecidableEq, Repr

/-- One pass of a body: its record's bytes as a number and the first descriptors; `tile` names what the operation map has for it. A span ends
at its boundary, and is at most 4,096 cycles of the array and of the vector engine, each apart (log entry 151). -/
def BodyWalk.pass (w : BodyWalk) (width halves array record : Nat) (tile : Option Nat) (ws : List WinDesc) : BodyWalk :=
  let m := bits record 0 64
  let r := if array = 0 then w.array0 else w.array1
  let last := if array = 0 then w.tiles0 else w.tiles1
  let loads := !modeKeep m || (tile.isSome && !r.idle && last != tile)
  let valid := passValid r width halves m loads ws && bits record 272 16 == 0 && bits record 384 128 == 0
  let t := r.soonest m loads
  let next := r.entered m loads t
  let end_ := boundaryCycle (drainReads m (entryCycles t.start [] (modeVectors m)))
  let r' : PressArray := if modeBoundary m then {} else next
  let ok := w.ok && valid && (!modeBoundary m || (end_ ≤ 4096 && w.vector ≤ 4096))
  let w := { w with ok, vector := if modeBoundary m then 0 else w.vector }
  if array = 0 then { w with array0 := r', tiles0 := tile } else { w with array1 := r', tiles1 := tile }

end Sys2Proof.Machine
end

