-- ==== Sys2Proof/Machine/Ledger.lean ====
section
/-! DEFINITION. The repair ledger (R546 to R549): appending an entry, and compacting a full half. -/

namespace Sys2Proof.Machine

/-- The entries of the active half, in order. -/
def Ledger.entries (l : Ledger) : List LedgerEntry := if l.active = 0 then l.half0 else l.half1

/-- The entries of the active half replaced. -/
def Ledger.withEntries (l : Ledger) (es : List LedgerEntry) : Ledger :=
  if l.active = 0 then { l with half0 := es } else { l with half1 := es }

/-- The sequence of the next entry. -/
def Ledger.nextSequence (l : Ledger) : Nat := ((l.entries.getLast?).map fun e => e.sequence + 1).getD 0

/-- Two entries concern the same unit. -/
def LedgerEntry.sameUnit (a b : LedgerEntry) : Bool := a.unitType == b.unitType && a.unit == b.unit && a.sub == b.sub

/-- The latest entry for each unit (kinds 1 to 4), then the latest voltage and the latest slot entry (R548). A unit whose
suspicion was cleared is back in its first state. -/
def Ledger.snapshot (es : List LedgerEntry) : List LedgerEntry :=
  let units := es.filter fun e => 1 ≤ e.kind && e.kind ≤ 4
  let last := units.reverse.foldl (fun (acc : List LedgerEntry) e => if acc.any e.sameUnit then acc else e :: acc) []
  let volts := (es.filter fun e => e.kind == 5).getLast?.toList
  let slots := (es.filter fun e => e.kind == 7).getLast?.toList
  last.filter (fun e => e.kind != 4) ++ volts ++ slots

/-- The number of a unit type. -/
def unitNumber : UnitType → Nat
  | .none => 0 | .decodeEngine => 1 | .encodeEngine => 2 | .calender => 3 | .deckle => 4 | .pressCore => 5 | .arrayColumn => 6
  | .arrayHalf => 7 | .vectorLanes => 8 | .trackerEngine => 9 | .pointsEngine => 10 | .vatBank => 11 | .lpddrRank => 12
  | .couplingLane => 13 | .voltagePoint => 14

/-- The 1,024 bytes of an entry (R546). -/
def LedgerEntry.bytes (e : LedgerEntry) : List Byte :=
  let body := leBytes 4 0x47524C52 ++ leBytes 4 e.sequence ++ leBytes 1 e.kind ++ [Config.ledgerUnitByte (unitNumber e.unitType)] ++
    leBytes 2 e.unit ++ leBytes 4 e.sub ++ leBytes 4 e.hours ++ leBytes 4 e.boots ++ padTo 424 (Config.ledgerData e.kind e.data) ++
    beBytes 64 e.prev
  body ++ padTo 512 (Config.identitySign (Config.sha512 body))

/-- The digest the next entry links to; before the first there is none. -/
def LedgerEntry.digest (e : LedgerEntry) : Nat := Config.sha512 e.bytes
def lastDigest (es : List LedgerEntry) : Nat := (es.getLast?.map LedgerEntry.digest).getD 0

/-- Entries with consecutive sequences from a first one, each linked to the one before. -/
def linkUp : (sequence prev : Nat) → List LedgerEntry → List LedgerEntry
  | _, _, [] => []
  | n, p, e :: es =>
    let x := { e with sequence := n, prev := p }
    x :: linkUp (n + 1) x.digest es

/-- A full half compacted into the other half, which is erased first (R548). -/
def Dev.compact (d : Dev) : Dev :=
  let l := d.ledger
  let n := l.nextSequence
  let mark (k : Nat) : LedgerEntry :=
    { sequence := 0, kind := k, unitType := .none, unit := 0, sub := 0,
      hours := d.rd Reg.powerAvsState_hours, boots := d.rd Reg.bootCount, data := [] }
  let es := linkUp n (lastDigest l.entries) (mark 8 :: Ledger.snapshot l.entries ++ [mark 9])
  let l := { l with active := 1 - l.active }
  let d := { d with ledger := l.withEntries es }
  let d := d.count Reg.bootLedger_compactions
  (d.count Reg.bootFlashCounters_erased 0 32).wr Reg.bootLedger_half 0 l.active

/-- One entry written to the flash now; a full half is compacted first. -/
def Dev.appendNow (d : Dev) (e : LedgerEntry) : Dev :=
  let d := if 2048 ≤ d.ledger.entries.length then d.compact else d
  let n := d.ledger.nextSequence
  let es := d.ledger.entries ++ [{ e with sequence := n, prev := lastDigest d.ledger.entries }]
  let d := { d with ledger := d.ledger.withEntries es }
  let d := d.count Reg.bootFlashCounters_appends
  (d.wr Reg.bootLedger_head 0 n).wr Reg.bootLedger_entries 0 es.length

/-- An entry for the ledger. Without the identity key none can be signed, so none is appended (R555); while a staging
command's flash step runs, the append waits (R533). -/
def Dev.appendLedger (d : Dev) (kind : Nat) (unitType : UnitType) (unit sub : Nat) (data : List Byte := []) : Dev :=
  let e : LedgerEntry :=
    { sequence := 0, kind, unitType, unit, sub, hours := d.rd Reg.powerAvsState_hours, boots := d.rd Reg.bootCount, data }
  if !d.ledger.identity then d
  else if d.ledger.stepping then
    Dev.count { d with ledger := { d.ledger with waiting := d.ledger.waiting ++ [e] } } Reg.bootFlashCounters_deferred
  else d.appendNow e

/-- The appends that waited for a flash step are written (R533). -/
def Dev.flushAppends (d : Dev) : Dev :=
  let es := d.ledger.waiting
  es.foldl Dev.appendNow { d with ledger := { d.ledger with waiting := [], stepping := false } }

/-- The physical number of a presented unit (R17). -/
def Dev.physical (d : Dev) (t : UnitType) (n : Nat) : Nat := ((d.boot.units.getD t [])[n]?).getD n

end Sys2Proof.Machine
end

