-- ==== Sys2Proof/Machine/Vat.lean ====
section
/-! DEFINITION. The Vat, the Sidings and LPDDR6 (R438 to R475): partitions and cache, buffer pools, the address map, errors
and poison, refresh and rank migration. -/

namespace Sys2Proof.Machine

/-! ### Partitions and the cache (R440 to R446) -/

/-- Banks of a cache size (R440). -/
def cacheBanks (size : Nat) : Nat :=
  match size with
  | 1 => 64
  | 2 => 128
  | 3 => 256
  | _ => 0

/-- The largest cache size at or below `size` that fits in `banks` banks. -/
def fitCache (size banks : Nat) : Nat :=
  if cacheBanks size ≤ banks then size
  else if size = 3 ∧ cacheBanks 2 ≤ banks then 2
  else if 2 ≤ size ∧ cacheBanks 1 ≤ banks then 1
  else 0

/-- Every cache line is invalidated and the partition changes (R446). -/
def Dev.changeCache (d : Dev) (size : Nat) : Dev :=
  let n := d.cache.length
  let d := { d with cache := [] }.wr Reg.vatCacheSize 0 size
  if n = 0 then d else d.count Reg.vatCounters_invalidated 0 n

/-- The cache size a write of `vat.cache_size` stores (R441). -/
def Dev.adjustCacheSize (d : Dev) (v : Nat) : Nat :=
  fitCache v (d.rd Reg.vatBanksPresented - d.rd Reg.vatLayout_planBanks - d.rd Reg.vatLayout_poolBanks)

/-- The layout a write of `vat.layout` stores (R441): pool_banks is reduced when the partitions exceed the presented banks with
no cache. Where plan_banks alone exceeds them, it is reduced likewise (DESIGN CHOICE, log entry 158). -/
def Dev.adjustLayout (d : Dev) (v : Nat) : Nat :=
  let n := d.rd Reg.vatBanksPresented
  let plan := if bits v 0 11 ≤ n then bits v 0 11 else n / 16 * 16
  let pool := bits v 16 11
  if plan + pool ≤ n then setBits v 0 11 plan else setBits (setBits v 0 11 plan) 16 11 (min pool ((n - plan) / 16 * 16))

/-- A Vat offset after the partitions change (R442): the one at which its bank and the place in it stand now; a bank in no partition holds
nothing (R440), and its group may be off (R25). -/
def vatMoved (plan pool plan' pool' o : Nat) : Option Nat :=
  let inner := plan * 524288
  let bank := if o < inner then (o / 256) % plan else plan + ((o - inner) / 256) % pool
  let row := if o < inner then o / 256 / plan else (o - inner) / 256 / pool
  if (plan + pool) * 524288 ≤ o then none
  else if bank < plan' then some ((row * plan' + bank) * 256 + o % 256)
  else if bank < plan' + pool' then some (plan' * 524288 + (row * pool' + (bank - plan')) * 256 + o % 256)
  else none

/-- The bytes and the poison of the Vat where the partitions in force place them, after others have been. -/
def Dev.moveVat (d : Dev) (plan pool : Nat) : Dev :=
  let plan' := d.rd Reg.vatLayout_planBanks
  let pool' := d.rd Reg.vatLayout_poolBanks
  if plan' = plan ∧ pool' = pool then d
  else
    let moved (a : Nat) : Option Nat := (vatMoved plan pool plan' pool' (a - vatBase)).map (vatBase + ·)
    let mem := (d.mem.filter fun e => vatBase ≤ e.1).foldl (fun m e => match moved e.1 with
      | some a => Memory.set d.memFree m a e.2
      | none => m) (d.mem.filter fun e => e.1 < vatBase)
    { d with mem, poison := d.poison.filterMap fun u => if u < vatBase then some u else moved u }

/-- After `vat.layout` is stored, the cache is reduced to the largest size that fits (R441, R446). -/
def Dev.afterLayout (d : Dev) : Dev :=
  let size := d.adjustCacheSize (d.rd Reg.vatCacheSize)
  if size = d.rd Reg.vatCacheSize then d else d.changeCache size

/-- The bank of the Vat that holds a Vat offset (R442). -/
def Dev.vatBank (d : Dev) (o : Nat) : Nat :=
  let plan := d.rd Reg.vatLayout_planBanks
  let pool := d.rd Reg.vatLayout_poolBanks
  if o < plan * 524288 then (o / 256) % plan
  else plan + ((o - plan * 524288) / 256) % pool

/-- The pool partition of the Vat as device addresses: start and length (R442). -/
def Dev.poolPartition (d : Dev) : Nat × Nat :=
  (vatBase + d.rd Reg.vatLayout_planBanks * 524288, d.rd Reg.vatLayout_poolBanks * 524288)

/-- A read that a Press core's data mover marks cacheable (R445): a hit makes its line the most recently used of its set; a
miss fills a line, in place of the least recently used one of a full set. Poisoned units are not cached. -/
def Dev.cacheRead (d : Dev) (u : Nat) : Dev :=
  let sets := cacheBanks (d.rd Reg.vatCacheSize) * 524288 / 4096
  if sets = 0 then d
  else if d.cache.contains u then
    Dev.count { d with cache := u :: d.cache.filter (· != u) } Reg.vatCounters_hits
  else
    let d := d.count Reg.vatCounters_misses
    if d.poisoned (u * 256) 256 then d
    else
      let sameSet := d.cache.filter fun x => Config.cacheSet x % sets == Config.cacheSet u % sets
      let lines := if 16 ≤ sameSet.length then d.cache.filter (fun x => some x != sameSet.getLast?) else d.cache
      { d with cache := u :: lines }

/-! ### Pools (R448 to R458) -/

def Dev.pool (d : Dev) (p : Nat) : Pool := d.pools.getD p {}
def Dev.setPool (d : Dev) (p : Nat) (x : Pool) : Dev := { d with pools := d.pools.put p x }

/-- A pool's kind: cell-chain or size-class. -/
def Dev.cellChain (d : Dev) (p : Nat) : Bool := d.rd Reg.sidingsPoolConfig_kind p == 1

/-- Buffer size and number of buffers of class `k` (R449). -/
def Dev.classSize (d : Dev) (p k : Nat) : Nat :=
  if d.cellChain p then (if k = 0 then 256 else 0) else d.rd (Reg.sidingsPoolConfig_size k) p
def Dev.classCount (d : Dev) (p k : Nat) : Nat :=
  if d.classSize p k = 0 then 0 else d.rd (Reg.sidingsPoolConfig_count k) p

/-- Number of the first buffer of class `k`, and its device address (R449). -/
def Dev.classFirst (d : Dev) (p k : Nat) : Nat := (List.range k).foldl (fun a j => a + d.classCount p j) 0
def Dev.classBase (d : Dev) (p k : Nat) : Nat :=
  (List.range k).foldl (fun a j => a + d.classSize p j * d.classCount p j) (d.rd Reg.sidingsPoolConfig_base p)

/-- Buffers of a pool, its buffer area in bytes, and its control region in bytes (R449). -/
def Dev.poolBuffers (d : Dev) (p : Nat) : Nat := d.classFirst p 8
def Dev.poolArea (d : Dev) (p : Nat) : Nat := d.classBase p 8 - d.rd Reg.sidingsPoolConfig_base p
def Dev.controlBytes (d : Dev) (p : Nat) : Nat := roundUp (6 * d.poolBuffers p) 4096

/-- The class that serves a request of `n` bytes (R451); every request of a cell-chain pool takes cells. -/
def Dev.classFor (d : Dev) (p n : Nat) : Option Nat :=
  if d.cellChain p then some 0 else (List.range 8).find? fun k => d.classSize p k != 0 && n ≤ d.classSize p k

/-- The class a buffer number lies in. -/
def Dev.classOf (d : Dev) (p b : Nat) : Nat :=
  ((List.range 8).find? fun k => d.classFirst p k ≤ b && b < d.classFirst p k + d.classCount p k).getD 0

/-- The device address of a buffer number. -/
def Dev.bufferAddress (d : Dev) (p b : Nat) : Nat :=
  let k := d.classOf p b
  d.classBase p k + (b - d.classFirst p k) * d.classSize p k

/-- The buffer that starts at an address, if one does (R454). -/
def Dev.bufferAt (d : Dev) (p a : Nat) : Option Nat :=
  ((List.range 8).find? fun k =>
      d.classBase p k ≤ a && a < d.classBase p k + d.classSize p k * d.classCount p k).bind fun k =>
    if (a - d.classBase p k) % d.classSize p k = 0 then
      some (d.classFirst p k + (a - d.classBase p k) / d.classSize p k) else none

/-- Buffers of a class that an owner holds, and free buffers of a class. -/
def Dev.heldBy (d : Dev) (p k owner : Nat) : Nat :=
  ((d.pool p).allocated.filter fun e => e.2 == owner && d.classOf p e.1 == k).length
def Dev.freeIn (d : Dev) (p k : Nat) : Nat :=
  d.classCount p k - ((d.pool p).allocated.filter fun e => d.classOf p e.1 == k).length

/-- The reserve an owner holds in a class, or 0. -/
def Dev.reserveOf (d : Dev) (p k owner : Nat) : Nat :=
  (((d.pool p).reserves.find? fun r => r.owner == owner && r.cls == k).map Reserve.amount).getD 0

/-- S of R453 for a class. -/
def Dev.reservedSum (d : Dev) (p k : Nat) : Nat :=
  ((d.pool p).reserves.filter fun r => r.cls == k).foldl (fun a r => a + (r.amount - d.heldBy p k r.owner)) 0

/-- Whether an owner may take `n` buffers or cells of a class (R453). -/
def Dev.mayTake (d : Dev) (p k owner n : Nat) : Bool :=
  let w := min n (d.reserveOf p k owner - d.heldBy p k owner)
  n ≤ d.freeIn p k && d.reservedSum p k - w ≤ d.freeIn p k - n && !(d.pool p).broken

/-- The j-th free buffer of a class, given the allocated ones in rising order. -/
def nthFree : List Nat → Nat → Nat
  | [], j => j
  | a :: as, j => if a ≤ j then nthFree as (j + 1) else j

/-- An allocated buffer added in rising order. -/
def insertAlloc : List (Nat × Nat) → Nat → Nat → List (Nat × Nat)
  | [], b, o => [(b, o)]
  | (b', o') :: t, b, o => if b < b' then (b, o) :: (b', o') :: t else (b', o') :: insertAlloc t b o

/-- One free buffer of a class taken for an owner; which one is not defined (R451): a free value picks it. -/
def Dev.takeOne (d : Dev) (p k owner : Nat) : Nat × Dev :=
  let free := d.freeIn p k
  let first := d.classFirst p k
  let taken := ((d.pool p).allocated.filter fun e => d.classOf p e.1 == k).map fun e => e.1 - first
  let pick := if free ≤ 1 then (0, d) else (d.fresh.1 % free, d.fresh.2)
  let b := first + nthFree taken pick.1
  let x := pick.2.pool p
  (b, pick.2.setPool p { x with allocated := insertAlloc x.allocated b owner })

/-- `n` buffers taken. -/
def Dev.takeMany : (n : Nat) → Dev → Nat → Nat → Nat → List Nat × Dev
  | 0, d, _, _, _ => ([], d)
  | n + 1, d, p, k, owner =>
    let r := d.takeOne p k owner
    let rs := Dev.takeMany n r.2 p k owner
    (r.1 :: rs.1, rs.2)

/-- The links of a chain of cells: bytes 248 to 255 of each hold the next cell's address, or zero (R452). -/
def Dev.linkCells : Dev → List Nat → Dev
  | d, a :: b :: rest => Dev.linkCells (d.store (a + 248) (leBytes 8 b)) (b :: rest)
  | d, [a] => d.store (a + 248) (leBytes 8 0)
  | d, [] => d

/-- A pool whose control region is poisoned breaks at the first read of it (R465, R474). -/
def Dev.checkControl (d : Dev) (p : Nat) : Dev :=
  let x := d.pool p
  if x.on && !x.broken && d.poisoned (d.rd Reg.sidingsPoolConfig_control p) (d.controlBytes p) then
    (d.setPool p { x with broken := true }).beginLasting
      { bit := Bit.memory, code := 0x82, area := 0x14, detail := 0x100 + p }
  else d

/-- Free buffers of a whole pool. -/
def Dev.poolFree (d : Dev) (p : Nat) : Nat := d.poolBuffers p - (d.pool p).allocated.length

/-- The free-ring cache after one entry has been taken: an empty cache waits for a refill of 128 (R456). -/
def ringTake (ring free n : Nat) : Nat :=
  let r := if ring < n then ring + min (max 128 n) (free - ring) else ring
  r - n

/-- The result of an allocation. -/
inductive Alloc where
  | ok (address : Nat)
  | fail (code : Nat)
  deriving DecidableEq, Repr

/-- A request of `n` bytes by an owner to an enabled pool (R451 to R453): the address of the buffer or of the first cell. -/
def Dev.alloc (d : Dev) (p n owner : Nat) : Alloc × Dev :=
  let d := d.checkControl p
  match d.classFor p n with
  | none => (.fail 0x80, d)
  | some k =>
    let want := if d.cellChain p then max 1 (ceilDiv n 248) else 1
    if !(d.pool p).on || !d.mayTake p k owner want then (.fail 0x20, d.count Reg.sidingsPoolCounters_poolEmpty p)
    else
      let free := d.poolFree p
      let t := Dev.takeMany want d p k owner
      let d := t.2
      let x := d.pool p
      let d := d.setPool p { x with fewest := min x.fewest (free - want), ring := ringTake x.ring free want }
      let cells := t.1.map (d.bufferAddress p)
      (.ok (cells.headD 0), if d.cellChain p then d.linkCells cells else d)

/-- A buffer returned to its pool: the checks of R454 in order. -/
def Dev.freeOne (d : Dev) (p a : Nat) : Option Nat × Dev :=
  match d.bufferAt p a with
  | none => (some 0x21, d.count Reg.sidingsPoolCounters_badPointer p)
  | some b =>
    let x := d.pool p
    if x.allocated.any fun e => e.1 == b then
      (none, d.setPool p { x with allocated := x.allocated.filter (fun e => e.1 != b), ring := min 256 (x.ring + 1) })
    else (some 0x22, d.count Reg.sidingsPoolCounters_doubleFree p)

/-- A chain returned, `left` cells at most, in chain order (R454): the code of the first cell that fails, and the cells freed. -/
def Dev.freeChain : (left : Nat) → Dev → Nat → Nat → Option Nat × Nat × Dev
  | 0, d, _, _ => (none, 0, d)
  | left + 1, d, p, a =>
    let next := d.getNat (a + 248) 8
    let r := d.freeOne p a
    match r.1 with
    | some code => (some code, 0, r.2)
    | none =>
      if next = 0 then (none, 1, r.2)
      else
        let t := Dev.freeChain left r.2 p next
        (t.1, t.2.1 + 1, t.2.2)

/-- A return to a pool: a buffer, or a chain of `count` cells (0: to its end). A chain of more cells than the pool holds has
come back to a cell already freed. -/
def Dev.give (d : Dev) (p a count : Nat) : Option Nat × Nat × Dev :=
  let d := d.checkControl p
  if d.cellChain p then
    Dev.freeChain (if count = 0 then d.poolBuffers p + 1 else min count (d.poolBuffers p + 1)) d p a
  else
    let r := d.freeOne p a
    (r.1, if r.1 = none then 1 else 0, r.2)

/-- A block's own return (R455): a failure is counted and raises FAULT. -/
def Dev.giveOwn (d : Dev) (p a : Nat) (count : Nat := 0) : Dev :=
  let r := d.give p a count
  match r.1 with
  | none => r.2.2
  | some code => r.2.2.attend { bit := Bit.fault, code := code, area := 0x14, detail := p % 256 + 256 * code }

/-- Reserve entries in use (R453: 8,192 at most). -/
def Dev.reserveEntries (d : Dev) : Nat := d.pools.foldl (fun a e => a + e.2.reserves.length) 0

/-- A claim of a reserve of `amount` buffers that hold `n` bytes, or of cells (R453): whether it succeeded. -/
def Dev.claim (d : Dev) (p n owner amount : Nat) : Bool × Dev :=
  let refuse := (false, d.count Reg.sidingsPoolCounters_claimsRefused p)
  match d.classFor p n with
  | none => refuse
  | some k =>
    let x := d.pool p
    if x.on && !x.broken && !(x.reserves.any fun r => r.owner == owner && r.cls == k) && d.reserveEntries < 8192 &&
        d.reservedSum p k + amount ≤ d.freeIn p k then
      (true, d.setPool p { x with reserves := x.reserves ++ [{ owner, cls := k, amount }] })
    else refuse

/-- An owner's reserves in a pool are released (R453); buffers it holds stay held. -/
def Dev.release (d : Dev) (p owner : Nat) : Dev :=
  let x := d.pool p
  d.setPool p { x with reserves := x.reserves.filter fun r => r.owner != owner }

/-- Whether an owner holds a reserve in a pool. -/
def Dev.hasReserve (d : Dev) (p owner : Nat) : Bool := (d.pool p).reserves.any fun r => r.owner == owner

/-- Two regions overlap. -/
def overlaps (a n b m : Nat) : Bool := a < b + m && b < a + n

/-- A region lies wholly in presented LPDDR6 or wholly in the pool partition (R450). -/
def Dev.regionHeld (d : Dev) (a n : Nat) : Bool :=
  a + n ≤ lpddrEnd || (d.poolPartition.1 ≤ a && a + n ≤ d.poolPartition.1 + d.poolPartition.2)

/-- The lowest free run of `n` of the 4,194,304 state bits (R450), given the runs in use in rising order. -/
def freeRun : List (Nat × Nat) → Nat → Nat → Option Nat
  | [], pos, n => if pos + n ≤ 4194304 then some pos else none
  | (b, m) :: t, pos, n => if pos + n ≤ b then some pos else freeRun t (b + m) n

/-- Runs in rising order of their start. -/
def insertRun : List (Nat × Nat) → Nat × Nat → List (Nat × Nat)
  | [], r => [r]
  | r' :: t, r => if r.1 ≤ r'.1 then r :: r' :: t else r' :: insertRun t r

/-- The cause that refuses to enable a pool, or the first state bit it gets (R450, R471). -/
def Dev.enableCheck (d : Dev) (p : Nat) : Nat ⊕ Nat :=
  let others := (List.range 32).filter fun q => q != p && (d.pool q).on
  let regions (q : Nat) : List (Nat × Nat) :=
    [(d.rd Reg.sidingsPoolConfig_base q, d.poolArea q), (d.rd Reg.sidingsPoolConfig_control q, d.controlBytes q)]
  let n := d.poolBuffers p
  if n = 0 then .inl 4
  else if !((regions p).all fun r => d.regionHeld r.1 r.2) then .inl 2
  else if others.any fun q => (regions q).any fun r => (regions p).any fun r' => overlaps r.1 r.2 r'.1 r'.2 then .inl 1
  else
    let runs := others.foldl (fun acc q => insertRun acc ((d.pool q).firstBit, d.poolBuffers q)) []
    match freeRun runs 0 n with
    | some bit => .inr bit
    | none => .inl 3

/-- What a write of an element of `sidings.pool.enable` stores (R450). -/
def Dev.adjustPoolEnable (d : Dev) (p v : Nat) : Nat :=
  let x := d.pool p
  if v = 0 then (if x.on && (x.allocated != [] || x.reserves != []) then 1 else 0)
  else if x.on then 1
  else match d.enableCheck p with
    | .inl _ => 0
    | .inr _ => 1

/-- The effect of a write of an element of `sidings.pool.enable` that asked for `v` (R450). -/
def Dev.applyPoolEnable (d : Dev) (p v : Nat) : Dev :=
  let x := d.pool p
  if v = 0 then
    if x.on && x.allocated == [] && x.reserves == [] then
      (d.setPool p {}).endLasting fun l => l.bit == Bit.memory && l.area == 0x14 && l.detail == 0x100 + p
    else d
  else if x.on then d
  else match d.enableCheck p with
    | .inl cause => d.wr Reg.sidingsPoolState_cause p cause
    | .inr bit =>
      let n := d.poolBuffers p
      d.setPool p { on := true, firstBit := bit, fewest := n, ring := min 256 n }

/-- A field of `sidings.pool.state` and `sidings.buffers` as they read (R471). -/
def Dev.poolStateField (d : Dev) (p off : Nat) : Nat :=
  let x := d.pool p
  let on (v : Nat) : Nat := if x.on then v else 0
  match off with
  | 0 => if !x.on then 0 else if x.broken then 2 else 1
  | 8 => d.rd Reg.sidingsPoolState_cause p
  | 32 => on x.firstBit
  | 64 => on (d.poolBuffers p)
  | 96 => on (d.poolFree p)
  | 128 => on ((List.range 8).foldl (fun a k => a + d.reservedSum p k) 0)
  | 160 => on (x.reserves.map Reserve.owner).eraseDups.length
  | 192 => on x.fewest
  | _ => 0
def Dev.sidingsBuffers (d : Dev) : Nat :=
  (List.range 32).foldl (fun a p => if (d.pool p).on then a + d.poolBuffers p else a) 0

/-! ### The LPDDR6 map, log and errors (R459 to R474) -/

/-- Parity of the low 15 bits. -/
def parity (v : Nat) : Nat := popCount 15 v % 2

/-- The fields (row, bank_raw, col) of a unit within its rank, by the order of `lpddr6.map` (R460). -/
def mapFields (order v : Nat) : Nat × Nat × Nat :=
  match order with
  | 0 => (bits v 7 15, bits v 3 4, bits v 0 3)
  | 1 => (bits v 7 15, bits v 0 4, bits v 4 3)
  | 2 => (bits v 3 15, bits v 18 4, bits v 0 3)
  | _ => (bits v 7 15, bits v 1 4, bits v 0 1 + 2 * bits v 5 2)

/-- Where a presented address lies. -/
structure DramPlace where
  channel : Nat
  rank : Nat
  bank : Nat
  row : Nat
  col : Nat
  deriving DecidableEq, Repr

/-- The remap entry a logical rank names is its own number; its channel and rank come from `lpddr6.remap` (R460). -/
def Dev.dramPlace (d : Dev) (a : Nat) : DramPlace :=
  let u := a / 256
  let lr := u % 60
  let f := mapFields (d.rd Reg.lpddr6Map_order) (u / 60)
  let bank := (List.range 4).foldl
    (fun b k => b + ((f.2.1.testBit k).xor (parity (f.1 &&& d.rd (Reg.lpddr6Map_mask k)) == 1)).toNat * 2 ^ k) 0
  { channel := d.rd Reg.lpddr6Remap_channel lr, rank := d.rd Reg.lpddr6Remap_rank lr, bank, row := f.1, col := f.2.2 }

/-- An entry of the LPDDR6 log (R473): discarded and counted when it would overwrite an unread one, with LOG at most once
per second (R597). -/
def Dev.lpddrLog (d : Dev) (kind lr : Nat) (address units : Nat := 0) : Dev :=
  let h := d.rd Reg.lpddr6LogHead
  if overwrites d.lp.logWrapped 1024 h (d.rd Reg.lpddr6LogRead) then
    let d := d.count Reg.lpddr6LogLost
    if d.lp.logRaised.all fun t => t + secondTicks ≤ d.now then
      Dev.attend { d with lp := { d.lp with logRaised := some d.now } } { bit := Bit.log, area := 0x15 }
    else d
  else
    let i := h % 1024
    let d : Dev := { d with lp := { d.lp with logWrapped := d.lp.logWrapped || h + 1 == 2 ^ 32 } }
    let d := d.wr Reg.lpddr6LogHead 0 ((h + 1) % 2 ^ 32)
    let d := ((d.wr Reg.lpddr6Log_sequence i h).wr Reg.lpddr6Log_kind i kind).wr Reg.lpddr6Log_logical i lr
    let d := (d.wr Reg.lpddr6Log_channel i (d.rd Reg.lpddr6Remap_channel lr)).wr Reg.lpddr6Log_rank i
      (d.rd Reg.lpddr6Remap_rank lr)
    (d.wr Reg.lpddr6Log_address i address).wr Reg.lpddr6Log_units i units

/-- MEMORY for an LPDDR6 cause: the detail is the logical rank (R474). -/
def Dev.memoryRank (d : Dev) (lr : Nat) : Dev := d.attend { bit := Bit.memory, area := 0x15, detail := lr }

/-- A unit becomes poisoned and, in LPDDR6, is logged as lost (R447, R465). -/
def Dev.poisonAt (d : Dev) (a : Nat) : Dev :=
  let u := poisonUnit a
  if d.poison.contains u then d
  else
    let d := { d with poison := u :: d.poison }
    if u < lpddrEnd then d.lpddrLog 4 (u / 256 % 60) u 1 else d

/-- Spare entries that are free: state 0 of `lpddr6.remap` (R472). -/
def Dev.freeSpares (d : Dev) : List Nat := (List.range 64).filter fun e => 60 ≤ e && d.rd Reg.lpddr6Remap_state e == 0

/-- Whether a logical rank is queued or migrating (R466). -/
def Dev.rankBusy (d : Dev) (lr : Nat) : Bool :=
  d.lp.queued.any (fun e => e.1 == lr) || (d.lp.current.map Migration.rank == some lr)

/-- A physical rank is recorded as retired in the repair ledger, once: when its migration begins, since R469 has the ledger record it
while the copy runs (log entry 158). -/
def Dev.retireRank (d : Dev) (e : Nat) : Dev :=
  let unit := d.rd Reg.lpddr6Remap_channel e * 2 + d.rd Reg.lpddr6Remap_rank e
  if (d.ledger.entries ++ d.ledger.waiting).any fun x => x.kind == 2 && x.unitType == .lpddrRank && x.unit == unit then d
  else d.appendLedger 2 .lpddrRank unit 0

/-- A logical rank is queued for migration (R466): the lowest free spare is reserved. With none left NO_SPARE holds (R470). -/
def Dev.queueMigration (d : Dev) (lr : Nat) : Dev :=
  if d.rankBusy lr then d
  else match d.freeSpares with
    | e :: _ =>
      Dev.wr { d with lp := { d.lp with queued := d.lp.queued ++ [(lr, e)] } } Reg.lpddr6Remap_state e 4
    | [] =>
      if d.lp.lost.contains lr then d
      else
        let d := { d with lp := { d.lp with lost := lr :: d.lp.lost } }
        let d := (d.wr Reg.lpddr6Remap_state lr 6).lpddrLog 7 lr
        d.beginLasting { bit := Bit.memory, code := 0x80, area := 0x15, detail := lr }

/-- The spare that a migration writes fails (R469): it is retired, the units it alone held are poisoned, and the copy restarts
on the next spare with the written bits kept; with no spare left R470 applies. -/
def Dev.spareFails (d : Dev) (m : Migration) : Dev :=
  let d := (d.wr Reg.lpddr6Remap_state m.target 5).retireRank m.target
  let d := m.written.foldl (fun d v => d.poisonAt ((v * 60 + m.rank) * 256)) d
  match d.freeSpares with
  | e :: _ =>
    Dev.wr { d with lp := { d.lp with current := some { m with target := e, poisoned := m.poisoned + m.written.length } } }
      Reg.lpddr6Remap_state e 3
  | [] => Dev.queueMigration { d with lp := { d.lp with current := none } } m.rank

/-- One error the memory codes report at an address of LPDDR6 (R464 to R466, R469, R470). -/
def Dev.dramError (d : Dev) (e : EccEvent) : Dev :=
  let lr := e.address / 256 % 60
  match e.kind with
  | .corrected =>
    let d := d.count Reg.lpddr6RankCounters_corrected lr
    let r := d.lp.ranks.getD lr {}
    let r := if r.periodStart + 31250000 ≤ d.now then { r with corrected := 1, periodStart := d.now }
      else { r with corrected := r.corrected + 1 }
    let d := { d with lp := { d.lp with ranks := d.lp.ranks.put lr r } }
    let limit := d.rd Reg.lpddr6CeLimit
    if limit != 0 && limit < r.corrected && (r.corrected == limit + 1 || !(d.rankBusy lr || d.lp.lost.contains lr)) then (d.lpddrLog 8 lr e.address r.corrected).memoryRank lr |>.queueMigration lr
    else d
  | .uncorrectable =>
    let d := (d.count Reg.lpddr6RankCounters_uncorrectable lr).lpddrLog 2 lr (poisonUnit e.address) 1
    let known := d.poison.contains (poisonUnit e.address)
    let d := (d.poisonAt e.address).memoryRank lr
    match d.lp.current with
    | some m =>
      if m.rank = lr then
        if m.written.contains (e.address / 256 / 60) then d.spareFails m
        else { d with lp := { d.lp with current := some { m with poisoned := m.poisoned + b2n (!known) } } }
      else d.queueMigration lr
    | none => d.queueMigration lr
  | .commandError =>
    let d := (d.count Reg.lpddr6RankCounters_commandErrors lr).lpddrLog 3 lr
    let d := d.memoryRank lr
    let d := match d.lp.current with
      | some m => if m.rank = lr ∧ m.written.contains (e.address / 256 / 60) then d.spareFails m else d.queueMigration lr
      | none => d.queueMigration lr
    if d.lp.lost.contains lr && !d.lp.dead.contains lr then { d with lp := { d.lp with dead := lr :: d.lp.dead } } else d

/-- One error the memory codes report in the Vat (R447). A cache line with an uncorrectable error is read again. -/
def Dev.vatError (d : Dev) (e : EccEvent) : Dev :=
  let o := e.address - vatBase
  match e.kind with
  | .corrected => d.count Reg.vatCounters_corrected
  | _ =>
    let d := d.count Reg.vatCounters_uncorrectable
    let bank := d.vatBank o
    let d := (d.poisonAt e.address).attend { bit := Bit.memory, area := 0x14, detail := bank }
    d.appendLedger 3 .vatBank (d.physical .vatBank bank) 0

/-- The errors a read met. -/
def Dev.eccErrors (d : Dev) (es : List EccEvent) : Dev :=
  es.foldl (fun d e => if e.address < lpddrEnd then d.dramError e else if d.mapped e.address then d.vatError e else d) d

/-- A cached line read with an uncorrectable error: read again from LPDDR6 and counted (R447). -/
def Dev.cacheLineError (d : Dev) (u : Nat) : Dev :=
  Dev.count { d with cache := d.cache.filter (· != u) } Reg.vatCounters_reread

/-! ### Refresh, temperature and migration (R463, R459, R466 to R469) -/

def Dev.rank (d : Dev) (e : Nat) : Rank := d.lp.ranks.getD e {}
def Dev.setRank (d : Dev) (e : Nat) (r : Rank) : Dev := { d with lp := { d.lp with ranks := d.lp.ranks.put e r } }

/-- The refresh interval of a rank in nanoseconds (R463). -/
def Rank.interval (r : Rank) : Nat := if r.hot then 1952 else 3904

/-- REFRESH_DUE (R463): issued at once on an idle rank, postponed up to 8, forced at 8. -/
def refreshDueEffect (e : Nat) (queued : Bool) (d : Dev) : Dev :=
  let r := d.rank e
  if !queued then d
  else if r.postponed < 8 then (d.setRank e { r with postponed := r.postponed + 1 }).count Reg.lpddr6RankCounters_postponed e
  else d.count Reg.lpddr6RankCounters_forced e

/-- REFRESH_MAKE_UP (R463): postponed refreshes made up, one after another, until a request arrives. -/
def refreshMakeUpEffect (e n : Nat) (d : Dev) : Dev :=
  let r := d.rank e
  let k := min n r.postponed
  if k = 0 then d else (d.setRank e { r with postponed := r.postponed - k }).count Reg.lpddr6RankCounters_makeUp e k

/-- RANK_TEMPERATURE_READ (R459, R463): above 85 °C the refresh interval halves. -/
def rankTemperatureReadEffect (e : Nat) (t : Int) (d : Dev) : Dev := d.setRank e { d.rank e with hot := 85 < t }

/-- RANK_RETIRE (R466). The detail is the queue position. -/
def rankRetireEffect (q i : Nat) (d : Dev) : Dev :=
  match d.takeCommand q i 0x1501 with
  | none => d
  | some f =>
    let lr := byteAt f.entry 8
    if d.rankBusy lr then d.complete q i 0x81 0x15
    else if d.freeSpares = [] then d.complete q i 0x80 0x15
    else
      let d := d.queueMigration lr
      d.complete q i 0 0x15 (d.lp.queued.length - 1)

/-- MIGRATION_START (R467): the next queued migration begins; they run one at a time. The failing rank is recorded as retired. -/
def migrationStartEffect (d : Dev) : Dev :=
  match d.lp.current, d.lp.queued with
  | none, (lr, e) :: rest =>
    let d := { d with lp := { d.lp with current := some { rank := lr, target := e }, queued := rest } }
    let d := ((d.wr Reg.lpddr6Remap_state lr 2).wr Reg.lpddr6Remap_state e 3).retireRank lr
    (d.lpddrLog 5 lr 0 (2 ^ 22)).memoryRank lr
  | _, _ => d

/-- MIGRATION_DONE (R467): units the copy could not read are poisoned in the spare; the remap entry names the spare, and the old
rank is recorded as retired in the spare's place. -/
def migrationDoneEffect (unreadable : List Nat) (d : Dev) : Dev :=
  match d.lp.current with
  | none => d
  | some m =>
    let bad := unreadable.filter fun v => !m.written.contains v
    let d := bad.foldl (fun d v => d.poisonAt ((v * 60 + m.rank) * 256)) d
    let d := d.retireRank m.rank
    let old := (d.rd Reg.lpddr6Remap_channel m.rank, d.rd Reg.lpddr6Remap_rank m.rank)
    let d := (d.wr Reg.lpddr6Remap_channel m.rank (d.rd Reg.lpddr6Remap_channel m.target)).wr Reg.lpddr6Remap_rank m.rank
      (d.rd Reg.lpddr6Remap_rank m.target)
    let d := (d.wr Reg.lpddr6Remap_channel m.target old.1).wr Reg.lpddr6Remap_rank m.target old.2
    let d := (d.wr Reg.lpddr6Remap_state m.rank 1).wr Reg.lpddr6Remap_state m.target 5
    let d := { d with lp := { d.lp with current := none, ranks := (d.lp.ranks.put m.rank (d.rank m.target)).put m.target (d.rank m.rank) } }
    (d.lpddrLog 6 m.rank 0 (2 ^ 22)).memoryRank m.rank

/-- A field of `lpddr6.migration` as it reads (R472). While a copy runs, how many units it has copied is not given by any
step: a free value bounded by the rank (log entry 11). -/
def Dev.migrationField (d : Dev) (off : Nat) : Nat :=
  match d.lp.current with
  | none => if off = 24 then d.lp.queued.length else 0
  | some m =>
    match off with
    | 0 => 1
    | 8 => m.rank
    | 16 => m.target
    | 24 => d.lp.queued.length
    | 32 => Config.freeNat d.free % (2 ^ 22 + 1)
    | 64 => m.poisoned
    | _ => 0

/-- The free-ring cache of a pool refills 128 entries below 64, or spills 128 above 224 (R456); the control region is read. -/
def freeRingRefillEffect (p : Nat) (ecc : List EccEvent) (d : Dev) : Dev :=
  let d := (d.eccErrors ecc).checkControl p
  let x := d.pool p
  if !x.on then d
  else if x.ring < 64 then d.setPool p { x with ring := x.ring + min 128 (d.poolFree p - x.ring) }
  else if 224 < x.ring then d.setPool p { x with ring := x.ring - 128 }
  else d

/-- POOL_ALLOC (R457): one buffer or chain for owner 0xFFFF. -/
def poolAllocEffect (q i : Nat) (ecc : List EccEvent) (d : Dev) : Dev :=
  let d := d.eccErrors ecc
  match d.takeCommand q i 0x1401 with
  | none => d
  | some f =>
    let p := byteAt f.entry 8
    if !(d.pool p).on then d.complete q i 0x81 0x14
    else
      let r := d.alloc p (le f.entry 12 4) 0xFFFF
      match r.1 with
      | .ok a => r.2.complete q i 0 0x14 (a / 256)
      | .fail code => r.2.complete q i code 0x14

/-- The enabled pool whose buffer area an address lies in (R457). -/
def Dev.poolHolding (d : Dev) (a : Nat) : Option Nat :=
  (List.range 32).find? fun p =>
    (d.pool p).on && d.rd Reg.sidingsPoolConfig_base p ≤ a && a < d.rd Reg.sidingsPoolConfig_base p + d.poolArea p

/-- POOL_FREE (R457): a buffer or cells returned by the host. The detail of a failed return is the cells freed before the
failure (log entry 10). -/
def poolFreeEffect (q i : Nat) (ecc : List EccEvent) (d : Dev) : Dev :=
  let d := d.eccErrors ecc
  match d.takeCommand q i 0x1402 with
  | none => d
  | some f =>
    let a := le f.entry 8 8
    match d.poolHolding a with
    | none => d.complete q i 0x21 0x14
    | some p =>
      let r := d.give p a (le f.entry 16 4)
      r.2.2.complete q i (r.1.getD 0) 0x14 r.2.1

/-- The state of the Sidings and of the pools after any reset (R458): no buffer, reserve or state bit survives. -/
def Dev.resetPools (d : Dev) : Dev :=
  { d with pools := [] }.endLasting fun l => l.bit == Bit.memory && l.area == 0x14

/-! ### The arms -/

def execPoolAlloc (q i : Nat) (e : List EccEvent) (s : State) := act (.poolAlloc q i e) (poolAllocEffect q i e) s
def execPoolFree (q i : Nat) (e : List EccEvent) (s : State) := act (.poolFree q i e) (poolFreeEffect q i e) s
def execFreeRingRefill (p : Nat) (e : List EccEvent) (s : State) :=
  act (.freeRingRefill p e) (freeRingRefillEffect p e) s
def execRefreshDue (e : Nat) (b : Bool) (s : State) := act (.refreshDue e b) (refreshDueEffect e b) s
def execRefreshMakeUp (e n : Nat) (s : State) := act (.refreshMakeUp e n) (refreshMakeUpEffect e n) s
def execRankTemperatureRead (e : Nat) (t : Int) (s : State) :=
  act (.rankTemperatureRead e t) (rankTemperatureReadEffect e t) s
def execRankRetire (q i : Nat) (s : State) := act (.rankRetire q i) (rankRetireEffect q i) s
def execMigrationStart (s : State) := act .migrationStart migrationStartEffect s

end Sys2Proof.Machine
end

