-- ==== Sys2Proof/Machine/Net.lean ====
section
/-! DEFINITION. Ethernet ports (R104 to R110): the addresses of a port, parsing a received frame to its datagram, and
sending. Header layouts are those of the published standards the manual names (log entry 12). Addresses are in the 128-bit
form of R117, the first octet on the wire in the lowest byte. -/

namespace Sys2Proof.Machine

/-- The 128-bit form ::ffff:a.b.c.d of an IPv4 address whose first octet is its lowest byte (R117). -/
def form4 (a : Nat) : Nat := 0xFFFF * 2 ^ 80 + (a % 2 ^ 32) * 2 ^ 96

/-- Bit `i` of an address in wire order. -/
def wireBit (a i : Nat) : Bool := a.testBit (i / 8 * 8 + (7 - i % 8))

/-- Two addresses agree in their first `n` bits (R64). -/
def prefixAgrees (a b n : Nat) : Bool := (List.range n).all fun i => wireBit a i == wireBit b i

/-- The IPv6 link-local address of a station address, by the modified EUI-64 method (R106). -/
def linkLocal (mac : Nat) : Nat :=
  let m (i : Nat) : Nat := bits mac (8 * i) 8
  leNat (([0xfe, 0x80, 0, 0, 0, 0, 0, 0, (m 0).xor 2, m 1, m 2, 0xff, 0xfe, m 3, m 4, m 5] : List Nat).map Byte.ofNat')

/-- The port is enabled. -/
def Dev.portOn (d : Dev) (p : Nat) : Bool := d.flag Reg.junctionPortEnable p

/-- The addresses a port has (R105, R106), as pairs of family and address. -/
def Dev.portAddresses (d : Dev) (p : Nat) : List (Nat × Nat) :=
  let v4 := d.rd Reg.junctionPortConfig_ipv4Address p
  let v6 := d.rd Reg.junctionPortConfig_ipv6Address p
  (if v4 = 0 then [] else [(4, form4 v4)]) ++ (if v6 = 0 then [] else [(6, v6)]) ++
    [(6, linkLocal (d.rd Reg.junctionPortConfig_mac p))]

/-- The port has an IPv4 or IPv6 address set (R118). -/
def Dev.portAddressed (d : Dev) (p : Nat) : Bool :=
  d.rd Reg.junctionPortConfig_ipv4Address p != 0 || d.rd Reg.junctionPortConfig_ipv6Address p != 0

/-- A stream that takes or may take Ethernet data: enabled, of source 1, admitting the port. -/
def Dev.ethStream (d : Dev) (p s : Nat) : Bool :=
  d.flag Reg.junctionStreamEnable s && d.rd Reg.junctionStreamConfig_source s == 1 &&
    (d.rd Reg.junctionStreamConfig_port s == p || d.rd Reg.junctionStreamConfig_port s == 2)

/-- The groups a port has joined, each with the source its reports name. A multicast stream's one address is its group, so no report
names a source filter (log entry 13). -/
def Dev.groups (d : Dev) (p : Nat) : List (Nat × Nat) := (d.ports.getD p {}).joined.map fun g => (g, 0)

/-- The groups of the enabled multicast streams of a port, in stream order. -/
def Dev.wantedGroups (d : Dev) (p : Nat) : List Nat :=
  (((List.range 1024).filter fun s =>
    let phase := (d.streams.getD s {}).phase
    d.ethStream p s && d.flag Reg.junctionStreamConfig_multicast s && phase != .stopped && phase != .draining).map fun s =>
      d.rd Reg.junctionStreamConfig_address s).eraseDups

/-- The station address a multicast group uses. -/
def groupMac (g : Nat) : Nat :=
  let o (i : Nat) : Nat := bits g (8 * i) 8
  if bits g 0 80 = 0 ∧ bits g 80 16 = 0xFFFF then leNat (([1, 0, 0x5e, o 13 % 128, o 14, o 15] : List Nat).map Byte.ofNat')
  else leNat (([0x33, 0x33, o 12, o 13, o 14, o 15] : List Nat).map Byte.ofNat')

/-- The solicited-node group of an address, which Neighbor Discovery sends to. -/
def solicitedNode (a : Nat) : Nat :=
  leNat (([0xff, 2, 0, 0, 0, 0, 0, 0, 0, 0, 0, 1, 0xff, bits a 104 8, bits a 112 8, bits a 120 8] : List Nat).map Byte.ofNat')

/-- All-systems and all-nodes groups, to which queries are sent. -/
def queryGroups : List Nat :=
  [form4 (leNat [224, 0, 0, 1]), leNat ([0xff, 2, 0, 0, 0, 0, 0, 0, 0, 0, 0, 0, 0, 0, 0, 1])]

/-- A destination station address the port accepts (R107). -/
def Dev.acceptsMac (d : Dev) (p mac : Nat) : Bool :=
  mac == d.rd Reg.junctionPortConfig_mac p || mac == 0xFFFFFFFFFFFF ||
    (d.groups p).any (fun g => groupMac g.1 == mac) || queryGroups.any (fun g => groupMac g == mac) ||
    (d.portAddresses p).any fun a => a.1 == 6 && groupMac (solicitedNode a.2) == mac

/-- A frame as far as its link layer: destination, source, VLAN tag, type and payload. -/
structure EthHeader where
  dst : Nat
  src : Nat
  vlan : Option Nat
  type : Nat
  payload : List Byte

def parseEth (f : List Byte) : EthHeader :=
  let t := be f 12 2
  if t = 0x8100 then
    { dst := le f 0 6, src := le f 6 6, vlan := some (be f 14 2 % 4096), type := be f 16 2, payload := f.drop 18 }
  else { dst := le f 0 6, src := le f 6 6, vlan := none, type := t, payload := f.drop 14 }

/-- An IP packet as far as its own header. -/
structure IpPacket where
  family : Nat
  src : Nat
  dst : Nat
  proto : Nat
  fragment : Bool
  payload : List Byte

/-- Skips the IPv6 extension headers that may stand before the payload: hop-by-hop, routing, destination options, fragment. -/
def skipExtensions : (fuel : Nat) → (proto : Nat) → List Byte → Nat × Bool × List Byte
  | 0, p, b => (p, false, b)
  | n + 1, p, b =>
    if p = 44 then (byteAt b 0, true, b.drop 8)
    else if p = 0 ∨ p = 43 ∨ p = 60 then skipExtensions n (byteAt b 0) (b.drop (8 + 8 * byteAt b 1))
    else (p, false, b)

def parseIp (type : Nat) (b : List Byte) : Option IpPacket :=
  if type = 0x0800 ∧ byteAt b 0 / 16 = 4 then
    let h := byteAt b 0 % 16 * 4
    some { family := 4, src := form4 (le b 12 4), dst := form4 (le b 16 4), proto := byteAt b 9,
           fragment := be b 6 2 % 0x4000 != 0, payload := (b.take (be b 2 2)).drop h }
  else if type = 0x86DD ∧ byteAt b 0 / 16 = 6 then
    let x := skipExtensions 8 (byteAt b 6) ((b.drop 40).take (be b 4 2))
    some { family := 6, src := le b 8 16, dst := le b 24 16, proto := x.1, fragment := x.2.1, payload := x.2.2 }
  else none

/-- The 16-bit words of a byte string added, most significant byte first. -/
def wordSum : List Byte → Nat
  | a :: b :: t => a.toNat * 256 + b.toNat + wordSum t
  | [a] => a.toNat * 256
  | [] => 0

/-- The Internet checksum of a sum of words folds to all ones. -/
def sumsToOnes (n : Nat) : Bool := 0 < n && n % 65535 == 0

/-- A UDP datagram's checksum is wrong, or is zero over IPv6 (R107). -/
def udpChecksumBad (p : IpPacket) : Bool :=
  let u := p.payload
  let addr (a : Nat) : List Byte := if p.family = 4 then leBytes 4 (a / 2 ^ 96) else leBytes 16 a
  if be u 6 2 = 0 then p.family == 6
  else !sumsToOnes (wordSum (addr p.src) + wordSum (addr p.dst) + 17 + be u 4 2 + wordSum (u.take (be u 4 2)))

/-- Something a port sends counts as a frame sent. -/
def Dev.sendPort (d : Dev) (p : Nat) (x : Sent) : Dev := (d.send x).count Reg.junctionPortCounters_sent p

/-- A frame of a port to a station: it carries the port's VLAN tag, if it has one (R105). -/
def Dev.ethTo (d : Dev) (p mac : Nat) : EthTo := { port := p, vlan := d.rd Reg.junctionPortConfig_vlan p, mac }

/-- An IPv4 address in 128-bit form; a multicast address; an IPv6 link-local address. -/
def isForm4 (a : Nat) : Bool := bits a 0 80 == 0 && bits a 80 16 == 0xFFFF
def isGroup (a : Nat) : Bool := if isForm4 a then bits a 96 8 / 16 == 14 else bits a 0 8 == 0xFF
def isLinkLocal (a : Nat) : Bool := bits a 0 8 == 0xFE && bits a 8 8 / 64 == 2

/-- The next hop of a destination by a port (R105): the destination itself on the port's prefix, the gateway off it; none where the port has
neither, or has no address of the family. -/
def Dev.nextHop (d : Dev) (p a : Nat) : Option Nat :=
  if isForm4 a then
    let own := d.rd Reg.junctionPortConfig_ipv4Address p
    let gateway := d.rd Reg.junctionPortConfig_ipv4Gateway p
    if own = 0 then none
    else if prefixAgrees a (form4 own) (96 + d.rd Reg.junctionPortConfig_ipv4Prefix p) then some a
    else if gateway = 0 then none else some (form4 gateway)
  else
    let own := d.rd Reg.junctionPortConfig_ipv6Address p
    let gateway := d.rd Reg.junctionPortConfig_ipv6Gateway p
    if isLinkLocal a || (own != 0 && prefixAgrees a own (d.rd Reg.junctionPortConfig_ipv6Prefix p)) then some a
    else if gateway = 0 then none else some gateway

/-- The station address of a neighbour, if the port knows it. -/
def Dev.neighbour (d : Dev) (p a : Nat) : Option Nat := ((d.ports.getD p {}).neighbours.find? fun e => e.1 == a).map Prod.snd

/-- A datagram leaves for a station. -/
def Dev.emitUdp (d : Dev) (p mac : Nat) (w : WaitingDatagram) : Dev :=
  d.sendPort p (.udp (d.ethTo p mac) w.address w.destination w.source w.data)

/-- A neighbour learned; the port keeps 64, newest first, and the datagrams that waited for it leave (R106). -/
def Dev.learn (d : Dev) (p address mac : Nat) : Dev :=
  let x := d.ports.getD p {}
  let d : Dev := { d with ports := d.ports.put p { x with
      neighbours := ((address, mac) :: x.neighbours.filter fun e => e.1 != address).take 64,
      waiting := x.waiting.filter fun w => w.hop != address } }
  (x.waiting.filter fun w => w.hop == address).foldl (fun d w => d.emitUdp p mac w) d

/-- The next hop is asked for by ARP or Neighbor Discovery (R106). -/
def Dev.askNeighbour (d : Dev) (p hop : Nat) : Dev :=
  let mac := if isForm4 hop then 0xFFFFFFFFFFFF else groupMac (solicitedNode hop)
  d.sendPort p (.neighborRequest (d.ethTo p mac) hop)

/-- A datagram the device sends by an enabled port: to the station of its next hop, once that is known (R105, R106). DESIGN CHOICE (log
entry 133): datagrams wait for it without limit, the hop is asked for once, and one without a next hop is not sent. -/
def Dev.sendUdp (d : Dev) (p destination dstPort srcPort : Nat) (data : List Byte) : Dev :=
  let w (hop : Nat) : WaitingDatagram := { hop, address := destination, destination := dstPort, source := srcPort, data }
  if !d.portOn p then d
  else if isGroup destination then d.emitUdp p (groupMac destination) (w destination)
  else match d.nextHop p destination with
    | none => d
    | some hop =>
      match d.neighbour p hop with
      | some mac => d.emitUdp p mac (w hop)
      | none =>
        let x := d.ports.getD p {}
        let asked := x.waiting.any fun v => v.hop == hop
        let d : Dev := { d with ports := d.ports.put p { x with waiting := x.waiting ++ [w hop] } }
        if asked then d else d.askNeighbour p hop

/-- Answers to an ARP frame: a request for the port's own IPv4 address gets a reply (R106). -/
def Dev.arp (d : Dev) (p : Nat) (b : List Byte) : Dev :=
  let own := d.rd Reg.junctionPortConfig_ipv4Address p
  if own ≠ 0 ∧ le b 24 4 = own then
    let d := d.learn p (form4 (le b 14 4)) (le b 8 6)
    if be b 6 2 = 1 then d.sendPort p (.neighborReply (d.ethTo p (le b 8 6)) (form4 own) (form4 (le b 14 4))) else d
  else d

/-- A membership report or leave of a group, to the address of all IGMPv3 or MLDv2 routers. -/
def Dev.sendMembership (d : Dev) (p g : Nat) (leave : Bool) : Dev :=
  let routers := if isForm4 g then form4 (leNat [224, 0, 0, 22]) else leNat ([0xff, 2, 0, 0, 0, 0, 0, 0, 0, 0, 0, 0, 0, 0, 0, 22])
  d.sendPort p (.membership (d.ethTo p (groupMac routers)) g 0 leave)

/-- The port reports each group it has joined (R108), as a membership query asks. -/
def Dev.answerQuery (d : Dev) (p : Nat) : Dev := (d.groups p).foldl (fun d g => d.sendMembership p g.1 false) d

/-- The port leaves the groups that no enabled stream wants any more, and joins those that one wants, at most 512, each with its report.
DESIGN CHOICE (log entry 134): a group that finds 512 joined waits, and the waiting group of the lowest-numbered stream joins when one leaves. -/
def Dev.syncGroups (d : Dev) (p : Nat) : Dev :=
  if !d.portOn p then d
  else
    let x := d.ports.getD p {}
    let wanted := d.wantedGroups p
    let kept := x.joined.filter wanted.contains
    let more := (wanted.filter fun g => !kept.contains g).take (512 - kept.length)
    let d : Dev := { d with ports := d.ports.put p { x with joined := kept ++ more } }
    let d := (x.joined.filter fun g => !wanted.contains g).foldl (fun d g => d.sendMembership p g true) d
    more.foldl (fun d g => d.sendMembership p g false) d

/-- Answers to ICMP, ICMPv6 and membership packets (R106, R108). -/
def Dev.control (d : Dev) (p : Nat) (mac : Nat) (k : IpPacket) : Dev :=
  let b := k.payload
  let own := (d.portAddresses p).any fun a => a.2 == k.dst
  let echo := (k.proto == 1 && byteAt b 0 == 8) || (k.proto == 58 && byteAt b 0 == 128)
  if echo then
    if own && b.length ≤ 1480 then d.sendPort p (.echoReply (d.ethTo p mac) k.src k.dst (b.drop 4)) else d
  else if k.proto = 58 ∧ byteAt b 0 = 135 then
    if (d.portAddresses p).any fun a => a.2 == le b 8 16 then
      (d.learn p k.src mac).sendPort p (.neighborReply (d.ethTo p mac) (le b 8 16) k.src)
    else d
  else if k.proto = 58 ∧ byteAt b 0 = 136 then d.learn p (le b 8 16) mac
  else if (k.proto = 2 ∧ byteAt b 0 = 0x11) ∨ (k.proto = 58 ∧ byteAt b 0 = 130) then d.answerQuery p
  else d

end Sys2Proof.Machine
end

