-- ==== Sys2Proof/Machine/Junction.lean ====
section
/-! DEFINITION. The Junction (R110 to R137): which datagrams a stream takes, RTP depacketising, reorder windows, transport
streams and fragmented files, access units, and pre-event rings. -/

namespace Sys2Proof.Machine

def Dev.stream (d : Dev) (s : Nat) : Stream := d.streams.getD s {}
def Dev.setStream (d : Dev) (s : Nat) (x : Stream) : Dev := { d with streams := d.streams.put s x }
def Dev.updStream (d : Dev) (s : Nat) (f : Stream → Stream) : Dev := d.setStream s (f (d.stream s))

/-- A momentary STREAM cause of an area, at most once per second for each stream and detail, whatever becomes of the stream in between (R136,
R165, R192, R394). -/
def Dev.streamOnce (d : Dev) (area stream detail code : Nat) (codeArea : Nat := area) (context : Nat := 0xFFFF) : Dev :=
  if (d.raisedAt.find? (area, stream, detail)).all fun t => t + secondTicks ≤ d.now then
    Dev.attend { d with raisedAt := d.raisedAt.put (area, stream, detail) d.now }
      { bit := Bit.stream, code, area := codeArea, context, stream, detail }
  else d

/-- A momentary STREAM cause of the Junction (R136). -/
def Dev.streamCause (d : Dev) (s detail code area : Nat) : Dev := d.streamOnce 0x04 s detail code area

/-- Access-unit buffers a stream holds (R119): units handed on that wait for decode, the one in decode, and those of pictures that have not
finished (R155). -/
def Dev.unitsHeld (d : Dev) (s : Nat) : Nat :=
  (d.handedUnits.filter fun u => u.stream == s).length +
    (d.decodeJobs.filter fun j => j.2.clip == none && j.2.unit.stream == s && j.2.header.last).length +
    ((d.decoders.getD s {}).frames.filter Frame.holdsUnit).length

/-- The stream takes data: waiting, running or discarding to a key picture (R119). -/
def Stream.taking (x : Stream) : Bool := x.phase == .waiting || x.phase == .running || x.phase == .discarding

/-- A stream that has taken data is running. -/
def Stream.run (x : Stream) : Stream := if x.phase = .waiting then { x with phase := .running } else x

/-! ### RTP (R111, R112) -/

/-- An RTP packet. -/
structure RtpPacket where
  sequence : Nat
  timestamp : Nat
  ssrc : Nat
  payloadType : Nat
  marker : Bool
  payload : List Byte

/-- An RTP version 2 packet, its padding removed and its CSRC list and extension skipped; none when it is not one, or is
shorter than the header its first byte announces. An extension or padding longer than the packet leaves no payload. -/
def parseRtp (b : List Byte) : Option RtpPacket :=
  let h := byteAt b 0
  let p := 12 + 4 * (h % 16)
  if h / 64 ≠ 2 ∨ b.length < p then none
  else
    let pad := if h.testBit 5 then (b.getLastD 0#8).toNat else 0
    let p := if h.testBit 4 then p + 4 + 4 * be b (p + 2) 2 else p
    some { sequence := be b 2 2, timestamp := be b 4 4, ssrc := be b 8 4, payloadType := byteAt b 1 % 128,
           marker := (byteAt b 1).testBit 7, payload := (b.take (b.length - pad)).drop p }

/-- The NAL units of an aggregation packet: a 16-bit size before each. -/
def splitAggregate : (fuel : Nat) → List Byte → Option (List RtpItem)
  | 0, _ => none
  | n + 1, b =>
    if b = [] then some []
    else
      let k := be b 0 2
      if k = 0 ∨ b.length < 2 + k then none
      else (splitAggregate n (b.drop (2 + k))).map fun t => .whole ((b.drop 2).take k) :: t

/-- A LEB128 number and the bytes it takes. -/
def leb128 : (fuel : Nat) → List Byte → Nat × Nat
  | 0, _ => (0, 0)
  | _, [] => (0, 0)
  | n + 1, b :: t =>
    if b.toNat < 128 then (b.toNat, 1)
    else
      let r := leb128 n t
      (b.toNat - 128 + 128 * r.1, r.2 + 1)

/-- The OBU elements of an AV1 payload: W of them, the last without a length when W is not zero. -/
def av1Elements : (fuel : Nat) → (w : Nat) → List Byte → List (List Byte)
  | 0, _, _ => []
  | n + 1, w, b =>
    if b = [] then []
    else if w = 1 then [b]
    else
      let k := leb128 8 b
      (b.drop k.2).take k.1 :: av1Elements n (w - 1) (b.drop (k.2 + k.1))

/-- OBU elements as items: the first continues a fragment when Z is set, the last is continued when Y is set. -/
def av1Items (z y : Bool) (es : List (List Byte)) : List RtpItem :=
  match es with
  | [] => []
  | [e] => if !z && !y then [.whole e] else [.fragment (!z) (!y) [] e]
  | e :: rest =>
    (if z then RtpItem.fragment false true [] e else .whole e) ::
      (rest.dropLast.map RtpItem.whole ++
        (rest.getLast?.toList.map fun l => if y then RtpItem.fragment true false [] l else .whole l))

/-- The items of a payload in a supported packetisation, or none (R112). -/
def rtpItems (codec : Nat) (b : List Byte) : Option (List RtpItem) :=
  match codec with
  | 1 =>
    let t := byteAt b 0 % 32
    if b = [] then none
    else if 1 ≤ t ∧ t ≤ 23 then some [.whole b]
    else if t = 24 then splitAggregate b.length (b.drop 1)
    else if t = 28 ∧ 2 ≤ b.length then
      let fu := byteAt b 1
      some [.fragment (fu.testBit 7) (fu.testBit 6) [Byte.ofNat' (byteAt b 0 / 32 * 32 + fu % 32)] (b.drop 2)]
    else none
  | 2 =>
    let t := byteAt b 0 / 2 % 64
    if b.length < 2 then none
    else if t < 48 then some [.whole b]
    else if t = 48 then splitAggregate b.length (b.drop 2)
    else if t = 49 ∧ 3 ≤ b.length then
      let fu := byteAt b 2
      some [.fragment (fu.testBit 7) (fu.testBit 6)
        [Byte.ofNat' ((byteAt b 0 &&& 0x81) + 2 * (fu % 64)), b.getD 1 0#8] (b.drop 3)]
    else none
  | 3 =>
    if b = [] then none
    else
      let h := byteAt b 0
      some (av1Items (h.testBit 7) (h.testBit 6) (av1Elements b.length (bits h 4 2) (b.drop 1)))
  | _ =>
    let t := byteAt b 4
    let q := byteAt b 5
    if b.length < 8 ∨ !([0, 1, 64, 65] : List Nat).contains t ∨ !((1 ≤ q ∧ q ≤ 99) ∨ 128 ≤ q) then none
    else
      let p := if 64 ≤ t then 12 else 8
      let p := if 128 ≤ q ∧ be b 1 3 = 0 then p + 4 + be b (p + 2) 2 else p
      if b.length < p then none else some [.jpeg (be b 1 3) (b.take p) (b.drop p)]

/-- `n` bits of a byte string from bit `p` on, most significant first. -/
def msbBits (b : List Byte) (p n : Nat) : Nat :=
  (List.range n).foldl (fun a i => 2 * a + b2n ((byteAt b ((p + i) / 8)).testBit (7 - (p + i) % 8))) 0

/-- The place after an AV1 uvlc number. -/
def uvlcEnd (b : List Byte) (p : Nat) : Nat :=
  let z := ((List.range 32).find? fun i => msbBits b (p + i) 1 == 1).getD 32
  p + 2 * z + 1

/-- Operating points of an AV1 sequence header (AV1 5.5.1). -/
def operatingPoints (o : List Byte) : Nat :=
  if msbBits o 4 1 = 1 then 1
  else
    let p := if msbBits o 5 1 = 0 then 6
      else
        let q := if msbBits o 70 1 = 1 then uvlcEnd o 71 else 71
        if msbBits o q 1 = 1 then q + 48 else q + 1
    msbBits o (p + 1) 5 + 1

/-- The OBU type of an OBU. -/
def obuType (b : List Byte) : Nat := byteAt b 0 / 8 % 16

/-- The payload of an OBU, after its header, extension and size. -/
def obuPayload (b : List Byte) : List Byte :=
  let h := byteAt b 0
  let p := if h.testBit 2 then 2 else 1
  if h.testBit 1 then b.drop (p + (leb128 8 (b.drop p)).2) else b.drop p

/-- An OBU that starts in an item. -/
def RtpItem.obu? : RtpItem → Option (List Byte)
  | .whole b => some b
  | .fragment first _ header b => if first then some (header ++ b) else none
  | .jpeg _ _ _ => none

/-- Whether an AV1 stream is scalable, with more than one operating point, as the latest sequence header of a packet says (R112). -/
def scalableAfter (before : Bool) (items : List RtpItem) : Bool :=
  (items.filterMap RtpItem.obu?).foldl (fun s o => if obuType o = 1 then 1 < operatingPoints (obuPayload o) else s) before

/-- One item more of a unit: the open fragment, if any, and the parts received whole so far. A lost packet, or a part that
starts, ends the open fragment without it (R123). -/
def gatherStep (acc : Option (List Byte) × List (List Byte)) : Option RtpItem → Option (List Byte) × List (List Byte)
  | none => (none, acc.2)
  | some (.whole b) => (none, acc.2 ++ [b])
  | some (.fragment first last header b) =>
    match if first then some (header ++ b) else acc.1.map (· ++ b) with
    | none => (none, acc.2)
    | some x => if last then (none, acc.2 ++ [x]) else (some x, acc.2)
  | some (.jpeg _ _ _) => acc

/-- The scan of a JPEG picture: its pieces follow one another from offset 0 with none lost. -/
def gatherJpeg : List (Option RtpItem) → Option (List Byte × List Byte)
  | [] => some ([], [])
  | is => is.foldl (fun acc i =>
      match acc, i with
      | some (h, b), some (.jpeg off header data) =>
        if off = b.length then some (if off = 0 then header else h, b ++ data) else none
      | _, _ => none) (some ([], []))

/-- The NAL units, OBUs or JPEG scan received whole, from a unit's packets in order, `none` for a packet lost or of an
unsupported packetisation (R112, R123). -/
def gatherParts (codec : Nat) (packets : List (Option (List RtpItem))) : List (List Byte) :=
  let is := packets.flatMap fun p =>
    match p with
    | none => [none]
    | some is => is.map some
  if codec = 4 then ((gatherJpeg is).map fun r => [r.1 ++ r.2]).getD []
  else (is.foldl gatherStep (none, [])).2

/-- A key picture by its parts (R129): an IDR NAL unit; a NAL unit of type 16 to 21; a sequence header OBU before a frame
header of type KEY_FRAME; every JPEG picture. -/
def keyParts (codec : Nat) (parts : List (List Byte)) : Bool :=
  match codec with
  | 1 => parts.any fun n => byteAt n 0 % 32 == 5
  | 2 => parts.any fun n => 16 ≤ byteAt n 0 / 2 % 64 && byteAt n 0 / 2 % 64 ≤ 21
  | 3 =>
    let ps := parts.filter fun n => obuType n != 2
    match ps with
    | o :: rest =>
      obuType o == 1 && ((rest.find? fun n => obuType n == 3 || obuType n == 6).any fun n =>
        let f := byteAt (obuPayload n) 0
        !f.testBit 7 && bits f 5 2 == 0)
    | [] => false
  | _ => true

/-! ### The reorder window (R121 to R125) -/

/-- The gap at a sequence number becomes a loss. -/
def Window.lose (w : Window) (g : Nat) : Window :=
  { w with gaps := w.gaps.filter (fun e => e.1 != g), losses := g :: w.losses }

/-- A packet placed at its extended sequence number: gaps open below a new highest one, its own gap closes, and gaps
`depth` or more below it become losses (R121). -/
def Window.place (w : Window) (s now depth : Nat) (p : HeldPacket) : Window :=
  let opened : List (Nat × Nat) := (List.range (s - w.highest - 1)).map fun i => (w.highest + 1 + i, now)
  let gaps : List (Nat × Nat) := (w.gaps.filter fun e => e.1 != s) ++ (if w.highest < s then opened else [])
  let w := { w with held := w.held.put s p, gaps, highest := max w.highest s }
  ((gaps.filter fun e => decide (e.1 + depth ≤ s)).map Prod.fst).foldl Window.lose w

/-- The window from its first packet on. -/
def Window.start (base : Nat) (p : HeldPacket) : Window :=
  { started := true, next := base, highest := base, held := [(base, p)] }

/-- The extended number nearest to the highest received (R121). -/
def Window.extend (w : Window) (seq : Nat) : Int :=
  (w.highest : Int) + (((seq + 65536 * 2 - w.highest % 65536 + 32768) % 65536 : Nat) : Int) - 32768

/-- Every gap becomes a loss (R125). -/
def Window.loseAll (w : Window) : Window := (w.gaps.map Prod.fst).foldl Window.lose w

/-- The end of the next unit (R122): the sequence number that ends it, the timestamp of its highest packet received, and whether
any of it is lost or unsupported; none while a gap or its end is missing. -/
def Window.scan (w : Window) : (fuel : Nat) → (s : Nat) → (prev ts : Option Nat) → (lossy : Bool) →
    Option (Nat × Option Nat × Bool)
  | 0, _, _, _, _ => none
  | fuel + 1, s, prev, ts, lossy =>
    if w.highest < s then none
    else if w.losses.contains s then
      if w.endAt = some s then some (s, ts, true) else Window.scan w fuel (s + 1) none ts true
    else
      match w.held.find? s with
      | none => none
      | some p =>
        if prev.any fun t => t != p.timestamp then some (s - 1, ts, lossy)
        else
          let lossy := lossy || p.items.isNone
          if p.marker then some (s, some p.timestamp, lossy)
          else if w.endAt = some s then some (s, some p.timestamp, lossy || w.endDamaged)
          else Window.scan w fuel (s + 1) (some p.timestamp) (some p.timestamp) lossy

/-- The next unit the window can give, and the window after it. A run of lost packets alone gives no unit (R122). -/
def Window.take (w : Window) (codec : Nat) : Option (Option AuUnit × Window) :=
  if !w.started then none
  else (w.scan (w.highest + 1 - w.next) w.next none none false).map fun r =>
    let ns := (List.range (r.1 + 1 - w.next)).map (w.next + ·)
    let packets := ns.map fun n => (w.held.find? n).bind HeldPacket.items
    let parts := gatherParts codec packets
    let got := ns.filter fun n => (w.held.find? n).isSome
    let w' : Window := { w with next := r.1 + 1, held := w.held.filter (fun e => r.1 < e.1),
                                losses := w.losses.filter (fun n => r.1 < n),
                                gone := (got ++ w.gone).filter fun n => w.highest ≤ n + 100,
                                endAt := if w.endAt = some r.1 then none else w.endAt,
                                endDamaged := if w.endAt = some r.1 then false else w.endDamaged,
                                discontinuity := w.discontinuity && r.2.1.isNone }
    (r.2.1.map fun t =>
      { parts, timestamp := some t, kind := 1, damaged := r.2.2, key := keyParts codec parts, discontinuity := w.discontinuity }, w')

/-- Every unit the window can give now. -/
def Window.takeAll : (fuel : Nat) → Window → (codec : Nat) → List AuUnit × Window
  | 0, w, _ => ([], w)
  | n + 1, w, codec =>
    match w.take codec with
    | none => ([], w)
    | some (u, w') =>
      let r := Window.takeAll n w' codec
      (u.toList ++ r.1, r.2)

/-- Units that are settled leave the window and wait to be handed on. -/
def Stream.settleUnits (x : Stream) (codec : Nat) : Stream :=
  let r := Window.takeAll (x.window.highest + 1 - x.window.next) x.window codec
  { x with window := r.2, ready := x.ready ++ r.1 }

/-- Losses a change of the window adds are counted (R121). -/
def Dev.countLost (d : Dev) (s : Nat) (before after : Window) : Dev :=
  let n := after.losses.length - before.losses.length
  if n = 0 then d else d.count Reg.junctionStreamCounters_lost s n

/-- The window changes; then the units that are settled leave it. -/
def Dev.withWindow (d : Dev) (s : Nat) (w : Window) : Dev :=
  let x := d.stream s
  let d := d.countLost s x.window w
  d.setStream s (Stream.settleUnits { x with window := w } (d.rd Reg.junctionStreamConfig_codec s))

/-- The stream resynchronises at the second packet of a pair (R125). The first unit of the new window carries the discontinuity flag; pending
ones go out before it without. -/
def Dev.resync (d : Dev) (s : Nat) (seq : Nat) (p : HeldPacket) : Dev :=
  let d := d.count Reg.junctionStreamCounters_resyncs s
  let w := (d.stream s).window.loseAll
  let w := if w.next ≤ w.highest then { w with endAt := some w.highest, endDamaged := true } else w
  let d := d.withWindow s w
  let d := if p.items.isNone then d.count Reg.junctionStreamCounters_lost s else d
  let d := d.updStream s fun x =>
    { x with window := { Window.start ((x.window.highest / 65536 + 2) * 65536 + seq) p with discontinuity := true } }
  let d := d.updStream s fun x => x.settleUnits (d.rd Reg.junctionStreamConfig_codec s)
  d.streamCause s 2 0x40 0x04

/-- A packet that R125 does not set aside: a duplicate or late packet is dropped and counted, any other is placed (R124). -/
def Dev.placePacket (d : Dev) (s : Nat) (seq : Nat) (p : HeldPacket) : Dev :=
  let w := (d.stream s).window
  let e := w.extend seq
  if (w.highest : Int) + 3000 < e ∨ (e + 100 < (w.highest : Int) ∧ e < (w.next : Int)) then
    d.updStream s fun x => { x with window := { w with aside := some { sequence := seq, packet := p } } }
  else
    let n := e.toNat
    if (w.held.find? n).isSome ∨ w.gone.contains n then d.count Reg.junctionStreamCounters_duplicate s
    else if n < w.next ∨ w.losses.contains n then d.count Reg.junctionStreamCounters_late s
    else
      let d := if p.items.isNone then d.count Reg.junctionStreamCounters_lost s else d
      d.withWindow s (w.place n d.now (d.rd Reg.junctionStreamConfig_windowPackets s) p)

/-- A packet the stream takes (R121 to R125). -/
def Dev.takeRtp (d : Dev) (s : Nat) (r : RtpPacket) : Dev :=
  let d := d.count Reg.junctionStreamCounters_packets s
  let codec := d.rd Reg.junctionStreamConfig_codec s
  let items := rtpItems codec r.payload
  let scalable := codec == 3 && scalableAfter (d.stream s).scalable (items.getD [])
  let p : HeldPacket := { timestamp := r.timestamp, marker := r.marker, items := if scalable then none else items }
  let d := d.updStream s fun x => { x.run with ssrc := some (x.ssrc.getD r.ssrc), scalable }
  let w := (d.stream s).window
  if !w.started then
    let d := if p.items.isNone then d.count Reg.junctionStreamCounters_lost s else d
    d.withWindow s (Window.start (65536 + r.sequence) p)
  else
    match w.aside with
    | none => d.placePacket s r.sequence p
    | some a =>
      let d := d.updStream s fun x => { x with window := { w with aside := none } }
      if r.sequence = (a.sequence + 1) % 65536 then d.resync s r.sequence p
      else (d.count Reg.junctionStreamCounters_late s).placePacket s r.sequence p

/-- The SSRC a stream takes, if it is fixed (R111). -/
def Dev.ssrcOf (d : Dev) (s : Nat) : Option Nat :=
  if d.flag Reg.junctionStreamConfig_ssrcFixed s then some (d.rd Reg.junctionStreamConfig_ssrc s) else (d.stream s).ssrc

/-- The SSRC condition of R111 holds for a packet. -/
def Dev.ssrcFits (d : Dev) (s : Nat) (r : RtpPacket) : Bool := (d.ssrcOf s).all fun x => x == r.ssrc

/-- The payload type condition of R111 holds. -/
def Dev.payloadFits (d : Dev) (s : Nat) (r : RtpPacket) : Bool :=
  d.flag Reg.junctionStreamConfig_ptAny s || r.payloadType == d.rd Reg.junctionStreamConfig_payloadType s

/-- An RTCP packet: version 2 and a packet type from 200 to 204. -/
def isRtcp (b : List Byte) : Bool := byteAt b 0 / 64 == 2 && 200 ≤ byteAt b 1 && byteAt b 1 ≤ 204

/-- Every condition of R110 but the SSRC holds. -/
def Dev.datagramFits (d : Dev) (p : Nat) (k : IpPacket) (s : Nat) : Bool :=
  d.ethStream p s && (d.stream s).taking &&
    (if d.flag Reg.junctionStreamConfig_multicast s then k.dst == d.rd Reg.junctionStreamConfig_address s
      else (d.portAddresses p).any (fun a => a.2 == k.dst) &&
        (d.rd Reg.junctionStreamConfig_address s == 0 || k.src == d.rd Reg.junctionStreamConfig_address s)) &&
    be k.payload 2 2 == d.rd Reg.junctionStreamConfig_udpPort s &&
    (d.rd Reg.junctionStreamConfig_srcUdpPort s == 0 || be k.payload 0 2 == d.rd Reg.junctionStreamConfig_srcUdpPort s)

/-- A UDP datagram of a port offered to the dictionary and then to the streams (R110, R111). -/
def Dev.takeDatagram (d : Dev) (p : Nat) (k : IpPacket) : Dev :=
  let u := k.payload
  let data := (u.take (be u 4 2)).drop 8
  let own := (d.portAddresses p).any fun a => a.2 == k.dst
  if d.flag Reg.dictionaryUdpEnable && own && be u 2 2 == d.rd Reg.dictionaryUdpPort then
    { d with dictWaiting := d.dictWaiting ++ [{ port := p, family := k.family, source := k.src, sourcePort := be u 0 2, data }] }
  else
    let fits := (List.range 1024).filter (d.datagramFits p k)
    match (if isRtcp data then none else parseRtp data) with
    | none => d.count Reg.junctionPortCounters_unbound p
    | some r =>
      match fits.find? fun s => d.ssrcFits s r with
      | some s => if d.payloadFits s r then d.takeRtp s r else d.count Reg.junctionStreamCounters_wrongSsrc s
      | none =>
        match fits with
        | s :: _ => d.count Reg.junctionStreamCounters_wrongSsrc s
        | [] => d.count Reg.junctionPortCounters_unbound p

/-- A frame received on a port (R104, R107): dropped and counted by the first condition it meets, answered, or passed on. DEDUCED (log entry
135): a frame whose tag has VLAN ID 0 (a priority tag) is untagged for a port whose vlan is 0. -/
def ethFrameReceivedEffect (p : Nat) (fcsOk beyond : Bool) (f : List Byte) (d : Dev) : Dev :=
  if !d.portOn p then d
  else
    let d := d.count Reg.junctionPortCounters_received p
    let h := parseEth f
    let vlan := d.rd Reg.junctionPortConfig_vlan p
    if beyond then d.count Reg.junctionPortCounters_droppedAtRate p
    else if !fcsOk then d.count Reg.junctionPortCounters_badFcs p
    else if !d.acceptsMac p h.dst ∨ h.vlan.getD 0 ≠ vlan then d.count Reg.junctionPortCounters_notAddressed p
    else if h.type = 0x8808 then d
    else if h.type = 0x0806 then d.arp p h.payload
    else
      match parseIp h.type h.payload with
      | none => d
      | some k =>
        if k.fragment then d.count Reg.junctionPortCounters_fragments p
        else if k.proto = 17 then
          if udpChecksumBad k then d.count Reg.junctionPortCounters_checksumErrors p else d.takeDatagram p k
        else if k.proto = 6 then d.count Reg.junctionPortCounters_unbound p
        else d.control p h.src k

/-- A gap's timer has run for gap_ticks: the gap becomes a loss (R121). -/
def gapTimerExpiryEffect (s g : Nat) (d : Dev) : Dev :=
  let w := (d.stream s).window
  if w.gaps.any fun e => e.1 == g && e.2 + d.rd Reg.junctionStreamConfig_gapTicks s ≤ d.now then
    d.withWindow s (w.lose g)
  else d

/-! ### Transport streams and fragmented files (R114, R115) -/

/-- The NAL units of a byte stream with start codes, each with the position its payload starts at. -/
def annexB : (fuel : Nat) → (pos : Nat) → List Byte → (cur : Option (Nat × List Byte)) → List (Nat × List Byte)
  | 0, _, _, cur => cur.toList.map fun c => (c.1, c.2.reverse)
  | n + 1, pos, b, cur =>
    match b with
    | 0#8 :: 0#8 :: 1#8 :: t => (cur.toList.map fun c => (c.1, c.2.reverse)) ++ annexB n (pos + 3) t (some (pos + 3, []))
    | x :: t => annexB n (pos + 1) t (cur.map fun c => (c.1, x :: c.2))
    | [] => cur.toList.map fun c => (c.1, c.2.reverse)

/-- The trailing zero bytes of a NAL unit, which belong to the next start code, removed. -/
def trimZeros (b : List Byte) : List Byte := (b.reverse.dropWhile fun x => x == 0#8).reverse

/-- The PTS of a PES packet, if it carries one. -/
def pesPts (b : List Byte) : Option Nat :=
  if (byteAt b 7).testBit 7 then
    some (bits (byteAt b 9) 1 3 * 2 ^ 30 + bits (be b 10 2) 1 15 * 2 ^ 15 + bits (be b 12 2) 1 15)
  else none

/-- The access unit of a whole PES packet: its NAL units, but for those that a continuity gap falls into. -/
def pesUnit (codec : Nat) (b : List Byte) (breaks : List Nat) : AuUnit :=
  let start := 9 + byteAt b 8
  let nals := annexB (b.length + 1) start (b.drop start) none
  let whole := nals.filter fun n => !(breaks.any fun k => n.1 - 3 < k && k < n.1 + n.2.length + 1)
  let parts := whole.map fun n => trimZeros n.2
  { parts, timestamp := pesPts b, kind := 2, damaged := breaks != [], key := keyParts codec parts }

/-- The open PES packet ends: the unit it gives, and the state with none open. -/
def TsState.endPes (t : TsState) (codec : Nat) : List AuUnit × TsState :=
  (if t.opened && 9 ≤ t.bytes.length then [pesUnit codec t.bytes t.breaks] else [], { counter := t.counter, last := t.last })

/-- Whether the open PES packet has all the bytes its length announces. -/
def TsState.whole (t : TsState) : Bool :=
  let n := be t.bytes 4 2
  t.opened && 6 ≤ t.bytes.length && n != 0 && n + 6 ≤ t.bytes.length

/-- The payload of a packet added to the PES packet it belongs to. -/
def TsState.add (t : TsState) (start : Bool) (codec : Nat) (payload : List Byte) : List AuUnit × TsState :=
  let r := if start then t.endPes codec else ([], t)
  let t := if start then { r.2 with opened := true } else r.2
  let t := if t.opened then { t with bytes := t.bytes ++ payload } else t
  let r' := if t.whole then t.endPes codec else ([], t)
  (r.1 ++ r'.1, r'.2)

/-- The continuity counter of a packet with a payload: a jump breaks the PES packet that is open (R114). -/
def TsState.continuity (t : TsState) (cc : Nat) : TsState :=
  let broken := t.opened && t.counter.any fun c => (c + 1) % 16 != cc
  { t with counter := some cc, breaks := if broken then t.bytes.length :: t.breaks else t.breaks }

/-- A packet is the repetition of the one before it (ISO/IEC 13818-1): the same continuity counter, and the same payload. -/
def TsState.repeats (t : TsState) (cc : Nat) (payload : List Byte) : Bool := t.counter == some cc && t.last == payload

/-- One 188-byte packet (R114): packets of other PIDs and those without payload are ignored, and a repeated one is too, also one that
starts a PES packet. -/
def TsState.packet (t : TsState) (pid codec : Nat) (b : List Byte) : List AuUnit × TsState :=
  let start := (byteAt b 1).testBit 6
  let afc := bits (byteAt b 3) 4 2
  let cc := byteAt b 3 % 16
  let payload := if afc = 1 then b.drop 4 else b.drop (5 + byteAt b 4)
  if be b 1 2 % 8192 ≠ pid ∨ afc % 2 = 0 then ([], t)
  else if t.repeats cc payload then ([], t)
  else TsState.add { t.continuity cc with last := payload } start codec payload

/-- The end of data for the open PES packet. -/
def Stream.endPes (x : Stream) (codec : Nat) : Stream :=
  let r := x.ts.endPes codec
  { x with ready := x.ready ++ r.1, ts := r.2 }

/-- One packet of a pushed transport stream. -/
def Stream.tsPacket (x : Stream) (pid codec : Nat) (b : List Byte) : Stream :=
  let r := x.ts.packet pid codec b
  { x with ready := x.ready ++ r.1, ts := r.2 }

/-- The whole packets of pushed bytes. -/
def Stream.tsPackets : (fuel : Nat) → Stream → (pid codec : Nat) → List Byte → Stream
  | 0, x, _, _, b => { x with carry := b }
  | n + 1, x, pid, codec, b =>
    if b.length < 188 then { x with carry := b }
    else Stream.tsPackets n (x.tsPacket pid codec (b.take 188)) pid codec (b.drop 188)

/-- The boxes of a byte string: type and payload; a box that does not fit ends the list with `none`. -/
def boxes : (fuel : Nat) → List Byte → List (Option (Nat × List Byte))
  | 0, _ => []
  | n + 1, b =>
    if b = [] then []
    else
      let k := be b 0 4
      let big := k == 1
      let k := if big then be b 8 8 else k
      let h := if big then 16 else 8
      if b.length < h ∨ k < h ∨ b.length < k then [none]
      else some (be b 4 4, (b.take k).drop h) :: boxes n (b.drop k)

/-- The payload of the first box of a type. -/
def box? (t : Nat) (b : List Byte) : Option (List Byte) :=
  ((boxes b.length b).filterMap id).findSome? fun e => if e.1 = t then some e.2 else none

def fourCC (a b c e : Nat) : Nat := ((a * 256 + b) * 256 + c) * 256 + e
def boxMoov := fourCC 0x6d 0x6f 0x6f 0x76
def boxMoof := fourCC 0x6d 0x6f 0x6f 0x66
def boxMdat := fourCC 0x6d 0x64 0x61 0x74
def boxTrak := fourCC 0x74 0x72 0x61 0x6b
def boxTkhd := fourCC 0x74 0x6b 0x68 0x64
def boxMdia := fourCC 0x6d 0x64 0x69 0x61
def boxMdhd := fourCC 0x6d 0x64 0x68 0x64
def boxMinf := fourCC 0x6d 0x69 0x6e 0x66
def boxStbl := fourCC 0x73 0x74 0x62 0x6c
def boxStsd := fourCC 0x73 0x74 0x73 0x64
def boxTraf := fourCC 0x74 0x72 0x61 0x66
def boxTfhd := fourCC 0x74 0x66 0x68 0x64
def boxTfdt := fourCC 0x74 0x66 0x64 0x74
def boxTrun := fourCC 0x74 0x72 0x75 0x6e

/-- The sample entries that match a codec, and the box that holds their configuration record (R115). -/
def entryMatches (codec t : Nat) : Bool :=
  match codec with
  | 1 => t == fourCC 0x61 0x76 0x63 0x31 || t == fourCC 0x61 0x76 0x63 0x33
  | 2 => t == fourCC 0x68 0x76 0x63 0x31 || t == fourCC 0x68 0x65 0x76 0x31
  | 3 => t == fourCC 0x61 0x76 0x30 0x31
  | _ => false
def configBox (codec : Nat) : Nat :=
  match codec with
  | 1 => fourCC 0x61 0x76 0x63 0x43
  | 2 => fourCC 0x68 0x76 0x63 0x43
  | _ => fourCC 0x61 0x76 0x31 0x43

/-- `n` units at `p`, each behind its 16-bit length, and the place after them. -/
def lengthUnits : (n : Nat) → (p : Nat) → List Byte → List (List Byte) × Nat
  | 0, p, _ => ([], p)
  | n + 1, p, b =>
    let r := lengthUnits n (p + 2 + be b p 2) b
    (((b.drop (p + 2)).take (be b p 2)) :: r.1, r.2)

/-- The unit arrays of an HEVC configuration record, `n` of them from `p`. -/
def hevcArrays : (n : Nat) → (p : Nat) → List Byte → List (List Byte)
  | 0, _, _ => []
  | n + 1, p, b =>
    let r := lengthUnits (be b (p + 1) 2) (p + 3) b
    r.1 ++ hevcArrays n r.2 b

/-- The parameter sets, or the sequence header, of a configuration record (R115). -/
def parameterSets (codec : Nat) (c : List Byte) : List (List Byte) :=
  match codec with
  | 1 =>
    let r := lengthUnits (byteAt c 5 % 32) 6 c
    r.1 ++ (lengthUnits (byteAt c r.2) (r.2 + 1) c).1
  | 2 => hevcArrays (byteAt c 22) 23 c
  | _ => [c.drop 4]

/-- Bytes of the length before each NAL unit of a sample, by the configuration record. -/
def nalLengthOf (codec : Nat) (c : List Byte) : Nat :=
  match codec with
  | 1 => byteAt c 4 % 4 + 1
  | 2 => byteAt c 21 % 4 + 1
  | _ => 0

/-- The timescale, the sets and the NAL length of the track in an initialisation segment, when its sample entry matches the codec (R115). -/
def initSegment (codec track : Nat) (moov : List Byte) : Option (Nat × List (List Byte) × Nat) :=
  let traks := ((boxes moov.length moov).filterMap id).filterMap fun e => if e.1 = boxTrak then some e.2 else none
  (traks.find? fun t => ((box? boxTkhd t).map fun h => be h (if byteAt h 0 = 1 then 20 else 12) 4) == some track).bind fun t =>
    (box? boxMdia t).bind fun m => (box? boxMinf m).bind fun i => (box? boxStbl i).bind fun s => (box? boxStsd s).bind fun sd =>
      match boxes sd.length (sd.drop 8) with
      | some (ty, body) :: _ =>
        if entryMatches codec ty then
          (box? (configBox codec) (body.drop 78)).map fun c =>
            (((box? boxMdhd m).map fun h => be h (if byteAt h 0 = 1 then 20 else 12) 4).getD 0, parameterSets codec c,
              nalLengthOf codec c)
        else none
      | _ => none

/-- A signed 32-bit offset added to a place or a time of 64 bits. -/
def addSigned (a x : Nat) : Nat := (a + ofSigned 64 (toSigned 32 x)) % 2 ^ 64

/-- What tfhd and tfdt give a run: defaults for duration, size and flags. -/
structure RunDefaults where
  duration : Nat
  size : Nat
  flags : Nat

/-- The samples of one trun (R115), from a place in the file and a decode time on. The composition offset is signed in version 1. -/
def trunSamples : (count : Nat) → (version flags place time : Nat) → RunDefaults → (first : Option Nat) → List Byte →
    List Sample × Nat × Nat
  | 0, _, _, place, time, _, _, _ => ([], place, time)
  | n + 1, v, fl, place, time, df, first, b =>
    let p0 := 0
    let dur := if fl.testBit 8 then be b p0 4 else df.duration
    let p1 := if fl.testBit 8 then p0 + 4 else p0
    let size := if fl.testBit 9 then be b p1 4 else df.size
    let p2 := if fl.testBit 9 then p1 + 4 else p1
    let sf := if fl.testBit 10 then be b p2 4 else first.getD df.flags
    let p3 := if fl.testBit 10 then p2 + 4 else p2
    let cto := if fl.testBit 11 then be b p3 4 else 0
    let p4 := if fl.testBit 11 then p3 + 4 else p3
    let r := trunSamples n v fl (place + size) (time + dur) df none (b.drop p4)
    ({ place, size, time := if v = 0 then (time + cto) % 2 ^ 64 else addSigned time cto, key := !(sf.testBit 16) } :: r.1, r.2)

/-- A trun box holds the fields its flags announce, for as many samples as it counts. -/
def trunFits (b : List Byte) : Bool :=
  let fl := be b 1 3
  let head := 8 + 4 * b2n (fl.testBit 0) + 4 * b2n (fl.testBit 2)
  let each := 4 * (b2n (fl.testBit 8) + b2n (fl.testBit 9) + b2n (fl.testBit 10) + b2n (fl.testBit 11))
  8 ≤ b.length && head + each * be b 4 4 ≤ b.length

/-- A tfhd box holds the fields its flags announce. -/
def tfhdFits (b : List Byte) : Bool :=
  let fl := be b 1 3
  8 ≤ b.length &&
    8 + 8 * b2n (fl.testBit 0) + 4 * (b2n (fl.testBit 1) + b2n (fl.testBit 3) + b2n (fl.testBit 4) + b2n (fl.testBit 5)) ≤ b.length

/-- A tfdt box holds its time. -/
def tfdtFits (b : List Byte) : Bool := (if byteAt b 0 = 1 then 12 else 8) ≤ b.length

/-- One trun box: flags in its first word, sample count, optional data offset from the base and first sample flags. -/
def trunBox (base place time : Nat) (df : RunDefaults) (b : List Byte) : List Sample × Nat × Nat :=
  let fl := be b 1 3
  let p := if fl.testBit 0 then 12 else 8
  let place := if fl.testBit 0 then addSigned base (be b 8 4) else place
  let first := if fl.testBit 2 then some (be b p 4) else none
  trunSamples (be b 4 4) (byteAt b 0) fl place time df first (b.drop (if fl.testBit 2 then p + 4 else p))

/-- The samples of one track fragment, whose data lies from a base on: the movie fragment's first byte, unless tfhd gives one; none when a
box of it is malformed. -/
def trackFragment (moofAt : Nat) (t : List Byte) : Option (List Sample) :=
  match box? boxTfhd t, box? boxTfdt t with
  | some h, some td =>
    let fl := be h 1 3
    let base := if fl.testBit 0 then be h 8 8 else moofAt
    let p1 := if fl.testBit 0 then 16 else 8
    let p2 := if fl.testBit 1 then p1 + 4 else p1
    let p3 := if fl.testBit 3 then p2 + 4 else p2
    let p4 := if fl.testBit 4 then p3 + 4 else p3
    let df : RunDefaults :=
      { duration := if fl.testBit 3 then be h p2 4 else 0, size := if fl.testBit 4 then be h p3 4 else 0,
        flags := if fl.testBit 5 then be h p4 4 else 0 }
    let time := be td 4 (if byteAt td 0 = 1 then 8 else 4)
    let truns := ((boxes t.length t).filterMap id).filterMap fun e => if e.1 = boxTrun then some e.2 else none
    if !(tfhdFits h && tfdtFits td && truns.all trunFits) then none
    else some (truns.foldl (fun acc r =>
      let x := trunBox base acc.2.1 acc.2.2 df r
      (acc.1 ++ x.1, x.2)) ([], base, time)).1
  | _, _ => none

/-- The samples of the track in a movie fragment that starts at a place in the file (R115), or none when it is malformed. -/
def fragmentSamples (track moofAt : Nat) (moof : List Byte) : Option (List Sample) :=
  let bs := boxes moof.length moof
  if bs.contains none then none
  else
    let trafs := (bs.filterMap id).filterMap fun e => if e.1 = boxTraf then some e.2 else none
    if trafs.any fun t => (boxes t.length t).contains none then none else
    let own := trafs.filter fun t => ((box? boxTfhd t).map fun h => be h 4 4) == some track
    own.foldr (fun t acc => (trackFragment moofAt t).bind fun l => acc.map fun r => l ++ r) (some [])

/-- The samples whose last byte has been parsed, as units; the first after an initialisation segment is preceded by the record's sets.
`b` is the part of an mdat payload there is, from a place in the file on. -/
def Stream.takeSamples : (fuel : Nat) → Stream → (place : Nat) → List Byte → Stream
  | 0, x, _, _ => x
  | n + 1, x, place, b =>
    match x.file.samples with
    | [] => x
    | s :: rest =>
      if s.place < place ∨ place + b.length < s.place + s.size then x
      else
        let parts := (if x.file.prepend then x.file.sets else []) ++ [(b.drop (s.place - place)).take s.size]
        Stream.takeSamples n
          { x with ready := x.ready ++ [{ parts, timestamp := some s.time, kind := 3, damaged := false, key := s.key }],
                   file := { x.file with samples := rest, prepend := false } } place b

/-- One whole box of a pushed file, its header `h` bytes: the stream after it, and whether it was malformed (R115). -/
def Stream.fileBox (x : Stream) (codec track : Nat) (t h : Nat) (b : List Byte) : Stream × Bool :=
  if t = boxMoov then
    match initSegment codec track b with
    | some (timescale, sets, nalLength) =>
      ({ x with file := { ready := true, timescale, sets, prepend := true, nalLength, place := x.file.place } }, false)
    | none => ({ x with file := { place := x.file.place } }, true)
  else if t = boxMoof then
    if !x.file.ready then ({ x with file := { x.file with samples := [], badFragment := true } }, false)
    else
      match fragmentSamples track x.file.place b with
      | some ss => ({ x with file := { x.file with samples := ss, badFragment := false } }, false)
      | none => ({ x with file := { x.file with samples := [], badFragment := true } }, true)
  else if t = boxMdat then
    if x.file.badFragment then (x, false) else (x.takeSamples x.file.samples.length (x.file.place + h) b, false)
  else (x, false)

/-- The whole boxes of pushed bytes; the rest is carried. Samples of an mdat that is still arriving are taken once their last byte
is there. -/
def Stream.fileBoxes : (fuel : Nat) → Stream → (codec track : Nat) → List Byte → Bool → Stream × Bool
  | 0, x, _, _, b, bad => ({ x with carry := b }, bad)
  | n + 1, x, codec, track, b, bad =>
    if b.length < 8 then ({ x with carry := b }, bad)
    else
      let k := be b 0 4
      let h := if k = 1 then 16 else 8
      let k := if k = 1 then be b 8 8 else k
      if k < h ∧ h ≤ b.length then
        ({ x with carry := [], file := { x.file with samples := [], badFragment := true, place := x.file.place + b.length } }, true)
      else if b.length < k ∨ b.length < h then
        if be b 4 4 = boxMdat ∧ !x.file.badFragment ∧ h ≤ b.length then
          ({ x.takeSamples x.file.samples.length (x.file.place + h) (b.drop h) with carry := b }, bad)
        else ({ x with carry := b }, bad)
      else
        let r := x.fileBox codec track (be b 4 4) h ((b.take k).drop h)
        Stream.fileBoxes n { r.1 with file := { r.1.file with place := x.file.place + k } } codec track (b.drop k) (bad || r.2)

/-! ### Units handed on (R123 to R133) -/

/-- Rises of the wrap count (R128): a timestamp below the previous one by more than half its field. -/
def wrapped (kind before t : Nat) : Bool :=
  let range := if kind = 1 then 2 ^ 32 else 2 ^ 33
  kind ≤ 2 && t < before && range / 2 < before - t

/-- The reserve of R131 is claimed; a failure begins the lasting cause of detail 8, a success ends it. -/
def Dev.claimUnits (d : Dev) (s : Nat) : Dev :=
  let pool := d.rd Reg.junctionAuPool
  let bytes := d.rd Reg.junctionStreamConfig_maxAuKib s * 1024
  let r := d.claim pool bytes s (d.rd Reg.junctionStreamConfig_auReserve s)
  let code := if !(d.pool pool).on then (0x81, 0x14) else if (d.classFor pool bytes).isNone then (0x80, 0x14) else (0x20, 0x04)
  if r.1 then
    (r.2.updStream s fun x => { x with claimed := true }).endLasting fun l =>
      l.bit == Bit.stream && l.stream == s && l.detail == 8 && (l.area == 0x04 || l.area == 0x14)
  else r.2.beginLasting { bit := Bit.stream, code := code.1, area := code.2, stream := s, detail := 8 }

/-- Cells a ring holds. -/
def ringCells (r : List RingGroup) : Nat := r.foldl (fun a g => g.units.foldl (fun a u => a + u.cells) a) 0

/-- The oldest group of a ring is freed, unless a clip pins it. -/
def Dev.trimOne (d : Dev) (s : Nat) : Dev :=
  let x := d.stream s
  match x.ring with
  | g :: rest =>
    if g.pins ≠ [] then d
    else
      let d := d.setStream s { x with ring := rest, ringActive := x.ringActive && rest != [] }
      let pool := d.rd Reg.junctionRingPool
      g.units.foldl (fun d u => d.giveOwn pool u.cell u.cells) d
  | [] => d

/-- Range of a timestamp's field (R128). -/
def timeRange (kind : Nat) : Nat := if kind = 1 then 2 ^ 32 else if kind = 2 then 2 ^ 33 else 2 ^ 64

/-- A stream time as one number: its wrap count and its timestamp. -/
def streamTime (kind wraps t : Nat) : Nat := wraps * timeRange kind + t

/-- The stream time of a unit, if it carries a timestamp. -/
def AccessUnit.time? (u : AccessUnit) : Option Nat := if u.flags.testBit 5 then none else some (streamTime u.kind u.wraps u.timestamp)

/-- The stream time a group starts at, and that of the newest unit of a ring. DESIGN CHOICE (log entry 136): units without a timestamp are
passed over. -/
def RingGroup.start? (g : RingGroup) : Option Nat := g.units.findSome? fun u => u.unit.time?
def newestTime (r : List RingGroup) : Option Nat := (r.flatMap RingGroup.units).reverse.findSome? fun u => u.unit.time?

/-- Trims for age (R133): while the next group starts at least ring_seconds before the newest unit. -/
def Dev.trimAge : (fuel : Nat) → Dev → Nat → Dev
  | 0, d, _ => d
  | n + 1, d, s =>
    let x := d.stream s
    match x.ring with
    | g :: g' :: _ =>
      let rate := if d.rd Reg.junctionStreamConfig_source s = 4 then x.file.timescale else 90000
      let old := match g'.start?, newestTime x.ring with
        | some start, some newest => decide (start + d.rd Reg.junctionStreamConfig_ringSeconds s * rate ≤ newest)
        | _, _ => false
      if g.pins = [] ∧ old = true then Dev.trimAge n (d.trimOne s) s else d
    | _ => d

/-- Trims for capacity (R133): while the ring exceeds ring_mib; each is counted. -/
def Dev.trimSize : (fuel : Nat) → Dev → Nat → Dev
  | 0, d, _ => d
  | n + 1, d, s =>
    let x := d.stream s
    if ringCells x.ring * 256 ≤ d.rd Reg.junctionStreamConfig_ringMib s * 1048576 then d
    else
      match x.ring with
      | g :: _ => if g.pins ≠ [] then d else Dev.trimSize n ((d.trimOne s).count Reg.junctionStreamCounters_ringGopsDropped s) s
      | [] => d

/-- The 32-byte descriptor of a unit (R129). -/
def AccessUnit.descriptor (u : AccessUnit) : List Byte :=
  leBytes 2 u.stream ++ leBytes 2 u.flags ++ leBytes 4 u.sequence ++ leBytes 8 u.pointer ++ leBytes 4 u.length ++
    leBytes 8 u.timestamp ++ leBytes 2 u.wraps ++ leBytes 1 u.kind ++ leBytes 1 0

/-- Payload bytes written along a chain of cells, 248 in each. -/
def Dev.writeChain : (fuel : Nat) → Dev → (cell : Nat) → List Byte → Dev
  | 0, d, _, _ => d
  | n + 1, d, cell, bs =>
    let next := d.getNat (cell + 248) 8
    Dev.writeChain n (d.store cell (bs.take 248)) next (bs.drop 248)

/-- The last cell of a chain. -/
def Dev.lastCell : (fuel : Nat) → Dev → Nat → Nat
  | 0, _, c => c
  | n + 1, d, c =>
    let next := d.getNat (c + 248) 8
    if next = 0 then c else Dev.lastCell n d next

/-- Tries to take the cells of a unit for the ring, trimming unpinned groups while the pool is empty (R133, R134). A unit that is no key
picture goes nowhere once the ring is empty. -/
def Dev.takeCells : (fuel : Nat) → Dev → (s bytes : Nat) → (key : Bool) → Option Nat × Dev
  | 0, d, _, _, _ => (none, d)
  | n + 1, d, s, bytes, key =>
    if !key && (d.stream s).ring == [] then (none, d)
    else
      let r := d.alloc (d.rd Reg.junctionRingPool) bytes s
      match r.1 with
      | .ok a => (some a, r.2)
      | .fail code =>
        match (r.2.stream s).ring with
        | g :: _ =>
          if g.pins ≠ [] ∨ code ≠ 0x20 then (none, r.2)
          else Dev.takeCells n ((r.2.trimOne s).count Reg.junctionStreamCounters_ringGopsDropped s) s bytes key
        | [] => (none, r.2)

/-- With `total` cells in all, a ring can come within its capacity only by trimming a pinned group (R134). -/
def ringBlocked (capacity : Nat) : (total : Nat) → List RingGroup → Bool
  | _, [] => false
  | total, g :: rest =>
    if total * 256 ≤ capacity then false
    else if g.pins != [] then true
    else ringBlocked capacity (total - g.units.foldl (fun a u => a + u.cells) 0) rest

/-- A copy of a handed-on unit appended to the pre-event ring (R132 to R134). While a pinned group keeps units out, each is counted. -/
def Dev.ringAppend (d : Dev) (s : Nat) (u : AccessUnit) (data : List Byte) : Dev :=
  let key := u.flags.testBit 3
  let x := d.stream s
  if d.rd Reg.junctionStreamConfig_ringMib s = 0 ∨ !d.cellChain (d.rd Reg.junctionRingPool) then d
  else if !key ∧ (!x.ringActive ∨ u.flags.testBit 2) then
    let d := d.setStream s { x with ringActive := false }
    if x.blocked && x.ring.any fun g => g.pins != [] then d.count Reg.junctionStreamCounters_ringGopsDropped s else d
  else
    let content := u.descriptor ++ data
    let n := ceilDiv content.length 248
    let r := if ringBlocked (d.rd Reg.junctionStreamConfig_ringMib s * 1048576) (ringCells x.ring + n) x.ring then (none, d)
      else d.takeCells (x.ring.length + 1) s content.length key
    match r.1 with
    | none =>
      let pinned := (r.2.stream s).ring.any fun g => g.pins != []
      let d := r.2.updStream s fun x => { x with ringActive := false, blocked := pinned }
      if pinned then d.count Reg.junctionStreamCounters_ringGopsDropped s else d
    | some cell =>
      let d := r.2.writeChain n cell content
      let x := d.stream s
      let d := match x.ring.getLast?.bind fun g => g.units.getLast? with
        | some p => d.store (d.lastCell p.cells p.cell + 248) (leBytes 8 cell)
        | none => d
      let unit : RingUnit := { cell, cells := n, unit := u }
      let ring := if key ∨ x.ring = [] then x.ring ++ [{ units := [unit] }]
        else x.ring.dropLast ++ (x.ring.getLast?.toList.map fun g => { g with units := g.units ++ [unit] })
      let d := d.setStream s { x with ring, ringActive := true, blocked := false, appended := some u.sequence }
      let d := Dev.trimAge ring.length d s
      Dev.trimSize ring.length d s

/-- The unit discarded: it takes its number, and the stream discards to a key picture (R129, R131). -/
def Dev.overload (d : Dev) (s code area : Nat) : Dev :=
  let d := (d.updStream s fun x => { x with phase := .discarding, sequence := x.sequence + 1, discontinuity := true }).count
    Reg.junctionStreamCounters_discarded s
  d.streamCause s 3 code area

/-- NAL units behind a length of `k` bytes each. -/
def nalsOf (k : Nat) : (fuel : Nat) → List Byte → List (List Byte)
  | 0, _ => []
  | n + 1, b =>
    if b.length ≤ k then [] else (b.drop k).take (be b 0 k) :: nalsOf k n (b.drop (k + be b 0 k))

/-- NAL units that R140 discards: H.264 types 14, 15 and 20, and H.265 units with nuh_layer_id above 0. -/
def discardedNal (codec : Nat) (n : List Byte) : Bool :=
  match codec with
  | 1 => [14, 15, 20].contains (byteAt n 0 % 32)
  | 2 => (byteAt n 0 % 2) * 32 + byteAt n 1 / 8 != 0
  | _ => false

/-- The NAL units of a unit that R140 discards, by its parts; a file's sample holds NAL units behind their lengths. -/
def discardedNals (codec kind nalLength : Nat) (parts : List (List Byte)) : Nat :=
  let nals := if kind = 3 ∧ codec ≤ 2 then parts.flatMap fun p => nalsOf nalLength p.length p else parts
  (nals.filter (discardedNal codec)).length

/-- The next unit of a stream is handed on with its descriptor (R123, R126, R128, R129, R131): its wrap count, its buffer, its
bytes up to max_au_kib, its flags, its copy in the ring, and its place before decode. DEDUCED (log entry 137): the damage of R123 is loss, so
a unit that is only truncated neither raises detail 0x0001 nor keeps a later one from raising it. -/
def Dev.handOn (d : Dev) (s : Nat) (u : AuUnit) : Dev :=
  let x := d.stream s
  let t := u.timestamp.getD 0
  let x := { x with
    wraps := (if x.anyTimestamp && u.timestamp.isSome && wrapped u.kind x.lastTimestamp t then x.wraps + 1 else x.wraps),
    anyTimestamp := x.anyTimestamp || u.timestamp.isSome,
    lastTimestamp := u.timestamp.getD x.lastTimestamp }
  let d := d.setStream s x
  if x.phase = .discarding ∧ !u.key then
    (d.setStream s { x with sequence := x.sequence + 1 }).count Reg.junctionStreamCounters_discarded s
  else
    let d := if u.key && !x.claimed then d.claimUnits s else d
    let pool := d.rd Reg.junctionAuPool
    let limit := d.rd Reg.junctionStreamConfig_maxAuKib s * 1024
    let on := (d.pool pool).on
    let r := d.alloc pool limit s
    match r.1 with
    | .fail code =>
      if !on then r.2.overload s 0x81 0x14 else if code = 0x80 then r.2.overload s 0x80 0x14 else r.2.overload s 0x20 0x04
    | .ok a =>
      let d := r.2
      let bytes := u.parts.flatten
      let cut := limit < bytes.length
      let data := bytes.take limit
      let damaged := u.damaged || cut
      let x := d.stream s
      let au : AccessUnit :=
        { stream := s,
          flags := b2n damaged + 2 * b2n cut + 4 * b2n (x.discontinuity || u.discontinuity) + 8 * b2n u.key + 16 * b2n x.first +
            32 * b2n u.timestamp.isNone,
          sequence := x.sequence, pointer := a, pool, length := data.length, timestamp := t, wraps := x.wraps,
          kind := u.kind, codec := d.rd Reg.junctionStreamConfig_codec s,
          maxWidth := d.rd Reg.junctionStreamConfig_maxWidth s, maxHeight := d.rd Reg.junctionStreamConfig_maxHeight s,
          maxFps := d.rd Reg.junctionStreamConfig_maxFps s, tenBit := d.flag Reg.decodeStreamConfig_tenBit s,
          dpbMax := d.rd Reg.decodeStreamConfig_dpbMax s, releaseConcealed := d.flag Reg.decodeStreamConfig_releaseConcealed s,
          nalsDiscarded := discardedNals (d.rd Reg.junctionStreamConfig_codec s) u.kind x.file.nalLength u.parts }
      let d := d.store a data
      let d := d.setStream s { x with sequence := x.sequence + 1, discontinuity := false, first := false,
                                      damagedBefore := u.damaged, handed := t,
                                      phase := if x.phase = .discarding then .running else x.phase }
      let d := d.count Reg.junctionStreamCounters_units s
      let d := if damaged then d.count Reg.junctionStreamCounters_damaged s else d
      let d := if u.damaged && !x.damagedBefore then d.streamCause s 1 0x40 0x04 else d
      let d := if cut then (d.count Reg.junctionStreamCounters_truncated s).streamCause s 7 0x40 0x04 else d
      let d := d.ringAppend s au data
      { d with handedUnits := d.handedUnits ++ [au] }

/-- The oldest unit of a stream that is complete or settled goes (R123). -/
def handOffNext (s : Nat) (d : Dev) : Dev :=
  let x := d.stream s
  match x.ready with
  | [] => d
  | u :: rest =>
    if x.taking then (d.setStream s { x with ready := rest }).handOn s u else d

/-! ### Enable, disable and pushes (R113, R118, R120) -/

/-- A configuration error of R118. -/
def Dev.configError (d : Dev) (s : Nat) : Bool :=
  let source := d.rd Reg.junctionStreamConfig_source s
  let codec := d.rd Reg.junctionStreamConfig_codec s
  let port := d.rd Reg.junctionStreamConfig_port s
  source == 0 || (source == 3 && (codec == 3 || codec == 4)) || (source == 4 && codec == 4) ||
    (source == 1 && d.flag Reg.dictionaryUdpEnable &&
      d.rd Reg.junctionStreamConfig_udpPort s == d.rd Reg.dictionaryUdpPort) ||
    (source == 1 && !d.flag Reg.junctionStreamConfig_multicast s &&
      !(if port == 2 then d.portAddressed 0 || d.portAddressed 1 else d.portAddressed port))

/-- A stream in configuration error raises STREAM with detail 5 (R118, R136). -/
def Dev.enterError (d : Dev) (s : Nat) : Dev :=
  (d.updStream s fun x => { x with phase := .error }).beginLasting
    { bit := Bit.stream, code := 0x81, area := 0x04, stream := s, detail := 5 }

/-- Membership of a multicast stream's group at its enable or disable (R108): a group joined already is reported again for a stream that is
enabled on it. -/
def Dev.announce (d : Dev) (s : Nat) (leave : Bool) : Dev :=
  if d.rd Reg.junctionStreamConfig_source s = 1 ∧ d.flag Reg.junctionStreamConfig_multicast s then
    let g := d.rd Reg.junctionStreamConfig_address s
    [0, 1].foldl (fun d p =>
      let again := !leave && d.ethStream p s && d.portOn p && (d.groups p).any fun e => e.1 == g
      if again then d.sendMembership p g false else d.syncGroups p) d
  else d

/-- A sample of a file has arrived in part: the box being carried is an mdat that it begins in (R115). -/
def Stream.partSample (x : Stream) : Bool :=
  let h := if be x.carry 0 4 = 1 then 16 else 8
  be x.carry 4 4 == boxMdat && !x.file.badFragment &&
    (x.file.samples.head?.any fun s => x.file.place + h ≤ s.place && s.place < x.file.place + x.carry.length)

/-- Units not yet handed on: those that are complete, those the window holds, and the one in assembly. -/
def Stream.unitsPending (x : Stream) (codec : Nat) : Nat :=
  let w := x.window.loseAll
  let w : Window := if w.next ≤ w.highest then { w with endAt := some w.highest } else w
  x.ready.length + (Window.takeAll (w.highest + 1 - w.next) w codec).1.length + b2n x.ts.opened + b2n x.partSample

/-- The unit in assembly is discarded and counted, with every other not yet handed on (R120). -/
def Dev.discardAssembly (d : Dev) (s : Nat) : Dev :=
  let x := d.stream s
  let n := x.unitsPending (d.rd Reg.junctionStreamConfig_codec s)
  let d := if n = 0 then d else d.count Reg.junctionStreamCounters_discarded s n
  d.setStream s { x with window := {}, carry := [], ts := {}, file := {}, ready := [] }

/-- The ring of a disabled stream, but for its pinned groups, is freed (R120, R134). -/
def Dev.freeRing : (fuel : Nat) → Dev → Nat → Dev
  | 0, d, _ => d
  | n + 1, d, s => match (d.stream s).ring with
    | g :: _ => if g.pins = [] then Dev.freeRing n (d.trimOne s) s else d
    | [] => d

/-- The stream's part of an enable from stopped (R118, R120, R131). -/
def Dev.openStream (d : Dev) (s : Nat) : Dev :=
  let keep := (d.stream s).ring
  let d := d.setStream s { phase := .waiting, ring := keep }
  let d := d.announce s false
  if d.configError s then d.enterError s else d.claimUnits s

/-- A push of a stream that is fetched and not completed. -/
def pushOf (s : Nat) (f : Fetched) : Bool := f.done == none && f.opcode == 0x0401 && le f.entry 8 2 == s

/-- The stream's part of a disable (R120): draining, the unit in assembly discarded, pushes in flight completed with
STREAM_NOT_ENABLED, the ring freed. -/
def Dev.closeStream (d : Dev) (s : Nat) : Dev :=
  let x := d.stream s
  if x.phase = .stopped then d
  else
    let d := d.discardAssembly s
    let d := d.updStream s fun x => { x with phase := .draining, restart := false }
    let d := d.announce s true
    let inFlight := d.queues.flatMap fun e => (e.2.inflight.filter fun f => pushOf s f && f.data != []).map fun f => (e.1, f.index)
    let d := inFlight.foldl (fun d e => d.complete e.1 e.2 0x80 0x04 0) d
    Dev.freeRing x.ring.length d s

/-- Whether a draining stream holds no access-unit buffer and no ring cell (R120). -/
def Dev.drained (d : Dev) (s : Nat) : Bool :=
  (d.stream s).phase == .draining && d.unitsHeld s == 0 && (d.stream s).ring == []

/-- An earlier-fetched push of a stream has not completed (R113). -/
def Dev.earlierPush (d : Dev) (s order : Nat) : Bool :=
  d.queues.any fun e => e.2.inflight.any fun f => pushOf s f && f.order < order

/-- The packets of a pushed RTP form: a 2-byte length before each. The bytes parsed, and whether a prefix was malformed. DEDUCED (log entry
138): an RTCP packet, which R111 has a port count as unbound, is here a packet that no stream takes, and is counted as not_rtp. -/
def Dev.pushRtp : (fuel : Nat) → Dev → (s : Nat) → List Byte → (endOfData : Bool) → Dev × Nat × Bool
  | 0, d, s, b, _ => (d.updStream s fun x => { x with carry := b }, b.length, false)
  | n + 1, d, s, b, fin =>
    if b.length < 2 then
      if fin ∧ b ≠ [] then (d.updStream s fun x => { x with carry := [] }, 0, true)
      else (d.updStream s fun x => { x with carry := b }, b.length, false)
    else
      let k := le b 0 2
      if 9000 < k then (d.updStream s fun x => { x with carry := [] }, 0, true)
      else if b.length < 2 + k then
        if fin then (d.updStream s fun x => { x with carry := [] }, 0, true)
        else (d.updStream s fun x => { x with carry := b }, b.length, false)
      else
        let p := (b.drop 2).take k
        let d := match (if isRtcp p then none else parseRtp p) with
          | none => d.count Reg.junctionStreamCounters_notRtp s
          | some r => if d.ssrcFits s r && d.payloadFits s r then d.takeRtp s r else d.count Reg.junctionStreamCounters_wrongSsrc s
        let r := Dev.pushRtp n d s (b.drop (2 + k)) fin
        (r.1, r.2.1 + 2 + k, r.2.2)

/-- End of data: the unit in assembly is complete (R113). -/
def Dev.endOfData (d : Dev) (s : Nat) : Dev :=
  let codec := d.rd Reg.junctionStreamConfig_codec s
  match d.rd Reg.junctionStreamConfig_source s with
  | 2 =>
    let w := (d.stream s).window
    if w.started && w.next ≤ w.highest then d.withWindow s { w with endAt := some w.highest } else d
  | 3 => d.updStream s fun x => x.endPes codec
  | _ => d

/-- JUNCTION_PUSH (R113, R118, R120, R137): the bytes read are parsed in fetch order. The detail is the bytes parsed. -/
def junctionPushEffect (q i : Nat) (d : Dev) : Dev :=
  match d.takeCommand q i 0x0401 with
  | none => d
  | some f =>
    let s := le f.entry 8 2
    let n := le f.entry 12 4
    let fin := (byteAt f.entry 10).testBit 0
    let source := d.rd Reg.junctionStreamConfig_source s
    let x := d.stream s
    if x.phase = .error then d.complete q i 0x81 0x04
    else if !x.taking then d.complete q i 0x80 0x04
    else if source < 2 then d.complete q i 0x81 0x04
    else if f.data.length < n ∨ d.earlierPush s f.order then d
    else
      let d := d.updStream s Stream.run
      let codec := d.rd Reg.junctionStreamConfig_codec s
      let x := d.stream s
      let b := x.carry ++ f.data.take n
      match source with
      | 2 =>
        let r := Dev.pushRtp (b.length + 1) d s b fin
        let parsed := r.2.1 - x.carry.length
        let d := if fin then r.1.endOfData s else r.1
        if r.2.2 then d.complete q i 0x82 0x04 parsed else d.complete q i 0 0x04 n
      | 3 =>
        let d := d.setStream s (Stream.tsPackets (b.length + 1) x (d.rd Reg.junctionStreamConfig_pid s) codec b)
        (if fin then d.endOfData s else d).complete q i 0 0x04 n
      | _ =>
        let r := Stream.fileBoxes (b.length + 1) x codec (d.rd Reg.junctionStreamConfig_trackId s) b false
        let d := d.setStream s r.1
        let d := if r.2 then d.streamCause s 6 0x40 0x04 else d
        d.complete q i 0 0x04 n

/-- `junction.stream.state` as it reads (R119). -/
def Dev.streamStateField (d : Dev) (s off : Nat) : Nat :=
  let x := d.stream s
  match off with
  | 0 => match x.phase with
    | .stopped => 0 | .waiting => 1 | .running => 2 | .draining => 3 | .discarding => 4 | .error => 5
  | 32 => (d.ssrcOf s).getD 0
  | 64 => x.handed % 2 ^ 32
  | 96 => x.wraps % 65536
  | 112 => d.unitsHeld s % 65536
  | _ => 0

/-! ### Port enable and link (R104, R109) -/

/-- A write of an element of `junction.port.enable` (R104, R108, R109): enabling counts link changes afresh, and the port reports the
groups of the streams enabled on it; disabling ends the lasting cause, and the port watches no link. -/
def Dev.applyPortEnable (d : Dev) (p v : Nat) : Dev :=
  if d.rd Reg.junctionPortEnable p = v then d
  else
    let d := { d with ports := d.ports.put p {} }
    let d := (d.clearElem .junctionPortState p).wr Reg.junctionPortEnable p v
    let d := d.endLasting fun l => l.bit == Bit.link && l.area == 0x04 && l.detail == p
    if v = 1 then d.syncGroups p else d

/-- PORT_LINK_CHANGE (R109). -/
def portLinkChangeEffect (p : Nat) (up : Bool) (d : Dev) : Dev :=
  let x := d.ports.getD p {}
  if !d.portOn p ∨ x.up = up then d
  else
    let d := { d with ports := d.ports.put p { x with up } }
    let d := (d.setFlag Reg.junctionPortState_linkUp p up).count Reg.junctionPortState_linkChanges p
    let speed := d.rd Reg.junctionPortConfig_speed p
    let fec := d.rd Reg.junctionPortConfig_fec p
    let d := d.wr Reg.junctionPortState_speed p (if up then speed else 0)
    let d := d.wr Reg.junctionPortState_fec p (if up then (if speed = 1 ∧ fec = 2 then 0 else fec) else 0)
    if up then
      (d.endLasting fun l => l.bit == Bit.link && l.area == 0x04 && l.detail == p).attend
        { bit := Bit.link, area := 0x04, detail := p }
    else d.beginLasting { bit := Bit.link, code := 0x32, area := 0x04, detail := p }

def execEthFrameReceived (p : Nat) (fcs beyond : Bool) (f : List Byte) (s : State) :=
  act (.ethFrameReceived p fcs beyond f) (ethFrameReceivedEffect p fcs beyond f) s
def execGapTimerExpiry (x g : Nat) (s : State) := act (.gapTimerExpiry x g) (gapTimerExpiryEffect x g) s
def execPortLinkChange (p : Nat) (up : Bool) (s : State) := act (.portLinkChange p up) (portLinkChangeEffect p up) s
def execJunctionPush (q i : Nat) (s : State) := act (.junctionPush q i) (junctionPushEffect q i) s

end Sys2Proof.Machine
end

