-- ==== Sys2Proof/Machine/Egress.lean ====
section
/-! DEFINITION. What engines share when they fault (R148, R187, R197, R211, R394), the once-a-second rule of STREAM causes, and
the egress of sealed batches (R382, R386 to R391). -/

namespace Sys2Proof.Machine

/-- A stream is latency-critical (R147). -/
def Dev.latencyStream (d : Dev) (s : Nat) : Bool := d.flag Reg.decodeStreamConfig_latencyCritical s

/-- An engine of a block has faulted: FAULT with ENGINE_RESET, the engine in the detail, and bit [15] when a second fault within
1 s retires it (R148). `st` names the retired field of the engine's state object, `rs` its resets field. -/
def Dev.engineFault (d : Dev) (area e : Nat) (st rs : Reg) (ut : UnitType) : Dev :=
  let again := (d.faults.find? (area * 16 + st.obj.info.number % 16, e)).any fun t => d.now < t + secondTicks
  let d := { d with faults := d.faults.put (area * 16 + st.obj.info.number % 16, e) d.now }.count rs e
  let d := if again then (d.setFlag st e true).appendLedger 2 ut (d.physical ut e) 0 else d
  d.attend { bit := Bit.fault, code := 0x31, area, detail := e + (if again then 0x8000 else 0) }

/-! ### Egress -/

/-- Where a stream's batches go (R386): its ring and its UDP target, 8 naming none. -/
def Dev.ringOf (d : Dev) (s : Nat) : Option Nat :=
  let r := d.rd Reg.pointsStreamEgress_ring s
  if r = 8 then none else some r
def Dev.targetOf (d : Dev) (s : Nat) : Option Nat :=
  let t := d.rd Reg.pointsStreamEgress_udp s
  if t = 8 then none else some t

/-- The egress buffer of a batch returns to its pool. -/
def Dev.dropBatch (d : Dev) (b : HeldBatch) : Dev :=
  Dev.giveOwn { d with held := d.held.filter fun x => x != b } (d.rd Reg.pointsEgressPool) b.pointer

/-- A batch discarded (R389): counted, STREAM raised with detail 0x0062, and the stream's next batch says so. -/
def Dev.batchLost (d : Dev) (s ctx : Nat) (whileMasterClear : Bool) : Dev :=
  let d := d.count Reg.pointsCounters_batchesDiscarded
  let d := if whileMasterClear then d.count Reg.hostEgressHeldDropped else d
  let d := { d with droppedBefore := if d.droppedBefore.contains s then d.droppedBefore else s :: d.droppedBefore }
  d.streamOnce 0x0E s 0x62 0 0x0E ctx

/-- A batch a destination discards (R389): counted, and STREAM raised with detail 0x0063. -/
def Dev.batchDead (d : Dev) (b : HeldBatch) : Dev :=
  (d.count Reg.pointsCounters_batchesDiscarded).streamOnce 0x0E b.stream 0x63 0 0x0E b.context

/-- A batch's ring is disabled, or its target has the address 0: such a destination takes it at once by discarding it (R389). -/
def Dev.ringDead (d : Dev) (b : HeldBatch) : Bool :=
  !b.ringDone && (d.ringOf b.stream).any fun r => !d.flag Reg.pointsEgressRingEnable r
def Dev.targetDead (d : Dev) (b : HeldBatch) : Bool :=
  !b.udpDone && (d.targetOf b.stream).any fun t => d.rd Reg.pointsEgressUdp_address t == 0

/-- A sealed batch joins those held, unless every destination has taken it (R389). -/
def Dev.holdBatch (d : Dev) (b : HeldBatch) : Dev :=
  let ring := d.ringDead b
  let udp := d.targetDead b
  let d := if ring then d.batchDead b else d
  let d := if udp then d.batchDead b else d
  let b := { b with ringDone := b.ringDone || ring, udpDone := b.udpDone || udp }
  if b.ringDone && b.udpDone then d.giveOwn (d.rd Reg.pointsEgressPool) b.pointer else { d with held := d.held ++ [b] }

/-- A batch is sealed into an egress buffer (R389). With no buffer free, the oldest held batch of the stream is discarded, or the
new one when the stream holds none. -/
def Dev.seal (d : Dev) (s ctx seq : Nat) (bytes : List Byte) : Dev :=
  let pool := d.rd Reg.pointsEgressPool
  let keep (d : Dev) (a : Nat) : Dev :=
    let d := d.store a bytes
    d.holdBatch { stream := s, context := ctx, sequence := seq, pointer := a, length := bytes.length,
                  ringDone := (d.ringOf s).isNone, udpDone := (d.targetOf s).isNone }
  let r := d.alloc pool bytes.length s
  match r.1 with
  | .ok a => keep r.2 a
  | .fail _ =>
    let d1 := if ctx != 0 && r.2.latencyStream s then r.2.count Reg.pointsLcMisses else r.2
    match d1.held.find? fun b => b.stream == s with
    | none => d1.batchLost s ctx false
    | some old =>
      let d := (d1.dropBatch old).batchLost s ctx (!d.canMaster && !old.ringDone)
      let r' := d.alloc pool bytes.length s
      match r'.1 with
      | .ok a => keep r'.2 a
      | .fail _ => r'.2.batchLost s ctx false

/-- A 64-byte batch header (R382). -/
def batchHeader (status stream context kind unitSeq records timestamp wraps tsKind calenderFlags flags batchSeq length : Nat) :
    List Byte :=
  leBytes 4 status ++ leBytes 2 stream ++ leBytes 1 context ++ leBytes 1 kind ++ leBytes 4 unitSeq ++ leBytes 4 records ++
    leBytes 8 timestamp ++ leBytes 2 wraps ++ leBytes 1 tsKind ++ leBytes 1 0 ++ leBytes 2 calenderFlags ++ leBytes 2 flags ++
    leBytes 4 batchSeq ++ leBytes 4 length ++ leBytes 24 0

/-! ### Errors (R101) -/

/-- Completion Timeout and Poisoned TLP Received in the uncorrectable error registers. -/
def aerTimeout : Nat := 14
def aerPoisoned : Nat := 12

/-- Keys of the configuration registers that hold more than one field (log entry 30). -/
def cfgKey : CfgReg → Nat
  | .interruptLine => 1
  | .command => 2
  | .bar0 => 3
  | .bar2 => 4
  | .deviceControl => 5
  | .deviceControl2 => 6
  | .aerUncorrectableMask => 7
  | .aerUncorrectableSeverity => 8
  | .aerCorrectableMask => 9
  | .deviceStatus => 10
  | .status => 11
  | .linkControl => 12
  | _ => 0

/-- The value of a configuration register that holds several fields. -/
def Dev.cfgReg (d : Dev) (r : CfgReg) (dflt : Nat) : Nat := d.ep.cfg.getD (cfgKey r) dflt
def Dev.setCfg (d : Dev) (r : CfgReg) (v : Nat) : Dev := { d with ep := { d.ep with cfg := d.ep.cfg.put (cfgKey r) v } }

/-- An uncorrectable error logged: the error bits of Device Status and Status, its message as mask, severity, SERR# Enable and the enables
of Device Control allow (log entry 30), and LINK with the code of the table. -/
def Dev.logUncorrectable (d : Dev) (error code : Nat) : Dev :=
  let fatal := (d.cfgReg .aerUncorrectableSeverity 0x00462030).testBit error
  let masked := (d.cfgReg .aerUncorrectableMask 0x00400000).testBit error
  let serr := (d.cfgReg .command 0).testBit 8
  let enabled := serr || (d.cfgReg .deviceControl 0x2000).testBit (if fatal then 2 else 1)
  let d : Dev := { d with ep := { d.ep with aerUncorrectable := d.ep.aerUncorrectable ||| 2 ^ error } }
  let d := d.setCfg .deviceStatus (d.cfgReg .deviceStatus 0 ||| (if fatal then 4 else 2))
  let d := if error = aerPoisoned then d.setCfg .status (d.cfgReg .status 0 ||| 0x8000) else d
  let d := if serr && !masked then d.setCfg .status (d.cfgReg .status 0 ||| 0x4000) else d
  let d := if enabled && !masked then d.send (.aerMessage fatal error) else d
  d.attend { bit := Bit.link, code, area := 0x02 }

/-! ### Rings and datagrams (R386 to R389) -/

/-- Free bytes of a ring (R387). -/
def Dev.ringFree (d : Dev) (r consumed : Nat) : Nat :=
  2 ^ d.rd Reg.pointsEgressRing_sizeLog2 r - (d.rd Reg.pointsEgressRingState_produced r - consumed)

/-- A batch written to its ring (R387): a pad header first when the batch would pass the ring's end. A batch larger than the free
space waits. -/
def Dev.writeRing (d : Dev) (r consumed : Nat) (bytes : List Byte) : Option Dev :=
  let size := 2 ^ d.rd Reg.pointsEgressRing_sizeLog2 r
  let base := d.rd Reg.pointsEgressRing_page r * 4096
  let produced := d.rd Reg.pointsEgressRingState_produced r
  let off := produced % size
  let pad := if off + bytes.length ≤ size then 0 else size - off
  if d.ringFree r consumed < pad + bytes.length then none
  else
    let d := if pad = 0 then d else d.send (.hostWrite (base + off) (batchHeader 0 0 0 0 0 0 0 0 0 0 0 0 pad))
    let at_ := if pad = 0 then off else 0
    let d := d.send (.hostWrite (base + at_ + 4) (bytes.drop 4))
    let d := d.send (.hostWrite (base + at_) (bytes.take 4))
    some (d.wr Reg.pointsEgressRingState_produced r (produced + pad + bytes.length))

/-- The datagrams of a batch (R388): a 16-byte header before each run of its bytes, within the port's mtu. -/
def batchDatagrams (seq s ctx room : Nat) (bytes : List Byte) : List (List Byte) :=
  let n := max 1 (ceilDiv bytes.length room)
  (List.range n).map fun i =>
    leBytes 2 0x4D45 ++ leBytes 1 i ++ leBytes 1 n ++ leBytes 4 seq ++ leBytes 2 s ++ leBytes 1 ctx ++ leBytes 1 0 ++
      leBytes 4 (i * room) ++ (bytes.drop (i * room)).take room

/-- Payload bytes of one datagram by a port: its mtu less the IP and UDP headers and the header of R388. -/
def Dev.datagramRoom (d : Dev) (p address : Nat) : Nat :=
  let ip := if bits address 0 80 = 0 ∧ bits address 80 16 = 0xFFFF then 20 else 40
  d.rd Reg.junctionPortConfig_mtu p - ip - 8 - 16

/-- A batch goes to its UDP target (R388, R389). -/
def Dev.sendBatch (d : Dev) (t : Nat) (b : HeldBatch) (bytes : List Byte) : Dev :=
  let address := d.rd Reg.pointsEgressUdp_address t
  let p := d.rd Reg.pointsEgressUdp_port t
  let ds := batchDatagrams b.sequence b.stream b.context (d.datagramRoom p address) bytes
  if address = 0 then d.batchDead b
  else if d.portOn p && (d.ports.getD p {}).up then
    ds.foldl (fun d x => d.sendUdp p address (d.rd Reg.pointsEgressUdp_dstUdpPort t) (d.rd Reg.pointsEgressUdp_srcUdpPort t) x) d
  else d.count Reg.pointsCounters_datagramsDiscarded 0 ds.length

/-- A latency-critical batch, no clip's, whose egress misses R391 is counted, once. -/
def Dev.missEgress (d : Dev) (b : HeldBatch) : Dev :=
  if !b.missed && b.context != 0 && d.latencyStream b.stream then d.count Reg.pointsLcMisses else d

/-- BATCH_EGRESS (R386 to R389): the oldest held batch of a stream is written to its ring when space allows, with the consumer
word as read, and sent to its target. Where that read fails it is logged as R101 gives, and the batch waits as for space (log entry
152). A batch whose buffer is poisoned is discarded (R465). One that now waits for space in its ring no longer holds back fetching
(R91). -/
def batchEgressEffect (s : Nat) (consumer : ConsumerRead) (d : Dev) : Dev :=
  match d.held.find? fun b => b.stream == s with
  | none => d
  | some b =>
    if d.poisoned b.pointer b.length then (d.dropBatch b).batchLost s b.context false
    else
      let drop := d.droppedBefore.contains s
      let raw := d.getBytes b.pointer b.length
      let mark := leBytes 2 (le raw 30 2 ||| 8)
      let bytes := if drop then raw.take 30 ++ mark ++ raw.drop 32 else raw
      let d := if drop then d.store (b.pointer + 30) mark else d
      let up := (d.targetOf s).any fun t =>
        let p := d.rd Reg.pointsEgressUdp_port t
        d.portOn p && (d.ports.getD p {}).up
      let dead := d.targetDead b
      let d1 := if b.udpDone then d else
        match d.targetOf s with
        | some t => d.sendBatch t b bytes
        | none => d
      let r : Bool × Dev :=
        if b.ringDone then (true, d1) else
        match d1.ringOf s with
        | none => (true, d1)
        | some ring =>
          if !d1.flag Reg.pointsEgressRingEnable ring then (true, d1.batchDead b)
          else if !d1.canMaster then (false, d1)
          else match consumer with
            | .word consumed => match d1.writeRing ring consumed bytes with
              | some d2 => (true, d2)
              | none => (false, d1)
            | .refused => (false, d1)
            | .poisoned => (false, d1.logUncorrectable aerPoisoned 0x81)
            | .timedOut => (false, d1.logUncorrectable aerTimeout 0x80)
      let full := !b.ringDone && d1.canMaster
      let sent := !b.udpDone && !dead && up
      let written := r.1 && !b.ringDone && !d1.ringDead b && (d1.ringOf s).isSome
      let d2 := { r.2 with droppedBefore := if written || sent then r.2.droppedBefore.filter (· != s) else r.2.droppedBefore }
      let linkless := !b.udpDone && !dead && (d.targetOf s).isSome && !up
      let d2 := if linkless || !r.1 then d2.missEgress b else d2
      if r.1 then d2.dropBatch b
      else { d2 with held := d2.held.map fun x => if x = b then { b with udpDone := true, missed := true, parked := b.parked && !full } else x }

/-- A write of an element of `points.egress.ring_enable` (R386): enabling zeroes the produced count. -/
def Dev.applyRingEnable (d : Dev) (r v : Nat) : Dev :=
  let was := d.rd Reg.pointsEgressRingEnable r
  let d := d.wr Reg.pointsEgressRingEnable r v
  if was = 0 ∧ v = 1 then d.wr Reg.pointsEgressRingState_produced r 0 else d

/-- Batches that wait for a ring, as `points.egress.ring_state` reads. -/
def Dev.ringHeld (d : Dev) (r : Nat) : Nat := (d.held.filter fun b => !b.ringDone && d.ringOf b.stream == some r).length

def execBatchEgress (x : Nat) (c : ConsumerRead) (s : State) := act (.batchEgress x c) (batchEgressEffect x c) s

end Sys2Proof.Machine
end

