-- ==== Sys2Proof/Machine/Decode.lean ====
section
/-! DEFINITION. The decode engines (R138 to R166): which picture an engine takes, what firmware rejects, frame buffers and their
marks, the picture and hint map an engine writes, and when a picture is due for output. What the codec's own standard computes from the
bits (headers, samples, marking, the place in output order) is an operand (log entry 14). -/

namespace Sys2Proof.Machine

/-- The decoder's record of a stream, or of a clip under the key 1,024 + clip (R170). -/
def Dev.dec (d : Dev) (k : Nat) : DecodeStream := d.decoders.getD k {}
def Dev.setDec (d : Dev) (k : Nat) (x : DecodeStream) : Dev := { d with decoders := d.decoders.put k x }
def Dev.updDec (d : Dev) (k : Nat) (f : DecodeStream → DecodeStream) : Dev := d.setDec k (f (d.dec k))

/-! ### Engines and pools (R145 to R148) -/

/-- Presented engines not retired, in rising number. -/
def Dev.liveDecoders (d : Dev) : List Nat :=
  (List.range (d.rd Reg.decodeEnginesPresented)).filter fun e => !d.flag Reg.decodeEngineState_retired e

/-- The latency engines: the lc_engines lowest-numbered not retired (R145, R148). -/
def Dev.latencyEngines (d : Dev) : List Nat := d.liveDecoders.take (d.rd Reg.decodeLcEngines)

/-- An engine is in service on a picture. -/
def Dev.decoderBusy (d : Dev) (e : Nat) : Bool := (d.decodeJobs.find? e).isSome

/-- A picture of a stream is in decode. -/
def Dev.inDecode (d : Dev) (s : Nat) : Bool := d.decodeJobs.any fun j => j.2.clip == none && j.2.unit.stream == s

/-! ### Frame buffers (R149 to R154) -/

/-- The layout of a stream's frame buffers that its configuration gives; fixed at enable (R151). -/
def Dev.frameForm (d : Dev) (s : Nat) : FrameForm :=
  { maxWidth := d.rd Reg.junctionStreamConfig_maxWidth s, maxHeight := d.rd Reg.junctionStreamConfig_maxHeight s,
    tenBit := d.flag Reg.decodeStreamConfig_tenBit s }

/-- Width and height of a frame buffer, and the bytes of a sample that its size provides for (R151). -/
def FrameForm.bufferW (g : FrameForm) : Nat := roundUp g.maxWidth 64
def FrameForm.bufferH (g : FrameForm) : Nat := roundUp g.maxHeight 64
def FrameForm.sampleBytes (g : FrameForm) : Nat := if g.tenBit then 2 else 1

/-- The pitch of its planes in bytes (R151). -/
def FrameForm.pitch (g : FrameForm) : Nat := g.bufferW * g.sampleBytes

/-- Bytes of a sample of a picture at its own bit depth (R141). -/
def bytesAt (depth : Nat) : Nat := if 8 < depth then 2 else 1

/-- Offsets of the chroma plane and of the hint map, and the size of a buffer (R151). -/
def FrameForm.chromaOffset (g : FrameForm) : Nat := g.bufferW * g.bufferH * g.sampleBytes
def FrameForm.hintOffset (g : FrameForm) : Nat := g.chromaOffset + g.chromaOffset / 2
def FrameForm.hintPitch (g : FrameForm) : Nat := ceilDiv (ceilDiv g.maxWidth 16) 4
def FrameForm.bytes (g : FrameForm) : Nat :=
  g.hintOffset + roundUp (ceilDiv (ceilDiv g.maxWidth 16 * ceilDiv g.maxHeight 16 * 2) 8) 4096

/-- The code of a failed claim or request: that of the pool, or POOL_EMPTY of the block's own area. -/
def Dev.poolCode (d : Dev) (pool bytes area : Nat) : Nat × Nat :=
  if !(d.pool pool).on then (0x81, 0x14) else if (d.classFor pool bytes).isNone then (0x80, 0x14) else (0x20, area)

/-- Detail 0x0016 begins or ends (R152, R165). -/
def Dev.noBuffersCause (d : Dev) (s : Nat) (code : Nat × Nat) : Dev :=
  d.beginLasting { bit := Bit.stream, code := code.1, area := code.2, stream := s, detail := 0x16 }
def Dev.buffersAgain (d : Dev) (s : Nat) : Dev :=
  d.endLasting fun l => l.bit == Bit.stream && l.stream == s && l.detail == 0x16

/-- The decoder's claim of dpb_max + 2 frame buffers (R152). -/
def Dev.claimFrames (d : Dev) (s : Nat) : Dev :=
  let pool := d.rd Reg.decodeFramePool
  let bytes := (d.frameForm s).bytes
  let r := d.claim pool bytes s (d.rd Reg.decodeStreamConfig_dpbMax s + 2)
  if r.1 then (r.2.updDec s fun x => { x with claimed := true }).buffersAgain s
  else r.2.noBuffersCause s (d.poolCode pool bytes 0x05)

/-- A buffer returns to the free set when none of the four marks of R153 holds it. -/
def Frame.unmarked (f : Frame) : Bool := !f.reference && !f.awaiting && f.held == 0 && !f.source

/-- Buffers no mark holds return to the pool they came from: the stream's frame pool, or a clip's (R153, R170). -/
def Dev.reclaim (d : Dev) (k : Nat) : Dev :=
  let x := d.dec k
  let gone := x.frames.filter Frame.unmarked
  let d := d.setDec k { x with frames := x.frames.filter fun f => !f.unmarked }
  gone.foldl (fun d f => d.giveOwn f.pool f.pointer) d

/-! ### Clips as the decoder meets them (R169 to R172) -/

/-- One hold on a frame buffer ends (R153). -/
def Dev.releaseHold (d : Dev) (s ptr : Nat) : Dev :=
  (d.updDec s fun x => { x with frames := x.frames.map fun f =>
    if f.pointer = ptr then { f with held := f.held - 1 } else f }).reclaim s

/-- Ticks of stream time in `ms` milliseconds (R169): 90 a millisecond for kinds 1 and 2, the timescale's for kind 3. -/
def streamTicks (kind timescale ms : Nat) : Nat := if kind = 3 then ms * timescale / 1000 else ms * 90

def Dev.clip? (d : Dev) (c : Nat) : Option Clip := d.clips.find? c
def Dev.setClip (d : Dev) (c : Nat) (x : Clip) : Dev := { d with clips := d.clips.put c x }

/-- A picture of a clip with an end lies after it: its stream time is later than the event's plus post_ms (R169). -/
def Dev.pastClip (d : Dev) (x : Clip) (u : AccessUnit) : Bool :=
  !x.endless && streamTime x.kind x.eventWraps x.eventTime + streamTicks x.kind (d.stream x.stream).file.timescale x.postMs <
    streamTime x.kind u.wraps u.timestamp

/-- Pictures of the ring part are still to be decoded. -/
def Dev.ringOpen (d : Dev) (c : Nat) (x : Clip) : Bool := x.units != [] || d.decodeJobs.any fun j => j.2.clip == some c

/-- A clip record (R383) in a batch of its own (R384), through egress to the host. -/
def Dev.sendRecord (d : Dev) (c : Nat) (x : Clip) (seq wraps timestamp kind : Nat) (key end_ : Bool) (payload : List Byte) : Dev :=
  let record := padTo 64 (leBytes 1 5 ++
    leBytes 1 (b2n key + 2 * b2n end_ + 4 * b2n x.shortPre + 8 * b2n x.gap + 16 * b2n x.streamEnded) ++ leBytes 2 c ++
    leBytes 4 x.rc.encoded ++ leBytes 4 payload.length)
  let body := record ++ padTo (roundUp payload.length 64) payload
  let header := batchHeader (d.resultWord 0 0x0E) x.stream 0 2 seq 1 timestamp wraps kind 0 0 x.rc.encoded (64 + body.length)
  d.seal x.stream 0 x.rc.encoded (header ++ body)

/-- A clip's hold on one of its pictures ends: a copy returns to the pool, a ring picture loses its downstream hold. -/
def Dev.freeClipPicture (d : Dev) (c : Nat) (p : ClipPicture) : Dev :=
  if p.fromRing then d.releaseHold (1024 + c) p.pointer
  else
    let d := d.giveOwn (d.rd Reg.encodeClipPool) p.pointer
    if p.ready then d
    else match d.clip? c with
      | some x => d.releaseHold x.stream p.source
      | none => d

/-- Ring groups none of whose pictures the clip still needs are released (R170). -/
def Dev.unpinDone (d : Dev) (c : Nat) : Dev :=
  match d.clip? c with
  | none => d
  | some x =>
    let needed (u : RingUnit) : Bool :=
      x.units.contains u || (d.decodeJobs.any fun j => j.2.clip == some c && j.2.unit == u.unit) ||
        (x.pictures.any fun p => p.fromRing && p.sequence == u.unit.sequence) ||
        (x.inService.any fun p => p.fromRing && p.sequence == u.unit.sequence)
    let unpin (g : RingGroup) : RingGroup :=
      if g.pins.contains c && !(g.units.any needed) then { g with pins := g.pins.erase c } else g
    let d := d.updStream x.stream fun y => { y with ring := y.ring.map unpin }
    if (d.stream x.stream).phase = .draining then Dev.freeRing (d.stream x.stream).ring.length d x.stream else d

/-- The engines that serve a clip stop and are free, the frame buffer of a decode returned (log entry 66). -/
def Dev.freeEngines (d : Dev) (c : Nat) : Dev :=
  let d := (d.decodeJobs.filter fun j => j.2.clip == some c).foldl (fun d j =>
    Dev.giveOwn ((Dev.setFlag { d with decodeJobs := d.decodeJobs.erase j.1 } Reg.decodeEngineState_busy j.1 false).wr
      Reg.decodeEngineState_stream j.1 0xFFFF) j.2.pool j.2.pointer) d
  (d.encodeJobs.filter fun j => j.2.clip == c).foldl (fun d j =>
    (Dev.setFlag { d with encodeJobs := d.encodeJobs.erase j.1 } Reg.encodeEngineState_busy j.1 false).wr
      Reg.encodeEngineState_clip j.1 0xFFFF) d

/-- The clip's slot is freed with its pins, copies and decoded pictures (R172). -/
def Dev.closeClip (d : Dev) (c : Nat) : Dev :=
  match d.clip? c with
  | none => d
  | some x =>
    let d := (x.pictures ++ x.inService.toList).foldl (fun d p => d.freeClipPicture c p) d
    let d := d.updDec (1024 + c) fun y => { y with frames := y.frames.map fun f =>
      { f with reference := false, awaiting := false, held := 0, source := false } }
    let d := d.reclaim (1024 + c)
    let d := d.freeEngines c
    let d : Dev := { d with decoders := d.decoders.erase (1024 + c), clips := d.clips.erase c }
    let d := d.updStream x.stream fun y => { y with ring := y.ring.map fun g => { g with pins := g.pins.erase c } }
    if (d.stream x.stream).phase = .draining then Dev.freeRing (d.stream x.stream).ring.length d x.stream else d

/-- A clip ends with its final output, marked as the end (R172). -/
def Dev.endClip (d : Dev) (c : Nat) : Dev :=
  match d.clip? c with
  | none => d
  | some x =>
    let d := if x.rtp then d else d.sendRecord c x 0 0 x.lastTime x.kind false true []
    d.closeClip c

/-- A stream that has left the running state ends each of its clips, with stream_ended set (R172). -/
def Dev.endStreamClips (d : Dev) (s : Nat) : Dev :=
  if (d.stream s).phase = .running then d
  else
    (List.range 64).foldl (fun d c =>
      match d.clip? c with
      | some x => if x.stream = s then (d.setClip c { x with streamEnded := true }).endClip c else d
      | none => d) d

/-- The writes of `dictionary.udp.enable` and `port` put streams that now conflict into configuration error (R118), which ends their
clips. -/
def Dev.dictConflict (d : Dev) : Dev :=
  if !d.flag Reg.dictionaryUdpEnable then d
  else
    ((List.range 1024).filter fun s =>
        (d.stream s).taking && d.rd Reg.junctionStreamConfig_source s == 1 &&
          d.rd Reg.junctionStreamConfig_udpPort s == d.rd Reg.dictionaryUdpPort).foldl
      (fun d s => ((d.discardAssembly s).enterError s).endStreamClips s) d

/-- A clip whose last picture has been encoded, or is absent, once the live part has passed its end, ends (R169, R172). -/
def Dev.clipDone (d : Dev) (c : Nat) : Dev :=
  match d.clip? c with
  | none => d
  | some x =>
    if x.livePassed && !x.endless && x.pictures == [] && x.inService.isNone && !d.ringOpen c x then d.endClip c else d

/-- The buffer's bytes copied whole, as a clip's copy (R171). -/
def Dev.copyBytes (d : Dev) (src dst n : Nat) : Dev := d.store dst (d.getBytes src n)

/-! ### What a picture writes (R141, R142, R155 to R157, R161) -/

/-- Mid-grey at a bit depth (R142). -/
def midGrey (depth : Nat) : Nat := 2 ^ (depth - 1)

/-- A sample of a plane held in memory. -/
def Dev.sample (d : Dev) (base pitch bytes x y : Nat) : Nat := d.getNat (base + y * pitch + x * bytes) bytes

/-- The average of two samples, half up (R141). -/
def avg2 (a b : Nat) : Nat := (a + b + 1) / 2

/-- A chroma sample of the 4:2:0 picture at (x, y): averaged across each horizontal pair and then each vertical pair where the
source has them, a lone sample at an odd edge as it is; mid-grey for 4:0:0 (R141). `w` and `h` are those of the luma plane. -/
def chroma420 (c : Chroma) (depth w h : Nat) (plane : List Nat) (x y : Nat) : Nat :=
  let grey := midGrey depth
  let cw := match c with
    | .c444 => w
    | _ => ceilDiv w 2
  let at_ (x y : Nat) : Nat := plane.getD (y * cw + x) grey
  let below := min (2 * y + 1) (h - 1)
  match c with
  | .c400 => grey
  | .c420 => at_ x y
  | .c422 => avg2 (at_ x (2 * y)) (at_ x below)
  | .c444 => avg2 (avg2 (at_ (2 * x) (2 * y)) (at_ (min (2 * x + 1) (w - 1)) (2 * y)))
      (avg2 (at_ (2 * x) below) (at_ (min (2 * x + 1) (w - 1)) below))

/-- The blocks of a slice that were decoded: none where its header does not parse, and those before its first syntax error (R159, R161). -/
def sliceDecoded (s : SliceResult) : List (Nat × BlockResult) :=
  if !s.parsed then [] else match s.error with
    | some n => s.blocks.take n
    | none => s.blocks

/-- How a block was decoded; none where it is concealed, since no slice covers it before its end or its first error (R161). -/
def outcomeAt (r : PictureResult) (block : Nat) : Option BlockResult :=
  r.slices.findSome? fun s => ((sliceDecoded s).find? fun e => e.1 == block).map Prod.snd

/-- The outcome of the block a luma sample lies in. -/
def blockOutcome (r : PictureResult) (w x y : Nat) : Option BlockResult := outcomeAt r (y / 16 * ceilDiv w 16 + x / 16)

/-- One or more blocks of a picture are concealed. -/
def hasConcealed (r : PictureResult) (w h : Nat) : Bool :=
  (List.range (ceilDiv w 16 * ceilDiv h 16)).any fun b => (outcomeAt r b).isNone

/-- A plane stored row by row from a base with a pitch. -/
def Dev.putPlane (d : Dev) (base pitch bytes w h : Nat) (value : Nat → Nat → Nat) : Dev :=
  (List.range h).foldl (fun d y => d.store (base + y * pitch) ((List.range w).flatMap fun x => leBytes bytes (value x y))) d

/-- The picture written to its buffer: decoded samples, and the concealment source's co-located samples, or mid-grey, in blocks
that could not be decoded (R141, R161). The source is a buffer and the bit depth of its picture. -/
def Dev.putPicture (d : Dev) (g : FrameForm) (ptr : Nat) (h : PictureHeader) (r : PictureResult) (source : Option (Nat × Nat)) : Dev :=
  let b := bytesAt h.bitDepth
  let pitch := g.pitch
  let co := g.chromaOffset
  let luma (x y : Nat) : Nat :=
    if blockOutcome r h.width x y = none then
      (source.map fun p => d.sample p.1 pitch (bytesAt p.2) x y).getD (midGrey h.bitDepth)
    else r.luma.getD (y * h.width + x) (midGrey h.bitDepth)
  let chroma (x y : Nat) : Nat :=
    if blockOutcome r h.width (x / 2 * 2) (2 * y) = none then
      (source.map fun p => d.sample (p.1 + co) pitch (bytesAt p.2) x y).getD (midGrey h.bitDepth)
    else chroma420 h.chroma h.bitDepth h.width h.height (if x % 2 = 0 then r.cb else r.cr) (x / 2) y
  let d' := d.putPlane ptr pitch b h.width h.height luma
  d'.putPlane (ptr + co) pitch b (2 * ceilDiv h.width 2) (ceilDiv h.height 2) chroma

/-- Every sample of a block, of `b` bytes, equals the co-located sample of another buffer (R157). -/
def Dev.blockEqual (d : Dev) (g : FrameForm) (b p q w h bx by_ : Nat) : Bool :=
  let pitch := g.pitch
  let co := g.chromaOffset
  ((List.range 16).all fun j => (List.range 16).all fun i =>
      let x := bx * 16 + i
      let y := by_ * 16 + j
      !(x < w && y < h) || d.sample p pitch b x y == d.sample q pitch b x y) &&
    ((List.range 8).all fun j => (List.range 16).all fun i =>
      let x := bx * 16 + i
      let y := by_ * 8 + j
      !(x < 2 * ceilDiv w 2 && 2 * y < h) || d.sample (p + co) pitch b x y == d.sample (q + co) pitch b x y)

/-- The hint entry of a block (R156, R157). -/
def Dev.hintEntry (d : Dev) (g : FrameForm) (b ptr w h : Nat) (prev : Option Nat) (r : PictureResult) (bx by_ : Nat) : Nat :=
  match blockOutcome r w (bx * 16) (by_ * 16) with
  | none => 2
  | some .substituted => 2
  | some .coded => 1
  | some .zeroCopy => if prev.any fun p => d.blockEqual g b ptr p w h bx by_ then 0 else 1

/-- The hint map written beside its picture: four entries to a byte (R156). -/
def Dev.putHints (d : Dev) (g : FrameForm) (b ptr w h : Nat) (prev : Option Nat) (r : PictureResult) : Dev :=
  let row (by_ : Nat) : List Byte := (List.range (ceilDiv (ceilDiv w 16) 4)).map fun i =>
    Byte.ofNat' ((List.range 4).foldl (fun a j =>
      if 4 * i + j < ceilDiv w 16 then a + d.hintEntry g b ptr w h prev r (4 * i + j) by_ * 4 ^ j else a) 0)
  (List.range (ceilDiv h 16)).foldl (fun d' by_ => d'.store (ptr + g.hintOffset + by_ * g.hintPitch) (row by_)) d

/-- The hint map of a picture that is shown once more, with no block reported unchanged: its prediction was not from the picture now
released before it (R157). -/
def Dev.clearHints (d : Dev) (g : FrameForm) (ptr w h : Nat) : Dev :=
  let row (by_ : Nat) : List Byte := (List.range (ceilDiv (ceilDiv w 16) 4)).map fun i =>
    let v := d.getNat (ptr + g.hintOffset + by_ * g.hintPitch + i) 1
    Byte.ofNat' ((List.range 4).foldl (fun a j => if 4 * i + j < ceilDiv w 16 then a + max 1 (bits v (2 * j) 2) * 4 ^ j else a) 0)
  (List.range (ceilDiv h 16)).foldl (fun d' by_ => d'.store (ptr + g.hintOffset + by_ * g.hintPitch) (row by_)) d

/-! ### Taking a picture (R146, R152, R159) -/

/-- The largest picture of a codec in luma samples (R138). -/
def largestPicture (codec : Nat) : Nat :=
  match codec with
  | 1 => 9437184
  | 4 => 8192 * 4352
  | _ => 8912896

/-- Profiles, chroma formats and bit depths of the table of R138. -/
def profileSupported (codec : Nat) (p : CodecProfile) : Bool :=
  match codec with
  | 1 => [CodecProfile.constrainedBaseline, .main, .high].contains p
  | 2 => [CodecProfile.main, .main10].contains p
  | 3 => p == .main
  | 4 => p == .baseline
  | _ => false
def chromaSupported (codec : Nat) (p : CodecProfile) (c : Chroma) : Bool :=
  match codec with
  | 1 => c == .c420 || (c == .c400 && p == .high)
  | 2 => c == .c420
  | 3 => c == .c420 || c == .c400
  | _ => true
def depthSupported (codec : Nat) (p : CodecProfile) (depth : Nat) : Bool :=
  depth == 8 || (depth == 10 && ((codec == 2 && p == .main10) || codec == 3))

/-- Everything a picture uses is in the table of R138. -/
def pictureSupported (codec : Nat) (h : PictureHeader) : Bool :=
  profileSupported codec h.profile && chromaSupported codec h.profile h.chroma && depthSupported codec h.profile h.bitDepth &&
    h.tools == [] && h.width ≤ 8192 && h.height ≤ 4352

/-- The reference buffers a picture's sequence requires (R150): by its parameter sets, or, for AV1, the distinct pictures in the reference slots
after its refresh. -/
def refsRequired (codec : Nat) (h : PictureHeader) : Nat :=
  match codec with
  | 1 => h.decBuffering.getD h.numRefFrames
  | 2 => h.decBuffering.getD 0 + 1
  | 3 => (if h.kept then h.id :: h.keep else h.keep).eraseDups.length
  | _ => 0

/-- The picture exceeds the provisioned limits of its stream (R150, R159). -/
def AccessUnit.tooLarge (u : AccessUnit) (h : PictureHeader) : Bool :=
  u.maxWidth < h.width || u.maxHeight < h.height ||
    min (u.maxWidth * u.maxHeight) (largestPicture u.codec) < h.width * h.height ||
    (if u.tenBit then 10 else 8) < h.bitDepth || u.dpbMax < refsRequired u.codec h

/-- Why firmware rejects a picture by its headers, in the order of R159. -/
def rejectCode (u : AccessUnit) (h : PictureHeader) : Option Nat :=
  if u.tooLarge h then some 0x41
  else if !pictureSupported u.codec h || !h.setsReceived then some 0x80
  else none

/-- The code a picture is rejected with (R159): after a rejection the same code until a key picture passes every check. -/
def DecodeStream.rejects (x : DecodeStream) (u : AccessUnit) (h : PictureHeader) : Option Nat :=
  match x.rejected with
  | none => rejectCode u h
  | some code => if h.key && rejectCode u h == none then none else some code

/-- A buffer of the stream's own set is free (R152, R154). -/
def Dev.frameFree (d : Dev) (s : Nat) : Bool := decide ((d.dec s).frames.length < d.rd Reg.decodeStreamConfig_dpbMax s + 2)

/-- The frame that is next in output order. -/
def DecodeStream.nextOut (x : DecodeStream) : Option Frame :=
  (x.frames.filter Frame.awaiting).foldl (fun acc f =>
    match acc with
    | none => some f
    | some b => if f.order < b.order then some f else some b) none

/-- A key picture decoded after a frame comes after it in output order too. -/
def DecodeStream.keyAfter (x : DecodeStream) (f : Frame) : Bool :=
  (x.frames.dropWhile fun g => g.pointer != f.pointer).any fun g => g.key && f.order < g.order

/-- The frame that is due for output (R154). DEDUCED (log entry 139): the next in output order, once no picture still to be decoded can come
before it: more pictures wait than the sequence reorders, a key picture follows it, every buffer of the stream waits for output or is a
reference, or a stream that drains has no other picture. -/
def Dev.dueOut (d : Dev) (s : Nat) : Option Frame :=
  let x := d.dec s
  let ending := ((d.stream s).phase == .draining || (d.stream s).phase == .stopped) && !d.inDecode s &&
    !(d.handedUnits.any fun u => u.stream == s)
  let full := !d.frameFree s && x.frames.all fun f => f.held == 0
  x.nextOut.filter fun f => x.reorder < (x.frames.filter Frame.awaiting).length || x.keyAfter f || full || ending

/-- The earliest waiting picture that an engine may take (R146): the next unit of a stream with none in decode, none due that is still to
be released (R155; log entry 139), and a buffer free. -/
def Dev.nextUnit (d : Dev) (may : AccessUnit → Bool) : Option AccessUnit :=
  d.handedUnits.find? fun u =>
    may u && !d.inDecode u.stream && (d.dueOut u.stream).isNone && d.frameFree u.stream &&
      (d.handedUnits.find? fun v => v.stream == u.stream) == some u

/-- The unit R146 gives an engine. A latency engine takes latency-critical pictures alone; a general engine first takes one that
finds every latency engine busy. -/
def Dev.unitFor (d : Dev) (e : Nat) : Option AccessUnit :=
  let lat := d.latencyEngines
  if lat.contains e then d.nextUnit fun u => d.latencyStream u.stream
  else if lat = [] then d.nextUnit fun _ => true
  else
    let first := if lat.all d.decoderBusy then d.nextUnit fun u => d.latencyStream u.stream else none
    match first with
    | some u => some u
    | none => d.nextUnit fun u => !d.latencyStream u.stream

/-- The unit leaves the waiting ones and its access-unit buffer returns (R155). -/
def Dev.returnUnit (d : Dev) (u : AccessUnit) : Dev := d.giveOwn u.pool u.pointer
def Dev.dequeueUnit (d : Dev) (u : AccessUnit) : Dev := { d with handedUnits := d.handedUnits.erase u }

/-- The unit is discarded for want of buffers (R152). -/
def Dev.noBufferDiscard (d : Dev) (u : AccessUnit) : Dev :=
  ((d.dequeueUnit u).returnUnit u).count Reg.decodeStreamCounters_noBuffers u.stream

/-- The NAL units of a unit that R140 discards are counted, once. -/
def Dev.countNals (d : Dev) (u : AccessUnit) : Dev := d.count Reg.decodeStreamCounters_nalsDiscarded u.stream u.nalsDiscarded

/-- A picture of a stream is rejected, in its own decode or in a clip's (R159, R160): counted, STREAM raised, and a key picture awaited. -/
def Dev.rejectIn (d : Dev) (k : Nat) (u : AccessUnit) (code : Nat) : Dev :=
  let d := d.updDec k fun x => { x with rejected := some code, barred := x.barred || u.flags.testBit 2 }
  let d := (d.countNals u).count Reg.decodeStreamCounters_finished u.stream
  if code = 0x41 then (d.count Reg.decodeStreamCounters_rejectedDimension u.stream).streamOnce 0x05 u.stream 0x12 0x41
  else (d.count Reg.decodeStreamCounters_rejectedUnsupported u.stream).streamOnce 0x05 u.stream 0x14 0x80

/-- The picture is rejected (R155): nothing is written, and its access-unit buffer returns. -/
def Dev.rejectPicture (d : Dev) (u : AccessUnit) (code : Nat) : Dev := ((d.dequeueUnit u).returnUnit u).rejectIn u.stream u code

/-- The engine takes a unit whose headers pass, into a buffer of a pool (R146, R158). -/
def Dev.startPicture (d : Dev) (e : Nat) (u : AccessUnit) (h : PictureHeader) (pool ptr : Nat) (clip : Option Nat) : Dev :=
  let k := match clip with
    | some c => 1024 + c
    | none => u.stream
  let d := d.updDec k fun x =>
    { x with rejected := none, width := h.width, height := h.height, bitDepth := h.bitDepth, reorder := h.reorder,
             frames := if h.key then x.frames.map fun f => { f with reference := false } else x.frames }
  let d := if h.last then d.countNals u else d
  let d := { d with decodeJobs := d.decodeJobs.put e { unit := u, header := h, pointer := ptr, pool, start := d.now, clip } }
  let d := if clip.isNone && h.last then d.dequeueUnit u else d
  let d := d.setFlag Reg.decodeEngineState_busy e true
  d.wr Reg.decodeEngineState_stream e u.stream

/-- A unit that shows a frame already decoded (AV1): that frame is to be released with the unit's sequence and timestamp (R155), and the unit's
buffer returns then, or at once where no such frame is held. -/
def Dev.showExisting (d : Dev) (u : AccessUnit) (h : PictureHeader) (n : Nat) : Dev :=
  let f? := (d.dec u.stream).frames.find? fun f => f.id == n && !f.passOver
  let d := if h.last then (d.dequeueUnit u).countNals u else d
  let d := if h.last && f?.isNone then d.returnUnit u else d
  let d := match f? with
    | some f => d.clearHints f.unit.form f.pointer f.width f.height
    | none => d
  (d.updDec u.stream fun x => { x with frames := x.frames.map fun f =>
    if f.id = n then { f with unit := u, awaiting := !f.passOver, order := h.order, reference := h.keep.contains f.id,
                              unitHeld := h.last && !f.passOver }
    else { f with reference := f.reference && h.keep.contains f.id } }).reclaim u.stream

/-- A stream's picture at its turn (R140, R146, R152, R159): discarded, rejected, shown, or taken. -/
def Dev.takeUnit (d : Dev) (e : Nat) (u : AccessUnit) (h : PictureHeader) : Dev :=
  let s := u.stream
  let key := h.key
  let d := if key && !(d.dec s).claimed then d.claimFrames s else d
  let x := d.dec s
  if x.switching && !key then
    (((d.dequeueUnit u).returnUnit u).count Reg.bootSwitchDiscarded)
  else
    let d := d.setDec s { x with switching := false }
    if !x.claimed then d.noBufferDiscard u
    else if x.noBuffers && !key then d.noBufferDiscard u
    else
      match x.rejects u h with
      | some code => d.rejectPicture u code
      | none =>
        match h.showExisting with
        | some n => d.showExisting u h n
        | none =>
          let pool := d.rd Reg.decodeFramePool
          let r := d.alloc pool u.form.bytes s
          match r.1 with
          | .ok a => ((r.2.updDec s fun x => { x with noBuffers := false }).buffersAgain s).startPicture e u h pool a none
          | .fail _ =>
            let code := d.poolCode pool u.form.bytes 0x05
            ((r.2.updDec s fun x => { x with noBuffers := true }).noBufferDiscard u).noBuffersCause s code

/-- The clip whose ring part has a unit to decode and none in decode, the earliest-accepted first (R145, R170). -/
def Dev.clipToDecode (d : Dev) : Option Nat :=
  let ready := (List.range 64).filter fun c =>
    match d.clips.find? c with
    | some x => x.units != [] && !(d.decodeJobs.any fun j => j.2.clip == some c)
    | none => false
  ready.foldl (fun acc c =>
    let age (c : Nat) : Nat := ((d.clips.find? c).map Clip.accepted).getD 0
    match acc with
    | none => some c
    | some b => if age c < age b then some c else some b) none

/-- A picture joins those of a clip that wait to be encoded (R169 to R171). -/
def Dev.joinClip (d : Dev) (c : Nat) (x : Clip) (f : Frame) (ptr : Nat) (fromRing : Bool) : Dev :=
  let u := f.unit
  let p : ClipPicture :=
    { pointer := ptr, sequence := u.sequence, wraps := u.wraps, timestamp := u.timestamp, kind := u.kind, width := f.width,
      height := f.height, bitDepth := f.bitDepth, form := u.form, concealed := f.concealed, fromRing, order := d.clipCount,
      ready := fromRing, source := f.pointer }
  { d with clips := d.clips.put c { x with pictures := x.pictures ++ [p], concealed := x.concealed || f.concealed },
           clipCount := d.clipCount + 1 }

/-- A clip's decoded picture joins the ones that wait to be encoded, unless it is passed over, not output or past the clip's end; in the
clip's decode it is then the last picture released, and its concealment source (R153, R170). -/
def Dev.clipDecoded (d : Dev) (c : Nat) (f : Frame) : Dev :=
  match d.clip? c with
  | none => d
  | some x =>
    let d := if f.held = 0 then d
      else (d.joinClip c x f f.pointer true).updDec (1024 + c) fun y =>
        { y with lastOutput := some f.pointer, freshOutput := false,
                 frames := y.frames.map fun g => { g with source := g.pointer == f.pointer } }
    (d.unpinDone c).clipDone c

/-- A unit of a clip's ring part shows a frame decoded before (AV1). -/
def Dev.showClip (d : Dev) (c : Nat) (u : AccessUnit) (n : Nat) : Dev :=
  match d.clip? c, (d.dec (1024 + c)).frames.find? fun f => f.id == n && !f.passOver with
  | some x, some f =>
    let takes := !d.pastClip x u
    let d := d.updDec (1024 + c) fun y => { y with frames := y.frames.map fun g =>
      if g.pointer = f.pointer then { g with held := g.held + b2n takes } else g }
    d.clipDecoded c { f with unit := u, held := b2n takes }
  | _, _ => (d.unpinDone c).clipDone c

/-- A clip's next ring picture on a general engine, into a buffer of encode.clip_pool (R170). A picture rejected there is absent, and is
rejected as any other is. -/
def Dev.takeClipUnit (d : Dev) (e c : Nat) (h : PictureHeader) : Dev :=
  match d.clips.find? c with
  | none => d
  | some x =>
    match x.units with
    | [] => d
    | ru :: rest =>
      let d := if h.last then { d with clips := d.clips.put c { x with units := rest } } else d
      let drop (d : Dev) : Dev := { d with clips := d.clips.put c { x with units := rest } }
      match (d.dec (1024 + c)).rejects ru.unit h with
      | some code => (((drop d).rejectIn (1024 + c) ru.unit code).unpinDone c).clipDone c
      | none =>
        match h.showExisting with
        | some n => (if h.last then d.countNals ru.unit else d).showClip c ru.unit n
        | none =>
          let pool := d.rd Reg.encodeClipPool
          let r := d.alloc pool ru.unit.form.bytes c
          match r.1 with
          | .ok a => r.2.startPicture e ru.unit h pool a (some c)
          | .fail _ => { r.2 with clips := r.2.clips.put c x }

/-- DECODE_START (R146): a free engine takes the earliest waiting picture of its pool; a clip's pictures come behind every
waiting stream picture, on general engines, while headroom admits them (R490). -/
def decodeStartEffect (e : Nat) (h : PictureHeader) (d : Dev) : Dev :=
  if d.decoderBusy e ∨ !d.liveDecoders.contains e ∨ !d.ep.firmwareReady then d
  else
    match d.unitFor e with
    | some u => d.takeUnit e u h
    | none =>
      if d.latencyEngines.contains e ∨ !d.headroom then d
      else match d.clipToDecode with
        | some c => d.takeClipUnit e c h
        | none => d

/-! ### The end of a picture (R155, R160 to R163) -/

/-- How a picture ends (R160). -/
inductive Ending where
  | finished | aborted | reset
  deriving DecidableEq, Repr

/-- The references a picture names that the decoder holds (R162). -/
def heldRefs (x : DecodeStream) (h : PictureHeader) : List Frame :=
  h.refs.filterMap fun n => x.frames.find? fun f => f.id == n && f.reference

/-- The most recent reference in decode order, which stands in for one that is not held (R162). -/
def DecodeStream.substitute (x : DecodeStream) : Option Frame := (x.frames.filter Frame.reference).getLast?

/-- A picture names references that are not held, and one stands in for them, or nothing does (R162). -/
def DecodeStream.refsMissing (x : DecodeStream) (h : PictureHeader) : Bool :=
  !h.intra && (heldRefs x h).length < h.refs.length && x.substitute.isSome
def DecodeStream.refsGrey (x : DecodeStream) (h : PictureHeader) : Bool :=
  !h.intra && h.refs != [] && heldRefs x h == [] && x.substitute.isNone

/-- How a block was decoded, by the references held (R162): with none, every prediction from a reference reads mid-grey; with all, none
reads a substitute; an intra picture reads none. -/
def DecodeStream.settle (x : DecodeStream) (h : PictureHeader) (b : BlockResult) : BlockResult :=
  if h.intra then .coded
  else if x.refsGrey h then (if b = .zeroCopy then .substituted else b)
  else if x.refsMissing h then b
  else if b = .substituted then .coded else b

/-- The slices of a picture, each block settled so. -/
def settledResult (r : PictureResult) (x : DecodeStream) (h : PictureHeader) : PictureResult :=
  { r with slices := r.slices.map fun s => { s with blocks := s.blocks.map fun b => (b.1, x.settle h b.2) } }

/-- Every picture is output; only an AV1 frame may wait for a later unit to show it (R140). -/
def DecodeJob.shown (j : DecodeJob) : Bool := j.header.shown || j.unit.codec != 3

/-- The frame a picture leaves behind: the marks of R153 and R162. One to be released has not finished yet (R155). -/
def finishedFrame (x : DecodeStream) (e : Nat) (j : DecodeJob) (r : PictureResult) (how : Ending) : Frame :=
  let h := j.header
  let concealed := hasConcealed r h.width h.height
  let tainted := !h.key && !h.intra &&
    (x.refsMissing h || (heldRefs x h).any fun f => f.concealed || f.grey || f.tainted)
  let pass := how != .finished || (concealed && !j.unit.releaseConcealed)
  let awaiting := !pass && j.shown
  { pointer := j.pointer, pool := j.pool, unit := j.unit, width := h.width, height := h.height, bitDepth := h.bitDepth, key := h.key,
    order := h.order, id := h.id, reference := h.kept, awaiting, concealed, grey := x.refsGrey h, tainted, passOver := pass,
    engine := if awaiting then some e else none, unitHeld := awaiting && h.last }

/-- The source of concealed blocks (R161): the first entry of list 0 of an inter picture, or what stands in for it, else the buffer
marked so; with the bit depth of its picture. -/
def concealSource (x : DecodeStream) (h : PictureHeader) : Option (Nat × Nat) :=
  let f := if h.intra then x.frames.find? Frame.source
    else match h.refs.head? with
      | none => none
      | some n => (x.frames.find? fun f => f.id == n && f.reference) <|> x.substitute
  f.map fun f => (f.pointer, f.bitDepth)

/-- The marks the codec's rules leave on earlier references (R153). -/
def DecodeStream.remark (x : DecodeStream) (h : PictureHeader) : DecodeStream :=
  { x with frames := x.frames.map fun f => { f with reference := f.reference && h.keep.contains f.id } }

/-- Counts and STREAM causes of a picture's outcome (R160, R164, R165). -/
def Dev.countPicture (d : Dev) (s : Nat) (f : Frame) (how : Ending) : Dev :=
  let d := if f.grey then (d.count Reg.decodeStreamCounters_greyReferenced s).streamOnce 0x05 s 0x15 0x40 else d
  match how with
  | .finished => if f.concealed then (d.count Reg.decodeStreamCounters_concealed s).streamOnce 0x05 s 0x11 0x40 else d
  | .aborted => (d.count Reg.decodeStreamCounters_aborted s).streamOnce 0x05 s 0x13 0x42
  | .reset => d.count Reg.decodeStreamCounters_reset s

/-- The previous picture released for output, where blocks may be reported equal to it (R157): not for the first picture after
enable, after a discontinuity and after a key picture, nor for one that does not predict from it. -/
def previousOutput (x : DecodeStream) (j : DecodeJob) : Option Nat :=
  if x.freshOutput || x.barred || j.header.key || j.unit.flags.testBit 2 || j.unit.flags.testBit 4 then none
  else x.lastOutput.filter fun p => (heldRefs x j.header).any fun f => f.pointer == p

/-- The key of a job's decoder record. -/
def DecodeJob.record (j : DecodeJob) : Nat := match j.clip with
  | some c => 1024 + c
  | none => j.unit.stream

/-- A picture of an engine has finished: counted for its stream and its engine, and its access-unit buffer returned where it has one (R155). -/
def Dev.pictureFinished (d : Dev) (u : AccessUnit) (e : Nat) (holdsUnit : Bool) : Dev :=
  let d := (d.count Reg.decodeStreamCounters_finished u.stream).count Reg.decodeEngineState_finished e
  if holdsUnit then d.returnUnit u else d

/-- The frame of an ended picture as the decoder holds it: a clip's is held for the clip, if the clip takes it, and has finished (R153, R170). -/
def Dev.frameKept (d : Dev) (j : DecodeJob) (f : Frame) : Frame :=
  match j.clip.bind d.clip? with
  | some y => { f with awaiting := false, held := b2n (f.awaiting && !d.pastClip y f.unit), engine := none, unitHeld := false }
  | none => f

/-- An engine's picture ends: written with concealment and hints and marked; one that is not to be released has finished (R155 to R163).
Blocks may be reported unchanged only in a picture that is released next, or taken by its clip (R157). -/
def Dev.endPicture (d : Dev) (e : Nat) (r : PictureResult) (how : Ending) : Dev :=
  match d.decodeJobs.find? e with
  | none => d
  | some j =>
    let x := d.dec j.record
    let h := j.header
    let g := j.unit.form
    let r := settledResult r x h
    let d := d.putPicture g j.pointer h r (concealSource x h)
    let f := d.frameKept j (finishedFrame x e j r how)
    let y := x.remark h
    let d := d.setDec j.record { y with frames := y.frames ++ [f], barred := h.key }
    let d := { d with decodeJobs := d.decodeJobs.erase e }
    let next := j.clip.isSome || (d.dueOut j.unit.stream).any fun o => o.pointer == f.pointer
    let d := d.putHints g (bytesAt h.bitDepth) j.pointer h.width h.height (if next then previousOutput x j else none) r
    let d := (d.setFlag Reg.decodeEngineState_busy e false).wr Reg.decodeEngineState_stream e 0xFFFF
    let d := d.countPicture j.unit.stream f how
    let d := if f.awaiting then d else d.pictureFinished j.unit e (j.clip.isNone && h.last)
    let d := match j.clip with
      | some c => d.clipDecoded c f
      | none => d
    d.reclaim j.record

/-- Video cycles after which a picture is aborted: 8 × B (R163). -/
def DecodeJob.budget (j : DecodeJob) : Nat := 8 * (j.unit.maxWidth * j.unit.maxHeight / 2)

/-- An always-on tick is 240 video cycles (R6), so the cycles since an engine took a picture are known to within a tick: the budget may have
run out, or it has run out for certain. -/
def DecodeJob.mayAbort (j : DecodeJob) (now : Nat) : Bool := j.budget < (now - j.start + 1) * 240
def DecodeJob.overdue (j : DecodeJob) (now : Nat) : Bool := j.budget + 240 ≤ (now - j.start) * 240

/-- DECODE_FINISH (R155). A picture whose budget has run out ends as aborted (R163). -/
def decodeFinishEffect (e : Nat) (r : PictureResult) (ecc : List EccEvent) (d : Dev) : Dev :=
  let late := (d.decodeJobs.find? e).any fun j => j.overdue d.now
  (d.eccErrors ecc).endPicture e r (if late then .aborted else .finished)

/-- BUDGET_ABORT (R163): at 8 × B video cycles the picture is aborted, and not before. -/
def budgetAbortEffect (e : Nat) (r : PictureResult) (d : Dev) : Dev :=
  if (d.decodeJobs.find? e).any fun j => j.mayAbort d.now then d.endPicture e r .aborted else d

/-- DECODE_ENGINE_FAULT (R148): the engine resets, its picture ends as reset, and a second fault within 1 s retires it. -/
def decodeEngineFaultEffect (e : Nat) (r : PictureResult) (d : Dev) : Dev :=
  if !d.liveDecoders.contains e then d
  else
    let d := d.endPicture e r .reset
    d.engineFault 0x05 e Reg.decodeEngineState_retired Reg.decodeEngineState_resets .decodeEngine

/-! ### Release for output (R154, R155) and hand-off counts (R147) -/

/-- The descriptor of a released picture (R155). -/
def Frame.picture (f : Frame) : Picture :=
  { stream := f.unit.stream,
    flags := b2n f.key + 2 * b2n f.concealed + 4 * b2n f.grey + 8 * b2n f.tainted + 16 * b2n (f.unit.flags.testBit 0) +
      32 * b2n (f.unit.flags.testBit 2) + 64 * b2n (f.unit.flags.testBit 4) + 128 * b2n (decide (8 < f.bitDepth)),
    sequence := f.unit.sequence, pointer := f.pointer, width := f.width, height := f.height,
    timestamp := f.unit.timestamp, wraps := f.unit.wraps, kind := f.unit.kind, form := f.unit.form }

/-- The 32 bytes of a released picture's descriptor (R155). -/
def Picture.descriptor (p : Picture) : List Byte :=
  leBytes 2 p.stream ++ leBytes 2 p.flags ++ leBytes 4 p.sequence ++ leBytes 8 p.pointer ++ leBytes 2 p.width ++
    leBytes 2 p.height ++ leBytes 8 p.timestamp ++ leBytes 2 p.wraps ++ leBytes 1 p.kind ++ leBytes 1 0

/-- A live picture is dropped from a clip rather than held (R171, R192), with the clip as it is without it. -/
def Dev.dropLive (d : Dev) (c : Nat) (x : Clip) : Dev :=
  Dev.streamOnce { d with clips := d.clips.put c { x with gap := true, dropped := x.dropped + 1 } } 0x06 x.stream 0x21 0x20

/-- A released picture offered to one clip of its stream (R169 to R171): past the clip's end, dropped for want of room, or copied. -/
def Dev.offerClip (d : Dev) (c : Nat) (f : Frame) : Dev :=
  match d.clips.find? c with
  | none => d
  | some x =>
    let u := f.unit
    if x.stream ≠ u.stream ∨ u.sequence < x.liveFrom ∨ x.stopping then d
    else if d.pastClip x u then Dev.clipDone { d with clips := d.clips.put c { x with livePassed := true } } c
    else
      if d.rd Reg.encodeClipBacklog ≤ ((x.pictures ++ x.inService.toList).filter fun p => !p.fromRing).length then d.dropLive c x
      else
        let r := d.alloc (d.rd Reg.encodeClipPool) u.form.bytes c
        match r.1 with
        | .fail _ => r.2.dropLive c x
        | .ok a =>
          (r.2.joinClip c x f a false).updDec u.stream fun y => { y with frames := y.frames.map fun g =>
            if g.pointer = f.pointer then { g with held := g.held + 1 } else g }

/-- A picture handed on for which R147's first or second condition fails is a miss. -/
def Dev.countMiss (d : Dev) (u : AccessUnit) : Dev :=
  let freeEngine := d.latencyEngines.any fun e => !d.decoderBusy e
  let earlier := d.inDecode u.stream || (d.handedUnits.filter fun v => v.stream == u.stream).length > 1
  if d.latencyStream u.stream && (!freeEngine || earlier) then d.count Reg.decodeLcMisses else d

/-- AU_HAND_OFF (R123, R147): the unit goes, and a latency-critical one that finds no free latency engine is counted. A stream that begins to
discard to a key picture has left the running state (R131, R172). -/
def auHandOffEffect (s : Nat) (d : Dev) : Dev :=
  let d' := if (d.stream s).phase = .running then (handOffNext s d).endStreamClips s else handOffNext s d
  if d.handedUnits.length < d'.handedUnits.length then
    match d'.handedUnits.getLast? with
    | some u => d'.countMiss u
    | none => d'
  else d'

/-- `decode.stream.state` as it reads (R164). -/
def Dev.decodeStateField (d : Dev) (s off : Nat) : Nat :=
  let x := d.dec s
  match off with
  | 0 =>
    if d.inDecode s then 1
    else if x.rejected.isSome ∨ x.switching then 2
    else if x.noBuffers ∨ (!x.claimed ∧ (d.stream s).phase ≠ .stopped) then 3
    else 0
  | 4 => b2n ((x.frames.getLast?.map Frame.tainted).getD false)
  | 8 => x.width
  | 24 => x.height
  | 40 => x.bitDepth
  | 64 => (x.frames.filter Frame.reference).length
  | 72 => (x.frames.filter fun f => f.held != 0).length
  | _ => 0

/-- `decode.engine.state` bit [0]: a latency engine (R145). -/
def Dev.isLatencyEngine (d : Dev) (e : Nat) : Bool := d.latencyEngines.contains e

def execAuHandOff (x : Nat) (s : State) := act (.auHandOff x) (auHandOffEffect x) s
def execDecodeStart (e : Nat) (h : PictureHeader) (s : State) := act (.decodeStart e h) (decodeStartEffect e h) s
def execDecodeFinish (e : Nat) (r : PictureResult) (c : List EccEvent) (s : State) :=
  act (.decodeFinish e r c) (decodeFinishEffect e r c) s
def execBudgetAbort (e : Nat) (r : PictureResult) (s : State) := act (.budgetAbort e r) (budgetAbortEffect e r) s
def execDecodeEngineFault (e : Nat) (r : PictureResult) (s : State) :=
  act (.decodeEngineFault e r) (decodeEngineFaultEffect e r) s

end Sys2Proof.Machine
end

