-- ==== Sys2Proof/Machine/Encode.lean ====
section
/-! DEFINITION. Event clips (R167 to R192): opening and ending a clip, the picture an encode engine takes, rate control, key
pictures and refresh, privacy masks, the search window, the NAL units of a picture, and delivery. What an encoder chooses within these rules is
a free function of what R174 lets it depend on (log entry 15). -/

namespace Sys2Proof.Machine

/-- The timestamp kind of a stream, by its source (R128). -/
def Dev.streamKind (d : Dev) (s : Nat) : Nat :=
  match d.rd Reg.junctionStreamConfig_source s with
  | 3 => 2
  | 4 => 3
  | _ => 1

/-- The first unit of a ring group has a timestamp no later than a stream time (R169). -/
def RingGroup.startsBy (g : RingGroup) (from_ : Int) : Bool :=
  ((g.units.head?.bind fun u => u.unit.time?).map fun t => decide ((t : Int) ≤ from_)).getD false

/-- The ring part of a clip (R169): the groups from the start group on, which is the latest that starts early enough, and whether none
does. -/
def ringPart (ring : List RingGroup) (from_ : Int) : List RingGroup × Bool :=
  let late := (ring.reverse.takeWhile fun g => !g.startsBy from_).length
  if late = ring.length then (ring, true) else (ring.drop (ring.length - late - 1), false)

/-- Why ENCODE_CLIP is refused, in the order of R168 and then R173. -/
def Dev.clipRefusal (d : Dev) (e : List Byte) : Option Nat :=
  let s := le e 8 2
  let rtp := (byteAt e 11).testBit 1
  if (List.range 64).all fun c => (d.clip? c).isSome then some 0x80
  else if (d.stream s).phase ≠ .running then some 0x83
  else if byteAt e 30 ≠ d.streamKind s then some 0x82
  else if rtp ∧ d.streamKind s = 3 then some 0x82
  else if rtp ∧ d.rd Reg.encodeRtpTarget_address (byteAt e 17) = 0 then some 0x84
  else if 4096 < (d.dec s).width ∨ 2304 < (d.dec s).height then some 0x85
  else none

/-- The lowest free clip slot. -/
def Dev.freeClip (d : Dev) : Nat := ((List.range 64).find? fun c => (d.clip? c).isNone).getD 0

/-- The clip that an accepted ENCODE_CLIP opens (R169, R170). -/
def Dev.openClip (d : Dev) (e : List Byte) : Dev :=
  let s := le e 8 2
  let c := d.freeClip
  let x := d.stream s
  let kind := d.streamKind s
  let pre := le e 12 2
  let event := streamTime kind (le e 28 2) (le e 20 8)
  let ring := if d.rd Reg.junctionStreamConfig_ringMib s = 0 ∨ pre = 0 then ([], false)
    else ringPart x.ring ((event : Int) - streamTicks kind x.file.timescale pre)
  let liveFrom := if d.rd Reg.junctionStreamConfig_ringMib s = 0 then x.sequence else (x.appended.map (· + 1)).getD x.sequence
  let pin (g : RingGroup) : RingGroup := if ring.1.contains g then { g with pins := c :: g.pins } else g
  let d := d.updStream s fun y => { y with ring := y.ring.map pin }
  { d.setClip c { stream := s, codec := byteAt e 10, endless := (byteAt e 11).testBit 0, rtp := (byteAt e 11).testBit 1,
                  postMs := le e 14 2, profile := byteAt e 16, target := byteAt e 17, eventTime := le e 20 8,
                  eventWraps := le e 28 2, kind, liveFrom, accepted := d.clipCount,
                  tenBit := d.flag Reg.decodeStreamConfig_tenBit s, units := ring.1.flatMap RingGroup.units,
                  shortPre := ring.2 && pre != 0 } with clipCount := d.clipCount + 1 }

/-- ENCODE_CLIP (R167 to R170): the clip number is in the detail. -/
def encodeClipEffect (q i : Nat) (d : Dev) : Dev :=
  match d.takeCommand q i 0x0601 with
  | none => d
  | some f =>
    match d.clipRefusal f.entry with
    | some code => d.complete q i code 0x06
    | none => (d.openClip f.entry).complete q i 0 0x06 d.freeClip

/-! ### Delivery (R188, R189) -/

/-- The packets of one NAL unit: itself, or fragments of `room` bytes with the headers of its payload format (R189). -/
def rtpPayloads (codec room : Nat) (n : List Byte) : List (List Byte) :=
  if n.length ≤ room then [n]
  else
    let h := if codec = 1 then 1 else 2
    let size := room - h - 1
    let body := n.drop h
    let count := ceilDiv body.length size
    (List.range count).map fun i =>
      let part := (body.drop (i * size)).take size
      let se := 128 * b2n (i == 0) + 64 * b2n (i + 1 == count)
      if codec = 1 then
        Byte.ofNat' (byteAt n 0 / 32 * 32 + 28) :: Byte.ofNat' (se + byteAt n 0 % 32) :: part
      else
        Byte.ofNat' ((byteAt n 0 &&& 0x81) + 2 * 49) :: n.getD 1 0#8 :: Byte.ofNat' (se + byteAt n 0 / 2 % 64) :: part

/-- An RTP packet. -/
def rtpPacket (pt seq ts ssrc : Nat) (marker : Bool) (payload : List Byte) : List Byte :=
  [Byte.ofNat' 0x80, Byte.ofNat' (128 * b2n marker + pt)] ++ beBytes 2 seq ++ beBytes 4 ts ++ beBytes 4 ssrc ++ payload

/-- A picture sent by RTP (R189); packets for a port without link are discarded and counted. DESIGN CHOICE (log entry 140): those for a target
whose address has been written to 0 since are not sent, and are not counted. -/
def Dev.sendRtp (d : Dev) (c : Nat) (x : Clip) (p : ClipPicture) (nals : List (List Byte)) : Dev × Nat :=
  let t := x.target
  let port := d.rd Reg.encodeRtpTarget_port t
  let address := d.rd Reg.encodeRtpTarget_address t
  let ip := if bits address 0 80 = 0 ∧ bits address 80 16 = 0xFFFF then 20 else 40
  let room := d.rd Reg.junctionPortConfig_mtu port - ip - 8 - 12
  let payloads := nals.flatMap (rtpPayloads x.codec room)
  let n := payloads.length
  let ssrc := (d.rd Reg.encodeRtpTarget_ssrcBase t + c) % 2 ^ 32
  let packets := (List.range n).map fun i =>
    rtpPacket (d.rd Reg.encodeRtpTarget_payloadType t) ((x.rtpSequence + i) % 65536) (p.timestamp % 2 ^ 32) ssrc (i + 1 == n)
      (payloads.getD i [])
  if address = 0 then (d, n)
  else if d.portOn port && (d.ports.getD port {}).up then
    (packets.foldl (fun d b => d.sendUdp port address (d.rd Reg.encodeRtpTarget_dstUdpPort t)
      (d.rd Reg.encodeRtpTarget_srcUdpPort t) b) d, n)
  else (d.count Reg.pointsCounters_datagramsDiscarded 0 n, n)

/-- ENCODE_STOP (R172): completes at once; the clip ends after the picture in service. -/
def encodeStopEffect (q i : Nat) (d : Dev) : Dev :=
  match d.takeCommand q i 0x0602 with
  | none => d
  | some f =>
    let c := byteAt f.entry 8
    match d.clip? c with
    | none => d.complete q i 0x81 0x06
    | some x =>
      let d := if x.inService.isNone then d.endClip c else d.setClip c { x with stopping := true }
      d.complete q i 0 0x06

/-- ENCODE_KEY (R181): the next picture begun is a key picture; requests before it are one. -/
def encodeKeyEffect (q i : Nat) (d : Dev) : Dev :=
  match d.takeCommand q i 0x0603 with
  | none => d
  | some f =>
    match d.clip? (byteAt f.entry 8) with
    | none => d.complete q i 0x81 0x06
    | some x =>
      (d.setClip (byteAt f.entry 8) { x with rc := { x.rc with keyRequested := true } }).complete q i 0 0x06

/-! ### The picture an engine takes (R186) and its coding (R180 to R184) -/

/-- The clip orders its pictures by wrap count and timestamp, then unit sequence (R169). -/
def ClipPicture.before (p q : ClipPicture) : Bool :=
  let a := streamTime p.kind p.wraps p.timestamp
  let b := streamTime q.kind q.wraps q.timestamp
  a < b || (a == b && p.sequence < q.sequence)

/-- The picture of a clip that an engine's fault put out of service, to be begun again (R187). -/
def Dev.interrupted (d : Dev) (c : Nat) (x : Clip) : Option ClipPicture :=
  if d.encodeJobs.any fun j => j.2.clip == c then none else x.inService

/-- A clip's next waiting picture, in the clip's order: one begun before, none while one is in encode, while a ring unit before it is still to
be decoded, or while its copy goes on. -/
def Dev.nextClipPicture (d : Dev) (c : Nat) (x : Clip) : Option ClipPicture :=
  let open_ := x.units.map RingUnit.unit ++ (d.decodeJobs.filter fun j => j.2.clip == some c).map fun j => j.2.unit
  let later (p : ClipPicture) (u : AccessUnit) : Bool :=
    p.before { p with wraps := u.wraps, timestamp := u.timestamp, sequence := u.sequence }
  if x.inService.isSome then d.interrupted c x
  else if x.stopping then none
  else
    (x.pictures.foldl (fun acc p =>
      match acc with
      | none => some p
      | some b => if p.before b then some p else some b) none).bind fun p =>
        if p.ready && open_.all (later p) then some p else none

/-- The clip and picture R186 gives a free engine: of re-streams the one whose copy is oldest, else of the earliest-accepted clip. -/
def Dev.encodeChoice (d : Dev) : Option (Nat × ClipPicture) :=
  let cs := (List.range 64).filterMap fun c => (d.clip? c).bind fun x => (d.nextClipPicture c x).map fun p => (c, x, p)
  let best (key : Nat × Clip × ClipPicture → Nat) (l : List (Nat × Clip × ClipPicture)) :=
    l.foldl (fun (acc : Option (Nat × Clip × ClipPicture)) e =>
      match acc with
      | none => some e
      | some b => if key e < key b then some e else some b) none
  let r := match best (fun e => e.2.2.order) (cs.filter fun e => e.2.1.endless) with
    | some e => some e
    | none => best (fun e => e.2.1.accepted) cs
  r.map fun e => (e.1, e.2.2)

/-- Bits a buffer of the profile holds (R180). -/
def Dev.rateBuffer (d : Dev) (p : Nat) : Nat := d.rd Reg.encodeProfile_maxKbps p * d.rd Reg.encodeProfile_bufferMs p

/-- The QP of the next picture (R180). -/
def Dev.nextQp (d : Dev) (x : Clip) : Nat :=
  let p := x.profile
  let qp := d.rd Reg.encodeProfile_qp p
  if d.rd Reg.encodeProfile_mode p = 0 then qp
  else
    match x.rc.qp with
    | none => min (max qp (d.rd Reg.encodeProfile_qpMin p)) (d.rd Reg.encodeProfile_qpMax p)
    | some prev =>
      let s := d.rateBuffer p
      let f := x.rc.fullness
      let recent := (x.rc.lastBits.take (d.rd Reg.junctionStreamConfig_maxFps x.stream)).foldl (· + ·) 0
      let target := d.rd Reg.encodeProfile_targetKbps p * 1000
      let q : Int := if 3 * s < 4 * f then prev + 2
        else if s < 2 * f ∨ target < recent then prev + 1
        else if 4 * f < s ∧ 10 * recent < 9 * target then (prev : Int) - 1
        else prev
      min (max q.toNat (d.rd Reg.encodeProfile_qpMin p)) (d.rd Reg.encodeProfile_qpMax p)

/-- The next picture is a key picture (R181, R182, R184). DEDUCED (log entry 144): one whose size is not that of the picture before it is, since
that cannot be its reference. -/
def Dev.nextKey (d : Dev) (x : Clip) (p : ClipPicture) : Bool :=
  let gop := d.rd Reg.encodeProfile_gopLength x.profile
  x.rc.encoded == 0 || x.rc.keyRequested || !(x.reference.any fun r => r.1 == p.width && r.2.1 == p.height) ||
    (d.rd Reg.encodeProfile_refreshPeriod x.profile == 0 && gop != 0 && gop ≤ x.rc.sinceKey)

/-- Block columns of a clip's picture, and how many each picture refreshes (R182). -/
def blockColumns (codec width : Nat) : Nat := ceilDiv width (if codec = 1 then 16 else 32)
def Dev.refreshColumns (d : Dev) (x : Clip) (width : Nat) : Nat :=
  let p := d.rd Reg.encodeProfile_refreshPeriod x.profile
  if p = 0 then 0 else ceilDiv (blockColumns x.codec width) p

/-! ### Levels (R173) -/

/-- The levels of H.264 (Table A-1): level_idc, macroblocks per second, macroblocks per picture; and of H.265 (Tables A.8 and A.9):
general_level_idc, luma samples per second, luma samples per picture. PRESUMED (log entry 145). -/
def levels264 : List (Nat × Nat × Nat) :=
  [(10, 1485, 99), (11, 3000, 396), (12, 6000, 396), (13, 11880, 396), (20, 11880, 396), (21, 19800, 792), (22, 20250, 1620),
   (30, 40500, 1620), (31, 108000, 3600), (32, 216000, 5120), (40, 245760, 8192), (41, 245760, 8192), (42, 522240, 8704),
   (50, 589824, 22080), (51, 983040, 36864), (52, 2073600, 36864), (60, 4177920, 139264), (61, 8355840, 139264),
   (62, 16711680, 139264)]
def levels265 : List (Nat × Nat × Nat) :=
  [(30, 552960, 36864), (60, 3686400, 122880), (63, 7372800, 245760), (90, 16588800, 552960), (93, 33177600, 983040),
   (120, 66846720, 2228224), (123, 133693440, 2228224), (150, 267386880, 8912896), (153, 534773760, 8912896),
   (156, 1069547520, 8912896), (180, 1069547520, 35651584), (183, 2139095040, 35651584), (186, 4278190080, 35651584)]

/-- The lowest level whose picture size and sample rate cover a clip's width and height at its stream's max_fps (R173). A side is at most the
root of eight times the largest picture. -/
def levelFor (codec w h fps : Nat) : Nat :=
  let n := if codec = 1 then 16 else 1
  let (a, b) := (ceilDiv w n, ceilDiv h n)
  let table := if codec = 1 then levels264 else levels265
  ((table.find? fun l => a * b ≤ l.2.2 && a * b * fps ≤ l.2.1 && a * a ≤ 8 * l.2.2 && b * b ≤ 8 * l.2.2).map Prod.fst).getD
    ((table.getLast?.map Prod.fst).getD 0)

/-! ### The search window (R177, R178) -/

/-- Width and height of a block: a macroblock, or a coding tree unit. -/
def blockSize (codec : Nat) : Nat := if codec = 1 then 16 else 32

/-- The window of a block, loaded whole: 128 samples beyond it across and 64 down, and 4 more for the refinement (R177). -/
def windowAt (n bx by_ : Nat) : SearchWindow :=
  { left := (bx * n : Nat) - 132, top := (by_ * n : Nat) - 68, width := 256 + n + 8, height := 128 + n + 8 }

/-- The strip that the next block needs, and the window once it has arrived and has replaced the one no longer reached (R178). -/
def SearchWindow.strip (w : SearchWindow) (n : Nat) : SearchWindow := { w with left := w.left + w.width, width := n }
def SearchWindow.slide (w : SearchWindow) (strip : SearchWindow) : SearchWindow := { w with left := w.left + strip.width }

/-- Bytes of a window's or a strip's samples, luma and both chroma components (R177). -/
def SearchWindow.bytes (w : SearchWindow) (bitDepth : Nat) : Nat := w.width * w.height * 3 / 2 * bytesAt bitDepth

/-- A sample of a plane, edge-extended outside it (R158, R177). -/
def edgeSample (plane : List Nat) (w h : Nat) (x y : Int) : Nat :=
  plane.getD (min y.toNat (h - 1) * w + min x.toNat (w - 1)) 0

/-- A vector lies within the search: −128 to +128 across and −64 to +64 down (R177). -/
def inSearchRange (dx dy : Int) : Bool := -512 ≤ dx && dx ≤ 512 && -256 ≤ dy && dy ≤ 256

/-- The last column of luma samples of the reference that a block reads for a vector: 4 beyond its own where it is interpolated. -/
def lastRead (n bx w : Nat) (dx : Int) : Nat :=
  min (((bx + 1) * n : Nat) - 1 + dx / 4 + if dx % 8 = 0 then 0 else 4).toNat (w - 1)

/-- Columns of samples refreshed so far in the cycle in the reference of a picture in encode, if the block lies in them (R183). -/
def EncodeJob.boundary (j : EncodeJob) (n bx : Nat) : Option Nat :=
  if !j.key && bx < j.columns.1 && j.columns.2 != 0 then some (j.columns.1 * n) else none

/-- A block may be predicted with a vector: it lies within the search, and a block of the refreshed region reads no sample within 8 of the
region's boundary or beyond it (R177, R183). -/
def EncodeJob.mayRead (j : EncodeJob) (n bx : Nat) (dx dy : Int) : Bool :=
  inSearchRange dx dy && (j.boundary n bx).all fun b => lastRead n bx j.picture.width dx + 8 < b

/-- The samples of the window that a block may read: the others count as 0 in what its search depends on (R183). -/
def EncodeJob.windowSamples (j : EncodeJob) (n bx : Nat) (win : SearchWindow) (ref : Planes) : Planes :=
  let w := j.picture.width
  let h := j.picture.height
  let may (x : Int) : Bool := (j.boundary n bx).all fun b => min x.toNat (w - 1) + 8 < b
  let plane (k : Nat) (p : List Nat) : List Nat := (List.range (win.height / k)).flatMap fun (y : Nat) =>
    (List.range (win.width / k)).map fun (x : Nat) =>
      if may (win.left + k * x) then edgeSample p (ceilDiv w k) (ceilDiv h k) (win.left / k + x) (win.top / k + y) else 0
  { luma := plane 1 ref.luma, cb := plane 2 ref.cb, cr := plane 2 ref.cr }

/-- The samples of a block of a picture, as far as the picture reaches. -/
def blockSamples (p : Planes) (w h n bx by_ : Nat) : Planes :=
  let plane (k : Nat) (s : List Nat) : List Nat := (List.range (n / k)).flatMap fun y => (List.range (n / k)).filterMap fun x =>
    let (a, b) := (bx * (n / k) + x, by_ * (n / k) + y)
    if a < ceilDiv w k ∧ b < ceilDiv h k then some (s.getD (b * ceilDiv w k + a) 0) else none
  { luma := plane 1 p.luma, cb := plane 2 p.cb, cr := plane 2 p.cr }

/-- How far an engine has come in a picture: its window, the codes of its blocks so far, their bits, and whether the limit is reached. -/
structure EncodeScan where
  window : SearchWindow
  codes : List BlockCode := []
  bits : Nat := 0
  full : Bool := false
  deriving DecidableEq, Repr, Inhabited

/-- A vector a block may take: the one chosen, or, where it may not, one that stays within the search and left of any boundary. -/
def EncodeJob.vector (j : EncodeJob) (n bx : Nat) (v : Int × Int) : Int × Int := if j.mayRead n bx v.1 v.2 then v else (-512, 0)

/-- How a block is coded: intra in a key picture and in the columns being refreshed (R182), else as its search finds, within R177 and
R183. -/
def EncodeJob.blockCode (j : EncodeJob) (i : CodingInput) (bx : Nat) (block seen : Planes) (before : List BlockCode) : BlockCode :=
  let n := blockSize i.codec
  if j.key || (j.columns.1 ≤ bx && bx < j.columns.1 + j.columns.2) then .intra
  else match Config.searched i.codec i.qp block seen before with
    | .intra => .intra
    | .inter dx dy => let v := j.vector n bx (dx, dy); .inter v.1 v.2
    | .skip _ _ => let v := j.vector n bx (Config.skipVector before); .skip v.1 v.2

/-- One block: once a P picture's limit is reached, it and all after it are skipped (R180). The strip for the next one arrives before that
begins (R178). -/
def EncodeJob.block (j : EncodeJob) (i : CodingInput) (by_ : Nat) (s : EncodeScan) (bx : Nat) : EncodeScan :=
  let n := blockSize i.codec
  let block := blockSamples i.source i.width i.height n bx by_
  let seen := j.windowSamples n bx s.window (i.reference.getD default)
  let code := j.blockCode i bx block seen s.codes
  let bits := Config.blockBits i.codec i.qp block seen code
  let window := s.window.slide (s.window.strip n)
  if s.full || j.limit.any fun l => l < s.bits + bits then
    let v := j.vector n bx (Config.skipVector s.codes)
    { window, codes := s.codes ++ [.skip v.1 v.2], bits := s.bits, full := true }
  else { window, codes := s.codes ++ [code], bits := s.bits + bits }

/-- Every block of a picture, row by row; at the start of each row the whole window is loaded (R178). -/
def EncodeJob.scan (j : EncodeJob) (i : CodingInput) : EncodeScan :=
  let n := blockSize i.codec
  (List.range (ceilDiv i.height n)).foldl (fun s by_ =>
    (List.range (ceilDiv i.width n)).foldl (j.block i by_) { s with window := windowAt n 0 by_ }) { window := j.window }

/-! ### The NAL units of a picture (R173, R182) -/

/-- A NAL unit header: reference idc 3 for H.264, layer 0 and temporal layer 0 for H.265. -/
def nalHeader (codec type : Nat) : List Byte :=
  if codec = 1 then [Byte.ofNat' ((if type = 6 then 0 else 96) + type)] else [Byte.ofNat' (2 * type), 1#8]

/-- The profile a clip is coded in: High; Main, or Main 10 for a source with ten-bit set (R173). -/
def codedProfile (codec : Nat) (tenBit : Bool) : Nat := if codec = 1 then 100 else if tenBit then 2 else 1

/-- The parameter sets that precede a key picture and the first picture of a refresh cycle (R173, R182). -/
def parameterNals (codec profile level w h : Nat) : List (List Byte) :=
  (if codec = 1 then [7, 8] else [32, 33, 34]).map fun t => nalHeader codec t ++ Config.parameterSet t profile level w h

/-- The bits of an Exp-Golomb number, and bits packed into bytes, most significant first. -/
def expGolomb (v : Nat) : List Bool :=
  let n := (v + 1).log2
  List.replicate n false ++ (List.range (n + 1)).map fun i => (v + 1).testBit (n - i)
def packBits (b : List Bool) : List Byte :=
  (List.range (ceilDiv b.length 8)).map fun i => Byte.ofNat' ((List.range 8).foldl (fun a k => 2 * a + b2n (b.getD (8 * i + k) false)) 0)

/-- The recovery point SEI message with its recovery_frame_cnt: exact match, no broken link (R182; PRESUMED, log entry 145). -/
def recoveryNal (codec count : Nat) : List Byte :=
  let flags := if codec = 1 then [true, false, false, false] else [true, false]
  let number := expGolomb (if codec = 1 then count else 2 * count - 1)
  let body := number ++ flags
  let payload := packBits (if body.length % 8 = 0 then body else body ++ [true])
  nalHeader codec (if codec = 1 then 6 else 39) ++ [6#8, Byte.ofNat' payload.length] ++ payload ++ [0x80#8]

/-- The one slice of a picture (R173): IDR or P, IDR_W_RADL or TRAIL_R. A P picture never exceeds its limit (R180). -/
def EncodeJob.slice (j : EncodeJob) (i : CodingInput) (codes : List BlockCode) : List Byte :=
  let type := if i.codec = 1 then (if j.key then 5 else 1) else (if j.key then 19 else 1)
  let bytes := nalHeader i.codec type ++ Config.sliceBytes i codes
  match j.limit with
  | some l => bytes.take (l / 8)
  | none => bytes

/-- The picture is the first of a refresh cycle (R182). -/
def EncodeJob.cycleStart (j : EncodeJob) : Bool := !j.key && j.columns.2 != 0 && j.columns.1 == 0

/-- What an engine writes for a picture: its NAL units, the bits that count for rate control, and the picture rebuilt. -/
structure EncodedPicture where
  nals : List (List Byte)
  bits : Nat
  rebuilt : Planes
  deriving DecidableEq, Repr

/-- The picture coded (R173, R174, R177 to R183). DEDUCED (log entry 142): its bits are those of its slice. -/
def EncodeJob.encode (j : EncodeJob) (i : CodingInput) : EncodedPicture :=
  let codes := (j.scan i).codes
  let slice := j.slice i codes
  let sets := if j.key || j.cycleStart then parameterNals i.codec i.profile j.level i.width i.height else []
  let recovery := if j.cycleStart then [recoveryNal i.codec (j.cycle - 1)] else []
  { nals := sets ++ recovery ++ [slice], bits := 8 * slice.length, rebuilt := Config.rebuilt i codes }

/-- The NAL units of a picture as a byte stream, in a clip record (DESIGN CHOICE, log entry 143). -/
def byteStream (nals : List (List Byte)) : List Byte := nals.flatMap fun n => [0#8, 0#8, 0#8, 1#8] ++ n

/-! ### Privacy masks (R175, R176) -/

/-- Rectangle `k` of a mask element in 16 × 16 blocks, widened outward; none when it is unused. -/
def maskRect (mask k : Nat) : Option (Nat × Nat × Nat × Nat) :=
  let x0 := bits mask (64 * k) 16
  let y0 := bits mask (64 * k + 16) 16
  let x1 := bits mask (64 * k + 32) 16
  let y1 := bits mask (64 * k + 48) 16
  if x0 = x1 ∨ y0 = y1 then none else some (x0 / 16, y0 / 16, ceilDiv x1 16, ceilDiv y1 16)

/-- The first rectangle that covers a block. -/
def maskOf (mask bx by_ : Nat) : Option Nat :=
  (List.range 8).find? fun k => (maskRect mask k).any fun r => r.1 ≤ bx && by_ < r.2.2.2 && r.2.1 ≤ by_ && bx < r.2.2.1

/-- The mean of samples, rounded half up. -/
def meanHalfUp (l : List Nat) : Nat := if l = [] then 0 else (2 * l.foldl (· + ·) 0 + l.length) / (2 * l.length)

/-- A luma sample of an encoder's input picture, masked (R176): `block` lists the samples of its block. -/
def maskedLuma (mask : Nat) (tenBit : Bool) (bx by_ v : Nat) (block : List Nat) : Nat :=
  match maskOf mask bx by_ with
  | none => v
  | some k => if mask.testBit (512 + k) then meanHalfUp block else bits mask 520 8 * (if tenBit then 4 else 1)

/-- A sample of a chroma plane of the input picture, masked (R176): `cr` says which plane. -/
def maskedChroma (mask : Nat) (tenBit cr : Bool) (bx by_ v : Nat) (block : List Nat) : Nat :=
  match maskOf mask bx by_ with
  | none => v
  | some k =>
    if mask.testBit (512 + k) then meanHalfUp block
    else bits mask (if cr then 536 else 528) 8 * (if tenBit then 4 else 1)

/-- A sample of a 10-bit source as H.264 takes it (R173). -/
def toEightBit (v : Nat) : Nat := min 255 ((v + 2) / 4)

/-- The source samples of a picture as its buffer holds them (R141, R151). -/
def Dev.sourcePlanes (d : Dev) (p : ClipPicture) : Planes :=
  let b := bytesAt p.bitDepth
  let chroma (k : Nat) : List Nat := (List.range (ceilDiv p.height 2)).flatMap fun y => (List.range (ceilDiv p.width 2)).map fun x =>
    d.sample (p.pointer + p.form.chromaOffset) p.form.pitch b (2 * x + k) y
  { luma := (List.range p.height).flatMap fun y => (List.range p.width).map fun x => d.sample p.pointer p.form.pitch b x y,
    cb := chroma 0, cr := chroma 1 }

/-- A picture with masks burnt in (R176), and a 10-bit source reduced for H.264 (R173). -/
def maskedPlanes (mask codec bitDepth w h : Nat) (p : Planes) : Planes :=
  let ten := decide (8 < bitDepth)
  let fit (v : Nat) : Nat := if codec = 1 ∧ ten then toEightBit v else v
  let cw := ceilDiv w 2
  let chroma (cr : Bool) (s : List Nat) : List Nat := (List.range s.length).map fun i =>
    let b := blockSamples p w h 16 (i % cw / 8) (i / cw / 8)
    fit (maskedChroma mask ten cr (i % cw / 8) (i / cw / 8) (s.getD i 0) (if cr then b.cr else b.cb))
  { luma := (List.range p.luma.length).map fun i =>
      fit (maskedLuma mask ten (i % w / 16) (i / w / 16) (p.luma.getD i 0) (blockSamples p w h 16 (i % w / 16) (i / w / 16)).luma),
    cb := chroma false p.cb, cr := chroma true p.cr }

/-- What the coding of a job's picture depends on (R174). -/
def Dev.codingInput (d : Dev) (x : Clip) (j : EncodeJob) : CodingInput :=
  let p := j.picture
  { codec := x.codec, profile := codedProfile x.codec x.tenBit, width := p.width, height := p.height,
    bitDepth := if x.codec = 1 then 8 else p.bitDepth, key := j.key, qp := j.qp,
    source := maskedPlanes j.mask x.codec p.bitDepth p.width p.height (d.sourcePlanes p),
    reference := if j.key then none else x.reference.map fun r => r.2.2 }

/-! ### Encode engines -/

/-- ENCODE_PICTURE_START (R186, R180 to R184, R176): the mask in force is the stream's element as it stands. A poisoned picture is
dropped (R465). -/
def encodePictureStartEffect (e : Nat) (d : Dev) : Dev :=
  if (d.encodeJobs.find? e).isSome ∨ d.flag Reg.encodeEngineState_retired e ∨ d.rd Reg.encodeEnginesPresented ≤ e ∨
      !d.headroom then d
  else
    match d.encodeChoice with
    | none => d
    | some (c, p) =>
      match d.clip? c with
      | none => d
      | some x =>
        if d.poisoned p.pointer p.form.hintOffset then
          (((d.dropLive c { x with pictures := x.pictures.erase p, inService := none }).freeClipPicture c p).unpinDone c).clipDone c
        else
        let key := d.nextKey x p
        let total := blockColumns x.codec p.width
        let refresh := d.refreshColumns x p.width
        let limit := if key ∨ d.rd Reg.encodeProfile_mode x.profile = 0 then none
          else some (d.rateBuffer x.profile - x.rc.fullness)
        let job : EncodeJob :=
          { clip := c, picture := p, key, qp := d.nextQp x, limit, columns := (x.rc.column, refresh),
            cycle := if refresh = 0 then 0 else ceilDiv total refresh, mask := d.elemNat .encodeStreamMask x.stream,
            window := windowAt (blockSize x.codec) 0 0,
            level := levelFor x.codec p.width p.height (d.rd Reg.junctionStreamConfig_maxFps x.stream), capped := d.rd Reg.encodeProfile_mode x.profile == 1,
            size := d.rateBuffer x.profile,
            drain := d.rd Reg.encodeProfile_maxKbps x.profile * 1000 / d.rd Reg.junctionStreamConfig_maxFps x.stream }
        let d := d.setClip c { x with inService := some p, pictures := x.pictures.erase p,
                                      rc := { x.rc with keyRequested := false } }
        let d := { d with encodeJobs := d.encodeJobs.put e job }
        (d.setFlag Reg.encodeEngineState_busy e true).wr Reg.encodeEngineState_clip e c

/-- Rate control, refresh and key counts after a picture of `bits` bits (R180 to R184). -/
def Clip.afterPicture (x : Clip) (j : EncodeJob) (bits : Nat) : ClipControl :=
  let total := blockColumns x.codec j.picture.width
  { x.rc with fullness := x.rc.fullness + bits - j.drain, qp := some j.qp, lastBits := (bits :: x.rc.lastBits).take 120,
              sinceKey := if j.key then 1 else x.rc.sinceKey + 1, encoded := x.rc.encoded + 1,
              column := if j.key then 0 else if total ≤ j.columns.1 + j.columns.2 then 0 else j.columns.1 + j.columns.2 }

/-- What the end of a picture in encode does (R173, R180, R188, R189, R172): the picture's bytes leave, its buffer returns, and the clip
ends with its last picture. -/
def Dev.finishEncode (d : Dev) (e : Nat) (j : EncodeJob) : Dev :=
  let d := { d with encodeJobs := d.encodeJobs.erase e }
  let d := (d.setFlag Reg.encodeEngineState_busy e false).wr Reg.encodeEngineState_clip e 0xFFFF
  let d := d.count Reg.encodeEngineState_encoded e
  match d.clip? j.clip with
  | none => d
  | some x =>
    let c := j.clip
    let p := j.picture
    let o := j.encode (d.codingInput x j)
    let beyond := j.key && j.capped && j.size - x.rc.fullness < o.bits
    let d := if beyond then d.count Reg.encodeClipOverflows c else d
    let payload := byteStream o.nals
    let last := x.stopping || (x.pictures == [] && !d.ringOpen c x && x.livePassed && !x.endless)
    let r : Dev × Nat := if x.rtp then d.sendRtp c x p o.nals
      else (d.sendRecord c x p.sequence p.wraps p.timestamp p.kind j.key last payload, 0)
    let d := r.1.freeClipPicture c p
    let d := d.setClip c
      { x with inService := none, bytes := x.bytes + payload.length, rc := x.afterPicture j o.bits,
               firstTime := some (x.firstTime.getD p.timestamp), lastTime := p.timestamp,
               reference := some (p.width, p.height, o.rebuilt),
               rtpSequence := x.rtpSequence + r.2 }
    let d := d.unpinDone c
    if last then d.closeClip c else d

/-- ENCODE_PICTURE_DONE (R173): the picture an engine has in service ends; an event that names another one changes nothing. -/
def encodePictureDoneEffect (e picture : Nat) (d : Dev) : Dev :=
  match d.encodeJobs.find? e with
  | none => d
  | some j => if j.picture.sequence = picture then d.finishEncode e j else d

/-- ENCODE_ENGINE_FAULT (R187): the picture in service stays so, and begins again on a free engine. -/
def encodeEngineFaultEffect (e : Nat) (d : Dev) : Dev :=
  if d.flag Reg.encodeEngineState_retired e ∨ d.rd Reg.encodeEnginesPresented ≤ e then d
  else
    let d := match d.encodeJobs.find? e with
      | none => d
      | some j =>
        let d := { d with encodeJobs := d.encodeJobs.erase e }
        let d := (d.setFlag Reg.encodeEngineState_busy e false).wr Reg.encodeEngineState_clip e 0xFFFF
        match d.clip? j.clip with
        | none => d
        | some x => d.setClip j.clip
            { x with rc := { x.rc with keyRequested := x.rc.keyRequested || j.key } }
    d.engineFault 0x06 e Reg.encodeEngineState_retired Reg.encodeEngineState_resets .encodeEngine

/-- CLIP_COPY_DONE (R171): the copy is complete, and the source's hold by the copy ends. -/
def clipCopyDoneEffect (c seq : Nat) (d : Dev) : Dev :=
  match d.clip? c with
  | none => d
  | some x =>
    match x.pictures.find? fun p => p.sequence == seq && !p.ready with
    | none => d
    | some p =>
      let d := d.copyBytes p.source p.pointer p.form.bytes
      let d := d.setClip c { x with pictures := x.pictures.map fun y => if y = p then { p with ready := true } else y }
      d.releaseHold x.stream p.source

/-- A field of `encode.clip.state` as it reads (R190). -/
def Dev.clipStateField (d : Dev) (c off : Nat) : Nat :=
  match d.clip? c with
  | none => 0
  | some x =>
    match off with
    | 0 => if x.stopping || x.livePassed then 3 else if d.ringOpen c x then 1 else 2
    | 4 => b2n x.shortPre
    | 5 => b2n x.gap
    | 6 => b2n x.concealed
    | 7 => b2n x.streamEnded
    | 16 => x.stream
    | 32 => x.rc.encoded % 2 ^ 32
    | 64 => x.bytes % 2 ^ 32
    | 96 => x.dropped % 2 ^ 32
    | 128 => x.firstTime.getD 0
    | 192 => x.lastTime
    | _ => 0

def execEncodeClip (q i : Nat) (s : State) := act (.encodeClip q i) (encodeClipEffect q i) s
def execEncodeStop (q i : Nat) (s : State) := act (.encodeStop q i) (encodeStopEffect q i) s
def execEncodeKey (q i : Nat) (s : State) := act (.encodeKey q i) (encodeKeyEffect q i) s
def execEncodePictureStart (e : Nat) (s : State) := act (.encodePictureStart e) (encodePictureStartEffect e) s
def execEncodePictureDone (e p : Nat) (s : State) := act (.encodePictureDone e p) (encodePictureDoneEffect e p) s
def execEncodeEngineFault (e : Nat) (s : State) := act (.encodeEngineFault e) (encodeEngineFaultEffect e) s
def execClipCopyDone (c n : Nat) (s : State) := act (.clipCopyDone c n) (clipCopyDoneEffect c n) s

end Sys2Proof.Machine
end

