-- ==== Sys2Proof/Machine/Float.lean ====
section
/-! DEFINITION. The arithmetic of R247 to R256 and R267: number formats, exact values, rounding to nearest with ties to even,
rounding towards plus infinity, saturation, stochastic rounding, and the pairwise tree of R236. Encodings are numbers. -/

namespace Sys2Proof.Machine

/-- An exact value: a sign, a magnitude `m × 2^e`, or an infinity, or NaN. -/
inductive FVal where
  | num (neg : Bool) (m : Nat) (e : Int)
  | inf (neg : Bool)
  | nan
  deriving DecidableEq, Repr, Inhabited

/-- A format with infinities: bits of the significand with its hidden bit, and bits of the exponent. -/
structure Fmt where
  p : Nat
  w : Nat
  deriving DecidableEq, Repr

/-- The formats of R247. -/
def Fmt.f32 : Fmt := ⟨24, 8⟩
def Fmt.f16 : Fmt := ⟨11, 5⟩
def Fmt.bf16 : Fmt := ⟨8, 8⟩

def Fmt.bias (f : Fmt) : Nat := 2 ^ (f.w - 1) - 1

/-- The exponent of the least significant bit of a subnormal. -/
def Fmt.qmin (f : Fmt) : Int := 2 - (f.bias : Int) - (f.p : Int)

/-- The encodings of +infinity, of the largest finite value and of the canonical NaN (R249). -/
def Fmt.inf (f : Fmt) : Nat := (2 ^ f.w - 1) * 2 ^ (f.p - 1)
def Fmt.largest (f : Fmt) : Nat := f.inf - 1
def Fmt.nan (f : Fmt) : Nat := f.inf + 2 ^ (f.p - 2)
def Fmt.sign (f : Fmt) (neg : Bool) : Nat := if neg then 2 ^ (f.p - 1 + f.w) else 0

/-- The value of an encoding. -/
def Fmt.decode (f : Fmt) (n : Nat) : FVal :=
  let frac := bits n 0 (f.p - 1)
  let ex := bits n (f.p - 1) f.w
  let neg := n.testBit (f.p - 1 + f.w)
  if ex = 2 ^ f.w - 1 then (if frac = 0 then .inf neg else .nan)
  else if ex = 0 then .num neg frac f.qmin
  else .num neg (frac + 2 ^ (f.p - 1)) (f.qmin + (ex : Int) - 1)

/-- The magnitude `m × 2^e` on the format's grid: the units below it, the exponent of a unit, and what was cut off as a fraction
of a unit, `rem / den`. -/
def Fmt.grid (f : Fmt) (m : Nat) (e : Int) : Nat × Int × Nat × Nat :=
  let q := max f.qmin (e + (Nat.log2 m : Int) + 1 - (f.p : Int))
  if q ≤ e then (m * 2 ^ (e - q).toNat, q, 0, 1)
  else
    let den := 2 ^ (q - e).toNat
    (m / den, q, m % den, den)

/-- The encoding of `n` units of exponent `q` on the grid, or something at or above infinity. -/
def Fmt.pack (f : Fmt) (n : Nat) (q : Int) : Nat := (q - f.qmin).toNat * 2 ^ (f.p - 1) + n

/-- A magnitude rounded to nearest with ties to even; infinity where it exceeds the range. -/
def Fmt.roundMag (f : Fmt) (m : Nat) (e : Int) : Nat :=
  if m = 0 then 0
  else
    let g := f.grid m e
    let up := g.2.2.2 < 2 * g.2.2.1 || (2 * g.2.2.1 == g.2.2.2 && g.1 % 2 == 1)
    min f.inf (f.pack (g.1 + b2n up) g.2.1)

/-- A magnitude rounded up (R203). -/
def Fmt.roundMagUp (f : Fmt) (m : Nat) (e : Int) : Nat :=
  if m = 0 then 0
  else
    let g := f.grid m e
    min f.inf (f.pack (g.1 + b2n (g.2.2.1 != 0)) g.2.1)

/-- A value rounded to nearest with ties to even, with infinities and the canonical NaN (R249). -/
def Fmt.round (f : Fmt) (v : FVal) : Nat :=
  match v with
  | .nan => f.nan
  | .inf neg => f.sign neg + f.inf
  | .num neg m e => f.sign neg + f.roundMag m e

/-- A value rounded to nearest and saturated (R254), and whether it counts as saturated. -/
def Fmt.saturate (f : Fmt) (v : FVal) : Nat × Bool :=
  match v with
  | .nan => (f.nan, false)
  | .inf neg => (f.sign neg + f.largest, true)
  | .num neg m e =>
    let r := f.roundMag m e
    (f.sign neg + min r f.largest, r == f.inf)

/-- Stochastic rounding with a 16-bit draw (R256), and whether it counts as saturated. -/
def Fmt.stochastic (f : Fmt) (v : FVal) (draw : Nat) : Nat × Bool :=
  match v with
  | .nan => (f.nan, false)
  | .inf neg => (f.sign neg + f.largest, true)
  | .num neg m e =>
    if m = 0 then (f.sign neg, false)
    else
      let g := f.grid m e
      let t := g.2.2.1 * 65536 / g.2.2.2
      let r := f.pack (g.1 + b2n (draw < t)) g.2.1
      (f.sign neg + min r f.largest, f.inf ≤ r)

/-! ### Exact operations -/

/-- The signed magnitude of a finite value in units of `2^e`, for an `e` no larger than its own exponent. -/
def scaled (neg : Bool) (m : Nat) (e e' : Int) : Int :=
  let x : Int := (m * 2 ^ (e - e').toNat : Nat)
  if neg then -x else x

def FVal.neg : FVal → FVal
  | .num s m e => .num (!s) m e
  | .inf s => .inf !s
  | .nan => .nan

/-- The exact sum. A sum of zero is −0 only when both addends are −0 (R290). -/
def FVal.add : FVal → FVal → FVal
  | .nan, _ => .nan
  | _, .nan => .nan
  | .inf s, .inf t => if s = t then .inf s else .nan
  | .inf s, _ => .inf s
  | _, .inf t => .inf t
  | .num s m e, .num t n f =>
    let g := min e f
    let x := scaled s m e g + scaled t n f g
    if x = 0 then .num (s && t && m == 0 && n == 0) 0 0 else .num (x < 0) x.natAbs g

/-- The exact product; zero times infinity is NaN (R251). -/
def FVal.mul : FVal → FVal → FVal
  | .nan, _ => .nan
  | _, .nan => .nan
  | .inf s, .inf t => .inf (s != t)
  | .inf s, .num t n _ => if n = 0 then .nan else .inf (s != t)
  | .num s m _, .inf t => if m = 0 then .nan else .inf (s != t)
  | .num s m e, .num t n f => .num (s != t) (m * n) (e + f)

/-- A quotient to 64 bits beyond the divisor, with a sticky last bit: rounded once it is correctly rounded. -/
def FVal.div : FVal → FVal → FVal
  | .nan, _ => .nan
  | _, .nan => .nan
  | .inf _, .inf _ => .nan
  | .inf s, .num t _ _ => .inf (s != t)
  | .num s _ _, .inf t => .num (s != t) 0 0
  | .num s m e, .num t n f =>
    if n = 0 then (if m = 0 then .nan else .inf (s != t))
    else
      let k := 64 + Nat.log2 n
      let q := m * 2 ^ k / n
      .num (s != t) (2 * q + b2n (q * n != m * 2 ^ k)) (e - f - (k : Int) - 1)

/-- The integer square root. -/
def isqrt (n : Nat) : Nat :=
  (List.range (Nat.log2 n / 2 + 1)).reverse.foldl (fun r i => if (r + 2 ^ i) * (r + 2 ^ i) ≤ n then r + 2 ^ i else r) 0

/-- A square root to 40 bits and more, with a sticky last bit. -/
def FVal.sqrt : FVal → FVal
  | .nan => .nan
  | .inf s => if s then .nan else .inf false
  | .num s m e =>
    if m = 0 then .num s 0 0
    else if s then .nan
    else
      let k : Nat := if e % 2 = 0 then 80 else 81
      let x := m * 2 ^ k
      let r := isqrt x
      .num false (2 * r + b2n (r * r != x)) ((e - (k : Int)) / 2 - 1)

/-- A value times a power of two, exactly. -/
def FVal.scale (v : FVal) (k : Int) : FVal :=
  match v with
  | .num s m e => .num s m (e + k)
  | x => x

def FVal.abs : FVal → FVal
  | .num _ m e => .num false m e
  | .inf _ => .inf false
  | .nan => .nan

/-- Strict order; −0 equals +0, and NaN is below and above nothing. -/
def FVal.lt : FVal → FVal → Bool
  | .nan, _ => false
  | _, .nan => false
  | .inf s, .inf t => s && !t
  | .inf s, .num .. => s
  | .num .., .inf t => !t
  | .num s m e, .num t n f => scaled s m e (min e f) < scaled t n f (min e f)

def FVal.isNan : FVal → Bool
  | .nan => true
  | _ => false

def FVal.isFinite : FVal → Bool
  | .num .. => true
  | _ => false

def FVal.isZero : FVal → Bool
  | .num _ m _ => m == 0
  | _ => false

/-- An integer, and a quotient of integers, as values. -/
def FVal.ofInt (i : Int) : FVal := .num (i < 0) i.natAbs 0
def FVal.ratio (a : Int) (b : Nat) : FVal := FVal.div (.ofInt a) (.ofInt b)

/-- The greatest integer at or below a finite value, and the least at or above it. -/
def FVal.floor : FVal → Int
  | .num s m e =>
    let i : Int := if s then -(m : Int) else m
    if 0 ≤ e then i * (2 ^ e.toNat : Nat) else i / (2 ^ (-e).toNat : Nat)
  | _ => 0
def FVal.ceil (v : FVal) : Int := -(v.neg.floor)

/-- A finite value rounded to the nearest integer, ties to even. -/
def FVal.nearest (v : FVal) : Int :=
  let f := v.floor
  let r := v.add (.ofInt (-f))
  if FVal.lt (.num false 1 (-1)) r || (!FVal.lt r (.num false 1 (-1)) && f % 2 == 1) then f + 1 else f

/-! ### FP32 over encodings -/

/-- Decoding and rounding to FP32. -/
def f32v (a : Nat) : FVal := Fmt.f32.decode a
def rne32 (v : FVal) : Nat := Fmt.f32.round v

def fadd (a b : Nat) : Nat := rne32 ((f32v a).add (f32v b))
def fsub (a b : Nat) : Nat := rne32 ((f32v a).add (f32v b).neg)
def fmul (a b : Nat) : Nat := rne32 ((f32v a).mul (f32v b))
def fdiv (a b : Nat) : Nat := rne32 ((f32v a).div (f32v b))
def fsqrt (a : Nat) : Nat := rne32 (f32v a).sqrt
def ffma (a b c : Nat) : Nat := rne32 (((f32v a).mul (f32v b)).add (f32v c))
def flt (a b : Nat) : Bool := (f32v a).lt (f32v b)
def fmax (a b : Nat) : Nat := if flt a b then b else a
def fmin (a b : Nat) : Nat := if flt b a then b else a
def fabs (a : Nat) : Nat := a % 2 ^ 31
def fint (i : Int) : Nat := rne32 (.ofInt i)
def fratio (a : Int) (b : Nat) : Nat := rne32 (.ratio a b)
def fnan : Nat := 0x7FC00000
def fone : Nat := 0x3F800000
def fzero : Nat := 0

/-- A binary16 encoding as FP32, exactly. -/
def h32 (h : Nat) : Nat := rne32 (Fmt.f16.decode h)

/-- The value of an FP8 E4M3 encoding (R247). -/
def fp8 (n : Nat) : FVal :=
  let neg := n.testBit 7
  let ex := bits n 3 4
  let fr := bits n 0 3
  if ex = 15 ∧ fr = 7 then .nan
  else if ex = 0 then .num neg fr (-9)
  else .num neg (fr + 8) ((ex : Int) - 10)

/-- One level of the pairwise tree (R236): neighbours combine, an element without a partner passes on. -/
def pairs {α : Type} (f : α → α → α) : List α → List α
  | a :: b :: t => f a b :: pairs f t
  | t => t

/-- The pairwise tree of R236 by levels. -/
def treeLevels {α : Type} (f : α → α → α) : Nat → List α → List α
  | 0, l => l
  | n + 1, l => treeLevels f n (pairs f l)

/-- The pairwise tree over logical indices, +0 where there is no element. -/
def fsum (l : List Nat) : Nat := (treeLevels fadd (Nat.log2 l.length + 1) l).headD 0

end Sys2Proof.Machine
end

