-- ==== Sys2Proof/Machine/Calender.lean ====
section
/-! DEFINITION. The Calender (R193 to R205, R210, R211): release to it, assignment, output buffers, conversion and resampling,
the difference map, history, and hand-on to the Yard. -/

namespace Sys2Proof.Machine

def Dev.calStream (d : Dev) (s : Nat) : CalStream := d.calStreams.getD s {}
def Dev.updCal (d : Dev) (s : Nat) (f : CalStream → CalStream) : Dev :=
  { d with calStreams := d.calStreams.put s (f (d.calStream s)) }

/-! ### Assignment (R195, R197) -/

/-- Calenders not retired, in rising number, and the latency Calenders among them. -/
def Dev.liveCalenders (d : Dev) : List Nat :=
  (List.range (d.rd Reg.calenderEnginesPresented)).filter fun e => !d.flag Reg.calenderEngineState_retired e
def Dev.latencyCalenders (d : Dev) : List Nat := d.liveCalenders.take (d.rd Reg.calenderLcReserved)

/-- The picture a Calender has in service. -/
def Dev.calJob (d : Dev) (e : Nat) : Option Picture := d.released.find? fun p => p.engine == some e

/-- A picture released but not handed on, changed. -/
def Dev.updPicture (d : Dev) (p : Picture) (f : Picture → Picture) : Dev :=
  { d with released := d.released.map fun x => if x.stream = p.stream ∧ x.sequence = p.sequence then f x else x }

/-- A picture is the stream's next: no earlier one of the stream waits or is in service (R195). -/
def Dev.nextOfStream (d : Dev) (p : Picture) : Bool := (d.released.find? fun x => x.stream == p.stream) == some p

/-- A picture a Calender may begin: the stream's next, in no service, and not waiting for an output buffer. -/
def Dev.mayBegin (d : Dev) (p : Picture) : Bool := d.nextOfStream p && p.engine.isNone && (!p.waited || p.buffer.isSome)

/-- The picture R195 gives a Calender: the earliest released, latency-critical ones first. -/
def Dev.pictureFor (d : Dev) (e : Nat) : Option Picture :=
  let critical := d.released.find? fun p => d.mayBegin p && d.latencyStream p.stream
  if d.latencyCalenders.contains e then critical
  else match critical with
    | some p => some p
    | none => d.released.find? d.mayBegin

/-! ### Sizes and places (R199, R201, R205) -/

/-- An output dimension for an input dimension and a scale numerator (R199). -/
def outDim (n m : Nat) : Nat := max 1 (n * m / 256)

def Dev.scale (d : Dev) (s k : Nat) : Nat := d.rd (Reg.calenderStreamConfig_scale k) s
def Dev.calLevels (d : Dev) (s : Nat) : Nat := d.rd Reg.calenderStreamConfig_levels s + 1
def Dev.calPlanes (d : Dev) (s : Nat) : Nat := if d.rd Reg.calenderStreamConfig_colour s = 3 then 1 else 3

/-- Widths and heights of the levels of a picture. -/
def Dev.levelSizes (d : Dev) (s w h : Nat) : List (Nat × Nat) :=
  ((List.range (d.calLevels s)).foldl (fun (acc : List (Nat × Nat) × (Nat × Nat)) k =>
    let x := (outDim acc.2.1 (d.scale s k), outDim acc.2.2 (d.scale s k))
    (acc.1 ++ [x], x)) ([], (w, h))).1

/-- The pitch of a level in bytes (R201). -/
def levelPitch (w : Nat) : Nat := roundUp w 16 * 2

/-- A level entry of the header: width, height, pitch and offset. -/
structure LevelEntry where
  width : Nat
  height : Nat
  pitch : Nat
  offset : Nat
  deriving DecidableEq, Repr, Inhabited

/-- The level entries of sizes, each level on a 4 KiB boundary, and the end of the last (R201). -/
def layLevels (planes : Nat) : List (Nat × Nat) → Nat → List LevelEntry × Nat
  | [], pos => ([], pos)
  | (w, h) :: t, pos =>
    let off := roundUp pos 4096
    let r := layLevels planes t (off + planes * h * levelPitch w)
    ({ width := w, height := h, pitch := levelPitch w, offset := off } :: r.1, r.2)

/-- Blocks of a level across and down (R203). -/
def blocksOf (n : Nat) : Nat := ceilDiv n 16

/-- Bytes of an output buffer for a picture, with its level entries and the offset of its map (R201, R203). -/
def Dev.outLayout (d : Dev) (s w h : Nat) : List LevelEntry × Nat × Nat :=
  let sizes := d.levelSizes s w h
  let r := layLevels (d.calPlanes s) sizes 256
  let l0 := sizes.headD (1, 1)
  if d.flag Reg.calenderStreamConfig_diffMap s then
    (r.1, roundUp r.2 4096, roundUp r.2 4096 + blocksOf l0.1 * blocksOf l0.2 * 4)
  else (r.1, 0, r.2)

/-- Bytes a stream's output buffers and its history buffer are requested with: those of its largest picture (log entry 16). -/
def Dev.outBytes (d : Dev) (s : Nat) : Nat :=
  (d.outLayout s (d.rd Reg.junctionStreamConfig_maxWidth s) (d.rd Reg.junctionStreamConfig_maxHeight s)).2.2
def Dev.historyBytes (d : Dev) (s : Nat) : Nat :=
  let w := outDim (d.rd Reg.junctionStreamConfig_maxWidth s) (d.scale s 0)
  let h := outDim (d.rd Reg.junctionStreamConfig_maxHeight s) (d.scale s 0)
  d.calPlanes s * h * levelPitch w

/-! ### Claims (R200, R205, R211) -/

/-- The lasting causes 0x0031 and 0x0032 of a stream. -/
def Dev.calCause (d : Dev) (s detail : Nat) (code : Nat × Nat) : Dev :=
  d.beginLasting { bit := Bit.stream, code := code.1, area := code.2, stream := s, detail }
def Dev.calCauseEnds (d : Dev) (s detail : Nat) : Dev :=
  d.endLasting fun l => l.bit == Bit.stream && l.stream == s && l.detail == detail

/-- The output reserve is claimed, where it is not held. -/
def Dev.claimOutput (d : Dev) (s : Nat) : Dev :=
  let n := d.rd Reg.calenderStreamConfig_outReserve s
  let pool := d.rd Reg.calenderVatPool
  if (d.calStream s).claimed then d
  else if n = 0 then d.updCal s fun x => { x with claimed := true }
  else
    let r := d.claim pool (d.outBytes s) s n
    if r.1 then (r.2.updCal s fun x => { x with claimed := true }).calCauseEnds s 0x32
    else r.2.calCause s 0x32 (d.poolCode pool (d.outBytes s) 0x07)

/-- The history buffer is taken, where the stream has none. -/
def Dev.claimHistory (d : Dev) (s : Nat) : Dev :=
  let pool := d.rd Reg.calenderHistoryPool
  if (d.calStream s).history.isSome then d
  else
    let r := d.alloc pool (d.historyBytes s) s
    match r.1 with
    | .ok a => (r.2.updCal s fun x => { x with history := some a, stale := true }).calCauseEnds s 0x31
    | .fail _ => r.2.calCause s 0x31 (d.poolCode pool (d.historyBytes s) 0x07)

/-- A stream enabled with produce 1 (R200, R205). -/
def Dev.openCalender (d : Dev) (s : Nat) : Dev :=
  let d := { d with calStreams := d.calStreams.put s {} }
  if d.flag Reg.calenderStreamConfig_produce s then (d.claimOutput s).claimHistory s else d

/-- A stream becomes stopped: its reserve and its history buffer return, its causes end (R211), and its pictures still to be handed on have no
history (R205). -/
def Dev.closeCalender (d : Dev) (s : Nat) : Dev :=
  let x := d.calStream s
  let d := if x.claimed then d.release (d.rd Reg.calenderVatPool) s else d
  let d := match x.history with
    | some a => d.giveOwn (d.rd Reg.calenderHistoryPool) a
    | none => d
  let released := d.released.map fun (p : Picture) => if p.stream = s then { p with old := true } else p
  let d : Dev := { d with calStreams := d.calStreams.erase s, released }
  (d.calCauseEnds s 0x31).calCauseEnds s 0x32

/-! ### Release to the Calender (R154, R155, R194, R196) -/

/-- A latency-critical picture for which the first or the second condition of R196 fails at its release is a miss. -/
def Dev.calenderMiss (d : Dev) (s : Nat) : Dev :=
  let free := d.latencyCalenders.any fun e => (d.calJob e).isNone
  let earlier := d.released.any fun p => p.stream == s
  if d.latencyStream s && (!free || earlier) then d.count Reg.calenderLcMisses else d

/-- PICTURE_RELEASE (R154, R155): the picture that is due in output order has finished, becomes the concealment source and goes to the Calender,
held downstream; a stream that produces nothing gets it back at once (R194). The clips of its stream take their copies. -/
def pictureReleaseEffect (s : Nat) (d : Dev) : Dev :=
  match d.dueOut s with
  | none => d
  | some f =>
    let produce := d.flag Reg.calenderStreamConfig_produce s
    let d := d.updDec s fun x =>
      { x with lastOutput := some f.pointer, freshOutput := false,
               frames := x.frames.map fun g =>
                 if g.pointer = f.pointer then { g with awaiting := false, held := g.held + b2n produce, source := true,
                                                                         engine := none, unitHeld := false }
                 else { g with source := false } }
    let d := d.count Reg.decodeStreamCounters_released s
    let d := match f.engine with
      | some e => d.pictureFinished f.unit e f.unitHeld
      | none => if f.unitHeld then d.returnUnit f.unit else d
    let d := if produce then
        let d := d.calenderMiss s
        { d with released := d.released ++ [f.picture] }
      else d
    let d := (List.range 64).foldl (fun d c => d.offerClip c f) d
    d.reclaim s

/-! ### Taking a picture and its buffer (R195, R200) -/

/-- A picture takes an output buffer if one is free for its stream. -/
def Dev.takeOutput (d : Dev) (p : Picture) : Option Nat × Dev :=
  let pool := d.rd Reg.calenderVatPool
  let r := d.alloc pool (d.outBytes p.stream) p.stream
  match r.1 with
  | .ok a => (some a, r.2.updPicture p fun x => { x with buffer := some a, bufferPool := pool })
  | .fail _ => (none, r.2)

/-- Waiting pictures receive free buffers in release order (R200). -/
def Dev.grantOutputs (d : Dev) : Dev :=
  (d.released.filter fun p => p.waited && p.buffer.isNone).foldl (fun d p => (d.takeOutput p).2) d

/-- CALENDER_BUFFER_GRANT (R200). -/
def calenderBufferGrantEffect (d : Dev) : Dev := d.grantOutputs

/-- CALENDER_START (R195, R200): a free Calender takes the picture R195 gives it; with no output buffer free the picture waits in its
slot and the Calender stays free. Claims are tried again at a key picture, unless its stream has stopped (R211). -/
def calenderStartEffect (e : Nat) (d : Dev) : Dev :=
  if (d.calJob e).isSome ∨ !d.liveCalenders.contains e then d
  else
    let d := d.grantOutputs
    match d.pictureFor e with
    | none => d
    | some p =>
      let d := if p.flags.testBit 0 && !p.waited && !p.old && (d.stream p.stream).phase != .stopped then (d.claimOutput p.stream).claimHistory p.stream else d
      let begin_ (d : Dev) : Dev :=
        let d := d.updPicture p fun x => { x with engine := some e }
        (d.setFlag Reg.calenderEngineState_busy e true).wr Reg.calenderEngineState_stream e p.stream
      if p.buffer.isSome then begin_ d
      else
        let r := d.takeOutput p
        if r.1.isSome then begin_ r.2
        else (r.2.updPicture p fun x => { x with waited := true }).count Reg.calenderStreamCounters_bufferWaits p.stream

/-! ### Colour (R198) -/

/-- Kr and Kb in ten-thousandths. -/
def lumaWeights (matrix : Nat) : Nat × Nat :=
  match matrix with
  | 0 => (2990, 1140)
  | 1 => (2126, 722)
  | _ => (2627, 593)

/-- A sample as the decoder left it; mid-grey where it is poisoned (R465). -/
def Dev.calSample (d : Dev) (base pitch bytes x y : Nat) : Nat :=
  let a := base + y * pitch + x * bytes
  if d.poisoned a bytes then midGrey (if bytes = 2 then 10 else 8) else d.getNat a bytes

/-- Chroma at a luma position, location type 0, in eighths: co-sited across, half-way down (R198). -/
def chromaEighths (at_ : Nat → Nat → Nat) (cw ch x y : Nat) : Nat :=
  let across (k : Nat) : Nat :=
    if x % 2 = 0 then 2 * at_ (x / 2) k else at_ (x / 2) k + at_ (min (x / 2 + 1) (cw - 1)) k
  let k := y / 2
  if y % 2 = 0 then across (k - 1) + 3 * across k else 3 * across k + across (min (k + 1) (ch - 1))

/-- Y′ or C′ from a sample on the 8-bit scale (R198). -/
def lumaPrime (full : Bool) (v : Nat) : Nat := if full then fdiv v (fint 255) else fdiv (fsub v (fint 16)) (fint 219)
def chromaPrime (full : Bool) (v : Nat) : Nat := fdiv (fsub v (fint 128)) (fint (if full then 255 else 224))

/-- A result clamped to [0, 1] and multiplied by 255. -/
def to255 (v : Nat) : Nat := fmul (fmin (fmax v 0) fone) (fint 255)

/-- R, G and B of a pixel on the 8-bit scale, FP32 (R198). -/
def toRgb (matrix : Nat) (full : Bool) (y cb cr : Nat) : Nat × Nat × Nat :=
  let k := lumaWeights matrix
  let y' := lumaPrime full y
  let r := fadd y' (fmul (fratio (2 * (10000 - (k.1 : Int))) 10000) (chromaPrime full cr))
  let b := fadd y' (fmul (fratio (2 * (10000 - (k.2 : Int))) 10000) (chromaPrime full cb))
  let g := fdiv (fsub (fsub y' (fmul (fratio k.1 10000) r)) (fmul (fratio k.2 10000) b))
    (fratio (10000 - (k.1 : Int) - (k.2 : Int)) 10000)
  (to255 r, to255 g, to255 b)

/-- A plane: rows of samples. -/
abbrev Plane := List (List Nat)

/-- A sample of a plane, edges replicated. -/
def Plane.at (p : Plane) (x y : Nat) : Nat :=
  let row := p.getD (min y (p.length - 1)) []
  row.getD (min x (row.length - 1)) 0

/-- Bytes of a sample of a released picture (R141, R155). -/
def Picture.sampleBytes (p : Picture) : Nat := if p.flags.testBit 7 then 2 else 1

/-- The planes of a picture in channel order, in FP32 on the 8-bit scale (steps 1 to 3 of R198). -/
def Dev.calPlanesOf (d : Dev) (p : Picture) : List Plane :=
  let s := p.stream
  let b := p.sampleBytes
  let pitch := p.form.pitch
  let co := p.form.chromaOffset
  let shift : Int := if b = 2 then -2 else 0
  let cw := ceilDiv p.width 2
  let ch := ceilDiv p.height 2
  let luma (x y : Nat) : Nat := rne32 (.num false (d.calSample p.pointer pitch b x y) shift)
  let chroma (j x y : Nat) : Nat :=
    rne32 (.num false (chromaEighths (fun x y => d.calSample (p.pointer + co) pitch b (2 * x + j) y) cw ch x y) (shift - 3))
  let plane (f : Nat → Nat → Nat) : Plane := (List.range p.height).map fun y => (List.range p.width).map fun x => f x y
  let full := d.flag Reg.calenderStreamConfig_fullRange s
  let rgb (x y : Nat) : Nat × Nat × Nat := toRgb (d.rd Reg.calenderStreamConfig_matrix s) full (luma x y) (chroma 0 x y) (chroma 1 x y)
  match d.rd Reg.calenderStreamConfig_colour s with
  | 0 => [plane fun x y => (rgb x y).1, plane fun x y => (rgb x y).2.1, plane fun x y => (rgb x y).2.2]
  | 1 => [plane fun x y => (rgb x y).2.2, plane fun x y => (rgb x y).2.1, plane fun x y => (rgb x y).1]
  | 2 => [plane luma, plane (chroma 0), plane (chroma 1)]
  | _ => [plane luma]

/-! ### Resampling (R199) -/

/-- The indices an output index draws on, with their weights divided by the weights' sum. -/
def taps (m j : Nat) : List (Int × Nat) :=
  let half := rne32 (.num false 1 (-1))
  let x := fsub (fdiv (fmul (fadd (fint j) half) (fint 256)) (fint m)) half
  let h := fmax fone (fratio 256 m)
  let lo := ((f32v x).add (f32v h).neg).floor
  let hi := ((f32v x).add (f32v h)).ceil
  let ws := ((List.range ((hi - lo).toNat + 1)).map fun (k : Nat) =>
    let i := lo + (k : Int)
    (i, fsub fone (fdiv (fabs (fsub (fint i) x)) h))).filter fun e => flt 0 e.2
  let total := ws.foldl (fun a e => fadd a e.2) 0
  ws.map fun e => (e.1, fdiv e.2 total)

/-- One output sample: terms accumulated in rising index, indices beyond the picture taking the edge sample. -/
def tapSum (ts : List (Int × Nat)) (n : Nat) (at_ : Nat → Nat) : Nat :=
  ts.foldl (fun a e => fadd a (fmul e.2 (at_ (min e.1.toNat (n - 1))))) 0

/-- A plane resampled by m ÷ 256: across, then down, in FP32. -/
def resample (m : Nat) (p : Plane) : Plane :=
  let w := (p.headD []).length
  let across : Plane := p.map fun row => (List.range (outDim w m)).map fun j => tapSum (taps m j) w fun i => row.getD i 0
  (List.range (outDim p.length m)).map fun j =>
    (List.range (outDim w m)).map fun x => tapSum (taps m j) p.length fun i => across.at x i

/-- Level 0 in FP16 (steps 4 and 5 of R198). -/
def Dev.levelZero (d : Dev) (p : Picture) : List Plane :=
  let s := p.stream
  ((List.range 3).zip (d.calPlanesOf p)).map fun e =>
    (resample (d.scale s 0) e.2).map fun row => row.map fun v =>
      Fmt.f16.round (f32v (fmul (fsub v (d.rd (Reg.calenderStreamConfig_mean e.1) s)) (d.rd (Reg.calenderStreamConfig_norm e.1) s)))

/-- A level in FP16 from the one below it (R199). -/
def nextLevel (m : Nat) (ps : List Plane) : List Plane :=
  ps.map fun p => (resample m (p.map fun row => row.map h32)).map fun row => row.map fun v => Fmt.f16.round (f32v v)

/-- The levels of a picture. -/
def Dev.levelsOf (d : Dev) (p : Picture) : List (List Plane) :=
  ((List.range (d.calLevels p.stream)).foldl (fun (acc : List (List Plane) × List Plane) k =>
    let x := if k = 0 then d.levelZero p else nextLevel (d.scale p.stream k) acc.2
    (acc.1 ++ [x], x)) ([], [])).1

/-! ### The difference map (R203, R204) -/

/-- The decoder's hint for a block of the decoded picture, 2 where its samples are poisoned (R156, R465). -/
def Dev.hintAt (d : Dev) (p : Picture) (bx by_ : Nat) : Nat :=
  let b := p.sampleBytes
  let pitch := p.form.pitch
  let a := p.pointer + p.form.hintOffset + by_ * p.form.hintPitch + bx / 4
  let bad := (List.range 16).any (fun y => by_ * 16 + y < p.height &&
      d.poisoned (p.pointer + (by_ * 16 + y) * pitch + bx * 16 * b) (min 16 (p.width - 16 * bx) * b)) ||
    (List.range 8).any (fun y => 2 * (by_ * 8 + y) < p.height &&
      d.poisoned (p.pointer + p.form.chromaOffset + (by_ * 8 + y) * pitch + bx * 16 * b) (min 16 (p.width - 16 * bx) * b)) ||
    d.poisoned a 1
  if bad then 2 else bits (d.getNat a 1) (2 * (bx % 4)) 2

/-- First and last hint block along one axis of the footprint of block `b` under scale `m`, `n` hint blocks across (R204). -/
def footprint (m b n : Nat) : Nat × Nat :=
  let wide := (max 1 (ceilDiv 256 m) + 2) * m
  let lo := (4096 * b - wide) / (16 * m)
  let hi := ceilDiv (4096 * (b + 1) + wide) (16 * m) - 1
  (lo, min hi (n - 1))

/-- The hints of a block's footprint. -/
def Dev.footprintHints (d : Dev) (p : Picture) (bx by_ : Nat) : List Nat :=
  let m := d.scale p.stream 0
  let fx := footprint m bx (blocksOf p.width)
  let fy := footprint m by_ (blocksOf p.height)
  (List.range (fy.2 + 1 - fy.1)).flatMap fun j => (List.range (fx.2 + 1 - fx.1)).map fun i => d.hintAt p (fx.1 + i) (fy.1 + j)

/-- The largest difference of a block, FP32 (R203). -/
def blockDifference (new old : List Plane) (bx by_ : Nat) : Nat :=
  (new.zip old).foldl (fun acc pq =>
    (List.range 16).foldl (fun acc j => (List.range 16).foldl (fun acc i =>
      let x := bx * 16 + i
      let y := by_ * 16 + j
      if y < pq.1.length ∧ x < (pq.1.headD []).length then
        fmax acc (fabs (fsub (h32 (pq.1.at x y)) (h32 (pq.2.at x y)))) else acc) acc) acc) 0

/-- A value rounded to FP16 towards plus infinity. -/
def up16 (v : Nat) : Nat :=
  match f32v v with
  | .num _ m e => Fmt.f16.roundMagUp m e
  | .inf _ => Fmt.f16.inf
  | .nan => Fmt.f16.nan

/-- A map entry: d and class (R203, R204). `bad` says that history samples the block is compared with are poisoned, which damages it
(R465). -/
def Dev.mapEntry (d : Dev) (p : Picture) (new : List Plane) (old : Option (List Plane)) (bad : Bool) (bx by_ : Nat) : Nat × Nat :=
  match old with
  | none => (0x7C00, 3)
  | some old =>
    let hints := d.footprintHints p bx by_
    if hints.contains 2 then (0x7C00, 2)
    else if hints.all (· == 0) then (0, 0)
    else if bad then (0x7C00, 2)
    else
      let v := up16 (blockDifference new old bx by_)
      if v = 0 then (0, 0) else (v, 1)

/-- The history buffer read as planes of a size (R205). -/
def Dev.readPlanes (d : Dev) (base planes w h : Nat) : List Plane :=
  (List.range planes).map fun k => (List.range h).map fun y => (List.range w).map fun x =>
    d.getNat (base + (k * h + y) * levelPitch w + 2 * x) 2

/-- Planes stored one after another, padding samples zero (R201). -/
def Dev.storePlanes (d : Dev) (base : Nat) (ps : List Plane) : Dev :=
  let rows := ps.flatMap id
  ((List.range rows.length).zip rows).foldl (fun d e =>
    let pitch := levelPitch e.2.length
    d.store (base + e.1 * pitch) (padTo pitch (e.2.flatMap fun v => leBytes 2 v))) d

/-- The samples of one block written into the history buffer (R205). -/
def Dev.storeBlock (d : Dev) (base : Nat) (ps : List Plane) (bx by_ : Nat) : Dev :=
  ((List.range ps.length).zip ps).foldl (fun d e =>
    let w := (e.2.headD []).length
    let h := e.2.length
    (List.range 16).foldl (fun d j =>
      let y := by_ * 16 + j
      if y < h then
        d.store (base + (e.1 * h + y) * levelPitch w + 2 * (bx * 16))
          (((List.range (min 16 (w - bx * 16))).flatMap fun i => leBytes 2 (e.2.at (bx * 16 + i) y)))
      else d) d) d

/-! ### Hand-on (R201, R202, R205) -/

/-- Samples of a block in the history buffer are poisoned (R465). -/
def Dev.historyBad (d : Dev) (base planes w h bx by_ : Nat) : Bool :=
  (List.range planes).any fun k => (List.range 16).any fun j =>
    by_ * 16 + j < h && d.poisoned (base + (k * h + by_ * 16 + j) * levelPitch w + 32 * bx) (2 * min 16 (w - 16 * bx))

/-- The 256-byte header of R201. -/
def outHeader (p : Picture) (noHistory : Bool) (planes mapOffset cols rows : Nat) (ls : List LevelEntry) : List Byte :=
  padTo 256 (leBytes 2 p.stream ++ leBytes 2 (p.flags % 256 + 256 * b2n noHistory) ++ leBytes 4 p.sequence ++
    leBytes 8 p.timestamp ++ leBytes 2 p.wraps ++ leBytes 1 p.kind ++ leBytes 1 ls.length ++ leBytes 1 planes ++ leBytes 3 0 ++
    leBytes 4 mapOffset ++ leBytes 2 cols ++ leBytes 2 rows ++
    ls.flatMap fun l => leBytes 2 l.width ++ leBytes 2 l.height ++ leBytes 4 l.pitch ++ leBytes 4 l.offset ++ leBytes 4 0)

/-- Everything a Calender writes for a picture: levels, map, header, and the history (R201 to R205). -/
def Dev.writeFrame (d : Dev) (p : Picture) (buf : Nat) (noHistory : Bool) : Dev :=
  let s := p.stream
  let planes := d.calPlanes s
  let lay := d.outLayout s p.width p.height
  let levels := d.levelsOf p
  let l0 := lay.1.headD default
  let cols := blocksOf l0.width
  let rows := blocksOf l0.height
  let history := if p.old then none else (d.calStream s).history
  let old := if noHistory then none else history.map fun a => d.readPlanes a planes l0.width l0.height
  let entries := (List.range rows).flatMap fun by_ => (List.range cols).map fun bx =>
    (bx, by_, d.mapEntry p (levels.headD []) old (history.any fun a => d.historyBad a planes l0.width l0.height bx by_) bx by_)
  let d := (lay.1.zip levels).foldl (fun d e => d.storePlanes (buf + e.1.offset) e.2) d
  let d := if d.flag Reg.calenderStreamConfig_diffMap s then
      d.store (buf + lay.2.1) (entries.flatMap fun e => leBytes 4 (e.2.2.1 + 65536 * e.2.2.2)) else d
  let d := d.store buf (outHeader p noHistory planes lay.2.1
    (if lay.2.1 = 0 then 0 else cols) (if lay.2.1 = 0 then 0 else rows) lay.1)
  match history with
  | none => d
  | some a => entries.foldl (fun d e => if e.2.2.2 = 0 then d else d.storeBlock a (levels.headD []) e.1 e.2.1) d

/-- The frame of a picture as its header describes it. -/
def Dev.frameOf (d : Dev) (p : Picture) (buf : Nat) (noHistory : Bool) : CalFrame :=
  let lay := d.outLayout p.stream p.width p.height
  let l0 := lay.1.headD default
  { stream := p.stream, flags := p.flags % 256 + 256 * b2n noHistory, sequence := p.sequence, pointer := buf,
    width := l0.width, height := l0.height, levels := lay.1.length, planes := d.calPlanes p.stream, timestamp := p.timestamp,
    wraps := p.wraps, kind := p.kind, number := d.frameCount, pool := p.bufferPool, pictureWidth := p.width, pictureHeight := p.height,
    hasMap := lay.2.1 != 0 }

/-- CALENDER_HAND_ON (R202): levels, map and header written, history updated, the decode buffer's hold ended, and the Yard
signalled. -/
def calenderHandOnEffect (e : Nat) (ecc : List EccEvent) (d : Dev) : Dev :=
  match d.calJob e with
  | none => d
  | some p =>
    match p.buffer with
    | none => d
    | some buf =>
      let d := d.eccErrors ecc
      let x := d.calStream p.stream
      let f := d.frameOf p buf false
      let noHistory := p.old || x.fresh || x.stale || x.history.isNone || x.width != f.width || x.height != f.height
      let f := d.frameOf p buf noHistory
      let d := d.writeFrame p buf noHistory
      let d := if p.old then d
        else d.updCal p.stream fun y => { y with fresh := false, stale := false, width := f.width, height := f.height }
      let d := { d with released := d.released.filter (fun q => q.engine != some e), frames := d.frames ++ [f],
                        frameCount := d.frameCount + 1, signalled := d.signalled ++ [f.number] }
      let d := (d.setFlag Reg.calenderEngineState_busy e false).wr Reg.calenderEngineState_stream e 0xFFFF
      let d := (d.count Reg.calenderEngineState_handedOn e).count Reg.calenderStreamCounters_handedOn p.stream
      let d := if noHistory then d.count Reg.calenderStreamCounters_noHistory p.stream else d
      d.releaseHold p.stream p.pointer

/-- CALENDER_FAULT (R197, R205): the picture in service begins again on a free Calender. -/
def calenderFaultEffect (e : Nat) (writingHistory : Bool) (d : Dev) : Dev :=
  if !d.liveCalenders.contains e then d
  else
    let d := match d.calJob e with
      | none => d
      | some p =>
        let d := d.updPicture p fun x => { x with engine := none }
        let d := if writingHistory && !p.old then d.updCal p.stream fun x => { x with stale := true } else d
        (d.setFlag Reg.calenderEngineState_busy e false).wr Reg.calenderEngineState_stream e 0xFFFF
    d.engineFault 0x07 e Reg.calenderEngineState_retired Reg.calenderEngineState_resets .calender

/-- A frame's buffer returns to the pool it came from (R202, R317). -/
def Dev.returnFrame (d : Dev) (number : Nat) : Dev :=
  match d.frames.find? fun f => f.number == number with
  | none => d
  | some f => Dev.giveOwn { d with frames := d.frames.filter fun g => g.number != number } f.pool f.pointer

/-- One context's hold on a frame ends; the buffer returns with the last (R317). -/
def Dev.endHold (d : Dev) (number context : Nat) : Dev :=
  match d.frames.find? fun f => f.number == number with
  | none => d
  | some f =>
    let holds := f.holds.erase context
    let d := { d with frames := d.frames.map fun g => if g.number = number then { g with holds } else g }
    if holds = [] then d.returnFrame number else d

def execPictureRelease (x : Nat) (s : State) := act (.pictureRelease x) (pictureReleaseEffect x) s
def execCalenderStart (e : Nat) (s : State) := act (.calenderStart e) (calenderStartEffect e) s
def execCalenderBufferGrant (s : State) := act .calenderBufferGrant calenderBufferGrantEffect s
def execCalenderHandOn (e : Nat) (c : List EccEvent) (s : State) := act (.calenderHandOn e c) (calenderHandOnEffect e c) s
def execCalenderFault (e : Nat) (b : Bool) (s : State) := act (.calenderFault e b) (calenderFaultEffect e b) s

end Sys2Proof.Machine
end

