-- ==== Sys2Proof/Machine/Contexts.lean ====
section
/-! DEFINITION. Contexts that hold a plan (R301 to R320, R396 to R405): the pieces of a package as admission reads them, where a
context's blocks lie, eligible cores, holds on frames, and the batches of frames a step does not finish (R432, R385). -/

namespace Sys2Proof.Machine

/-! ### Reading and changing contexts -/

def Dev.ctx? (d : Dev) (c : Nat) : Option Context := d.contexts.find? c
def Dev.updCtx (d : Dev) (c : Nat) (f : Context → Context) : Dev :=
  match d.ctx? c with
  | some x => { d with contexts := d.contexts.put c (f x) }
  | none => d

def Context.step? (x : Context) (n : Nat) : Option Step := x.steps.find? fun s => s.number == n
def Context.updStep (x : Context) (n : Nat) (f : Step → Step) : Context :=
  { x with steps := x.steps.map fun s => if s.number = n then f s else s }
def Context.updBinding (x : Context) (stream : Nat) (f : Binding → Binding) : Context :=
  { x with bindings := x.bindings.map fun b => if b.stream = stream then f b else b }
def Context.binding? (x : Context) (stream : Nat) : Option Binding := x.bindings.find? fun b => b.stream == stream

def Dev.step? (d : Dev) (c n : Nat) : Option Step := (d.ctx? c).bind fun x => x.step? n
def Dev.entry? (d : Dev) (c n p : Nat) : Option StepEntry := (d.step? c n).bind fun s => s.entries[p]?
def Dev.updStep (d : Dev) (c n : Nat) (f : Step → Step) : Dev := d.updCtx c fun x => x.updStep n f
def Dev.updEntry (d : Dev) (c n p : Nat) (f : StepEntry → StepEntry) : Dev :=
  d.updStep c n fun s => { s with entries := s.entries.modify p f }
def Dev.updStepFrame (d : Dev) (c n i : Nat) (f : StepFrame → StepFrame) : Dev :=
  d.updStep c n fun s => { s with frames := s.frames.modify i f }

/-- K of R400 and the effective depth of a context. -/
def Dev.effDepth (d : Dev) (c : Nat) : Nat :=
  match d.ctx? c with
  | some x => min (d.rd Reg.yardContextConfig_depth c) (224 / x.counters)
  | none => 0

/-- Steps in flight on the whole device (R435). -/
def Dev.stepsInFlight (d : Dev) : Nat := d.contexts.foldl (fun a e => a + e.2.steps.length) 0

/-! ### The package's pieces (R302 to R306, R320, R327) -/

/-- A variant's manifest from its 128 bytes (R305). -/
def parseManifest (v : Nat) : Manifest :=
  { wclass := bits v 0 2, cls := bits v 2 2, reduced := v.testBit 4, sround := v.testBit 5, enrol := v.testBit 6,
    dw7120 := v.testBit 7, grid := bits v 16 8, halves := bits v 24 2, lanesTimed := bits v 32 10, cacheMin := bits v 48 2,
    batchMax := bits v 56 8 + 1, maxStreams := bits v 64 16, bounds := bits v 80 16, vatBytes := bits v 96 32,
    pressBytes := bits v 128 32, ledgerBytes := bits v 160 32, biasChannels := bits v 192 32, frameHold := bits v 224 4,
    storeBytes := bits v 256 64, inLevels := bits v 320 3 + 1, inPlanes := if v.testBit 323 then 3 else 1,
    inWidth := bits v 336 16, inHeight := bits v 352 16 }

/-- The reserved bits of a manifest. -/
def manifestReserved (v : Nat) : Nat :=
  bits v 8 8 + bits v 26 6 + bits v 42 6 + bits v 50 6 + bits v 228 28 + bits v 324 12 + bits v 368 656

/-- A command list entry from its 64 bytes (R320). -/
def parseEntry (v : Nat) : ListEntry :=
  { engine := bits v 0 8, frameLoop := v.testBit 8, stepEnd := v.testBit 9, cell := bits v 16 8, waitCounter := bits v 32 8,
    signalCounter := bits v 40 8, waitCount := bits v 48 16, signalCount := bits v 64 16, boundsUsed := bits v 80 16,
    body := bits v 128 64, bodyBytes := bits v 192 32 }

/-- The reserved bits of an entry. -/
def entryReserved (v : Nat) : Nat := bits v 10 6 + bits v 24 8 + bits v 96 32 + bits v 224 288

/-- The entries of a command list up to the one that sets step_end, `n` at most. -/
def takeEntries : (n : Nat) → (Nat → Nat) → Nat → List ListEntry
  | 0, _, _ => []
  | n + 1, at_, i =>
    let e := parseEntry (at_ i)
    if e.stepEnd then [e] else e :: takeEntries n at_ (i + 1)

/-- A bounds table entry from its 16 bytes (R327). -/
def parseBound (v : Nat) : BoundEntry :=
  { max := bits v 0 32, source := bits v 32 8, fatal := bits v 40 8 == 1, offset := bits v 64 32 }

/-- The section of a type that a variant uses, its own before a shared one. -/
def findSection (ss : List PlanSection) (kind variant : Nat) : Option PlanSection :=
  match ss.find? fun s => s.kind == kind && s.variant == variant with
  | some s => some s
  | none => ss.find? fun s => s.kind == kind && s.variant == 0xFF

def Context.section? (x : Context) (kind : Nat) : Option PlanSection := findSection x.sections kind x.variant

/-- The command list a step of a context runs (R314). -/
def Dev.commandList (d : Dev) (x : Context) (reduced : Bool) : List ListEntry :=
  match x.section? (if reduced then 3 else 2) with
  | none => []
  | some s => takeEntries (s.length / 64) (fun i => d.getNat (x.store + s.offset + 64 * i) 64) 0

/-- The bounds entry of a dimension. -/
def Dev.bound? (d : Dev) (x : Context) (k : Nat) : Option BoundEntry :=
  if x.manifest.bounds ≤ k then none
  else (x.section? 7).map fun s => parseBound (d.getNat (x.store + s.offset + 16 * k) 16)

/-! ### Memory a plan holds (R315, R443) -/

/-- L of R315, the bytes of a state slot, and the number of slots. -/
def Manifest.ledgerPart (m : Manifest) : Nat := roundUp m.ledgerBytes 4096
def Manifest.slotBytes (m : Manifest) : Nat := roundUp (m.ledgerPart + 24 * m.biasChannels) 65536
def Manifest.slots (m : Manifest) : Nat := max 1 m.maxStreams

/-- The save record of one cell (R412). -/
def saveRecordBytes : Nat := 4325376

/-- Where a slot and its bias table lie. -/
def Context.slotAddress (x : Context) (b : Nat) : Nat := x.block + b * x.manifest.slotBytes
def Context.biasAddress (x : Context) (b ch : Nat) : Nat := x.slotAddress b + x.manifest.ledgerPart + 24 * ch

/-- The gathered counts of a slot dropped (R262). -/
def Dev.dropCounts (d : Dev) (x : Context) (slot : Nat) : Dev :=
  (List.range x.manifest.biasChannels).foldl (fun d k => d.store (x.biasAddress slot k + 4) (leBytes 16 0)) d

/-- The lowest free run of `n` bytes in a range, given the blocks in use in rising order (R315). -/
def freeBlock : List (Nat × Nat) → (pos end_ n : Nat) → Option Nat
  | [], pos, end_, n => if pos + n ≤ end_ then some pos else none
  | (b, m) :: t, pos, end_, n => if pos + n ≤ b && pos + n ≤ end_ then some pos else freeBlock t (max pos (b + m)) end_ n

/-- The largest free run of a range. -/
def largestFree : List (Nat × Nat) → (pos end_ : Nat) → Nat
  | [], pos, end_ => end_ - pos
  | (b, m) :: t, pos, end_ => max (min b end_ - pos) (largestFree t (max pos (b + m)) end_)

/-- A block of the plan heap taken, in granules of 64 KiB. -/
def Dev.takeHeap (d : Dev) (n : Nat) : Option Nat × Dev :=
  let n := roundUp n 65536
  if n = 0 then (some (d.rd Reg.plansHeap_start), d)
  else match freeBlock d.heap (d.rd Reg.plansHeap_start) (d.rd Reg.plansHeap_end) n with
    | some a => (some a, { d with heap := insertRun d.heap (a, n) })
    | none => (none, d)

/-- A block of plan scratch taken. -/
def Dev.takeScratch (d : Dev) (n : Nat) : Option Nat × Dev :=
  let n := roundUp n 65536
  if n = 0 then (some vatBase, d)
  else match freeBlock d.scratch vatBase (vatBase + d.rd Reg.vatLayout_planBanks * 524288) n with
    | some a => (some a, { d with scratch := insertRun d.scratch (a, n) })
    | none => (none, d)

def Dev.heapFree (d : Dev) : Nat :=
  (d.rd Reg.plansHeap_end - d.rd Reg.plansHeap_start) - d.heap.foldl (fun a b => a + b.2) 0
def Dev.scratchFree (d : Dev) : Nat := largestFree d.scratch vatBase (vatBase + d.rd Reg.vatLayout_planBanks * 524288)

/-- A context's blocks and scratch return. -/
def Dev.freeBlocks (d : Dev) (x : Context) : Dev :=
  let m := x.manifest
  { d with
    heap := d.heap.filter fun b => !((b.1 == x.store && b.2 == roundUp m.storeBytes 65536) ||
      (b.1 == x.block && b.2 == m.slots * m.slotBytes) || (b.1 == x.save && b.2 == m.grid * saveRecordBytes)),
    scratch := d.scratch.filter fun b => !(b.1 == x.scratch && b.2 == roundUp m.vatBytes 65536) }

/-- Bytes of heap a plan holds. -/
def Context.heapHeld (x : Context) : Nat :=
  roundUp x.manifest.storeBytes 65536 + x.manifest.slots * x.manifest.slotBytes + x.manifest.grid * saveRecordBytes

/-! ### Cores (R309, R312, R405) -/

def Dev.coreAlive (d : Dev) (k : Nat) : Bool := !d.flag Reg.pressCoreState_retired k
def Dev.liveCores (d : Dev) : List Nat := (List.range (d.rd Reg.pressCoresPresented)).filter d.coreAlive

/-- The cores of rows 7 to 10 of R309, each narrowing the one before. -/
def Dev.wideCores (d : Dev) (m : Manifest) : List Nat :=
  d.liveCores.filter fun k => d.rd Reg.pressCoreState_class k ≤ m.wclass
def Dev.halfCores (d : Dev) (m : Manifest) : List Nat :=
  (d.wideCores m).filter fun k => m.halves ≤ d.rd Reg.pressCoreState_halves k
def Dev.eligible (d : Dev) (m : Manifest) (latency : Bool) : List Nat :=
  (d.halfCores m).filter fun k => !latency || m.lanesTimed ≤ d.rd Reg.pressCoreState_lanes k

/-- Cells placed on the eligible cores, listed in rising number and rotated left by core_offset (R312, R405). -/
def placeCells (es : List Nat) (offset n : Nat) : List Nat :=
  if es = [] then [] else (List.range n).map fun i => es.getD ((i + offset % es.length) % es.length) 0

/-- The cells of a context placed now. -/
def Dev.placement (d : Dev) (x : Context) : List Nat :=
  placeCells (d.eligible x.manifest x.latency) x.coreOffset x.manifest.grid

/-- Whether a context is under-provisioned (R313, R446). -/
def Dev.underProvisioned (d : Dev) (x : Context) : Bool :=
  (d.eligible x.manifest x.latency).length < x.manifest.grid || d.rd Reg.vatCacheSize < x.manifest.cacheMin

/-! ### Holds (R317) -/

/-- Holds beyond frame_hold end: the (k + 1)-th later frame of the stream has been bound. -/
def Dev.trimKept (d : Dev) (c : Nat) : Dev :=
  match d.ctx? c with
  | none => d
  | some x =>
    let beyond := x.kept.filter fun k => x.manifest.frameHold < k.later
    let d := d.updCtx c fun x => { x with kept := x.kept.filter fun k => !beyond.contains k }
    beyond.foldl (fun d k => d.endHold k.number c) d

/-- The hold on a frame as its step ends. -/
def Dev.frameStepEnds (d : Dev) (c number : Nat) : Dev :=
  match d.ctx? c with
  | none => d
  | some x =>
    if x.manifest.frameHold = 0 then d.endHold number c
    else (d.updCtx c fun x =>
      { x with kept := x.kept.map fun k => if k.number = number then { k with ended := true } else k }).trimKept c

/-- The frames of a stream that a context keeps are let go (R317, R318). -/
def Dev.dropKept (d : Dev) (c stream : Nat) : Dev :=
  match d.ctx? c with
  | none => d
  | some x =>
    let mine := x.kept.filter fun k => k.stream == stream && k.ended
    let d := d.updCtx c fun x => { x with kept := x.kept.filter fun k => !(k.stream == stream && k.ended) }
    mine.foldl (fun d k => d.endHold k.number c) d

/-- Ready frames of a stream that wait are let go. -/
def Dev.dropReady (d : Dev) (c stream : Nat) : Dev :=
  match d.ctx? c with
  | none => d
  | some x =>
    let mine := x.ready.filter fun r => r.stream == stream
    let d := d.updCtx c fun x => { x with ready := x.ready.filter fun r => r.stream != stream }
    mine.foldl (fun d r => d.endHold r.number c) d

/-! ### Frames outside their reservation (R419) -/

/-- Latency-critical frames of a context outside their reservation, each counted once (R416, R419). -/
def Dev.missFrames (d : Dev) (c : Nat) (numbers : List Nat) : Dev :=
  numbers.foldl (fun d n =>
    match d.frames.find? fun f => f.number == n with
    | some f =>
      if d.latencyStream f.stream && !f.missed.contains c then
        Dev.count { d with frames := d.frames.map fun g => if g.number = n then { g with missed := c :: g.missed } else g }
          Reg.yardLcMisses
      else d
    | none => d) d

/-! ### Sealing a frame's batch (R382, R385, R432) -/

/-- Whether a frame's batch may leave: no earlier frame of its stream in the context waits for its own (R385). -/
def Context.mayLeave (x : Context) (stream number : Nat) : Bool :=
  !(x.steps.any fun s => s.frames.any fun f => f.frame.stream == stream && f.frame.number < number && !f.sealed) &&
    !(x.late.any fun l => l.frame.stream == stream && l.frame.number < number)

/-- The batch of a frame is sealed with a result and records (R382); its sequence counts from bind. -/
def Dev.sealBatch (d : Dev) (c : Nat) (f : CalFrame) (code area flags : Nat) (records : List (List Byte)) : Dev :=
  let seq := (((d.ctx? c).bind fun x => x.binding? f.stream).map Binding.batch).getD 0
  let d := d.updCtx c fun x => x.updBinding f.stream fun b => { b with batch := b.batch + 1 }
  let length := 64 + 64 * records.length
  let header := batchHeader (d.resultWord code area) f.stream c 1 f.sequence records.length f.timestamp f.wraps f.kind f.flags flags
    seq length
  d.seal f.stream c seq (header ++ records.flatMap id)

/-- Batches that waited for an earlier frame's are sealed as they may leave, `n` at most. -/
def Dev.sealLate : (n : Nat) → Dev → Nat → Dev
  | 0, d, _ => d
  | n + 1, d, c =>
    match d.ctx? c with
    | none => d
    | some x =>
      match x.late.find? fun l => x.mayLeave l.frame.stream l.frame.number with
      | none => d
      | some l =>
        let d := d.updCtx c fun x => { x with late := x.late.filter fun m => m != l }
        Dev.sealLate n (d.sealBatch c l.frame l.code l.area 0 []) c

/-- All of them. -/
def Dev.sealAllLate (d : Dev) (c : Nat) : Dev := d.sealLate (((d.ctx? c).map fun x => x.late.length).getD 0) c

/-- The batch of a frame without records, when its turn comes (R432). -/
def Dev.sealEmpty (d : Dev) (c : Nat) (f : CalFrame) (code area : Nat) : Dev :=
  (d.updCtx c fun x => { x with late := x.late ++ [{ frame := f, code, area }] }).sealAllLate c

end Sys2Proof.Machine
end

