-- ==== Sys2Proof/Machine/Tracks.lean ====
section
/-! DEFINITION. Track sets: the track table's entries, reserves and shortfalls (R366, R367). -/

namespace Sys2Proof.Machine

def Dev.trackSet? (d : Dev) (c s : Nat) : Option TrackSet := d.trackSets.find? fun t => t.context == c && t.stream == s
def Dev.updTrackSet (d : Dev) (c s : Nat) (f : TrackSet → TrackSet) : Dev :=
  { d with trackSets := d.trackSets.map fun t => if t.context = c ∧ t.stream = s then f t else t }

/-- Entries a set holds: its reserve, and the tracks beyond it. -/
def TrackSet.held (t : TrackSet) : Nat := max t.reserve t.tracks.length

/-- Entries neither reserved nor in use, of 131,072 (R366, R393). -/
def Dev.trackUnreserved (d : Dev) : Nat := 131072 - d.trackSets.foldl (fun a t => a + t.held) 0

/-- The lasting cause of a short reserve (R367, R394). -/
def shortCause (c s : Nat) : Cause := { bit := Bit.stream, area := 0x0D, context := c, stream := s, detail := 0x51 }

/-- Entries freed make up shortfalls, in the order the sets were created (R367). -/
def Dev.makeUpTracks (d : Dev) : Dev :=
  d.trackSets.foldl (fun d t =>
    match d.trackSet? t.context t.stream with
    | none => d
    | some t =>
      if t.short = 0 then d
      else
        let room := d.trackUnreserved + (t.tracks.length - t.reserve)
        let k := min t.short room
        let d := d.updTrackSet t.context t.stream fun t => { t with reserve := t.reserve + k, short := t.short - k }
        if t.short = k then d.endLasting fun l => l == (shortCause t.context t.stream).lasting else d) d

/-- A track set is created with its reserve, or with the entries that remain (R367). -/
def Dev.createTrackSet (d : Dev) (c s : Nat) : Dev :=
  let want := d.rd Reg.trackerStreamConfig_trackReserve s
  let got := min want d.trackUnreserved
  let d := { d with trackSets := d.trackSets ++ [{ context := c, stream := s, reserve := got, short := want - got }] }
  if got < want then d.beginLasting (shortCause c s) else d

/-- A track set is freed (R366). -/
def Dev.freeTrackSet (d : Dev) (c s : Nat) : Dev :=
  let d := { d with trackSets := d.trackSets.filter fun t => !(t.context == c && t.stream == s) }
  (d.endLasting fun l => l == (shortCause c s).lasting).makeUpTracks

end Sys2Proof.Machine
end

