-- ==== Sys2Proof/Machine/Signal.lean ====
section
/-! DEFINITION. Messages to other devices (R518, R521), and the Signal box: counters, aliases, waiters and their releases, boosts,
abandoned steps and context faults (R397, R414, R417, R418, R421 to R434). -/

namespace Sys2Proof.Machine

/-! ### Messages on Coupling ports (R518, R521) -/

def Dev.coupPort (d : Dev) (p : Nat) : CoupPort := d.coup.getD p {}
def Dev.setCoup (d : Dev) (p : Nat) (x : CoupPort) : Dev := { d with coup := d.coup.put p x }

/-- This device's number, and the port that meets device `e` (R518). -/
def Dev.ownNumber (d : Dev) : Nat := d.rd Reg.couplingDevice
def Dev.portTo (d : Dev) (e : Nat) : Nat := (e + 3 - d.ownNumber) % 4

/-- Whether a port to device `e` is up. -/
def Dev.linkTo (d : Dev) (e : Nat) : Bool := e != d.ownNumber && d.rd Reg.couplingPortState_state (d.portTo e) == 2


def msgClass : CouplingMessage → CoupClass
  | .relayRequest _ => .control
  | .relayReply _ => .control
  | .boost _ _ => .control
  | .cancel _ => .control
  | .resetNotice => .control
  | .contextClosed _ => .control
  | .signal _ _ _ => .signal
  | .wait _ _ _ _ => .signal
  | .grant _ => .signal
  | .release _ _ => .signal
  | .unit _ _ _ _ => .data
  | .transferSignal _ _ _ => .data

def CoupPort.credit (x : CoupPort) : CoupClass → Nat
  | .control => x.control
  | .signal => x.signal
  | .data => 1
def CoupPort.spend (x : CoupPort) : CoupClass → CoupPort
  | .control => { x with control := x.control - 1 }
  | .signal => { x with signal := x.signal - 1 }
  | .data => x

/-- A message goes out against a credit of its class, behind those of its class that wait (R521). -/
def Dev.coupSend (d : Dev) (p : Nat) (m : CouplingMessage) : Dev :=
  let x := d.coupPort p
  if x.credit (msgClass m) = 0 || x.waiting.any (fun w => msgClass w == msgClass m) then d.setCoup p { x with waiting := x.waiting ++ [m] }
  else (d.setCoup p (x.spend (msgClass m))).send (.coupling p m)

/-- A message to a device, when its port is up. -/
def Dev.sendTo (d : Dev) (e : Nat) (m : CouplingMessage) : Dev := if d.linkTo e then d.coupSend (d.portTo e) m else d

/-- A reset notice goes to every up port (R525), which goes down and comes up again without being trained (R527). -/
def Dev.sendNotices (d : Dev) : Dev :=
  (List.range 3).foldl (fun d p =>
    if d.rd Reg.couplingPortState_state p = 2 then
      let d := d.send (.coupling p .resetNotice)
      (d.wr Reg.couplingPortState_state p 4).setCoup p { badLanes := (d.coupPort p).badLanes, lastTry := d.now, resuming := true }
    else d) d

/-! ### Counters (R421, R423) -/

/-- The number of a counter of a window. -/
def counterKey (c n : Nat) : Nat := 256 * c + n

def Dev.counterQueue (d : Dev) (k : Nat) : List Waiter := d.waiters.getD k []
def Dev.setCounterQueue (d : Dev) (k : Nat) (ws : List Waiter) : Dev :=
  { d with waiters := if ws = [] then d.waiters.erase k else d.waiters.put k ws }

/-- What an alias, or a counter named directly, leads to (R422). -/
inductive Target where
  | here (context counter : Nat)
  | there (device context counter : Nat)
  | gone (code : Nat)
  deriving DecidableEq, Repr

/-- HOLDER_GONE, COUNTER_MISUSE and COUNTER_SATURATED of area 0x11; LINK_DOWN and CONTEXT_FAULT (R437, R51). -/
def codeHolderGone : Nat := 0x80
def codeMisuse : Nat := 0x81
def codeSaturated : Nat := 0x82
def codeLinkDown : Nat := 0x32
def codeContextFault : Nat := 0x30

/-- A counter number of a context's window resolved (R422). -/
def Dev.resolve (d : Dev) (c n : Nat) : Target :=
  if n < 240 then .here c n
  else
    let i := 16 * c + (n - 240)
    let e := d.rd Reg.signalAlias_device i
    let tc := d.rd Reg.signalAlias_context i
    let tn := d.rd Reg.signalAlias_counter i
    if !d.flag Reg.signalAlias_valid i then .gone codeHolderGone
    else if e = d.ownNumber then (if (d.ctx? tc).isNone then .gone codeHolderGone else .here tc tn)
    else if d.linkTo e then .there e tc tn
    else .gone codeLinkDown

/-- The counter a step's reference reaches: counters below 224 belong to the step's instance (R400). -/
def relocate (k inst n : Nat) : Nat := if n < 224 then inst * k + n else n
def Dev.relocated (d : Dev) (c n counter : Nat) : Nat :=
  match d.ctx? c, d.step? c n with
  | some x, some s => relocate x.counters s.instance_ counter
  | _, _ => counter

/-! ### Boosts (R417, R418) -/

/-- Whether a context's commands rank as latency-critical because others wait on its counters. -/
def Dev.boostedCtx (d : Dev) (c : Nat) : Bool :=
  ((d.ctx? c).any fun x => !x.latency) &&
    ((d.waiters.any fun e => e.1 / 256 == c && 224 ≤ e.1 % 256 && e.1 % 256 < 240 && e.2.any Waiter.boosts) ||
      d.boosted.any fun b => b.1 == c)

/-- A boost for another device ends when none of its waiters is left on the counter. -/
def Dev.checkRemoteBoost (d : Dev) (k : Nat) : Dev :=
  if (d.counterQueue k).any fun w => match w.who with
      | .remote _ _ => true
      | .entry _ _ _ => false
  then d
  else { d with boosted := d.boosted.filter fun b => counterKey b.1 b.2 != k }

/-! ### Releases (R424, R425) -/

/-- A waiter proceeds: its wait is met, or the grant is sent to its device. -/
def Dev.grantWho (d : Dev) (w : Who) : Dev :=
  match w with
  | .entry c n p => d.updEntry c n p fun e => { e with wait := e.wait.map fun a => { a with met := true } }
  | .remote e id => d.sendTo e (.grant id)

/-- Head waiters are released while the count meets their need, `n` at most (R424, R425). -/
def Dev.releaseHeads : (n : Nat) → Dev → Nat → Dev
  | 0, d, _ => d
  | n + 1, d, k =>
    match d.counterQueue k with
    | [] => d
    | w :: ws =>
      if w.need ≤ d.rd Reg.signalCounterState_count k then
        let d := d.wr Reg.signalCounterState_count k (d.rd Reg.signalCounterState_count k - w.need)
        Dev.releaseHeads n (((d.setCounterQueue k ws).checkRemoteBoost k).grantWho w.who) k
      else d

/-- The releases a counter allows now. -/
def Dev.decide_ (d : Dev) (k : Nat) : Dev := d.releaseHeads (d.counterQueue k).length k

/-! ### Waits given up (R414) -/

/-- The waiters a predicate names leave every queue, and the heads behind them are decided. -/
def Dev.withdraw (d : Dev) (p : Who → Bool) : Dev :=
  let keys := (d.waiters.filter fun e => e.2.any fun w => p w.who).map (·.1)
  keys.foldl (fun d k =>
    (((d.setCounterQueue k ((d.counterQueue k).filter fun w => !p w.who)).checkRemoteBoost k).decide_ k)) d

/-- An entry's remote wait is cancelled (R414). -/
def Dev.cancelRemote (d : Dev) (c n p : Nat) (forget : Bool) : Dev :=
  (d.remoteWaits.filter fun w => w.context == c && w.step == n && w.pos == p).foldl (fun d w =>
    let d := d.sendTo w.device (.cancel w.id)
    if forget then { d with remoteWaits := d.remoteWaits.filter fun v => v.id != w.id } else d) d

/-! ### Waiters released without a grant (R430, R434, R526) -/

/-- A step to abandon, with the result its frames' batches carry (R432). -/
structure Abandon where
  context : Nat
  step : Nat
  code : Nat
  area : Nat
  deriving DecidableEq, Repr

/-- A waiter released with a code: its step is to be abandoned, or its device is told. -/
def Dev.releaseGone (d : Dev) (w : Waiter) (code : Nat) : Dev × List Abandon :=
  let d := if code = codeHolderGone then d.count Reg.signalCounters_holderGone else d
  match w.who with
  | .entry c n _ => (d, [{ context := c, step := n, code, area := 0x11 }])
  | .remote e id => (d.sendTo e (.release id code), [])

/-- Every waiter of a counter released with a code. -/
def Dev.releaseAll (d : Dev) (k code : Nat) : Dev × List Abandon :=
  let ws := d.counterQueue k
  let d := (d.setCounterQueue k []).checkRemoteBoost k
  ws.foldl (fun acc w =>
    let r := acc.1.releaseGone w code
    (r.1, acc.2 ++ r.2)) (d, [])

/-- A context's window cleared: every count 0, every flag clear, every waiter released with HOLDER_GONE (R397, R434). -/
def Dev.clearWindow (d : Dev) (c : Nat) : Dev × List Abandon :=
  let keys := (d.waiters.filter fun e => e.1 / 256 == c).map (·.1)
  let r := keys.foldl (fun (acc : Dev × List Abandon) k =>
    let r := acc.1.releaseAll k codeHolderGone
    (r.1, acc.2 ++ r.2)) (d, [])
  ({ r.1 with regs := r.1.regs.filter fun e => !(e.1.obj == .signalCounterState && e.1.sub / 256 == c),
              heard := r.1.heard.filter fun h => h.1 / 256 != c,
              boosted := r.1.boosted.filter fun b => b.1 != c }, r.2)

/-- The counters of a step instance cleared; with `misuse`, one that is not zero is marked and counted first (R429). -/
def Dev.clearInstance (d : Dev) (c k inst : Nat) (misuse : Bool) : Dev :=
  (List.range k).foldl (fun d j =>
    let key := counterKey c (inst * k + j)
    if d.rd Reg.signalCounterState_count key = 0 then (if misuse then d else d.clearElem .signalCounterState key)
    else
      let d := d.clearElem .signalCounterState key
      if misuse then (d.setFlag Reg.signalCounterState_misuse key true).count Reg.signalCounters_misuses else d) d

/-! ### Step boundaries (R318, R319, R396, R435) -/

/-- A stream leaves a context: its holds end, its slot is free, its track set goes (R317, R318, R366), and the commands that
waited complete. -/
def Dev.finishUnbind (d : Dev) (c stream : Nat) : Dev :=
  match (d.ctx? c).bind fun x => x.binding? stream with
  | none => d
  | some b =>
    let d := (d.dropReady c stream).dropKept c stream
    let d := d.freeTrackSet c stream
    let d := d.updCtx c fun x => { x with bindings := x.bindings.filter fun b => b.stream != stream }
    let d := (List.range 4).foldl (fun d k =>
      if stream < 1024 && d.rd (Reg.plansStreamContexts_context k) stream == c then
        d.wr (Reg.plansStreamContexts_context k) stream 0 else d) d
    b.leaving.foldl (fun d q => d.complete q.1 q.2 0 0x0B) d

/-- Whether a step in flight holds a frame of a stream. -/
def Context.streamBusy (x : Context) (stream : Nat) : Bool := x.steps.any fun s => s.frames.any fun f => f.frame.stream == stream

/-- Streams that are leaving and that no step in flight holds any more. -/
def Dev.settleUnbinds (d : Dev) (c : Nat) : Dev :=
  match d.ctx? c with
  | none => d
  | some x => (x.bindings.filter fun b => b.leaving != [] && !x.streamBusy b.stream && (b.stream < 1024 || x.steps == [])).foldl
      (fun d b => d.finishUnbind c b.stream) d

/-- A closing context with no step in flight becomes free (R319, R396, R397): its streams leave, its blocks return, its window is
cleared and its aliases become invalid. Its waiters' steps are returned. -/
def Dev.finishUnload (d : Dev) (c : Nat) : Dev × List Abandon :=
  match d.ctx? c with
  | none => (d, [])
  | some x =>
    if x.unloading = [] || x.steps != [] || x.state != .closing then (d, [])
    else
      let d := x.bindings.foldl (fun d b => d.finishUnbind c b.stream) d
      let d := d.freeBlocks x
      let r := d.clearWindow c
      let d := (List.range 16).foldl (fun d k => d.setFlag Reg.signalAlias_valid (16 * c + k) false) r.1
      let d := (List.range 4).foldl (fun d e =>
        if (d.rd Reg.couplingContextPeers c).testBit e then d.sendTo e (.contextClosed c) else d) d
      let d := { d with contexts := d.contexts.erase c }.clearElem .plansContextCores c
      (x.unloading.foldl (fun d q => d.complete q.1 q.2 0 0x0B) d, r.2)

/-- Quiescing ends when no step is in flight (R435). -/
def Dev.checkQuiesce (d : Dev) : Dev :=
  if d.stepsInFlight = 0 then
    let cs := d.quiescing
    let d := if d.rd Reg.yardState = 1 then d.wr Reg.yardState 0 2 else d
    cs.foldl (fun d q => d.complete q.1 q.2 0 0x10) { d with quiescing := [] }
  else d

/-- What follows the end of a step: an active context without steps is idle, and what waited for a step boundary happens. -/
def Dev.stepBoundary (d : Dev) (c : Nat) : Dev × List Abandon :=
  let d := d.sealAllLate c
  let d := d.updCtx c fun x => if x.state = .active ∧ x.steps = [] then { x with state := .idle } else x
  let r := (d.settleUnbinds c).finishUnload c
  (r.1.checkQuiesce, r.2)

/-! ### Abandoned steps (R262, R431, R432) -/

/-- The context counters that entries and operations of a step not completed name as signal targets. -/
def Context.signalTargets (x : Context) (s : Step) : List Nat :=
  let open_ := s.entries.filter fun e => e.state != .complete
  let bodies := ((x.facts.bodies[x.variant]?).map BodyFacts.signals).getD []
  let ops := open_.flatMap fun e =>
    if e.e.engine = 1 then e.given.foldl List.erase ((bodies.filter fun b => b.1 == e.e.body).map (·.2)) else []
  let own := (open_.filter fun e => e.e.signalCount != 0).map fun e => e.e.signalCounter
  ((own ++ ops).filter fun n => 224 ≤ n && n < 240).eraseDups

/-- One step abandoned, and the steps its waiters' release abandons in turn. -/
def Dev.abandonOne (d : Dev) (a : Abandon) : Dev × List Abandon :=
  match d.ctx? a.context, d.step? a.context a.step with
  | some x, some s =>
    let c := a.context
    let d := d.withdraw fun w => match w with
      | .entry c' n _ => c' == c && n == a.step
      | .remote _ _ => false
    let d := (List.range s.entries.length).foldl (fun d p => d.cancelRemote c a.step p true) d
    let d := d.updCtx c fun x => { x with steps := x.steps.filter fun t => t.number != a.step }
    let d := { d with sliceJobs := d.sliceJobs.filter fun j => !(j.2.context == c && j.2.step == a.step) }
    let d := (d.clearInstance c x.counters s.instance_ false).count Reg.yardContextCounters_abandoned c
    let d := s.frames.foldl (fun d f =>
      let d := d.updCtx c fun x => x.updBinding f.frame.stream fun b => { b with missed := true }
      let d := if f.sealed then d else d.sealEmpty c f.frame a.code a.area
      (d.dropCounts x f.slot).frameStepEnds c f.frame.number) d
    let d := match x.binding? 0xFFFF with
      | some b => d.dropCounts x b.slot
      | none => d
    let d := d.updCtx c fun x =>
      if x.manifest.enrol && (x.state == .idle || x.state == .active) then { x with state := .halted } else x
    let r := (x.signalTargets s).foldl (fun (acc : Dev × List Abandon) n =>
      let r := acc.1.releaseAll (counterKey c n) codeHolderGone
      (r.1, acc.2 ++ r.2)) (d, [])
    let b := r.1.stepBoundary c
    (b.1, r.2 ++ b.2)
  | _, _ => (d, [])

/-- Steps abandoned one after another, `n` at most. -/
def Dev.abandonAll : (n : Nat) → Dev → List Abandon → Dev
  | 0, d, _ => d
  | _ + 1, d, [] => d
  | n + 1, d, a :: as =>
    let r := d.abandonOne a
    Dev.abandonAll n r.1 (as ++ r.2)

/-- Waiters on the whole device, each of which abandons at most one step. -/
def Dev.waiterCount (d : Dev) : Nat := d.waiters.foldl (fun a e => a + e.2.length) 0

/-- Steps abandoned, with all that follows from it. -/
def Dev.abandonSteps (d : Dev) (as : List Abandon) : Dev := d.abandonAll (as.length + d.waiterCount) as

/-- What a release or a closing context leaves behind is carried out. -/
def thenAbandon (r : Dev × List Abandon) : Dev := r.1.abandonSteps r.2

/-! ### Context faults (R433, R434) -/

/-- A context faults, for a cause of an area: FAULT is raised with the detail given, its steps are abandoned and its window is
cleared (log entry 18). A closing context stays closing. -/
def Dev.contextFault (d : Dev) (c code area entryArea detail : Nat) : Dev :=
  match d.ctx? c with
  | none => d.attend { bit := Bit.fault, code := codeContextFault, area := entryArea, context := c, detail }
  | some x =>
    if x.state = .faulting then d
    else
      let d := d.attend { bit := Bit.fault, code := codeContextFault, area := entryArea, context := c, detail }
      let d := d.updCtx c fun x =>
        { x with faults := x.faults + 1, faultCode := code, faultArea := area, faultDetail := detail,
                 state := if x.state = .closing then .closing else .faulting,
                 bindings := x.bindings.map fun b => { b with faulted := true, history := false } }
      let d := d.abandonSteps (x.steps.map fun s => { context := c, step := s.number, code := codeContextFault, area := 0x10 })
      thenAbandon (d.clearWindow c)

/-- A context faults with the detail R433 gives: the causing area and code. -/
def Dev.faultCtx (d : Dev) (c code area : Nat) : Dev := d.contextFault c code area 0x10 (area * 256 + code)

/-! ### Signals (R423, R427) -/

/-- `n` units reach a counter of this device; `holder` says that the window's owner gave them (R418). -/
def Dev.applySignal (d : Dev) (k n : Nat) (holder : Bool) : Dev :=
  if n = 0 then d
  else
    let total := d.rd Reg.signalCounterState_count k + n
    let d := if holder then
        { d.setCounterQueue k ((d.counterQueue k).map fun w => { w with boosts := false }) with
          boosted := d.boosted.filter fun b => counterKey b.1 b.2 != k }
      else d
    let d := (d.wr Reg.signalCounterState_count k (min total 65535)).decide_ k
    if total ≤ 65535 then d
    else ((d.setFlag Reg.signalCounterState_saturated k true).count Reg.signalCounters_saturations).faultCtx (k / 256)
      codeSaturated 0x11

/-- A context signals a counter it names (R422, R423). -/
def Dev.signalFrom (d : Dev) (c counter n : Nat) : Dev :=
  if n = 0 then d
  else match d.resolve c counter with
    | .here tc tn => d.applySignal (counterKey tc tn) n (tc == c)
    | .there e tc tn => d.sendTo e (.signal tc tn n)
    | .gone _ => d.count Reg.signalCounters_discarded

/-! ### Waits (R424) -/

/-- A boost request to a remote holder goes with a latency-critical remote wait (R418). -/
def Dev.askBoost (d : Dev) (e tc tn : Nat) (latency : Bool) : Dev := if latency then d.sendTo e (.boost tc tn) else d

/-- A wait of an entry or of an operation of one is armed (R424, R422): it joins the tail of its counter's queue, goes to another
device, or is released with a code. -/
def Dev.armWait (d : Dev) (c n p counter need : Nat) (latency : Bool) : Dev :=
  match d.resolve c counter with
  | .here tc tn =>
    let k := counterKey tc tn
    let d := d.updEntry c n p fun e => { e with wait := some { counter, need } }
    let d := d.setCounterQueue k (d.counterQueue k ++
      [{ who := .entry c n p, need, boosts := latency && 224 ≤ tn && ((d.ctx? tc).any fun x => !x.latency) }])
    d.decide_ k
  | .there e tc tn =>
    let id := d.remoteCount
    let d : Dev := { d with remoteCount := id + 1,
                            remoteWaits := d.remoteWaits ++ [{ id, device := e, context := c, step := n, pos := p }] }
    let d : Dev := d.updEntry c n p fun e => { e with wait := some { counter, need, remote := some id } }
    (d.sendTo e (.wait id tc tn need)).askBoost e tc tn latency
  | .gone code =>
    let d := if code = codeHolderGone then d.count Reg.signalCounters_holderGone else d
    let d := d.updEntry c n p fun e => { e with wait := some { counter, need } }
    d.abandonSteps [{ context := c, step := n, code, area := 0x11 }]

/-- Whether a wait armed now would be met at once, or released (R407). -/
def Dev.wouldMeet (d : Dev) (c counter need : Nat) : Bool :=
  match d.resolve c counter with
  | .here tc tn => d.counterQueue (counterKey tc tn) == [] && need ≤ d.rd Reg.signalCounterState_count (counterKey tc tn)
  | .there _ _ _ => false
  | .gone _ => true

end Sys2Proof.Machine
end

