-- ==== Sys2Proof/Machine/Plans.lean ====
section
/-! DEFINITION. Plan packages: form, signature and admission (R301 to R315, R349, R591), and PLAN_LOAD, PLAN_BIND, PLAN_UNBIND and
PLAN_UNLOAD (R307, R316, R318, R319). -/

namespace Sys2Proof.Machine

/-! ### Form (R302, R303; row 2 of R309) -/

/-- A section table entry. -/
def packageSection (b : List Byte) (i : Nat) : PlanSection :=
  let a := 256 + 32 * i
  { kind := le b a 2, variant := byteAt b (a + 2), offset := le b (a + 8) 8, length := le b (a + 16) 8 }

/-- The sections of a package. -/
def packageSections (b : List Byte) : List PlanSection := (List.range (le b 12 2)).map (packageSection b)

/-- Types of R303, and whether a section's variant field suits its type. -/
def sectionSuits (variants : Nat) (s : PlanSection) : Bool :=
  let own := s.variant < variants
  let shared := s.variant == 0xFF
  match s.kind with
  | 1 | 2 | 3 | 4 | 5 | 7 | 8 | 9 => own || shared
  | 6 | 10 | 15 => shared
  | _ => false

/-- Sections of a type that serve a variant. -/
def sectionsOf (ss : List PlanSection) (kind v : Nat) : Nat :=
  (ss.filter fun s => s.kind == kind && (s.variant == v || s.variant == 0xFF)).length

/-- Two sections do not share a byte. -/
def apart (s t : PlanSection) : Bool := s.offset + s.length ≤ t.offset || t.offset + t.length ≤ s.offset

/-- No two sections of a list overlap. -/
def allApart : List PlanSection → Bool
  | [] => true
  | s :: ss => ss.all (apart s) && allApart ss

/-- The bytes of the package that go into the store block start and end here: every section but the signature. -/
def storeStart (ss : List PlanSection) : Nat :=
  ((ss.filter fun s => s.kind != 15).map PlanSection.offset).foldl min (2 ^ 64)
def storeEnd (ss : List PlanSection) : Nat :=
  (ss.filter fun s => s.kind != 15).foldl (fun a s => max a (s.offset + s.length)) 0

/-- The manifest of a variant as a number, and its fields. -/
def manifestBits (b : List Byte) (v : Nat) : Nat :=
  match findSection (packageSections b) 1 v with
  | some s => le b s.offset 128
  | none => 0
def packageManifest (b : List Byte) (v : Nat) : Manifest := parseManifest (manifestBits b v)

/-- A manifest's fields lie in the ranges of R305. -/
def Manifest.inRange (m : Manifest) : Bool :=
  m.wclass ≤ 2 && m.cls ≤ 2 && 1 ≤ m.grid && m.grid ≤ 32 && 1 ≤ m.halves && m.halves ≤ 2 && 256 ≤ m.lanesTimed &&
    m.lanesTimed ≤ 512 && m.lanesTimed % 32 == 0 && m.maxStreams ≤ 1024 && m.bounds ≤ 16

/-- Row 2 of R309: the package has the form of R302 and R303, and its length is the command's. -/
def formValid (b : List Byte) (length : Nat) : Bool :=
  let variants := byteAt b 10
  let n := le b 12 2
  let ss := packageSections b
  256 ≤ length && le b 0 4 == 0x4B504E46 && le b 4 2 == 0x0100 && 1 ≤ variants && variants ≤ 3 && byteAt b 11 == 0 &&
    2 ≤ n && n ≤ 64 && le b 14 2 == 0 && 256 + 32 * n ≤ length && le b 16 8 == length && le b 120 136 == 0 &&
    (List.range n).all (fun i => le b (256 + 32 * i + 3) 5 == 0 && le b (256 + 32 * i + 24) 8 == 0) &&
    ss.all (fun s => sectionSuits variants s && s.offset % 4096 == 0 && 256 + 32 * n ≤ s.offset && s.offset + s.length ≤ length) &&
    allApart ss && (ss.filter fun s => s.kind == 15).length == 1 &&
    (ss.getLast?.any fun s => s.kind == 15 && storeEnd ss ≤ s.offset) &&
    (List.range variants).all fun v =>
      sectionsOf ss 1 v == 1 && sectionsOf ss 2 v == 1 && sectionsOf ss 9 v == 1 &&
        (let m := packageManifest b v
         ((findSection ss 1 v).any fun s => s.length == 128) && manifestReserved (manifestBits b v) == 0 && m.inRange &&
           ((findSection ss 2 v).any fun s => s.length % 64 == 0 && s.length != 0) &&
           ((findSection ss 9 v).any fun s => s.length == 32) && (sectionsOf ss 3 v == b2n m.reduced) &&
           (m.bounds == 0 || (findSection ss 7 v).any fun s => s.length == 16 * m.bounds) &&
           storeEnd ss - storeStart ss ≤ m.storeBytes)

/-! ### Signature (R304, R534 to R537; row 3) -/

/-- Fields of a certificate (R535). -/
def certKey (c : List Byte) : Nat := le c 8 8
def certIssuer (c : List Byte) : Nat := le c 16 8
def certModulus (c : List Byte) : List Byte := slice c 64 512

/-- A certificate has its form, is bound to no other device, and is not revoked. -/
def Dev.certGood (d : Dev) (c : List Byte) (kind : Nat) (revoked : List Nat) : Bool :=
  le c 0 4 == 0x53464346 && byteAt c 4 == kind && le c 32 4 == 65537 &&
    certKey c == leNat (beBytes 64 (Config.sha512 (certModulus c)) |>.take 8) &&
    (le c 24 8 == 0 || le c 24 8 == d.rd Reg.bootSerial) && !revoked.contains (certKey c)

/-- Row 3 of R309: the chain of R537 leads to an owner in use, and the signature covers the package up to its section. -/
def Dev.packageSigned (d : Dev) (b : List Byte) : Bool :=
  match d.boot.owner, (packageSections b).getLast? with
  | some o, some s =>
    let sec := slice b s.offset s.length
    let digest := Config.sha512 (b.take s.offset)
    let ok (c : List Byte) : Bool := o.owners.contains c && d.certGood c 3 o.revoked
    let c0 := sec.take 1088
    if s.length = 1088 + 512 then ok c0 && Config.rsaVerifies (certModulus c0) digest (sec.drop 1088)
    else if s.length = 2 * 1088 + 512 then
      let c1 := (sec.drop 1088).take 1088
      ok c0 && d.certGood c1 4 o.revoked && certIssuer c1 == certKey c0 &&
        Config.rsaVerifies (certModulus c0) (Config.sha512 (c1.take 576)) (c1.drop 576) &&
        Config.rsaVerifies (certModulus c1) digest (sec.drop 2176)
    else false
  | _, _ => false

/-! ### Rows 5 and 6 -/

/-- Row 4 of R309. -/
def Dev.targetFits (d : Dev) (b : List Byte) : Bool :=
  let rev := d.rd Reg.identityRevision
  le b 6 2 == 0x1BD0 ||
    (le b 6 2 == 0x25A8 && byteAt b 9 == rev / 256 && byteAt b 8 ≤ rev % 256)

/-- Row 5 of R309. -/
def classAllowed (b : List Byte) (v : Nat) (latency : Bool) : Bool :=
  let m := packageManifest b v
  let declared (i : Nat) : Bool :=
    (findSection (packageSections b) 9 v).any fun s => le b (s.offset + 4 * i) 4 != 0
  (if latency then m.cls != 2 else m.cls != 1) &&
    (!latency || (List.range 4).all declared && (!m.reduced || (List.range 4).all fun i => declared (4 + i)))

/-- One entry of a command list has the form of R320, and names operations of R360 for engines 3 and 4. -/
def entryValid (b : List Byte) (start : Nat) (m : Manifest) (v : Nat) : Bool :=
  let e := parseEntry v
  let op := byteAt b (start + e.body)
  entryReserved v == 0 && 1 ≤ e.engine && e.engine ≤ 4 && (if e.engine = 1 then e.cell < m.grid else e.cell = 0) &&
    e.boundsUsed < 2 ^ m.bounds && e.body + e.bodyBytes ≤ m.storeBytes &&
    (e.engine != 3 || op == 1 || op == 2) && (e.engine != 4 || op == 1)

/-- The entries of a command list section. -/
def listEntries (b : List Byte) (s : PlanSection) : List ListEntry :=
  (List.range (s.length / 64)).map fun i => parseEntry (le b (s.offset + 64 * i) 64)

/-- A command list (R320): valid entries, one of which sets step_end. -/
def listValid (b : List Byte) (start : Nat) (m : Manifest) (s : PlanSection) : Bool :=
  (List.range (s.length / 64)).all (fun i => entryValid b start m (le b (s.offset + 64 * i) 64)) && (listEntries b s).any ListEntry.stepEnd

/-- A bounds table entry is valid (R327). -/
def boundValid (m : Manifest) (v : Nat) : Bool :=
  let e := parseBound v
  1 ≤ e.max && e.source ≤ 3 && bits v 40 8 ≤ 1 && bits v 48 16 == 0 && bits v 96 32 == 0 &&
    (e.source != 0 || e.max == m.batchMax) && (e.source != 2 || (e.offset % 4 == 0 && e.offset + 4 ≤ m.vatBytes))

/-- Where the bodies of a variant's Press core entries lie in the store block, of its full and its reduced list. -/
def pressBodies (b : List Byte) (v : Nat) : List (Nat × Nat) :=
  [2, 3].flatMap fun k => match findSection (packageSections b) k v with
    | none => []
    | some s => (listEntries b s).filterMap fun e =>
        if e.engine = 1 then some (e.body, e.body + e.bodyBytes) else none

/-- What the operation map of a variant has for a store offset: its layer and tiles as a number. -/
def mapTile (b : List Byte) (cone : Option PlanSection) (offset : Nat) : Option Nat :=
  cone.bind fun s =>
    let at_ (i n : Nat) : Nat := le b (s.offset + i) n
    ((List.range (at_ 12 4)).find? fun j => at_ (at_ 32 8 + 32 * j) 8 == offset).map fun j => at_ (at_ 32 8 + 32 * j + 8) 20

/-- The passes of a Press core body are valid under R219, R287 and R321 for the variant, and its spans meet R323 and R349; a span's vector
operations run at lanes_timed lanes. `start` is where the store block's bytes begin in the package. -/
def bodyValid (b : List Byte) (start : Nat) (m : Manifest) (cone : Option PlanSection) (e : ListEntry) (ops : List BodyOp) : Bool :=
  (ops.foldl (fun (w : BodyWalk) o => match o with
    | .vector taps n => { w with vector := w.vector + taps * ceilDiv n m.lanesTimed }
    | .pass array offset =>
      let record := le b (start + offset) 64
      let mode := bits record 0 64
      let inside := e.body ≤ offset && offset + (if modeSplit mode then 320 else 128) ≤ e.body + e.bodyBytes && array < 2
      let w := w.pass (classWidth m.wclass) m.halves array record (mapTile b cone offset)
        ((modeQuads mode).map fun q => parseWindow (le b (start + offset + 64 + 64 * q) 64))
      { w with ok := w.ok && inside }) {}).ok

/-- The bodies of a list's Press core entries. -/
def bodiesValid (b : List Byte) (start : Nat) (m : Manifest) (cone : Option PlanSection) (f : BodyFacts) (s : PlanSection) : Bool :=
  ((listEntries b s).filter fun e => e.engine == 1).all fun e =>
    bodyValid b start m cone e (((f.ops.find? fun o => o.1 == e.body).map (·.2)).getD [])

/-- A cone table section meets R346 and R349: its form, and entries that stay within the map, the layers before, the ledger and the
bodies of the command list. -/
def coneValid (b : List Byte) (m : Manifest) (bodies : List (Nat × Nat)) (s : PlanSection) : Bool :=
  let at_ (i n : Nat) : Nat := le b (s.offset + i) n
  let layers := at_ 0 2
  let cols := at_ 2 2
  let rows := at_ 4 2
  let deps := at_ 8 4
  let ops := at_ 12 4
  let lt := at_ 16 8
  let dt := at_ 24 8
  let ot := at_ 32 8
  let layer (i : Nat) : Nat := at_ (lt + 32 * i) 32
  let tiles (i : Nat) : Nat := bits (layer i) 32 32
  let homes := ((List.range layers).filter fun i => (layer i).testBit 0).map fun i =>
    (bits (layer i) 64 32, bits (layer i) 64 32 + tiles i * bits (layer i) 96 32)
  1 ≤ layers && layers ≤ 4096 && at_ 6 2 == 0 && at_ 48 16 == 0 && cols == blocksOf m.inWidth && rows == blocksOf m.inHeight &&
    lt + 32 * layers ≤ s.length && dt + 24 * deps ≤ s.length && ot + 32 * ops ≤ s.length &&
    homes.all (fun h => 4096 ≤ h.1 && h.1 % 4096 == 0 && h.2 ≤ m.ledgerBytes) &&
    homes.all (fun h => homes.all fun g => h == g || h.2 ≤ g.1 || g.2 ≤ h.1) &&
    ((List.range ops).all fun j =>
      let e (k n : Nat) : Nat := at_ (ot + 32 * j + k) n
      e 8 2 < layers && e 10 2 == 0 && e 28 4 == 0 && bodies.any fun r => r.1 ≤ e 0 8 && e 0 8 < r.2) &&
    (List.range layers).all fun i =>
      bits (layer i) 2 6 == 0 && bits (layer i) 24 8 == 0 && bits (layer i) 208 16 == 0 &&
      let first := bits (layer i) 128 32
      let count := bits (layer i) 160 32
      first + count ≤ deps && (List.range count).all fun j =>
        let e (k n : Nat) : Nat := at_ (dt + 24 * (first + j) + k) n
        e 0 4 ≤ e 4 4 && e 4 4 < tiles i && e 10 2 == 0 && e 20 4 == 0 &&
          if e 8 2 = 0xFFFF then e 12 2 ≤ e 14 2 && e 14 2 < cols && e 16 2 ≤ e 18 2 && e 18 2 < rows
          else e 8 2 < i && e 12 4 ≤ e 16 4 && e 16 4 < tiles (e 8 2)

/-- Row 6 of R309, with R349 and R591. -/
def commandsValid (b : List Byte) (v : Nat) (f : BodyFacts) : Bool :=
  let ss := packageSections b
  let m := packageManifest b v
  let start := storeStart ss
  let list (k : Nat) : Bool := (findSection ss k v).all fun s =>
    listValid b start m s && bodiesValid b start m (findSection ss 8 v) f s
  f.valid && m.pressBytes ≤ 4194304 && (!m.dw7120 || le b 6 2 == 0x1BD0) && !(m.enrol && m.ledgerBytes != 0) &&
    list 2 && (!m.reduced || list 3) &&
    (List.range m.bounds).all (fun k => (findSection ss 7 v).any fun s => boundValid m (le b (s.offset + 16 * k) 16)) &&
    (if m.ledgerBytes = 0 then (findSection ss 8 v).isNone else (findSection ss 8 v).any (coneValid b m (pressBodies b v)))

/-! ### Admission (R309 to R312) -/

/-- A variant refused: the failing row, the code, the demand and the supply (R311). -/
structure Refused where
  row : Nat
  code : Nat
  demand : Nat := 0
  supply : Nat := 0
  deriving DecidableEq, Repr

/-- Blocks and scratch of an admitted variant. -/
structure Blocks where
  store : Nat
  block : Nat
  save : Nat
  scratch : Nat
  deriving DecidableEq, Repr

/-- Rows 7 to 12 of R309 in order: the first that fails. -/
def Dev.rowsFail (d : Dev) (m : Manifest) (latency : Bool) : Option Refused :=
  let few (row code n : Nat) : Option Refused :=
    if n < m.grid then some { row, code, demand := m.grid, supply := n } else none
  let unit : Option Refused :=
    if (m.sround || m.enrol) && d.rd Reg.randomSelftest != 1 then some { row := 11, code := 0x10 } else none
  let cache : Option Refused :=
    if d.rd Reg.vatCacheSize < m.cacheMin then
      some { row := 12, code := 0x10, demand := cacheBanks m.cacheMin * 524288,
             supply := cacheBanks (d.rd Reg.vatCacheSize) * 524288 }
    else none
  let scratch : Option Refused :=
    if d.scratchFree < m.vatBytes then some { row := 13, code := 0x10, demand := m.vatBytes, supply := d.scratchFree } else none
  few 7 0x10 d.liveCores.length <|> few 8 0x12 (d.wideCores m).length <|> few 9 0x10 (d.halfCores m).length <|>
    (if latency then few 10 0x10 (d.eligible m true).length else none) <|> unit <|> cache <|> scratch

/-- Row 14 of R309: the store, state and save blocks each take the lowest free run (R315); then the scratch (R443). -/
def Dev.takeBlocks (d : Dev) (m : Manifest) : Option (Blocks × Dev) :=
  match d.takeHeap m.storeBytes with
  | (some store, d1) =>
    match d1.takeHeap (m.slots * m.slotBytes) with
    | (some block, d2) =>
      match d2.takeHeap (m.grid * saveRecordBytes) with
      | (some save, d3) =>
        match d3.takeScratch m.vatBytes with
        | (some scratch, d4) => some ({ store, block, save, scratch }, d4)
        | (none, _) => none
      | (none, _) => none
    | (none, _) => none
  | (none, _) => none

/-- One variant tried: its first failing row, or its blocks and the device that holds them. -/
def Dev.tryVariant (d : Dev) (b : List Byte) (v : Nat) (latency : Bool) (facts : PlanFacts) : Refused ⊕ (Blocks × Dev) :=
  let m := packageManifest b v
  if !classAllowed b v latency then .inl { row := 5, code := 0x81 }
  else if !commandsValid b v (facts.bodies.getD v default) then .inl { row := 6, code := 0x81 }
  else match d.rowsFail m latency with
    | some r => .inl r
    | none =>
      match d.takeBlocks m with
      | some x => .inr x
      | none => .inl { row := 14, code := 0x10,
                       demand := m.slots * m.slotBytes + m.grid * saveRecordBytes, supply := d.heapFree }

/-- The variants a manifest section serves: its own, or, where it is shared, every one with no manifest of its own. -/
def manifestVariants (b : List Byte) (s : PlanSection) : List Nat :=
  if s.variant = 0xFF then (List.range (byteAt b 10)).filter fun v => !(packageSections b).any fun t => t.kind == 1 && t.variant == v
  else [s.variant]

/-- Variants in the order R310 tries them: decreasing width class, then section order. -/
def variantOrder (b : List Byte) (named : Nat) : List Nat :=
  if named = 0xFF then
    let vs := ((packageSections b).filter fun s => s.kind == 1).flatMap (manifestVariants b)
    (List.range 3).flatMap fun w => vs.filter fun v => (packageManifest b v).wclass == w
  else if named < byteAt b 10 then [named] else []

/-- Variants tried in turn: the refusals, and what is admitted. -/
def Dev.tryVariants (d : Dev) (b : List Byte) (latency : Bool) (facts : PlanFacts) :
    List Nat → List (Nat × Refused) × Option (Nat × Blocks × Dev)
  | [] => ([], none)
  | v :: vs =>
    match d.tryVariant b v latency facts with
    | .inr x => ([], some (v, x))
    | .inl r =>
      let t := Dev.tryVariants d b latency facts vs
      ((v, r) :: t.1, t.2)

/-- The record of a refusal (R311). -/
def Dev.recordRefusal (d : Dev) (c : Nat) (rs : List (Nat × Refused)) : Dev :=
  let d := (d.clearElem .plansContextRefusal c).wr Reg.plansContextRefusal_entries c rs.length
  ((List.range rs.length).zip rs).foldl (fun d e =>
    let k := e.1
    ((((d.wr (Reg.plansContextRefusal_variant k) c e.2.1).wr (Reg.plansContextRefusal_row k) c e.2.2.row).wr
      (Reg.plansContextRefusal_code k) c e.2.2.code).wr (Reg.plansContextRefusal_demand k) c e.2.2.demand).wr
      (Reg.plansContextRefusal_supply k) c e.2.2.supply) d

/-- The cores of a placement published (R312). -/
def Dev.publishCores (d : Dev) (c : Nat) (cells : List Nat) : Dev :=
  let d := d.wr Reg.plansContextCores_mask c (cells.eraseDups.foldl (fun a k => a + 2 ^ k) 0)
  (List.range 32).foldl (fun d i => d.wr (Reg.plansContextCores_cell i) c (cells.getD i 0xFF)) d

/-- The highest counter below 224 that lists and bodies name, plus one (R400). -/
def contextCounters (es : List ListEntry) (f : BodyFacts) : Nat :=
  let named := (es.filter (fun e => e.waitCount != 0)).map ListEntry.waitCounter ++
    (es.filter (fun e => e.signalCount != 0)).map ListEntry.signalCounter ++ f.maxCounter.toList
  (named.filter (· < 224)).foldl (fun a n => max a (n + 1)) 1

/-- A variant admitted into a context: its sections are in the store block, its cells are placed, its window is clear. -/
def Dev.admitPlan (d : Dev) (c v : Nat) (b : List Byte) (latency : Bool) (coreOffset : Nat) (facts : PlanFacts) (k : Blocks) : Dev :=
  let ss := packageSections b
  let start := storeStart ss
  let m := packageManifest b v
  let d := d.store k.store (slice b start (storeEnd ss - start))
  let sections := (ss.filter fun s => s.kind != 15).map fun s => { s with offset := s.offset - start }
  let x : Context :=
    { latency, variant := v, coreOffset, manifest := m, seed := le b 24 8, planId := le b 32 16, digest := Config.sha512 b,
      sections, store := k.store, block := k.block, save := k.save, scratch := k.scratch, counters := 1, facts }
  let es := d.commandList x false ++ (if m.reduced then d.commandList x true else [])
  let x := { x with counters := contextCounters es (facts.bodies.getD v default) }
  let x := { x with placement := d.placement x }
  let d := thenAbandon (Dev.clearWindow { d with contexts := d.contexts.put c x } c)
  d.publishCores c x.placement

/-- A PLAN_LOAD fetched before this one has not completed (R308). -/
def Dev.earlierLoad (d : Dev) (order : Nat) : Bool :=
  d.queues.any fun e => e.2.inflight.any fun f => f.done == none && f.opcode == 0x0B01 && f.order < order

/-- PLAN_LOAD (R307 to R311): the package is read, checked, and admitted into its context or refused. -/
def planLoadEffect (q i : Nat) (facts : PlanFacts) (d : Dev) : Dev :=
  match d.takeCommand q i 0x0B01 with
  | none => d
  | some f =>
    let c := f.context
    let flags := byteAt f.entry 8
    let a := le f.entry 16 8
    let n := le f.entry 24 8
    let device := flags.testBit 2
    let refuse (d : Dev) (rs : List (Nat × Refused)) (code : Nat) : Dev := (d.recordRefusal c rs).complete q i code 0x0B
    if d.earlierLoad f.order then d
    else if (d.ctx? c).isSome then refuse d [] 0x82
    else if !device && f.data.length < n then d
    else if device && d.poisoned a n then d.complete q i 0x82 (if a < vatBase then 0x15 else 0x14)
    else
      let b := if device then d.getBytes a n else f.data.take n
      if !formValid b n then refuse d [] 0x81
      else if !d.packageSigned b then refuse d [] 0x11
      else if !d.targetFits b then refuse d [] 0x80
      else
        let t := d.tryVariants b (flags.testBit 1) facts (variantOrder b (byteAt f.entry 9))
        match t.2 with
        | none => refuse d t.1 ((t.1.getLast?.map fun r => r.2.code).getD 0x81)
        | some (v, k, d') =>
          let m := packageManifest b v
          let d := if flags.testBit 0 then d else d'.admitPlan c v b (flags.testBit 1) (byteAt f.entry 10) facts k
          d.complete q i 0 0x0B (v + 256 * m.wclass + 65536 * m.grid)

/-! ### Streams (R316, R318, R319) -/

/-- The lowest slot no binding holds. -/
def Context.freeSlot (x : Context) : Nat :=
  ((List.range x.manifest.slots).find? fun b => !x.bindings.any fun y => y.slot == b).getD 0

/-- The initial biases of section 0x0A, one for each adaptive channel (R303). -/
def Dev.initialBiases (d : Dev) (x : Context) : List Int :=
  match x.section? 10 with
  | none => List.replicate x.manifest.biasChannels 0
  | some s => (List.range x.manifest.biasChannels).map fun ch => toSigned 8 (d.getByte (x.store + s.offset + ch)).toNat

/-- A slot's bias table at bind: the initial biases, everything else zero (R315, R316). -/
def Dev.initBiasTable (d : Dev) (x : Context) (slot : Nat) : Dev :=
  let es := d.initialBiases x
  ((List.range es.length).zip es).foldl (fun d e => d.store (x.biasAddress slot e.1) (leBytes 24 (ofSigned 8 e.2))) d

/-- Whether a context's command list holds DETECT (R366). -/
def Dev.holdsDetect (d : Dev) (x : Context) : Bool :=
  (d.commandList x false ++ (if x.manifest.reduced then d.commandList x true else [])).any fun e =>
    e.engine == 3 && d.getByte (x.store + e.body) == 1#8

/-- The contexts a stream is bound to. -/
def Dev.bindingCount (d : Dev) (stream : Nat) : Nat :=
  (d.contexts.filter fun e => (e.2.binding? stream).isSome).length

/-- Why a bind fails (R316), if it does. -/
def Dev.bindFails (d : Dev) (c stream : Nat) : Option Nat :=
  match d.ctx? c with
  | none => some 0x83
  | some x =>
    let m := x.manifest
    if stream = 0xFFFF then
      if m.maxStreams != 0 then some 0x84 else if x.bindings != [] then some 0x85 else none
    else if m.maxStreams = 0 then some 0x84
    else if m.maxStreams ≤ x.bindings.length || 4 ≤ d.bindingCount stream || (x.binding? stream).isSome then some 0x85
    else if !d.flag Reg.calenderStreamConfig_produce stream || d.calLevels stream < m.inLevels ||
        d.calPlanes stream != m.inPlanes then some 0x84
    else none

/-- A stream joins a context (R316): the lowest free slot takes it and its initial biases; a DETECT plan gets a track set (R366). -/
def Dev.bindStream (d : Dev) (c stream seed : Nat) (x : Context) : Dev :=
  let slot := x.freeSlot
  let d := d.initBiasTable x slot
  let d := d.updCtx c fun x => { x with bindings := x.bindings ++ [{ stream, slot, seed, biases := d.initialBiases x }] }
  let d := if stream = 0xFFFF then d else
    match (List.range 4).find? fun k => d.rd (Reg.plansStreamContexts_context k) stream == 0 with
    | some k => d.wr (Reg.plansStreamContexts_context k) stream c
    | none => d
  if d.holdsDetect x then d.createTrackSet c stream else d

/-- PLAN_BIND (R316). -/
def planBindEffect (q i : Nat) (d : Dev) : Dev :=
  match d.takeCommand q i 0x0B03 with
  | none => d
  | some f =>
    let c := f.context
    let stream := le f.entry 8 2
    match d.bindFails c stream, d.ctx? c with
    | some code, _ => d.complete q i code 0x0B
    | none, none => d
    | none, some x =>
      let seed := if (byteAt f.entry 10).testBit 0 then le f.entry 16 8 else x.seed
      (d.bindStream c stream seed x).complete q i 0 0x0B x.freeSlot

/-- PLAN_UNBIND (R318): the stream leaves at the next batch-step boundary. -/
def planUnbindEffect (q i : Nat) (d : Dev) : Dev :=
  match d.takeCommand q i 0x0B04 with
  | none => d
  | some f =>
    let c := f.context
    let stream := le f.entry 8 2
    if f.started then d
    else match d.ctx? c with
      | none => d.complete q i 0x86 0x0B
      | some x =>
        if (x.binding? stream).isNone then d.complete q i 0x86 0x0B
        else
          let d := (d.startCommand q i).updCtx c fun x => x.updBinding stream fun b => { b with leaving := b.leaving ++ [(q, i)] }
          if x.steps = [] then d.settleUnbinds c else d

/-- PLAN_UNLOAD (R319, R396): the context closes once its steps in flight complete. -/
def planUnloadEffect (q i : Nat) (d : Dev) : Dev :=
  match d.takeCommand q i 0x0B02 with
  | none => d
  | some f =>
    let c := f.context
    if f.started then d
    else match d.ctx? c with
      | none => d.complete q i 0x83 0x0B
      | some _ =>
        let d := d.startCommand q i
        let d := d.updCtx c fun x =>
          { x with unloading := x.unloading ++ [(q, i)], state := if x.state = .faulting then .faulting else .closing }
        thenAbandon (d.finishUnload c)

/-! ### The objects of area 0x0B that follow the contexts (R335) -/

/-- A PLAN_LOAD of a context has begun: loads run one at a time, in fetch order (R308). -/
def Dev.loading (d : Dev) (c : Nat) : Bool :=
  d.queues.any fun e => e.2.inflight.any fun f => f.done == none && f.opcode == 0x0B01 && f.context == c && !d.earlierLoad f.order

/-- A field of `plans.context.state` as it reads. -/
def Dev.planStateField (d : Dev) (c off : Nat) : Nat :=
  match d.ctx? c with
  | none => if off = 0 ∧ d.loading c then 1 else 0
  | some x =>
    match off with
    | 0 => if x.unloading = [] then 2 else 3
    | 3 => b2n x.latency
    | 4 => b2n x.reduced
    | 5 => b2n (d.underProvisioned x)
    | 6 => x.manifest.wclass
    | 8 => x.variant
    | 16 => (x.bindings.filter fun b => b.stream != 0xFFFF).length
    | 32 => x.completed
    | 64 => x.gatherOut
    | 96 => x.shapeClamps
    | 128 => x.heapHeld
    | 192 => x.planId % 2 ^ 64
    | _ => 0

def execPlanLoad (q i : Nat) (f : PlanFacts) (s : State) := act (.planLoad q i f) (planLoadEffect q i f) s
def execPlanBind (q i : Nat) (s : State) := act (.planBind q i) (planBindEffect q i) s
def execPlanUnbind (q i : Nat) (s : State) := act (.planUnbind q i) (planUnbindEffect q i) s
def execPlanUnload (q i : Nat) (s : State) := act (.planUnload q i) (planUnloadEffect q i) s

end Sys2Proof.Machine
end

