-- ==== Sys2Proof/Machine/Recompute.lean ====
section
/-! DEFINITION. Change-driven recompute (R337 to R358): changed blocks, causes of no history, restarts, dirty tiles and their bitmaps,
slot headers, lost slots, and the output exponent biases (R259 to R265). -/

namespace Sys2Proof.Machine

/-! ### Bias tables (R260, R315) -/

/-- Adaptive tensors with the place of their first channel in the bias table, by tensor number. A bfloat16 tensor never adapts (R255). -/
def adaptiveTensors : List TensorFacts → (number first : Nat) → List (Nat × Nat × Nat)
  | [], _, _ => []
  | t :: ts, i, first =>
    if t.adaptive ∧ !t.bf16 then (i, first, t.channels) :: adaptiveTensors ts (i + 1) (first + t.channels)
    else adaptiveTensors ts (i + 1) first

/-- The tensor and channel of a place in the bias table. -/
def tensorOfPlace (x : Context) (k : Nat) : Nat × Nat :=
  match (adaptiveTensors x.facts.tensors 0 0).find? fun t => t.2.1 ≤ k && k < t.2.1 + t.2.2 with
  | some t => (t.1, k - t.2.1)
  | none => (0, k)

/-- The place of a channel of an adaptive tensor in the bias table. -/
def Context.biasPlace (x : Context) (tensor ch : Nat) : Option Nat :=
  ((adaptiveTensors x.facts.tensors 0 0).find? fun t => t.1 == tensor && ch < t.2.2).map fun t => t.2.1 + ch

/-- The bias of a place of a slot's table. -/
def Dev.biasAt (d : Dev) (x : Context) (slot k : Nat) : Int := toSigned 8 (d.getByte (x.biasAddress slot k)).toNat

/-- All biases of a slot. -/
def Dev.biasesOf (d : Dev) (x : Context) (slot : Nat) : List Int :=
  (List.range x.manifest.biasChannels).map fun k => d.biasAt x slot k

/-- The exponent bias of a tensor's channel for a slot (R259): the table's, or the tensor's constant. -/
def Dev.tensorBias (d : Dev) (x : Context) (slot tensor ch : Nat) : Int :=
  match x.facts.tensors[tensor]? with
  | none => 0
  | some t =>
    if t.bf16 then 0
    else if !t.adaptive then t.bias
    else match x.biasPlace tensor ch with
      | some k => d.biasAt x slot k
      | none => 0

/-- One converted element gathered (R261): whether x is zero, `saturated`, `underflowed`, and |x| in FP32; x of zero counts nothing. -/
def Dev.gather (d : Dev) (x : Context) (slot k : Nat) (zero saturated underflowed : Bool) (mag : Nat) : Dev :=
  if zero then d
  else
    let a := x.biasAddress slot k
    let bump (d : Dev) (o : Nat) (b : Bool) : Dev := if b then d.store (a + o) (leBytes 4 ((d.getNat (a + o) 4 + 1) % 2 ^ 32)) else d
    let d := bump (bump (bump d 4 true) 8 saturated) 12 underflowed
    if flt (d.getNat (a + 16) 4) mag then d.store (a + 16) (leBytes 4 mag) else d

/-- An entry of `numerics.bias.log` (R263): discarded when it would overwrite one that has not been read. -/
def Dev.biasLog (d : Dev) (c stream tensor ch : Nat) (old new : Int) (cause unit sat under : Nat) : Dev :=
  let h := d.rd Reg.numericsBiasLogHead
  let size := (Obj.numericsBiasLog).info.count
  if size ≤ h ∧ d.rd Reg.numericsBiasLogRead ≤ h - size then
    let d := d.count Reg.numericsBiasLogLost
    if (d.raisedAt.find? (0x09, 0xFFFF, 1)).all fun t => t + secondTicks ≤ d.now then
      Dev.attend { d with raisedAt := d.raisedAt.put (0x09, 0xFFFF, 1) d.now } { bit := Bit.log, area := 0x09 }
    else d
  else
    let i := h % size
    let d := d.wr Reg.numericsBiasLogHead 0 ((h + 1) % 2 ^ 32)
    let put (d : Dev) (r : Reg) (v : Nat) : Dev := d.wr r i v
    let d := put (put (put d Reg.numericsBiasLog_sequence h) Reg.numericsBiasLog_context c) Reg.numericsBiasLog_stream stream
    let d := put (put (put d Reg.numericsBiasLog_tensor tensor) Reg.numericsBiasLog_channel ch) Reg.numericsBiasLog_old (ofSigned 8 old)
    let d := put (put (put d Reg.numericsBiasLog_new (ofSigned 8 new)) Reg.numericsBiasLog_cause cause) Reg.numericsBiasLog_unit unit
    put (put d Reg.numericsBiasLog_saturated (min sat 65535)) Reg.numericsBiasLog_underflowed (min under 65535)

/-- The least d of at least 1 with m × 2^-d below 32,768 (R262), `n` tries. -/
def leastShift : (n : Nat) → FVal → Nat → Nat
  | 0, _, k => k
  | n + 1, m, k => if (m.scale (-(k : Int))).lt (.num false 32768 0) then k else leastShift n m (k + 1)

/-- The bias update of one channel after a frame (R262, R263). -/
def Dev.updateBias (d : Dev) (c : Nat) (x : Context) (b : Binding) (unit k : Nat) : Dev :=
  let a := x.biasAddress b.slot k
  let e := d.biasAt x b.slot k
  let streak := (d.getByte (a + 1)).toNat
  let n := d.getNat (a + 4) 4
  let sat := d.getNat (a + 8) 4
  let under := d.getNat (a + 12) 4
  let m := f32v (d.getNat (a + 16) 4)
  let tc := tensorOfPlace x k
  let write (d : Dev) (e : Int) (streak : Nat) : Dev := d.store a (leBytes 2 (ofSigned 8 e + 256 * streak))
  let change (d : Dev) (want new : Int) (cause : Nat) : Dev :=
    let d := write d new 0
    let d := if new = e then d else d.count Reg.numericsBiasChanges
    if new != want then (d.count Reg.numericsBiasPinned).biasLog c b.stream tc.1 tc.2 e new 3 unit sat under
    else if new = e then d
    else d.biasLog c b.stream tc.1 tc.2 e new cause unit sat under
  let d := if d.rd Reg.numericsBiasSatMin ≤ sat then
      let want := e + (leastShift 256 m 1 : Nat)
      change d want (min want 16) 1
    else if n < under * 2 ^ d.rd Reg.numericsBiasUnderShift ∧ m.lt (.num false 16384 0) then
      if d.rd Reg.numericsBiasDownFrames ≤ streak + 1 then change d (e - 1) (max (e - 1) (-16)) 2
      else write d e (streak + 1)
    else write d e 0
  d.store (a + 4) (leBytes 16 0)

/-- The bias updates of a frame's stream (R262). -/
def Dev.updateBiases (d : Dev) (c : Nat) (x : Context) (b : Binding) (unit : Nat) : Dev :=
  (List.range x.manifest.biasChannels).foldl (fun d k => d.updateBias c x b unit k) d

/-- A lost bias table restarts from the plan's initial values, with an entry of cause 4 for each adaptive tensor (R265). -/
def Dev.restartBiases (d : Dev) (c : Nat) (x : Context) (b : Binding) : Dev :=
  let d := d.initBiasTable x b.slot
  (adaptiveTensors x.facts.tensors 0 0).foldl (fun d t => d.biasLog c b.stream t.1 0xFFFF 0 0 4 b.lastUnit 0 0) d

/-! ### Lost slots (R355, R592) -/

/-- A slot is lost: MEMORY with LEDGER_LOST, no history for its next frame, and the outputs of a frame in flight withheld. A loss
that reaches the bias table restarts it. An enrolment context faults. -/
def Dev.loseSlot (d : Dev) (c stream : Nat) (table : Bool) : Dev :=
  match d.ctx? c with
  | none => d
  | some x =>
    match x.binding? stream with
    | none => d
    | some b =>
      let d := (d.count Reg.recomputeLedgerLost).attend
        { bit := Bit.memory, code := 0x43, area := 0x0C, context := c, stream, detail := b.slot }
      let d := d.updCtx c fun x =>
        let x := x.updBinding stream fun b => { b with lost := true, history := false }
        { x with steps := x.steps.map fun s =>
            { s with frames := s.frames.map fun f => if f.frame.stream = stream then { f with withheld := true } else f } }
      let d := if table then d.restartBiases c x b else d
      if x.manifest.enrol then d.faultCtx c 0x43 0x0C else d

/-- What has become unreadable since a state of the device reaches a region: units newly poisoned, or a rank newly dead. -/
def Dev.newlyLost (d old : Dev) (a n : Nat) : Bool :=
  d.poison.any (fun u => !old.poison.contains u && overlaps u (poisonSize u) a n) ||
    d.lp.dead.any fun lr => !old.lp.dead.contains lr && touchesRank a n lr

/-- The slots that what is newly lost lies in: context, stream, and whether the bias table is reached. -/
def Dev.slotsHit (d old : Dev) : List (Nat × Nat × Bool) :=
  d.contexts.flatMap fun e => e.2.bindings.filterMap fun b =>
    if d.newlyLost old (e.2.slotAddress b.slot) e.2.manifest.slotBytes then
      some (e.1, b.stream, d.newlyLost old (e.2.biasAddress b.slot 0) (24 * e.2.manifest.biasChannels))
    else none

/-- Slots lost since a state of the device are reported (R355). -/
def Dev.reportLost (d old : Dev) : Dev :=
  (d.slotsHit old).foldl (fun d h => d.loseSlot h.1 h.2.1 h.2.2) d

/-- What the memory codes found in what a command read, with the slots it loses. -/
def Dev.eccAndSlots (d : Dev) (ecc : List EccEvent) : Dev := (d.eccErrors ecc).reportLost d

/-- MIGRATION_DONE (R467, R355): with the slots its unreadable units lose. -/
def migrationDoneSlots (l : List Nat) (d : Dev) : Dev := (migrationDoneEffect l d).reportLost d
def execMigrationDone (l : List Nat) (s : State) := act (.migrationDone l) (migrationDoneSlots l) s

/-! ### Changed blocks and causes (R341 to R345) -/

/-- The difference map of a frame, from its buffer: columns, rows, and the entry of a block. -/
def Dev.mapCols (d : Dev) (f : CalFrame) : Nat := d.getNat (f.pointer + 28) 2
def Dev.mapRows (d : Dev) (f : CalFrame) : Nat := d.getNat (f.pointer + 30) 2
def Dev.mapBlock (d : Dev) (f : CalFrame) (bx by_ : Nat) : Nat :=
  d.getNat (f.pointer + d.getNat (f.pointer + 24) 4 + 4 * (by_ * d.mapCols f + bx)) 4

/-- A block is changed under R341. -/
def Dev.blockChanged (d : Dev) (f : CalFrame) (bx by_ : Nat) : Bool :=
  let v := d.mapBlock f bx by_
  match bits v 16 16 with
  | 2 => true
  | 3 => true
  | 1 => d.rd Reg.recomputeStreamConfig_threshold f.stream < bits v 0 16
  | _ => false

/-- A row is in the refresh stripe of R342 for a computed count. -/
def stripeRow (rows n computed r : Nat) : Bool := r * n / rows == computed % n

/-- Blocks changed under R341 in a frame. -/
def Dev.changedCount (d : Dev) (f : CalFrame) : Nat :=
  ((List.range (d.mapRows f)).flatMap fun y => (List.range (d.mapCols f)).filter fun x => d.blockChanged f x y).length

/-- Why a frame has no history: the first cause of R344 that applies. -/
def Dev.noHistory (d : Dev) (b : Binding) (f : CalFrame) : Option Nat :=
  if b.first then some 1
  else if b.missed then some 2
  else if f.flags.testBit 8 || !f.hasMap then some 3
  else if !d.flag Reg.recomputeStreamConfig_enable f.stream then some 4
  else if b.lost then some 5
  else if b.faulted then some 6
  else if b.switched then some 7
  else if d.rd Reg.recomputeStreamConfig_cutPercent f.stream * (d.mapRows f * d.mapCols f) < d.changedCount f * 100 then some 8
  else none

/-! ### Cone tables (R346 to R348) -/

/-- A number in a context's cone table section. -/
def Dev.cone (d : Dev) (x : Context) (i n : Nat) : Nat :=
  match x.section? 8 with
  | some s => d.getNat (x.store + s.offset + i) n
  | none => 0

def Dev.coneLayers (d : Dev) (x : Context) : Nat := d.cone x 0 2
def Dev.coneLayer (d : Dev) (x : Context) (i : Nat) : Nat := d.cone x (d.cone x 16 8 + 32 * i) 32
def Dev.coneDep (d : Dev) (x : Context) (j k n : Nat) : Nat := d.cone x (d.cone x 24 8 + 24 * j + k) n

/-- The value a dimension would read now (R327; log entry 21). -/
def Dev.dimNow (d : Dev) (c : Nat) (x : Context) (frames k : Nat) : Nat :=
  match d.bound? x k with
  | none => 0
  | some b =>
    let v := match b.source with
      | 0 => frames
      | 1 => d.rd (Reg.plansContextBound_dim k) c
      | 2 => d.getNat (x.scratch + b.offset) 4
      | _ => b.max
    min v b.max

/-- Whether a layer restarts for its bias or for a dimension (R345); it may cause later layers to be computed in full too. -/
def Dev.restarts (d : Dev) (c : Nat) (x : Context) (b : Binding) (frames : Nat) (layer : Nat) : Bool × Bool :=
  let tensor := bits layer 8 16
  let now := d.biasesOf x b.slot
  let bias := (adaptiveTensors x.facts.tensors 0 0).any fun t =>
    t.1 == tensor && (List.range t.2.2).any fun k => now.getD (t.2.1 + k) 0 != b.biases.getD (t.2.1 + k) 0
  let mask := bits layer 192 16
  let dim := (List.range 16).any fun k => mask.testBit k && d.dimNow c x frames k != b.dims.getD k 0
  (bias, dim)

/-- Dirty tiles of a layer (R347), given those of the layers before it. -/
def Dev.dirtyLayer (d : Dev) (x : Context) (changed : Nat → Nat → Bool) (full : Bool) (layer : Nat)
    (before : List (List Bool)) : List Bool :=
  let whole := full || layer.testBit 1 || !layer.testBit 0
  let first := bits layer 128 32
  (List.range (bits layer 32 32)).map fun t =>
    whole || (List.range (bits layer 160 32)).any fun j =>
      let e := d.coneDep x (first + j)
      e 0 4 ≤ t && t ≤ e 4 4 &&
        if e 8 2 = 0xFFFF then
          (List.range (e 18 2 + 1 - e 16 2)).any fun y => (List.range (e 14 2 + 1 - e 12 2)).any fun z =>
            changed (e 12 2 + z) (e 16 2 + y)
        else
          let src := before.getD (e 8 2) []
          (List.range (e 16 4 + 1 - e 12 4)).any fun k => src.getD (e 12 4 + k) false

/-- A layer depends on a layer that is computed in full for a restart (R345). -/
def Dev.dependsOn (d : Dev) (x : Context) (layer : Nat) (restarted : List Bool) : Bool :=
  (List.range (bits layer 160 32)).any fun j =>
    let e := d.coneDep x (bits layer 128 32 + j)
    e 8 2 != 0xFFFF && restarted.getD (e 8 2) false

/-- What the evaluation of a frame has found so far, layer by layer: dirty tiles, which layers are computed in full for a restart, whether a
bias has changed, and how many layers restarted for their bias and for a dimension. -/
structure ConeWalk where
  dirty : List (List Bool) := []
  restarted : List Bool := []
  bias : Bool := false
  biases : Nat := 0
  dims : Nat := 0
  deriving DecidableEq, Repr

/-- The evaluation of a frame (R347). Every layer after one whose bias has changed, and every layer that depends on one that restarts, is
computed in full (R264, R345). -/
def Dev.evaluateCone (d : Dev) (c : Nat) (x : Context) (b : Binding) (f : CalFrame) (frames : Nat) (full : Bool) :
    ConeWalk :=
  let n := d.rd Reg.recomputeStreamConfig_refreshN f.stream
  let changed (bx by_ : Nat) : Bool := d.blockChanged f bx by_ || stripeRow (d.mapRows f) n b.computed by_
  (List.range (d.coneLayers x)).foldl (fun (w : ConeWalk) i =>
    let layer := d.coneLayer x i
    let r := d.restarts c x b frames layer
    let restarted := w.bias || r.1 || r.2 || d.dependsOn x layer w.restarted
    { dirty := w.dirty ++ [d.dirtyLayer x changed (full || restarted) layer w.dirty], restarted := w.restarted ++ [restarted],
      bias := w.bias || r.1, biases := w.biases + b2n r.1, dims := w.dims + b2n r.2 }) {}

/-- A frame's bitmap: the bit of each dirty tile at its layer's bit offset (R346). -/
def Dev.bitmapOf (d : Dev) (x : Context) (dirty : List (List Bool)) : Nat :=
  ((List.range dirty.length).zip dirty).foldl (fun a e =>
    let off := bits (d.coneLayer x e.1) 224 32
    ((List.range e.2.length).zip e.2).foldl (fun a t => if t.2 && !a.testBit (off + t.1) then a + 2 ^ (off + t.1) else a) a) 0

/-- Where the bitmap of the frame in a slot of the step lies (R351). -/
def Dev.bitmapAddress (d : Dev) (x : Context) (slot : Nat) : Nat := x.scratch + d.cone x 40 4 + slot * d.cone x 44 4

/-- The cone tables evaluated for one frame of a step (R351): its bitmap in scratch, its binding's record and counters. -/
def Dev.evaluateFrame (d : Dev) (c slot frames : Nat) (f : CalFrame) : Dev × Option Nat :=
  match d.ctx? c with
  | none => (d, none)
  | some x =>
    match x.binding? f.stream with
    | none => (d, none)
    | some b =>
      if x.manifest.ledgerBytes = 0 then (d, none)
      else
        let cause := d.noHistory b f
        let r := d.evaluateCone c x b f frames cause.isSome
        let all := r.dirty.flatMap id
        let dirty := (all.filter id).length
        let s := f.stream
        let biases := d.biasesOf x b.slot
        let d := d.store (d.bitmapAddress x slot) (leBytes (d.cone x 44 4) (d.bitmapOf x r.dirty))
        let d := d.updCtx c fun x => x.updBinding s fun b =>
          { b with first := false, missed := false, lost := false, faulted := false, switched := false, biases,
                   lastCause := cause.getD b.lastCause, dirtyShare := if all = [] then 0 else dirty * 1000 / all.length }
        let d := (d.count Reg.recomputeStreamCounters_computed s dirty).count Reg.recomputeStreamCounters_reused s (all.length - dirty)
        let d := d.count Reg.recomputeStreamCounters_frames s
        let d := match cause with
          | some k => d.count (Reg.recomputeStreamCounters_cause k) s
          | none => d.count Reg.recomputeStreamCounters_partial s
        ((d.count Reg.recomputeStreamCounters_restartBias s r.biases).count Reg.recomputeStreamCounters_restartDim s r.dims, cause)

/-- Whether an operation of the map at a store offset runs for a frame of the step (R348): absent from the map it runs; of the four
tiles it names, which are dirty in the frames they serve. -/
def Dev.opTiles (d : Dev) (x : Context) (offset : Nat) : Option (List Nat × Nat) :=
  let n := d.cone x 12 4
  let base := d.cone x 32 8
  ((List.range n).find? fun i => d.cone x (base + 32 * i) 8 == offset).map fun i =>
    ((List.range 4).map fun q => d.cone x (base + 32 * i + 12 + 4 * q) 4, d.cone x (base + 32 * i + 8) 2)

/-- Whether a tile of a layer is dirty in the frame of a slot. -/
def Dev.tileDirty (d : Dev) (x : Context) (slot layer tile : Nat) : Bool :=
  if tile = 0xFFFFFFFF then false
  else
    let bit := bits (d.coneLayer x layer) 224 32 + tile
    (d.getByte (d.bitmapAddress x slot + bit / 8)).getLsbD (bit % 8)

/-! ### Slot headers (R337) -/

/-- The header of a slot written after a frame's step. -/
def Dev.writeSlotHeader (d : Dev) (x : Context) (b : Binding) : Dev :=
  d.store (x.slotAddress b.slot) (leBytes 4 1 ++ leBytes 4 b.lastUnit ++ leBytes 8 b.computed ++
    (List.range 16).flatMap (fun k => leBytes 4 (b.dims.getD k 0)) ++ leBytes 4016 0)

/-- A binding entry of `recompute.stream.state` (R358), in the byte order of `plans.stream.contexts`. -/
def Dev.recomputeField (d : Dev) (s off : Nat) : Nat :=
  let k := off / 128
  let c := d.rd (Reg.plansStreamContexts_context k) s
  match (d.ctx? c).bind fun x => x.binding? s with
  | none => 0
  | some b =>
    match off % 128 with
    | 0 => c
    | 8 => b2n b.history + 2 * b2n b.lost + 4 * b2n b.missed + 8 * b2n b.faulted
    | 16 => b.slot
    | 32 => b.lastUnit
    | 64 => b.computed % 2 ^ 32
    | 96 => b.dirtyShare
    | 112 => b.lastCause
    | _ => 0

end Sys2Proof.Machine
end

