-- ==== Sys2Proof/Machine/Yard.lean ====
section
/-! DEFINITION. The Yard (R396 to R420, R428, R429, R435): frames that become ready, batch steps, entries, switch points, suspension
and restore, teardown, quiescing, and the Signal box's commands. -/

namespace Sys2Proof.Machine

/-! ### Frames (R317, R398, R402) -/

/-- A ready frame passed over: its hold ends and its stream's slot has missed a frame (R344). -/
def Dev.passOver (d : Dev) (c stream number : Nat) : Dev :=
  let d := d.count Reg.yardContextCounters_passedOver c
  let d := d.updCtx c fun x =>
    { x.updBinding stream (fun b => { b with missed := true }) with ready := x.ready.filter fun r => r.number != number }
  d.endHold number c

/-- Ready frames of a context that a step may bind (R398), oldest first, ties by stream; a stream that is leaving gives none (R318). -/
def Context.bindable (x : Context) : List Ready :=
  let firsts := (x.ready.zip (List.range x.ready.length)).filter fun e =>
    !((x.ready.take e.2).any fun r => r.stream == e.1.stream) &&
      (x.binding? e.1.stream).all (fun b => b.leaving == []) && (x.manifest.ledgerBytes == 0 || !x.streamBusy e.1.stream)
  isort (fun a b => a.since < b.since || (a.since == b.since && a.stream ≤ b.stream)) (firsts.map (·.1))

/-- The Yard may dispatch a step of a context, its work apart (R396, R400, R401, R405, R435). -/
def Dev.mayDispatch (d : Dev) (c : Nat) : Bool :=
  match d.ctx? c with
  | none => false
  | some x =>
    (x.state == .idle || x.state == .active) && x.unloading == [] && d.rd Reg.yardState == 0 && x.steps.length < d.effDepth c &&
      x.placement != [] && (x.latency || d.headroom)

/-- The oldest bindable frame of a context has waited gather_ticks (R401). -/
def Dev.gatherOver (d : Dev) (c : Nat) (x : Context) : Bool :=
  (x.bindable.head?).any fun r => r.since + d.rd Reg.yardContextConfig_gatherTicks c ≤ d.now

/-- A context has what a step needs (R401, R403). -/
def Dev.stepDue (d : Dev) (c : Nat) (x : Context) : Bool :=
  if x.manifest.maxStreams = 0 then 0 < x.credit
  else x.bindable != [] &&
    (x.latency || d.rd Reg.yardContextConfig_minBatch c ≤ x.bindable.length || (x.gathered && d.gatherOver c x))

/-- A frame taken by one context to which its stream is bound (R398, R402). -/
def Dev.frameToContext (d : Dev) (f : CalFrame) (c : Nat) : Dev :=
  match d.ctx? c with
  | none => d
  | some x =>
    let m := x.manifest
    if f.width != m.inWidth || f.height != m.inHeight then
      (d.passOver c f.stream f.number).streamOnce 0x0B f.stream 0x41 0 0x0B c
    else
      let waiting := x.ready.filter fun r => r.stream == f.stream
      let d := if d.rd Reg.yardContextConfig_backlog c ≤ waiting.length then
          match waiting.head? with
          | some r => d.passOver c f.stream r.number
          | none => d
        else d
      let d := d.updCtx c fun x => { x with ready := x.ready ++ [{ number := f.number, stream := f.stream, since := d.now }] }
      if x.latency && !(d.mayDispatch c) then d.missFrames c [f.number] else d

/-- FRAME_READY (R398): the frame takes a hold for each context its stream is bound to; with none its buffer returns (R317). -/
def frameReadyEffect (d : Dev) : Dev :=
  match d.signalled with
  | [] => d
  | n :: rest =>
    let d := { d with signalled := rest }
    match d.frames.find? fun f => f.number == n with
    | none => d
    | some f =>
      let cs := isort (· ≤ ·) ((d.contexts.filter fun e => (e.2.binding? f.stream).isSome).map (·.1))
      if cs = [] then d.returnFrame n
      else
        let d := { d with frames := d.frames.map fun g => if g.number = n then { g with holds := cs } else g }
        cs.foldl (fun d c => d.frameToContext f c) d

/-- GATHER_TIMEOUT (R401): the oldest bindable best-effort frame has waited gather_ticks. -/
def gatherTimeoutEffect (c : Nat) (d : Dev) : Dev :=
  match d.ctx? c with
  | none => d
  | some x => if !x.latency && d.gatherOver c x then d.updCtx c fun x => { x with gathered := true } else d

/-! ### Dispatch (R400, R404) -/

/-- The lowest step instance not in use (R400). -/
def Context.freeInstance (x : Context) : Nat :=
  ((List.range (x.steps.length + 1)).find? fun i => !x.steps.any fun s => s.instance_ == i).getD 0

/-- The list expanded: an entry with frame_loop once for each bound frame (R404). -/
def expand (es : List ListEntry) (frames : Nat) : List (ListEntry × Option Nat) :=
  es.flatMap fun e => if e.frameLoop then (List.range frames).map fun i => (e, some i) else [(e, none)]

/-- Latency-critical contexts with a cell on a core. -/
def Dev.latencyOn (d : Dev) (k : Nat) : List (Nat × Context) := d.contexts.filter fun e => e.2.latency && e.2.placement.contains k

/-- Frames of steps in flight. -/
def Context.framesInFlight (x : Context) : List Nat := x.steps.flatMap fun s => s.frames.map fun f => f.frame.number

/-- The latency-critical frames bound on a core are outside their reservation (R419, third condition). -/
def Dev.touched (d : Dev) (k : Nat) : Dev := (d.latencyOn k).foldl (fun d e => d.missFrames e.1 e.2.framesInFlight) d

/-- The second and third conditions of R419 as a step is dispatched. -/
def Dev.checkReservation (d : Dev) (c n : Nat) : Dev :=
  match d.ctx? c with
  | none => d
  | some x =>
    if !x.latency then d
    else x.placement.eraseDups.foldl (fun d k =>
      let on := d.latencyOn k
      let bound := on.flatMap fun e => e.2.framesInFlight.filter fun m =>
        (d.frames.find? fun f => f.number == m).any fun f => d.latencyStream f.stream
      let least := (on.filter fun e => e.2.steps != []).foldl (fun a e => min a e.2.manifest.batchMax) 256
      let d := if least < bound.length then d.touched k else d
      match (d.cores.getD k {}).serving with
      | some r =>
        if d.boostedCtx r.1 then d.missFrames c (((d.step? c n).map fun s => s.frames.map fun f => f.frame.number).getD []) else d
      | none => d) d

/-- The waits of a step's entries armed as the Yard places them, in list order. -/
def Dev.armEntries (d : Dev) (c n : Nat) : Dev :=
  match d.ctx? c, d.step? c n with
  | some x, some s =>
    ((List.range s.entries.length).zip s.entries).foldl (fun d e =>
      if e.2.e.waitCount = 0 || (d.step? c n).isNone then d
      else d.armWait c n e.1 (relocate x.counters s.instance_ e.2.e.waitCounter) e.2.e.waitCount x.latency) d
  | _, _ => d

/-- Frames bound in a step with frame_hold are kept (R317). -/
def Dev.keepBound (d : Dev) (c : Nat) (fs : List CalFrame) : Dev :=
  fs.foldl (fun d f =>
    (d.updCtx c fun x =>
      if x.manifest.frameHold = 0 then x
      else { x with kept := (x.kept.map fun k => if k.stream = f.stream then { k with later := k.later + 1 } else k) ++
                              [{ number := f.number, stream := f.stream, later := 0, ended := false }] }).trimKept c) d

/-- The cone tables of a step's frames evaluated, and what each frame's history is (R351). -/
def Dev.evaluateStep (d : Dev) (c n : Nat) : Dev :=
  match d.step? c n with
  | none => d
  | some s =>
    ((List.range s.frames.length).zip s.frames).foldl (fun d e =>
      let r := d.evaluateFrame c e.1 s.frames.length e.2.frame
      r.1.updStepFrame c n e.1 fun f => { f with cause := r.2 }) d

/-- A step of a context begins: it binds frames, or takes a unit of credit, and its entries are placed. -/
def Dev.dispatchStep (d : Dev) (c : Nat) (x : Context) : Dev :=
  let reduced := x.manifest.reduced && d.flag Reg.powerOpState_capped
  let take := if x.manifest.maxStreams = 0 then [] else x.bindable.take x.manifest.batchMax
  let fs := take.filterMap fun r => d.frames.find? fun f => f.number == r.number
  let n := x.dispatched
  let list := expand (d.commandList x reduced) fs.length
  let base := d.orderCount
  let entries : List StepEntry := ((List.range list.length).zip list).map fun e =>
    { e := e.2.1, frame := e.2.2, order := base + e.1, core := if e.2.1.engine = 1 then x.placement.getD e.2.1.cell 0 else 0 }
  let step : Step :=
    { number := n, instance_ := x.freeInstance, reduced, entries,
      frames := fs.map fun f => { frame := f, slot := ((x.binding? f.stream).map Binding.slot).getD 0 } }
  let d := fs.foldl (fun d f =>
    match x.binding? f.stream with
    | some b => if x.streamBusy f.stream then d else d.dropCounts x b.slot
    | none => d) d
  let d := d.updCtx c fun x =>
    { x with state := .active, dispatched := n + 1, gathered := false, reduced,
             credit := if x.manifest.maxStreams = 0 then x.credit - 1 else x.credit,
             ready := x.ready.filter (fun r => !take.contains r), steps := x.steps ++ [step],
             bindings := if reduced != x.reduced && n != 0 then x.bindings.map fun b => { b with switched := true }
                         else x.bindings }
  let d := { d with orderCount := base + list.length }
  let d := (d.count Reg.yardContextCounters_bound c fs.length).keepBound c fs
  let d := (d.evaluateStep c n).updCtx c fun x => { x with bindings := x.bindings.map fun b => { b with switched := false } }
  (d.checkReservation c n).armEntries c n

/-- STEP_DISPATCH (R400 to R404). -/
def stepDispatchEffect (c : Nat) (d : Dev) : Dev :=
  match d.ctx? c with
  | none => d
  | some x => if !d.mayDispatch c || !d.stepDue c x then d else d.dispatchStep c x

/-! ### Entries (R320, R327 to R330) -/

/-- The dimensions an entry reads. -/
def dimsUsed (e : ListEntry) : List Nat := (List.range 16).filter fun k => e.boundsUsed.testBit k

/-- A dimension read once for a step (R328, R330): kept, clamped and recorded, or fatal. -/
def Dev.readDim (d : Dev) (c n k : Nat) : Dev :=
  match d.ctx? c, d.step? c n with
  | some x, some s =>
    match s.dims.find? k, d.bound? x k with
    | some _, _ => d
    | none, none => d
    | none, some b =>
      let a := x.scratch + b.offset
      if b.source = 2 && d.poisoned a 4 then d.faultCtx c 0x82 0x14
      else
        let v := match b.source with
          | 0 => s.frames.length
          | 1 => d.rd (Reg.plansContextBound_dim k) c
          | 2 => d.getNat a 4
          | _ => b.max
        if v ≤ b.max then d.updStep c n fun s => { s with dims := s.dims.put k v }
        else if b.fatal then d.contextFault c codeContextFault 0x0B 0x0B k
        else
          let d := d.updStep c n fun s => { s with dims := s.dims.put k b.max, clamped := true }
          let d := d.updCtx c fun x => { x with shapeClamps := x.shapeClamps + 1 }
          let d := (((d.wr Reg.plansContextShapeClamp_dimension c k).wr Reg.plansContextShapeClamp_requested c v).wr
            Reg.plansContextShapeClamp_used c b.max).wr Reg.plansContextShapeClamp_step c (n % 2 ^ 32)
          d.attend { bit := Bit.clamped, code := 2, area := 0x0B, context := c, detail := k }
  | _, _ => d

/-- Two entries go to one queue: the same cell, or the same engine pool (R404). -/
def sameQueue (a b : ListEntry) : Bool := a.engine == b.engine && (a.engine != 1 || a.cell == b.cell)

/-- An earlier entry of a context's same queue is not past a test. -/
def Context.behind (x : Context) (e : StepEntry) (past : StepEntry → Bool) : Bool :=
  x.steps.any fun s => s.entries.any fun f => f.order < e.order && sameQueue f.e e.e && !past f

/-- The operation an entry's body names is one of R360, or the entry is for another engine. -/
def Dev.knownOp (d : Dev) (x : Context) (e : ListEntry) : Bool :=
  let op := (d.getByte (x.store + e.body)).toNat
  (e.engine != 3 || op == 1 || op == 2) && (e.engine != 4 || op == 1)

/-- ENTRY_ISSUE (R328 to R330): an entry whose wait is met reads its dimensions and goes to its engine; one that reads a 0 does
nothing more. -/
def entryIssueEffect (c n p : Nat) (deckle : Option DeckleBody) (d : Dev) : Dev :=
  match d.ctx? c, d.entry? c n p with
  | some x, some e =>
    if e.state != .placed || (e.wait.any fun w => !w.met) || x.behind e (fun f => f.state != .placed) ||
        (e.e.engine = 2 ∧ deckle = none) then d
    else
      let d := (dimsUsed e.e).foldl (fun d k => d.readDim c n k) d
      match d.step? c n with
      | none => d
      | some s =>
        if (dimsUsed e.e).any fun k => s.dims.getD k 0 == 0 then
          d.updEntry c n p fun e => { e with idle := true, state := .done }
        else if !d.knownOp x e.e then d.contextFault c codeContextFault 0x0B 0x0B 0x0B30
        else d.updEntry c n p fun e =>
          { e with state := .queued,
                   crops := if e.e.engine = 2 then
                       deckle.map fun b => { list := b.list, count := s.dims.getD b.dimension 0, results := b.results }
                     else none }
  | _, _ => d

def Dev.core (d : Dev) (k : Nat) : Core := d.cores.getD k {}
def Dev.updCore (d : Dev) (k : Nat) (f : Core → Core) : Dev := { d with cores := d.cores.put k (f (d.core k)) }

/-- The core that has an entry in service. -/
def Dev.coreOf (d : Dev) (c n p : Nat) : Option Nat := (List.range 32).find? fun k => (d.core k).serving == some (c, n, p)

/-- No drain of a core is still to come. -/
def Core.drained (x : Core) : Bool := x.array0.drains == [] && x.array1.drains == []

/-- ENTRY_COMPLETE (R320): an entry its engine has done, or a Press core command at its end, gives its signal. -/
def entryCompleteEffect (c n p : Nat) (d : Dev) : Dev :=
  match d.entry? c n p with
  | none => d
  | some e =>
    let core := d.coreOf c n p
    let ended := e.state == .service && e.e.engine == 1 && (e.wait.all Armed.met) && core.any fun k => (d.core k).drained
    if e.state == .done || ended then
      let d := match core with
        | some k => (d.updCore k fun x => { x with serving := none, last := c }).count Reg.pressCoreState_completed k
        | none => d
      let tgt := d.relocated c n e.e.signalCounter
      let d := d.updEntry c n p fun e => { e with state := .complete }
      d.signalFrom c tgt e.e.signalCount
    else d

/-! ### The end of a step (R262, R337, R404, R429) -/

/-- What a frame leaves in its stream's slot: biases, the header, and what the die remembers. -/
def Dev.closeFrame (d : Dev) (c : Nat) (s : Step) (f : StepFrame) : Dev :=
  match d.ctx? c with
  | none => d
  | some x =>
    match x.binding? f.frame.stream with
    | none => d
    | some b =>
      let d := if f.withheld then d.dropCounts x b.slot else d.updateBiases c x b f.frame.sequence
      let b : Binding :=
        { b with history := x.manifest.ledgerBytes != 0 && !f.withheld, lastUnit := f.frame.sequence, computed := b.computed + 1,
                 dims := (List.range 16).map fun k => (k, s.dims.getD k 0) }
      let d := d.updCtx c fun x => x.updBinding f.frame.stream fun _ => b
      if x.manifest.ledgerBytes = 0 || f.withheld then d else d.writeSlotHeader x b

/-- The latency-critical frames of a step for which a condition of R390 fails are counted. -/
def Dev.countTrackerMisses (d : Dev) (s : Step) : Dev :=
  let fs := s.frames.filter fun f => d.latencyStream f.frame.stream && f.found.td != 0
  let w := fs.foldl (fun a f => a + f.found.td) 0
  let most := fs.foldl (fun a f => max a f.found.td) 0
  let te := fs.foldl (fun a f => a + f.found.te) 0
  let et := ((List.range (d.rd Reg.trackerEnginesPresented)).filter fun e => !d.flag Reg.trackerEngineState_retired e).length
  let beyond := et = 0 ∨ 150000 < ceilDiv w et + most + 2048 ∨ 37500 < te + 2048
  d.count Reg.trackerLcMisses 0 (fs.filter fun f => f.found.late || beyond).length

/-- A step ends: its frames are closed, its tracker misses counted, its instance's counters cleared, and the boundary behind it passed. -/
def Dev.endStep (d : Dev) (c n : Nat) (x : Context) (s : Step) : Dev :=
  let d := s.frames.foldl (fun d f => d.closeFrame c s f) d
  let d := d.countTrackerMisses s
  let d := match x.binding? 0xFFFF with
    | some b => d.updateBiases c x b n
    | none => d
  let d := s.frames.foldl (fun d f => d.frameStepEnds c f.frame.number) d
  let d := d.clearInstance c x.counters s.instance_ true
  let d := d.updCtx c fun x => { x with steps := x.steps.filter (fun t => t.number != n), completed := x.completed + 1 }
  thenAbandon ((d.count Reg.yardContextCounters_completed c).stepBoundary c)

/-- STEP_COMPLETE (R404): every entry has given its signals. -/
def stepCompleteEffect (c n : Nat) (d : Dev) : Dev :=
  match d.ctx? c, d.step? c n with
  | some x, some s => if !s.entries.all fun e => e.state == .complete then d else d.endStep c n x s
  | _, _ => d

/-! ### Switch points (R406 to R418) -/

/-- A Press core command the Yard may choose: its context, step and place, and the entry. -/
structure Choice where
  context : Nat
  step : Nat
  pos : Nat
  entry : StepEntry
  deriving Inhabited

/-- Every Press core entry that is queued or suspended. -/
def Dev.choices (d : Dev) : List Choice :=
  d.contexts.flatMap fun e => e.2.steps.flatMap fun s =>
    (((List.range s.entries.length).zip s.entries).filter fun p =>
      p.2.e.engine == 1 && (p.2.state == .queued || p.2.state == .suspended)).map fun p =>
        { context := e.1, step := s.number, pos := p.1, entry := p.2 }

/-- A command ranks as latency-critical (R407, R418). -/
def Dev.critical (d : Dev) (c : Nat) : Bool := ((d.ctx? c).any Context.latency) || d.boostedCtx c

/-- Cores that may serve a context's cells (R313). -/
def Dev.mayServe (d : Dev) (c : Nat) : List Nat := ((d.ctx? c).map fun x => d.eligible x.manifest x.latency).getD []

/-- A choice may go to a core: a queued command to the core of its cell, a suspended one to it or, while it serves another, to the
lowest-numbered free one (R404, R415); entries of one cell keep their order. -/
def Dev.mayTakeAt (d : Dev) (k : Nat) (x : Choice) : Bool :=
  (d.mayServe x.context).contains k &&
    !((d.ctx? x.context).any fun y => y.behind x.entry fun f => f.state == .done || f.state == .complete) &&
    (x.entry.core == k ||
      (x.entry.state == .suspended && (d.core x.entry.core).serving.isSome &&
        !(d.mayServe x.context).any fun j => j < k && (d.core j).serving.isNone))

/-- A command is runnable: its next wait, if any, is met (R407). -/
def Dev.runnable (d : Dev) (x : Choice) : Bool :=
  match x.entry.wait with
  | none => true
  | some w => w.met || (w.remote.isNone && d.wouldMeet x.context w.counter w.need)

/-- The choice of least key. -/
def least (key : Choice → Nat) (xs : List Choice) : Option Choice :=
  xs.foldl (fun (a : Option Choice) x => match a with
    | none => some x
    | some y => if key x < key y then some x else some y) none

/-- The first choice of the third class of R407: contexts in turn after the one served last. -/
def rotate (last : Nat) (xs : List Choice) : Option Choice :=
  match least (fun x => (x.context + 63 - last) % 64) xs with
  | none => none
  | some y => least (fun x => x.entry.order) (xs.filter fun x => x.context == y.context)

/-- First of the latency-critical and boosted commands that may run on a core, then of the others (R407). -/
def Dev.firstCritical (d : Dev) (k : Nat) : Option Choice :=
  least (fun x => x.entry.order) (d.choices.filter fun x => d.critical x.context && d.mayTakeAt k x && d.runnable x)
def Dev.firstOther (d : Dev) (k : Nat) (needRunnable : Bool) : Option Choice :=
  let xs := d.choices.filter fun x =>
    (!d.critical x.context || !needRunnable) && d.mayTakeAt k x && (!needRunnable || d.runnable x)
  let last := (d.core k).last
  match rotate last (xs.filter fun x => x.entry.state == .suspended) with
  | some x => some x
  | none => if needRunnable then rotate last (xs.filter fun x => x.entry.state == .queued) else none

/-- The save record of a context's cell (R412). -/
def Context.saveAddress (x : Context) (cell : Nat) : Nat := x.save + cell * saveRecordBytes

/-- The Press buffer of a core, 4 MiB (R212): what lies beyond it reads as nothing known and takes no write (log entry 148). -/
def pressBytes : Nat := 4194304
def Core.byte (x : Core) (a : Nat) : Byte :=
  if a < pressBytes then (Memory.find? x.buffer a).getD (blank x.lost a) else Config.beyondBuffer a
def Core.bytes (x : Core) (a n : Nat) : List Byte := (List.range n).map fun i => x.byte (a + i)
def Core.put : Core → Nat → List Byte → Core
  | x, _, [] => x
  | x, a, b :: bs => Core.put (if a < pressBytes then { x with buffer := Memory.set x.lost x.buffer a b } else x) (a + 1) bs

/-- A vector register's element and a scalar byte that nothing has written. -/
def Core.blankReg (x : Core) (r k : Nat) : Nat :=
  leNat ((List.range 4).map fun i => blank x.lost (2 ^ 40 + 2048 * r + 4 * k + i))
def Core.blankScalar (x : Core) (i : Nat) : Byte := blank x.lost (2 ^ 41 + i)
def Core.reg (x : Core) (r k : Nat) : Nat := x.vregs.getD (r, k) (x.blankReg r k)

/-- The saved state of a vector engine (R237). -/
def Core.vectorState (x : Core) : List Byte :=
  ((List.range 32).flatMap fun r => (List.range 512).flatMap fun k => leBytes 4 (x.reg r k)) ++
    (List.range 256).map fun i => x.scalars.getD i (x.blankScalar i)

/-- A vector engine's state from its saved bytes. -/
def Core.loadVector (x : Core) (get : Nat → Byte) : Core :=
  let word (a : Nat) : Nat := leNat ((List.range 4).map fun i => get (a + i))
  { x with
    vregs := (List.range 32).flatMap fun r => (List.range 512).map fun k => ((r, k), word (r * 2048 + 4 * k))
    scalars := (List.range 256).map fun i => (i, get (65536 + i)) }

/-- The arrays as a release by the Yard finds them: idle, no weights, nothing to accumulate onto (R238). -/
def Core.freshArrays (x : Core) : Core := { x with array0 := {}, array1 := {}, origin := none }

/-- What a core's shell held before its power domain went off is lost (R25): what it reads as since is not given (log entry 26). -/
def Core.lose (x : Core) (k : Nat) : Core := { x with buffer := [], vregs := [], scalars := [], lost := some k }

/-- The command in service of a core suspended: its state saved, its wait abandoned (R412, R414). -/
def Dev.suspend (d : Dev) (k c n p : Nat) : Dev :=
  match d.ctx? c, d.entry? c n p with
  | some x, some e =>
    let a := x.saveAddress e.e.cell
    let core := d.core k
    let resume := d.fresh
    let d := resume.2
    let d := d.store a (core.bytes 0 x.manifest.pressBytes)
    let d := d.store (a + 4194304) core.vectorState
    let d := d.store (a + 4260096) (leBytes 256 resume.1)
    let waiting := e.wait.any fun w => !w.met
    let d := if waiting then
        (d.withdraw fun w => match w with
          | .entry c' n' p' => c' == c && n' == n && p' == p
          | .remote _ _ => false).cancelRemote c n p false
      else d
    let d := d.updEntry c n p fun e => { e with state := .suspended, atSwitch := false }
    let d := d.updCore k fun y => { y.freshArrays with serving := none }
    (d.count Reg.yardContextCounters_suspensions c).count Reg.yardContextCounters_saveBytes c (x.manifest.pressBytes + 65792 + 256)
  | _, _ => d

/-- A command taken into service: a suspended one is restored, and its wait is met or armed again (R414, R415). -/
def Dev.take (d : Dev) (k : Nat) (y : Choice) : Dev :=
  match d.ctx? y.context with
  | none => d
  | some x =>
    let c := y.context
    let d := d.updEntry c y.step y.pos fun e => { e with state := .service, atSwitch := false }
    let d := d.updCore k fun z => { z.freshArrays with serving := some (c, y.step, y.pos), last := c }
    if y.entry.state = .suspended then
      let a := x.saveAddress y.entry.e.cell
      let n := x.manifest.pressBytes
      if d.poisoned a n || d.poisoned (a + 4194304) 65792 then d.faultCtx c 0x82 (if a < vatBase then 0x15 else 0x14)
      else
        let d := d.updCore k fun z => (z.put 0 (d.getBytes a n)).loadVector fun i => d.getByte (a + 4194304 + i)
        match y.entry.wait with
        | none => d
        | some w =>
          if w.met then d
          else
            let d : Dev := { d with remoteWaits := d.remoteWaits.filter fun v =>
              !(v.context == c && v.step == y.step && v.pos == y.pos) }
            d.armWait c y.step y.pos w.counter w.need x.latency
    else d

/-- The suspension R418 makes on a core: a runnable boosted command finds every core that may serve its cell held by a
latency-critical command waiting at a switch point, and this core's is of the step dispatched last. -/
def Dev.boostedFor (d : Dev) (k : Nat) : Option Choice :=
  let waitingAt (j : Nat) : Option Nat :=
    match (d.core j).serving with
    | none => none
    | some r =>
      match d.entry? r.1 r.2.1 r.2.2 with
      | some e => if ((d.ctx? r.1).any Context.latency) && e.atSwitch && (e.wait.any fun w => !w.met) then some e.order else none
      | none => none
  least (fun x => x.entry.order) (d.choices.filter fun x =>
    d.boostedCtx x.context && d.runnable x && (d.mayServe x.context).contains k &&
      (d.mayServe x.context).all fun j => match waitingAt j, waitingAt k with
        | some o, some own => o < own || (o == own && k ≤ j)
        | _, _ => false)

/-- A command taken at a switch point, with what R416 and R419 count of it. -/
def Dev.takeCounted (d : Dev) (k : Nat) (y : Choice) (waited overrun : Bool) : Dev :=
  let d := if d.boostedCtx y.context then d.touched k else d
  let d := if waited && overrun && ((d.ctx? y.context).any Context.latency) then
      (d.count Reg.yardPreemptOverruns).missFrames y.context
        (((d.step? y.context y.step).map fun s => s.frames.map fun f => f.frame.number).getD [])
    else d
  d.take k y

/-- SWITCH_POINT (R407, R411, R418): the core takes the first runnable command, keeps the one in service, or suspends it. -/
def switchPointEffect (k : Nat) (overrun : Bool) (d : Dev) : Dev :=
  if !d.coreAlive k then d
  else
    let d := match (d.core k).serving with
      | some r => if (d.entry? r.1 r.2.1 r.2.2).isNone then
          d.updCore k fun x => { x.freshArrays with serving := none } else d
      | none => d
    match (d.core k).serving with
    | none =>
      match d.firstCritical k <|> d.firstOther k true <|> d.firstOther k false with
      | some y => d.takeCounted k y false overrun
      | none => d
    | some r =>
      match d.entry? r.1 r.2.1 r.2.2 with
      | none => d
      | some e =>
        let waiting := e.wait.any fun w => !w.met
        let resume (d : Dev) : Dev := d.updEntry r.1 r.2.1 r.2.2 fun e => { e with atSwitch := waiting }
        if !e.atSwitch then d
        else if d.critical r.1 then
          match d.boostedFor k with
          | some y => (((d.touched k).suspend k r.1 r.2.1 r.2.2).takeCounted k y false overrun)
          | none => resume d
        else
          match d.firstCritical k with
          | some y => (d.suspend k r.1 r.2.1 r.2.2).takeCounted k y true overrun
          | none =>
            if !waiting then resume d
            else match d.firstOther k true with
              | some y => (d.suspend k r.1 r.2.1 r.2.2).takeCounted k y false overrun
              | none => resume d

/-! ### Operations of the command in service (R423, R424) -/

/-- The command a core has in service, when it waits on nothing. -/
def Dev.running (d : Dev) (k : Nat) : Option (Nat × Nat × Nat × StepEntry) :=
  if !d.coreAlive k then none
  else match (d.core k).serving with
    | none => none
    | some r =>
      match d.entry? r.1 r.2.1 r.2.2 with
      | some e => if e.wait.all Armed.met then some (r.1, r.2.1, r.2.2, e) else none
      | none => none

/-- The command a core issues operations of: it waits on nothing, and the Yard has released it from its last switch point (R238). -/
def Dev.issuing (d : Dev) (k : Nat) : Option (Nat × Nat × Nat × StepEntry) := (d.running k).filter fun r => !r.2.2.2.atSwitch

/-- SIGNAL (R423): an operation signals a counter. -/
def signalEffect (k counter n : Nat) (d : Dev) : Dev :=
  match d.issuing k with
  | none => d
  | some (c, s, p, _) =>
    let d := d.updEntry c s p fun e => { e with given := if 224 ≤ counter ∧ counter < 240 then e.given ++ [counter] else e.given }
    d.signalFrom c (d.relocated c s counter) n

/-- WAIT (R424): an operation waits for `n` units; a wait of 0 units is no wait. -/
def waitEffect (k counter n : Nat) (d : Dev) : Dev :=
  match d.running k with
  | none => d
  | some (c, s, p, _) =>
    if n = 0 then d
    else d.armWait c s p (d.relocated c s counter) n ((d.ctx? c).any Context.latency)

/-! ### Teardown and the Yard's commands (R403, R434, R435) -/

/-- TEARDOWN_END (R434, R592): the context becomes idle, or halted; a PLAN_UNLOAD that came meanwhile closes it. -/
def teardownEndEffect (c : Nat) (d : Dev) : Dev :=
  match d.ctx? c with
  | none => d
  | some x =>
    if x.state != .faulting then d
    else if x.unloading != [] then thenAbandon ((d.updCtx c fun x => { x with state := .closing }).finishUnload c)
    else
      let halt := d.flag Reg.yardContextConfig_haltOnFault c || d.eligible x.manifest x.latency == [] || x.manifest.enrol
      thenAbandon ((d.updCtx c fun x => { x with state := if halt then .halted else .idle }).stepBoundary c)

/-- YARD_RUN (R403). -/
def yardRunEffect (q i : Nat) (d : Dev) : Dev :=
  match d.takeCommand q i 0x1001 with
  | none => d
  | some f =>
    let c := f.context
    let n := le f.entry 8 4
    if d.rd Reg.yardState != 0 then d.complete q i 0x81 0x10
    else match d.ctx? c with
      | none => d.complete q i 0x80 0x10
      | some x =>
        if x.manifest.maxStreams != 0 || 2 ^ 32 ≤ x.credit + n then d.complete q i 0x80 0x10
        else (d.updCtx c fun x => { x with credit := x.credit + n }).complete q i 0 0x10 (x.credit + n)

/-- A YARD_CONTROL command with an op. -/
def Dev.takeControl (d : Dev) (q i op : Nat) : Option Fetched :=
  (d.takeCommand q i 0x1002).filter fun f => byteAt f.entry 8 == op && !f.started

/-- QUIESCE (R435). -/
def quiesceEffect (q i : Nat) (d : Dev) : Dev :=
  match d.takeControl q i 0 with
  | none => d
  | some _ =>
    if d.rd Reg.yardState = 1 then d.complete q i 0x81 0x10
    else
      let d := if d.rd Reg.yardState = 0 then d.wr Reg.yardState 0 1 else d
      Dev.checkQuiesce { d.startCommand q i with quiescing := d.quiescing ++ [(q, i)] }

/-- END_QUIESCE (R435). -/
def endQuiesceEffect (q i : Nat) (d : Dev) : Dev :=
  match d.takeControl q i 1 with
  | none => d
  | some _ => (d.wr Reg.yardState 0 0).complete q i 0 0x10

/-- RESUME_HALTED (R435). -/
def resumeHaltedEffect (q i : Nat) (d : Dev) : Dev :=
  match d.takeControl q i 2 with
  | none => d
  | some f =>
    match d.ctx? f.context with
    | none => d.complete q i 0x80 0x10
    | some x =>
      if x.state != .halted || d.eligible x.manifest x.latency == [] then d.complete q i 0x80 0x10
      else (d.updCtx f.context fun x => { x with state := if x.steps = [] then .idle else .active }).complete q i 0 0x10

/-! ### SIGNAL_OP (R428) -/

/-- A SIGNAL_OP command with an op, and its counter. -/
def Dev.takeSignalOp (d : Dev) (q i op : Nat) : Option Fetched :=
  (d.takeCommand q i 0x1101).filter fun f => byteAt f.entry 10 == op
def signalOpKey (f : Fetched) : Nat := counterKey f.context (le f.entry 8 2)

/-- SIGNAL_OP_SIGNAL (R428). The count after the op is the one the signal leaves, before waiters take from it. -/
def signalOpSignalEffect (q i : Nat) (d : Dev) : Dev :=
  match d.takeSignalOp q i 0 with
  | none => d
  | some f =>
    let k := signalOpKey f
    let n := le f.entry 12 2
    let after := min 65535 (d.rd Reg.signalCounterState_count k + n)
    (d.applySignal k n false).complete q i 0 0x11 after

/-- SIGNAL_OP_TAKE (R428). -/
def signalOpTakeEffect (q i : Nat) (d : Dev) : Dev :=
  match d.takeSignalOp q i 1 with
  | none => d
  | some f =>
    let k := signalOpKey f
    let n := le f.entry 12 2
    let v := d.rd Reg.signalCounterState_count k
    if n ≤ v then (d.wr Reg.signalCounterState_count k (v - n)).complete q i 0 0x11 (v - n)
    else ((d.setFlag Reg.signalCounterState_misuse k true).count Reg.signalCounters_misuses).complete q i codeMisuse 0x11 v

/-- SIGNAL_OP_READ (R428). -/
def signalOpReadEffect (q i : Nat) (d : Dev) : Dev :=
  match d.takeSignalOp q i 2 with
  | none => d
  | some f => d.complete q i 0 0x11 (d.rd Reg.signalCounterState_count (signalOpKey f))

/-! ### The objects of area 0x10 that follow the contexts (R436) -/

def YardState.code : YardState → Nat
  | .idle => 1
  | .active => 2
  | .faulting => 3
  | .halted => 4
  | .closing => 5

/-- A field of `yard.context.state` as it reads. -/
def Dev.yardStateField (d : Dev) (c off : Nat) : Nat :=
  match d.ctx? c with
  | none => 0
  | some x =>
    match off with
    | 0 => x.state.code
    | 3 => b2n x.latency
    | 4 => b2n (d.boostedCtx c)
    | 5 => b2n (d.underProvisioned x)
    | 8 => d.effDepth c
    | 16 => x.steps.length
    | 24 => x.counters
    | 32 => x.ready.length
    | 64 => x.steps.foldl (fun a s => a + (s.entries.filter fun e => e.state == .suspended).length) 0
    | 96 => x.faults
    | 128 => x.faultCode
    | 136 => x.faultArea
    | 144 => x.faultDetail
    | 160 => x.credit
    | 192 => x.dispatched
    | _ => 0

/-- A field of `press.core.state` that follows the command in service (R245). -/
def Dev.coreStateField (d : Dev) (k off : Nat) : Nat :=
  match (d.core k).serving with
  | none => if off = 16 then 0xFFFF else 0
  | some r => if off = 16 then r.1 else 1

def execFrameReady (s : State) := act .frameReady frameReadyEffect s
def execStepDispatch (c : Nat) (s : State) := act (.stepDispatch c) (stepDispatchEffect c) s
def execGatherTimeout (c : Nat) (s : State) := act (.gatherTimeout c) (gatherTimeoutEffect c) s
def execYardRun (q i : Nat) (s : State) := act (.yardRun q i) (yardRunEffect q i) s
def execEntryIssue (c n p : Nat) (b : Option DeckleBody) (s : State) := act (.entryIssue c n p b) (entryIssueEffect c n p b) s
def execEntryComplete (c n p : Nat) (s : State) := act (.entryComplete c n p) (entryCompleteEffect c n p) s
def execStepComplete (c n : Nat) (s : State) := act (.stepComplete c n) (stepCompleteEffect c n) s
def execSwitchPoint (k : Nat) (o : Bool) (s : State) := act (.switchPoint k o) (switchPointEffect k o) s
def execTeardownEnd (c : Nat) (s : State) := act (.teardownEnd c) (teardownEndEffect c) s
def execQuiesce (q i : Nat) (s : State) := act (.quiesce q i) (quiesceEffect q i) s
def execEndQuiesce (q i : Nat) (s : State) := act (.endQuiesce q i) (endQuiesceEffect q i) s
def execResumeHalted (q i : Nat) (s : State) := act (.resumeHalted q i) (resumeHaltedEffect q i) s
def execSignal (k n u : Nat) (s : State) := act (.signal k n u) (signalEffect k n u) s
def execWait (k n u : Nat) (s : State) := act (.wait k n u) (waitEffect k n u) s
def execSignalOpSignal (q i : Nat) (s : State) := act (.signalOpSignal q i) (signalOpSignalEffect q i) s
def execSignalOpTake (q i : Nat) (s : State) := act (.signalOpTake q i) (signalOpTakeEffect q i) s
def execSignalOpRead (q i : Nat) (s : State) := act (.signalOpRead q i) (signalOpReadEffect q i) s

end Sys2Proof.Machine
end

