-- ==== Sys2Proof/Machine/Numerics.lean ====
section
/-! DEFINITION. The random unit (R272 to R275), draws (R256 to R258, R273), conversion at the drain and at vector stores (R253 to R255,
R266), and what the counters of area 0x09 and the bias tables gather of it (R254, R261). -/

namespace Sys2Proof.Machine

/-! ### Philox-4x32-10 (R272, R273) -/

/-- The four words of a counter or a draw. -/
structure Words where
  x0 : Nat
  x1 : Nat
  x2 : Nat
  x3 : Nat
  deriving DecidableEq, Repr

/-- One round under a key. -/
def philoxRound (k0 k1 : Nat) (x : Words) : Words :=
  let a := 0xD2511F53 * x.x0
  let b := 0xCD9E8D57 * x.x2
  { x0 := Nat.xor (Nat.xor (b / 2 ^ 32) x.x1) k0, x1 := b % 2 ^ 32, x2 := Nat.xor (Nat.xor (a / 2 ^ 32) x.x3) k1, x3 := a % 2 ^ 32 }

/-- `n` rounds, the key incremented between them. -/
def philoxRounds : (n : Nat) → (k0 k1 : Nat) → Words → Words
  | 0, _, _, x => x
  | n + 1, k0, k1, x => philoxRounds n ((k0 + 0x9E3779B9) % 2 ^ 32) ((k1 + 0xBB67AE85) % 2 ^ 32) (philoxRound k0 k1 x)

/-- The output for a seed and a counter. -/
def philox (seed : Nat) (x : Words) : Words := philoxRounds 10 (bits seed 0 32) (bits seed 32 32) x

/-- The counter of draw `g` (R273). -/
def drawCounter (tensor step stream purpose g : Nat) : Words :=
  { x0 := bits g 0 32, x1 := bits g 32 16 + 65536 * (tensor % 65536), x2 := step % 2 ^ 32,
    x3 := stream % 65536 + 65536 * (purpose % 16) }

/-- The 16 bytes of draw `g` (R273, R274). -/
def drawBytes (seed tensor step stream purpose g : Nat) : List Byte :=
  let w := philox seed (drawCounter tensor step stream purpose g)
  leBytes 4 w.x0 ++ leBytes 4 w.x1 ++ leBytes 4 w.x2 ++ leBytes 4 w.x3

/-- The check of R275 on the draw for key (0, 0) and counter (0, 0, 0, 0). -/
def philoxSelftest : Bool :=
  philox 0 { x0 := 0, x1 := 0, x2 := 0, x3 := 0 } == { x0 := 0x6627E8D5, x1 := 0xE169C58D, x2 := 0xBC57AC4C, x3 := 0x9B00DBD8 }

/-! ### Draws in the Press buffer (R257) -/

/-- The step field of R273 for work of a step of a context (R258, R269, R271): the number of the training step, from 1, for the rounding of
an enrolment job, and 0 otherwise. A batch step of such a job is one training step (log entry 149). -/
def Context.drawStep (x : Context) (s : Step) (purpose : Nat) : Nat := if x.manifest.enrol ∧ purpose = 0 then s.number + 1 else 0

/-- Which draws an element takes (R257, R273): of a tensor, a purpose, a step and a stream. -/
structure DrawKey where
  tensor : Nat
  purpose : Nat
  step : Nat
  stream : Nat
  deriving DecidableEq, Repr

/-- The draws of a region. -/
def DrawRegion.key (r : DrawRegion) : DrawKey := { tensor := r.tensor, purpose := r.purpose, step := r.step, stream := r.stream }

/-- Where the 16-bit draw of an element lies: in the region filled last that has it. -/
def drawPlace (rs : List DrawRegion) (key : DrawKey) (index : Nat) : Option Nat :=
  (rs.reverse.find? fun r => r.key == key && r.first ≤ index && index < r.first + r.count).map fun r =>
    r.address + 2 * (index - 8 * (r.first / 8))

/-- The 16-bit draw of an element; where no region of the command has it, no rule gives it: a free value. -/
def Dev.draw16 (d : Dev) (core : Core) (rs : List DrawRegion) (key : DrawKey) (index : Nat) : Nat × Dev :=
  match drawPlace rs key index with
  | some a => (leNat (core.bytes a 2), d)
  | none => let f := d.fresh; (f.1 % 65536, f.2)

/-! ### Conversion (R253 to R256) -/

/-- A converted element: its encoding and what it counts as. -/
structure Converted where
  value : Nat
  saturated : Bool
  underflowed : Bool
  nan : Bool
  deriving DecidableEq, Repr

/-- x rounded to a 16-bit format, to nearest or with a draw. -/
def convert (bf : Bool) (x : FVal) (draw : Option Nat) : Converted :=
  let f := if bf then Fmt.bf16 else Fmt.f16
  let r := match draw with
    | none => f.saturate x
    | some k => f.stochastic x k
  { value := r.1, saturated := r.2, nan := x.isNan,
    underflowed := !bf && x.isFinite && !x.isZero && bits r.1 0 15 < 0x0400 }

/-- u of R253 for an entry and its channel's σ and β. -/
def drainU (entry sigma beta : Nat) : Nat := fadd (fmul entry (h32 sigma)) beta

/-- The counters of area 0x09 for one converted element. -/
def Dev.countConverted (d : Dev) (v : Converted) (stochastic : Bool) : Dev :=
  let d := if v.saturated then d.count Reg.numericsCounters_saturated else d
  let d := if v.underflowed then d.count Reg.numericsCounters_underflowed else d
  let d := if v.nan then d.count Reg.numericsCounters_nan else d
  if stochastic then d.count Reg.numericsCounters_stochastic else d

/-- One element converted for a channel of an output tensor and a slot (R253, R261): with the draw of its logical index where the
conversion is stochastic. -/
def Dev.convertFor (d : Dev) (x : Context) (slot tensor ch : Nat) (bf : Bool) (v : FVal) (draw : Option Nat) : Nat × Dev :=
  let z := v.scale (-(d.tensorBias x slot tensor ch))
  let r := convert bf z draw
  let d := d.countConverted r draw.isSome
  let d := match x.biasPlace tensor ch with
    | some k => if bf then d else d.gather x slot k z.isZero r.saturated r.underflowed (rne32 z.abs)
    | none => d
  (r.value, d)

/-! ### Argmax (R266) -/

/-- The column with the greatest u, the lowest among equals; columns whose u is NaN take no part. -/
def argmaxOf (us : List Nat) : Option (Nat × Nat) :=
  ((List.range us.length).zip us).foldl (fun (best : Option (Nat × Nat)) e =>
    if (f32v e.2).isNan then best
    else match best with
      | none => some e
      | some b => if flt b.2 e.2 then some e else best) none

/-- The 4-byte pair of an entry (R229, R266), and what its value counts as. -/
def argmaxPair (us : List Nat) : Nat × Converted :=
  match argmaxOf us with
  | none => (65536 * Fmt.f16.nan, { value := Fmt.f16.nan, saturated := false, underflowed := false, nan := true })
  | some e =>
    let r := convert false (f32v e.2) none
    (e.1 + 65536 * r.value, r)

end Sys2Proof.Machine
end

