-- ==== Sys2Proof/Machine/Deckle.lean ====
section
/-! DEFINITION. The Deckle (R206 to R209, R211): affine crops of Calender output for context work. -/

namespace Sys2Proof.Machine

/-- A crop entry (R206). -/
structure Crop where
  source : Nat
  level : Nat
  replicate : Bool
  width : Nat
  height : Nat
  coeffs : List Nat
  pads : List Nat
  output : Nat
  reserved : Nat
  deriving DecidableEq, Repr

def parseCrop (v : Nat) : Crop :=
  { source := bits v 0 64, level := bits v 64 8, replicate := v.testBit 72, width := bits v 80 16, height := bits v 96 16,
    coeffs := (List.range 6).map fun i => bits v (128 + 32 * i) 32, pads := (List.range 3).map fun i => bits v (320 + 16 * i) 16,
    output := bits v 384 64, reserved := bits v 73 7 + bits v 112 16 + bits v 368 16 + bits v 448 64 }

/-- Planes of a Calender output buffer, and the entry of a level (R201). -/
def Dev.bufferPlanes (d : Dev) (a : Nat) : Nat := d.getNat (a + 20) 1
def Dev.bufferLevel (d : Dev) (a k : Nat) : LevelEntry :=
  { width := d.getNat (a + 32 + 16 * k) 2, height := d.getNat (a + 34 + 16 * k) 2, pitch := d.getNat (a + 36 + 16 * k) 4,
    offset := d.getNat (a + 40 + 16 * k) 4 }

/-- An allocated buffer of calender.vat_pool. -/
def Dev.isOutput (d : Dev) (a : Nat) : Bool :=
  let p := d.rd Reg.calenderVatPool
  (d.bufferAt p a).any fun b => (d.pool p).allocated.any fun e => e.1 == b

/-- The result code of a crop entry (R208): BAD_POINTER, CROP_INVALID, or OK. -/
def Dev.cropCode (d : Dev) (x : Crop) : Nat :=
  let bytes := d.bufferPlanes x.source * x.height * levelPitch x.width
  if !d.isOutput x.source || x.output < vatBase || vatBase + d.vatMapped < x.output + bytes then 0x21
  else if d.getNat (x.source + 19) 1 ≤ x.level || x.width == 0 || 512 < x.width || x.height == 0 || 512 < x.height || x.reserved != 0 ||
      x.coeffs.any (fun a => !(f32v a).isFinite) then 0x80
  else 0

/-- A sample of a level, or the pad value or the edge sample outside it (R207). -/
def Dev.cropSample (d : Dev) (c : Crop) (l : LevelEntry) (plane : Nat) (x y : Int) : Nat :=
  let at_ (x y : Nat) : Nat := h32 (d.getNat (c.source + l.offset + (plane * l.height + y) * l.pitch + 2 * x) 2)
  if 0 ≤ x ∧ x < (l.width : Int) ∧ 0 ≤ y ∧ y < (l.height : Int) then at_ x.toNat y.toNat
  else if c.replicate then at_ (min x.toNat (l.width - 1)) (min y.toNat (l.height - 1))
  else h32 (c.pads.getD plane 0)

/-- One output sample (R207): the bilinear terms accumulate row by row (log entry 23). -/
def Dev.cropOut (d : Dev) (c : Crop) (l : LevelEntry) (plane i j : Nat) : Nat :=
  let half := rne32 (.num false 1 (-1))
  let k (n : Nat) : Nat := c.coeffs.getD n 0
  let u := fadd (fint j) half
  let v := fadd (fint i) half
  let x := fsub (fadd (fadd (fmul (k 0) u) (fmul (k 1) v)) (k 4)) half
  let y := fsub (fadd (fadd (fmul (k 2) u) (fmul (k 3) v)) (k 5)) half
  if !(f32v x).isFinite || !(f32v y).isFinite then Fmt.f16.nan
  else
    let x0 := (f32v x).floor
    let y0 := (f32v y).floor
    let fx := fsub x (fint x0)
    let fy := fsub y (fint y0)
    let gx := fsub fone fx
    let gy := fsub fone fy
    let s := fmul (fmul gx gy) (d.cropSample c l plane x0 y0)
    let s := fadd s (fmul (fmul fx gy) (d.cropSample c l plane (x0 + 1) y0))
    let s := fadd s (fmul (fmul gx fy) (d.cropSample c l plane x0 (y0 + 1)))
    Fmt.f16.round (f32v (fadd s (fmul (fmul fx fy) (d.cropSample c l plane (x0 + 1) (y0 + 1)))))

/-- One crop entry cut, with its result. -/
def Dev.cutCrop (d : Dev) (e at_ result : Nat) : Dev :=
  let c := parseCrop (d.getNat at_ 64)
  let code := d.cropCode c
  let d' := if code != 0 then d
    else
      let l := d.bufferLevel c.source c.level
      let planes : List Plane := (List.range (d.bufferPlanes c.source)).map fun p =>
        (List.range c.height).map fun i => (List.range c.width).map fun j => d.cropOut c l p i j
      (d.storePlanes c.output planes).count Reg.deckleEngineState_cut e
  d'.store result (leBytes 4 code)

/-- Deckles not retired. -/
def Dev.liveDeckles (d : Dev) : List Nat :=
  (List.range (d.rd Reg.deckleEnginesPresented)).filter fun e => !d.flag Reg.deckleEngineState_retired e

/-- The entries of an engine pool that wait for it, as choices. -/
def Dev.poolChoices (d : Dev) (engine : Nat) : List Choice :=
  d.contexts.flatMap fun e => e.2.steps.flatMap fun s =>
    (((List.range s.entries.length).zip s.entries).filter fun p => p.2.e.engine == engine && p.2.state == .queued).map fun p =>
      { context := e.1, step := s.number, pos := p.1, entry := p.2 }

/-- The entry an engine pool serves next: latency-critical ones first, each class in dispatch order (R209, R361). -/
def Dev.poolNext (d : Dev) (engine : Nat) : Option Choice :=
  let xs := d.poolChoices engine
  least (fun x => x.entry.order) (xs.filter fun x => (d.ctx? x.context).any Context.latency) <|>
    least (fun x => x.entry.order) (xs.filter fun x => !(d.ctx? x.context).any Context.latency)

/-- DECKLE_ENTRY (R206 to R209): the next crop of the command in turn is cut; the command is done after its last. -/
def deckleEntryEffect (e : Nat) (d : Dev) : Dev :=
  if !d.liveDeckles.contains e then d
  else match d.poolNext 2 with
    | none => d
    | some y =>
      match y.entry.crops with
      | none => d
      | some w =>
        let d := if w.cut < w.count then d.cutCrop e (w.list + 64 * w.cut) (w.results + 4 * w.cut) else d
        d.updEntry y.context y.step y.pos fun f =>
          { f with crops := some { w with cut := w.cut + 1 }, state := if w.cut + 1 < w.count then .queued else .done }

/-- DECKLE_FAULT (R211): the Deckle resets; the entry it had is cut again. -/
def deckleFaultEffect (e : Nat) (d : Dev) : Dev :=
  if d.liveDeckles.contains e then d.engineFault 0x07 e Reg.deckleEngineState_retired Reg.deckleEngineState_resets .deckle else d

def execDeckleEntry (e : Nat) (s : State) := act (.deckleEntry e) (deckleEntryEffect e) s
def execDeckleFault (e : Nat) (s : State) := act (.deckleFault e) (deckleFaultEffect e) s

end Sys2Proof.Machine
end

