-- ==== Sys2Proof/Machine/Dio.lean ====
section
/-! DEFINITION. Discrete lines as Points and the host drive them (R380, R573 to R576), and the CAN FD event queue (R381, R68). -/

namespace Sys2Proof.Machine

def Dev.dioLine (d : Dev) (k : Nat) : DioLine := d.dio.getD k {}
def Dev.updDio (d : Dev) (k : Nat) (f : DioLine → DioLine) : Dev := { d with dio := d.dio.put k (f (d.dioLine k)) }

/-- A line is asserted (R380, R575): by the host, or by a pulse or a latch of Points. -/
def Dev.dioAsserted (d : Dev) (k : Nat) : Bool :=
  let l := d.dioLine k
  match d.rd Reg.pinsDioConfig_owner k with
  | 1 => l.host
  | 2 => l.pulseEnd.isSome || l.latched
  | _ => false

/-- An action on a line (R379, R380): it latches, or it pulses for pulse_ms; a running pulse ends at the later of the two ends. A line
that is not given to Points ignores it. -/
def Dev.driveLine (d : Dev) (a : Nat) : Dev :=
  let k := d.rd Reg.pointsAction_line a
  if d.rd Reg.pinsDioConfig_owner k != 2 then d.count Reg.pointsCounters_linesNotGiven
  else if d.flag Reg.pointsAction_latch a then d.updDio k fun l => { l with latched := true, taken := true }
  else
    let end_ := d.now + d.rd Reg.pointsAction_pulseMs a * 3125
    match (d.dioLine k).pulseEnd with
    | none => d.updDio k fun l => { l with pulseEnd := some end_, taken := true }
    | some t =>
      if t < end_ then (d.updDio k fun l => { l with pulseEnd := some end_ }).count Reg.pointsCounters_pulsesExtended else d

/-- The latches of the lines a mask names end (R380). -/
def Dev.applyDioRelease (d : Dev) (mask : Nat) : Dev :=
  ((List.range 16).filter mask.testBit).foldl (fun d k => d.updDio k fun l => { l with latched := false }) d

/-- An event frame joins the queue of 64, or is dropped (R381); while the port is disabled nothing leaves it and frames are dropped
as when it is full (R577). -/
def Dev.queueEvent (d : Dev) (f : CanFrame) : Dev :=
  if d.canEvents.length < 64 && d.flag Reg.pinsCanEnable then { d with canEvents := d.canEvents ++ [f] }
  else (d.count Reg.pointsCounters_canDropped).attend { bit := Bit.link, area := 0x0E, detail := 0x0E01 }

/-- DIO_PULSE_END (R380): the pulses of a line have run out. -/
def dioPulseEndEffect (k : Nat) (d : Dev) : Dev :=
  match (d.dioLine k).pulseEnd with
  | some t => if t ≤ d.now then d.updDio k fun l => { l with pulseEnd := none } else d
  | none => d

def execDioPulseEnd (k : Nat) (s : State) := act (.dioPulseEnd k) (dioPulseEndEffect k) s

end Sys2Proof.Machine
end

