-- ==== Sys2Proof/Machine/Elementary.lean ====
section
/-! DEFINITION. The elementwise functions of R267, each within 2 units in the last place of its exact value: that value to far more bits than
FP32 has, and the choice, which the manual does not give, among the FP32 values so near to it (log entry 6). -/

namespace Sys2Proof.Machine

/-! ### Numbers in units of 2^-256 -/

def fixOne : Int := 2 ^ 256
def fixMul (a b : Int) : Int := a * b / fixOne
def fixDiv (a b : Int) : Int := a * fixOne / b

/-- A finite value in these units, rounded down. -/
def FVal.toFix : FVal → Int
  | .num s m e =>
    let x : Int := if s then -(m : Int) else m
    if -256 ≤ e then x * (2 ^ (e + 256).toNat : Nat) else x / (2 ^ (-256 - e).toNat : Nat)
  | _ => 0
def FVal.ofFix (x : Int) : FVal := .num (x < 0) x.natAbs (-256)

/-! ### Series -/

/-- The terms of the exponential series from the n-th on. -/
def expTerms : (left n : Nat) → (t term : Int) → Int
  | 0, _, _, term => term
  | k + 1, n, t, term => term + expTerms k (n + 1) t (fixMul term t / (n : Int))

/-- A number squared `n` times. -/
def squares : Nat → Int → Int
  | 0, x => x
  | n + 1, x => squares n (fixMul x x)

/-- e^x, for |x| up to 128. -/
def expFix (x : Int) : Int := squares 16 (expTerms 30 1 (x / 65536) fixOne)

/-- The terms of the series of atanh z from z^k on, `z2` being z². -/
def atanhTerms : (left k : Nat) → (z2 power : Int) → Int
  | 0, _, _, _ => 0
  | n + 1, k, z2, power => power / (k : Int) + atanhTerms n (k + 2) z2 (fixMul power z2)
def atanhFix (z : Int) : Int := atanhTerms 100 1 (fixMul z z) z

/-- The terms of Σ (-x²)^n / (n! (2n + 1)) from the n-th on. -/
def erfTerms : (left n : Nat) → (x2 term : Int) → Int
  | 0, _, _, _ => 0
  | k + 1, n, x2, term => term / (2 * (n : Int) + 1) + erfTerms k (n + 1) x2 (-(fixMul term x2) / ((n : Int) + 1))

/-! ### Exact values -/

/-- |v| is below an integer. -/
def FVal.within (v : FVal) (n : Nat) : Bool := v.abs.lt (.ofInt n)

def exactExp : FVal → Option FVal
  | .num s m e =>
    let v := FVal.num s m e
    if v.within 128 then some (.ofFix (expFix v.toFix)) else some (if s then .num false 0 0 else .num false 1 200)
  | _ => none

def exactLog : FVal → Option FVal
  | .num false (m + 1) e =>
    let l := Nat.log2 (m + 1)
    let y := FVal.toFix (.num false (m + 1) (-(l : Int)))
    some (.ofFix (2 * ((e + l) * atanhFix (fixDiv fixOne (3 * fixOne)) + atanhFix (fixDiv (y - fixOne) (y + fixOne)))))
  | _ => none

def exactRsqrt : FVal → Option FVal
  | .num false (m + 1) e => some (FVal.div (.ofInt 1) (FVal.sqrt (.num false (m + 1) e)))
  | _ => none

def exactTanh : FVal → Option FVal
  | .num s m e =>
    let v := FVal.num s m e
    if v.abs.lt (.num false 1 (-20)) then some v
    else if v.within 60 then
      let x := expFix (2 * v.toFix)
      some (.ofFix (fixDiv (x - fixOne) (x + fixOne)))
    else some (.num s 1 0)
  | _ => none

def exactSigmoid : FVal → Option FVal
  | .num s m e =>
    let v := FVal.num s m e
    if v.within 128 then some (.ofFix (fixDiv fixOne (fixOne + expFix (-v.toFix)))) else some (if s then .num false 0 0 else .num false 1 0)
  | _ => none

/-- 2 ÷ √π is 1.1283791670955125738961589031215451716881012586580. -/
def exactErf : FVal → Option FVal
  | .num s m e =>
    let v := FVal.num s m e
    if v.within 8 then
      let x := v.toFix
      let sum := erfTerms 320 0 (fixMul x x) fixOne
      some (v.mul (.ofFix (sum * 11283791670955125738961589031215451716881012586580 / 10 ^ 49)))
    else some (.num s 1 0)
  | _ => none

/-! ### The FP32 result -/

/-- An FP32 encoding of magnitude as a value; infinity stands at 2^128. -/
def magnitude (r : Nat) : FVal := if r = Fmt.f32.inf then .num false 1 128 else f32v r

/-- One of the FP32 values within 2 units in the last place of a value, by a choice; the nearest where the choice is not so near. -/
def nearUlps (v : FVal) (choice : Nat) : Nat :=
  let near := rne32 v
  let r := min Fmt.f32.inf (near % 2 ^ 31 + choice % 5 - 2)
  match v with
  | .num s m e =>
    let off := (magnitude r).add (FVal.num true m e)
    if FVal.lt (.num false 1 ((Fmt.f32.grid m e).2.1 + 1)) off.abs then near else Fmt.f32.sign s + r
  | _ => near

/-- An encoding with the canonical NaN for any NaN (R249). -/
def canonical (r : Nat) : Nat := if (f32v r).isNan then fnan else r % 2 ^ 32

/-- A function of R267: a NaN gives NaN; where the function has no finite value, no rule gives the result. -/
def elementary (exact : FVal → Option FVal) (choice : Nat → Nat) (a : Nat) : Nat :=
  if (f32v a).isNan then fnan
  else match exact (f32v a) with
    | some v => nearUlps v (choice a)
    | none => canonical (choice a)

def fexp : Nat → Nat := elementary exactExp Config.fexp
def flog : Nat → Nat := elementary exactLog Config.flog
def frsqrt : Nat → Nat := elementary exactRsqrt Config.frsqrt
def ftanh : Nat → Nat := elementary exactTanh Config.ftanh
def fsigmoid : Nat → Nat := elementary exactSigmoid Config.fsigmoid
def ferf : Nat → Nat := elementary exactErf Config.ferf

end Sys2Proof.Machine
end

