-- ==== Sys2Proof/Machine/Press.lean ====
section
/-! DEFINITION. Press cores (R212 to R246): passes, drains, tile boundaries, data mover transfers, random fills and core faults. -/

namespace Sys2Proof.Machine

/-! ### Arrays of a core -/

def Core.array (x : Core) (a : Nat) : PressArray := if a = 0 then x.array0 else x.array1
def Core.updArray (x : Core) (a : Nat) (f : PressArray → PressArray) : Core :=
  if a = 0 then { x with array0 := f x.array0 } else { x with array1 := f x.array1 }
def PressArray.set? (x : PressArray) (t : Bool) : Option WeightTile := if t then x.set1 else x.set0

/-- The area of a device address: LPDDR6 or the Vat (R474). -/
def memArea (a : Nat) : Nat := if a < vatBase then 0x15 else 0x14

/-- The command a core has in service ends without its signal, and its context faults (R219, R242, R465). -/
def Dev.endFaulty (d : Dev) (k c code area : Nat) : Dev :=
  (d.updCore k fun x => { x.freshArrays with serving := none }).faultCtx c code area

/-! ### Operands of a pass (R321, R348) -/

/-- What one quadrant of a pass has: whether its tile runs, whether the step binds the frame it serves, that frame's state slot and stream,
its destination, and its descriptor. -/
structure Quad where
  number : Nat
  runs : Bool
  served : Bool
  slot : Nat
  stream : Nat
  dest : Nat
  desc : WinDesc
  deriving DecidableEq, Repr, Inhabited

/-- The frame of the step a quadrant serves (R321): its place, or none beyond the frames bound. Work bound to no frame has one, whose
biases are the context's own (R259). -/
def quadFrame (x : Context) (s : Step) (e : StepEntry) (record q : Nat) : Option Nat :=
  if x.manifest.maxStreams = 0 then some 0
  else
    let i := e.frame.getD 0 + bits record (240 + 8 * q) 8
    if i < s.frames.length then some i else none

/-- The state slot and the stream of a frame of a step; work bound to no stream draws as 0xFFFF (R273). -/
def slotOf (s : Step) (i : Nat) : Nat := ((s.frames[i]?).map StepFrame.slot).getD 0
def streamOf (s : Step) (i : Nat) : Nat := ((s.frames[i]?).map fun f => f.frame.stream).getD 0xFFFF

/-- Whether the tile of a quadrant runs (R348): its operation is absent from the map, or its own tile is dirty. -/
def Dev.tileRuns (d : Dev) (x : Context) (offset q : Nat) (frame : Option Nat) : Bool :=
  match d.opTiles x offset with
  | none => true
  | some (tiles, layer) => frame.any fun i => d.tileDirty x i layer (tiles.getD q 0xFFFFFFFF)

/-- The quadrants of the pass at a store offset. -/
def Dev.quads (d : Dev) (x : Context) (s : Step) (e : StepEntry) (offset : Nat) : List Quad :=
  let a := x.store + offset
  let record := d.getNat a 64
  (modeQuads record).map fun q =>
    let frame := quadFrame x s e record q
    { number := q, runs := d.tileRuns x offset q frame, served := frame.isSome, slot := slotOf s (frame.getD 0),
      stream := streamOf s (frame.getD 0), dest := if q = 0 then bits record 128 32 else bits record (256 + 32 * q) 32,
      desc := parseWindow (d.getNat (a + 64 + 64 * q) 64) }

/-- An operation of the map is skipped: every tile it names is clean (R348). -/
def Dev.skipped (d : Dev) (x : Context) (s : Step) (e : StepEntry) (offset : Nat) : Bool :=
  (d.opTiles x offset).isSome &&
    (modeQuads (d.getNat (x.store + offset) 64)).all fun q =>
      !d.tileRuns x offset q (quadFrame x s e (d.getNat (x.store + offset) 64) q)

/-! ### What loads (R219, R348) -/

/-- A pass loads its weights: keep is clear, or the pass that would have loaded them was skipped (R348). -/
def Dev.loads (d : Dev) (x : Context) (s : Step) (e : StepEntry) (r : PressArray) (ref : PassRef) (m : Nat) : Bool :=
  !modeKeep m || (d.skipped x s e ref.loader && (r.idle || (r.set? r.tag).map WeightTile.loader != some ref.loader))

/-! ### Sums (R250 to R252, R284, R292) -/

/-- The activation of an element: none is marked padding. The stored ones are scaled by the bias of their channel (R251). -/
def Dev.activation (d : Dev) (x : Context) (core : Core) (slot : Nat) (input : Option Nat) (bf : Bool) (w : WinDesc) :
    Element → Option FVal
  | .marked => none
  | .outside => none
  | .constant => some (Fmt.f16.decode w.pconst)
  | .stored a ch _ =>
    let v := (if bf then Fmt.bf16 else Fmt.f16).decode (leNat (core.bytes a 2))
    if bf then some v
    else some (v.scale ((input.map fun t => d.tensorBias x slot t ch).getD 0))

/-- The expanded weight of a dense index (R247 to R250), from the packed weights and the group scales of its output channel. -/
def expanded (fmt : Nat) (packed : Nat → Byte) (scale : Nat → Nat) (k : Nat) : FVal :=
  let scaled (bitsOf : Nat) (i : Int) : FVal := if bitsOf = 8 then .ofInt i else (FVal.ofInt i).mul (Fmt.f16.decode (scale (k / 64) % 65536))
  match fmt with
  | 0 => scaled 8 (toSigned 8 (packed k).toNat)
  | 1 => scaled 4 (toSigned 4 (bits (packed (k / 2)).toNat (4 * (k % 2)) 4))
  | 2 => scaled 2 (toSigned 2 (bits (packed (k / 4)).toNat (2 * (k % 4)) 2))
  | _ => fp8 (packed k).toNat

/-- The physical columns in service of a half-array, in rising order, from the array's column map (R230, R231). -/
def columnsOf (map half : Nat) : List Nat := ((List.range 130).map (130 * half + ·)).filter map.testBit

/-- The half-array of logical column `j` of a pass, and which of its columns in service carries it (R231); in split mode `j` is the local
column of quadrant `q`. -/
def columnPlace (m q j : Nat) : Nat × Nat :=
  let c := classWidth (modeClass m) / 2
  if modeSplit m then (q % 2, j) else (j / c, j % c)

/-- The physical column of a logical one (R231). -/
def physicalColumn (map m q j : Nat) : Option Nat := (columnsOf map (columnPlace m q j).1)[(columnPlace m q j).2]?

/-- What cell (row, physical column) of an array holds of a tile (R215, R231, R292): none is a structural zero. Bypassed columns, columns
beyond those used and quadrants that are not active hold zero. -/
def WeightTile.cell (w : WeightTile) (map p row : Nat) : Option FVal :=
  let half := p / 130
  let i := (columnsOf map half).idxOf p
  let split := modeSplit w.mode
  let c := classWidth (modeClass w.mode) / 2
  let q := if split then half + 2 * (row / 128) else 0
  let j := if split then i else c * half + i
  let r := if split then row % 128 else row
  let used := i < c && j < modeCols w.mode
  match if used then w.windows.find? fun e => e.1 == q else none with
  | none => some (.num false 0 0)
  | some e =>
    let x := parseWindow e.2
    if x.structural r j then none
    else some (expanded (modeWfmt w.mode) (Config.packedByte w.bytes q j) (Config.groupScale w.bytes q j) (x.denseIndex w.kprev r))

/-- The product of a cell, FP32: marked elements and structural zeros give +0 (R251, R284, R292). -/
def product (weight a : Option FVal) : Nat :=
  match weight, a with
  | some w, some v => rne32 (w.mul v)
  | _, _ => 0

/-- A column's sum (R252): rows beyond the pass's give ±0, which changes nothing. -/
def columnSum (weights activations : List (Option FVal)) : Nat :=
  (weights.zip activations).foldl (fun s e => fadd s (product e.1 e.2)) 0

/-- The accumulator column of logical column `j` of a quadrant, and the half (R224). -/
def accColumn (split : Bool) (q j : Nat) : Nat := if split then 128 * (q % 2) + j else j
def accHalf (m q : Nat) : Nat := if modeSplit m then q / 2 else modeHalf m

/-- The sums of one quadrant written into a half (R217, R224): every one of the M entries, in each logical column of the pass, from the
physical column that carries it. A pass that accumulates adds each sum to its entry. `open_` is what entries that no pass has written hold,
by column and entry. -/
def AccHalf.writeQuad (h : AccHalf) (map m : Nat) (q : Quad) (weights : WeightTile) (open_ : Nat → Nat → Nat)
    (rows : Nat → List (Option FVal)) : AccHalf :=
  (List.range (modeCols m)).foldl (fun h j =>
    match physicalColumn map m q.number j with
    | none => h
    | some p =>
      let ws := (List.range (modeRows m)).map fun i => weights.cell map p (if modeSplit m then 128 * (q.number / 2) + i else i)
      let col := accColumn (modeSplit m) q.number j
      (List.range (modeVectors m)).foldl (fun (h : AccHalf) v =>
        let s := columnSum ws (rows v)
        let v' := if modeAccumulate m then fadd (h.cells.getD (col, v) (open_ col v)) s else s
        { h with cells := h.cells.put (col, v) v' }) h) h

/-! ### PASS_ENTRY -/

/-- The array after a pass: its sums, its weights and tag, its cycles, and the drain that follows (R220 to R225). -/
def Dev.afterPass (d : Dev) (x : Context) (core : Core) (r : PressArray) (map m record : Nat) (loads : Bool) (ref : PassRef) (t : PassTiming)
    (qs : List Quad) (windows : List (Nat × Nat)) : PressArray :=
  let tag := r.nextTag loads
  let tile : WeightTile :=
    if loads then
      { bytes := core.bytes (bits record 64 32) (bits record 96 32), mode := m, loader := if modeKeep m then ref.loader else ref.offset,
        kprev := ref.kprev, windows }
    else (r.set? tag).getD default
  let r := if tag then { r with set1 := some tile } else { r with set0 := some tile }
  let open_ (col v : Nat) : Nat := Config.freeNat (d.free + 256 * col + v) % 2 ^ 32
  let rows (q : Quad) (v : Nat) : List (Option FVal) := (List.range (modeRows m)).map fun i =>
    if !q.served then some (.num false 0 0) else d.activation x core q.slot ref.input (modeBf16 m) q.desc (q.desc.rowElement (q.desc.q0 + v) i)
  let r := (qs.filter Quad.runs).foldl (fun r q => r.updHalf (accHalf m q.number) fun h => h.writeQuad map m q tile open_ (rows q)) r
  let r := r.entered m loads t
  if modeDrain m then
    let job : DrainJob :=
      { mode := m, constants := bits record 192 32, pitch := bits record 160 32, tensor := bits record 224 16, channel := ref.channel,
        half0 := r.halfA, half1 := r.halfB, reads := drainReads m (entryCycles t.start t.gaps (modeVectors m)),
        tgt := (qs.filter fun q => q.runs && q.served).map fun q =>
          { half := accHalf m q.number, column := accColumn (modeSplit m) q.number 0, dest := q.dest, slot := q.slot, stream := q.stream,
            position := q.desc.q0, vectors := modeVectors m } }
    { r with drains := r.drains ++ [job] }
  else r

/-- A pass is held: the array stands at a boundary, or one follows a drain still to come (R238). -/
def PressArray.atBoundary (r : PressArray) : Bool := r.stopped || r.boundary.isSome || r.drains.any fun j => modeBoundary j.mode

/-- The bubble fraction of a context's class in 64ths (R483): boosted work counts as latency-critical. -/
def Dev.bubbleFraction (d : Dev) (c : Nat) : Nat := if d.critical c then d.rd Reg.powerOpState_kLc else d.rd Reg.powerOpState_kBe

/-- PASS_ENTRY (R217 to R224, R348): the pass at a store offset of the body in service enters, is skipped with all it names clean, or is
invalid. A pass whose conditions of R222 do not hold yet does not enter. -/
def passEntryEffect (k : Nat) (ref : PassRef) (t : PassTiming) (d : Dev) : Dev :=
  match d.issuing k with
  | none => d
  | some (c, n, p, e) =>
    match d.ctx? c, d.step? c n with
    | some x, some s =>
      let core := d.core k
      let r := core.array ref.array
      let a := x.store + ref.offset
      let record := d.getNat a 64
      let m := bits record 0 64
      let length := if modeSplit m then 320 else 128
      let before := e.passed.any fun q => q.1 == ref.array && ref.offset ≤ q.2
      if ref.offset < e.e.body || e.e.body + e.e.bodyBytes < ref.offset + length || before || r.atBoundary then d
      else if d.poisoned a length then d.endFaulty k c 0x82 (memArea a)
      else if d.skipped x s e ref.offset then d
      else
        let qs := d.quads x s e ref.offset
        let loads := d.loads x s e r ref m
        let halves := popCount 2 (d.rd Reg.pressArrayState_halves (2 * k + ref.array))
        if !passValid r (d.rd Reg.pressCoreState_width k) halves m loads (qs.map Quad.desc) then d.endFaulty k c 0x80 0x08
        else if !r.mayEnter (d.bubbleFraction c) m loads t || core.origin.any (· != t.origin) then d
        else
          let lost := (r.earliest m loads t).lost t.start (entryCycles t.start t.gaps (modeVectors m))
          let windows := (modeQuads m).map fun q => (q, d.getNat (a + 64 + 64 * q) 64)
          let r := d.afterPass x core r (d.rd Reg.pressArrayColumnMap_map (2 * k + ref.array)) m record loads ref t qs windows
          let d := d.updCore k fun y => { y.updArray ref.array (fun _ => r) with origin := some t.origin }
          let d : Dev := if modeAccumulate m then { d with free := d.free + 131072 } else d
          let d := d.updEntry c n p fun f => { f with passed := f.passed ++ [(ref.array, ref.offset)] }
          let d := (d.count Reg.pressArrayState_passes (2 * k + ref.array)).count Reg.pressCounters_entry k (modeVectors m)
          let d := (d.count Reg.pressCounters_loadWait k lost.1).count Reg.pressCounters_modeWait k lost.2.1
          (d.count Reg.pressCounters_drainHold k lost.2.2.1).count Reg.pressCounters_idle k lost.2.2.2
    | _, _ => d

/-! ### DRAIN (R225 to R229, R253) -/

/-- σ and β of a logical column among the pass's constants: pairs of 6 bytes, σ first (log entry 22). -/
def constantsAt (core : Core) (at_ j : Nat) : Nat × Nat := (leNat (core.bytes (at_ + 6 * j) 2), leNat (core.bytes (at_ + 6 * j + 2) 4))

/-- The entries of a drained row, by logical column. -/
def DrainJob.entries (j : DrainJob) (tgt : DrainTo) (v : Nat) : List Nat :=
  (List.range (modeCols j.mode)).map fun col => (if tgt.half = 0 then j.half0 else j.half1).cells.getD (tgt.column + col, v) 0

/-- u of R253 for every column of a row. -/
def DrainJob.row (j : DrainJob) (core : Core) (tgt : DrainTo) (v : Nat) : List Nat :=
  let es := j.entries tgt v
  ((List.range es.length).zip es).map fun e =>
    let k := constantsAt core j.constants e.1
    drainU e.2 k.1 k.2

/-- One element converted at the drain, with its draw where the pass asks for one (R253, R257). -/
def Dev.drainElement (d : Dev) (k : Nat) (x : Context) (s : Step) (rs : List DrawRegion) (j : DrainJob) (tgt : DrainTo) (v col u : Nat) :
    Nat × Dev :=
  let facts := (x.facts.tensors[j.tensor]?).getD default
  let ch := j.channel + col
  let r : Option Nat × Dev := if modeSround j.mode then
      let key : DrawKey := { tensor := j.tensor, purpose := 0, step := x.drawStep s 0, stream := tgt.stream }
      let w := d.draw16 (d.core k) rs key ((tgt.position + v) * facts.channels + ch)
      (some w.1, w.2)
    else (none, d)
  r.2.convertFor x tgt.slot j.tensor ch facts.bf16 (f32v u) r.1

/-- One entry row drained to its destination. -/
def Dev.drainRow (d : Dev) (k : Nat) (x : Context) (s : Step) (rs : List DrawRegion) (j : DrainJob) (tgt : DrainTo) (v : Nat) : Dev :=
  let us := j.row (d.core k) tgt v
  let at_ := tgt.dest + v * j.pitch
  if modeArgmax j.mode then
    let w := argmaxPair us
    (d.countConverted w.2 false).updCore k fun y => y.put at_ (leBytes 4 w.1)
  else
    let r := ((List.range us.length).zip us).foldl (fun (acc : List Byte × Dev) e =>
      let w := acc.2.drainElement k x s rs j tgt v e.1 e.2
      (acc.1 ++ leBytes 2 w.1, w.2)) ([], d)
    r.2.updCore k fun y => y.put at_ r.1

/-- Nothing of a tile is in the array: no half is open and no drain is to come. -/
def PressArray.quiet (r : PressArray) : Bool := r.halfA.opened.isNone && r.halfB.opened.isNone && r.drains == []

/-- An array keeps the core from a switch point: it has a tile in progress, or a boundary it has not stopped at. -/
def PressArray.working (r : PressArray) : Bool := !r.stopped && (!r.quiet || r.boundary.isSome)

/-- An array stands at its boundary and neither has a tile in progress: the core stands at a switch point (R238, R406). -/
def Dev.standSwitch (d : Dev) (k c n p : Nat) : Dev :=
  let x := d.core k
  if (x.array0.stopped || x.array1.stopped) && !x.array0.working && !x.array1.working then
    (d.updCore k Core.freshArrays).updEntry c n p fun e => { e with atSwitch := true, boundaries := e.boundaries + 1 }
  else d

/-- DRAIN (R225): the earliest drain of an array still to come; a pass that sets boundary leaves the array at its boundary in the cycle
after the last row is written. -/
def drainEffect (k a : Nat) (d : Dev) : Dev :=
  match d.running k with
  | none => d
  | some (c, n, p, e) =>
    match d.ctx? c, d.step? c n, ((d.core k).array a).drains with
    | some x, some s, j :: rest =>
      let d := (List.range (modeVectors j.mode)).foldl (fun d v =>
        j.tgt.foldl (fun d tgt => if v < tgt.vectors then d.drainRow k x s e.draws j tgt v else d) d) d
      let d := d.updCore k fun y => y.updArray a fun r =>
        { r with drains := rest, boundary := if modeBoundary j.mode then some (boundaryCycle j.reads) else r.boundary }
      d.standSwitch k c n p
    | _, _, _ => d

/-! ### TILE_BOUNDARY (R238, R406) -/

/-- TILE_BOUNDARY (R238): the array stops with its weights invalid and nothing to accumulate onto; when neither array has a tile in
progress the core stands at a switch point. -/
def tileBoundaryEffect (k a : Nat) (d : Dev) : Dev :=
  match d.running k with
  | none => d
  | some (c, n, p, _) =>
    if (((d.core k).array a).boundary).isNone then d
    else (d.updCore k fun y => y.updArray a fun _ => { stopped := true }).standSwitch k c n p

/-! ### DATA_MOVER_TRANSFER (R212, R285, R325, R326, R445, R465) -/

/-- The state slot of a context that a region touches, with its stream, and whether its bias table is touched. -/
def Context.slotTouched (x : Context) (a n : Nat) : Option (Nat × Bool) :=
  (x.bindings.find? fun b => overlaps a n (x.slotAddress b.slot) x.manifest.slotBytes).map fun b =>
    (b.stream, overlaps a n (x.biasAddress b.slot 0) (24 * x.manifest.biasChannels))

/-- A context's own block that a region touches and whose poison faults the context (R465): its store, its scratch, its saves. -/
def Context.faultsAt (x : Context) (a n : Nat) : Bool :=
  overlaps a n x.store (roundUp x.manifest.storeBytes 65536) || overlaps a n x.scratch (roundUp x.manifest.vatBytes 65536) ||
    overlaps a n x.save (x.manifest.grid * saveRecordBytes)

/-- The bytes a read returns: no rule gives those of poison or of no memory, which are free values. -/
def Dev.readOut (d : Dev) (a n : Nat) : List Byte :=
  (List.range n).map fun i => if d.mapped (a + i) && !d.poisoned (a + i) 1 then d.getByte (a + i) else Config.poisonByte d.free (a + i)

/-- Bytes written where there is memory. -/
def Dev.storeMapped (d : Dev) (a : Nat) (bs : List Byte) : Dev :=
  if (List.range bs.length).all fun i => d.mapped (a + i) then d.store a bs
  else ((List.range bs.length).zip bs).foldl (fun d e => if d.mapped (a + e.1) then d.store (a + e.1) [e.2] else d) d

/-- One run read into the Press buffer: the cache partition serves it where it may (R445), poison has the effect of R465. -/
def Dev.moverRead (d : Dev) (k c : Nat) (op : MoverOp) (i : Nat) : Dev :=
  let a := op.device + i * op.devicePitch
  let d := if op.cacheable then (unitsTouched a op.bytes).foldl Dev.cacheRead d else d
  match d.ctx? c with
  | none => d
  | some x =>
    let put (d : Dev) : Dev :=
      let bs := d.readOut a op.bytes
      Dev.updCore { d with free := d.free + 1 } k fun y => y.put (op.press + i * op.pressPitch) bs
    if !d.poisoned a op.bytes then put d
    else if x.faultsAt a op.bytes then d.endFaulty k c 0x82 (memArea a)
    else match x.slotTouched a op.bytes with
      | some (stream, table) => (put d).loseSlot c stream table
      | none => put d

/-- DATA_MOVER_TRANSFER (R212): the runs of a transfer, in order. -/
def dataMoverTransferEffect (k : Nat) (op : MoverOp) (ecc : List EccEvent) (badLines : List Nat) (d : Dev) : Dev :=
  match d.issuing k with
  | none => d
  | some (c, _, _, _) =>
    let d := (badLines.filter d.cache.contains).foldl Dev.cacheLineError d
    let d := d.eccAndSlots ecc
    (List.range op.rows).foldl (fun d i =>
      if (d.issuing k).isNone then d
      else if op.toPress then d.moverRead k c op i
      else d.storeMapped (op.device + i * op.devicePitch) ((d.core k).bytes (op.press + i * op.pressPitch) op.bytes)) d

/-! ### RANDOM_FILL (R274) -/

/-- The seed that work of a stream draws with: the one its binding has, or the plan's (R272). -/
def Context.seedOf (x : Context) (stream : Nat) : Nat := ((x.binding? stream).map Binding.seed).getD x.seed

/-- RANDOM_FILL (R274): draws written in ascending order, 16 bytes each. -/
def randomFillEffect (k : Nat) (op : FillOp) (d : Dev) : Dev :=
  match d.issuing k with
  | none => d
  | some (c, n, p, _) =>
    match d.ctx? c with
    | none => d
    | some x =>
      if !d.flag Reg.randomSelftest then d
      else
        let g := op.first / 8
        let count := (op.first + op.count - 1) / 8 + 1 - g
        let seed := x.seedOf op.stream
        let bs := (List.range count).flatMap fun i => drawBytes seed op.tensor op.step op.stream op.purpose (g + i)
        let d := d.updCore k fun y => y.put op.address bs
        let d := d.updEntry c n p fun e =>
          { e with draws := e.draws ++ [{ tensor := op.tensor, purpose := op.purpose, step := op.step, stream := op.stream,
                                          first := op.first, count := op.count, address := op.address }] }
        d.count Reg.randomDraws 0 count

/-! ### Faults (R240 to R242, R228, R313, R405) -/

/-- The contexts that have a cell on a core which is eligible no longer are placed again (R405): the commands of its cells that have not
completed go where the new placement puts them. A context with no eligible core left faults (R336). -/
def Dev.replaceCells (d : Dev) (k : Nat) : Dev :=
  (d.contexts.filter fun e => e.2.placement.contains k).foldl (fun d e =>
    match d.ctx? e.1 with
    | none => d
    | some x =>
      let cells := d.placement x
      if cells = [] then
        if x.state = .faulting then
          d.attend { bit := Bit.fault, code := codeContextFault, area := 0x0B, context := e.1, detail := 0x0100 }
        else d.contextFault e.1 codeContextFault 0x0B 0x0B 0x0100
      else
        let move (f : StepEntry) : StepEntry :=
          if f.e.engine = 1 ∧ f.core = k ∧ f.state ≠ .complete then { f with core := cells.getD f.e.cell 0 } else f
        let d := d.updCtx e.1 fun x =>
          { x with placement := cells, steps := x.steps.map fun s => { s with entries := s.entries.map move } }
        d.publishCores e.1 cells) d

/-- A core resets (R242): its command ends with ENGINE_RESET and its context faults; a second fault within a second retires it. -/
def Dev.coreFault (d : Dev) (k : Nat) : Dev :=
  let serving := (d.core k).serving
  let d := d.engineFault 0x08 k Reg.pressCoreState_retired Reg.pressCoreState_resets .pressCore
  let d := d.updCore k fun x => { x.freshArrays with serving := none }
  let d := match serving with
    | some r => d.faultCtx r.1 0x31 0x08
    | none => d
  if d.coreAlive k then d else d.replaceCells k

/-- The part a parity error names is recorded as suspect (R228). -/
def Dev.recordSuspect (d : Dev) (k : Nat) : PressFault → Dev
  | .column a p => (d.wr Reg.pressArrayState_suspect (2 * k + a) p).appendLedger 3 .arrayColumn (2 * d.physical .pressCore k + a) p
  | .half a h => d.appendLedger 3 .arrayHalf (2 * d.physical .pressCore k + a) h
  | .buffer => d

/-- PRESS_CORE_FAULT (R242). -/
def pressCoreFaultEffect (k : Nat) (f : PressFault) (d : Dev) : Dev :=
  if d.liveCores.contains k then (d.recordSuspect k f).coreFault k else d

/-- WATCHDOG_TRIP (R240): a command that waits on no counter has issued nothing. -/
def watchdogTripEffect (k : Nat) (d : Dev) : Dev := if (d.running k).isSome then d.coreFault k else d

/-- `press.cores_by_class` as it reads (R245): cores not retired of a class. -/
def Dev.coresOfClass (d : Dev) (class_ : Nat) : Nat := (d.liveCores.filter fun k => d.rd Reg.pressCoreState_class k == class_).length

def execPassEntry (k : Nat) (r : PassRef) (t : PassTiming) (s : State) := act (.passEntry k r t) (passEntryEffect k r t) s
def execDrain (k a : Nat) (s : State) := act (.drain k a) (drainEffect k a) s
def execTileBoundary (k a : Nat) (s : State) := act (.tileBoundary k a) (tileBoundaryEffect k a) s
def execDataMoverTransfer (k : Nat) (op : MoverOp) (ecc : List EccEvent) (l : List Nat) (s : State) :=
  act (.dataMoverTransfer k op ecc l) (dataMoverTransferEffect k op ecc l) s
def execRandomFill (k : Nat) (op : FillOp) (s : State) := act (.randomFill k op) (randomFillEffect k op) s
def execWatchdogTrip (k : Nat) (s : State) := act (.watchdogTrip k) (watchdogTripEffect k) s
def execPressCoreFault (k : Nat) (f : PressFault) (s : State) := act (.pressCoreFault k f) (pressCoreFaultEffect k f) s

end Sys2Proof.Machine
end

