-- ==== Sys2Proof/Machine/Vector.lean ====
section
/-! DEFINITION. The vector engine (R235, R236, R267): loads and stores, elementwise functions, reductions, pooling (R297 to R300), the
depth-wise path (R294, R295), products, attention and gathers (R332 to R334), and enrolment (R268 to R271). -/

namespace Sys2Proof.Machine

/-! ### Registers and elements -/

def Core.regList (x : Core) (r n : Nat) : List Nat := (List.range n).map (x.reg r)
def Core.setReg (x : Core) (r k v : Nat) : Core := { x with vregs := x.vregs.put (r, k) v }

/-- Elements of a register from 0 on; a register has 512. -/
def Core.setRegList (x : Core) (r : Nat) (vs : List Nat) : Core :=
  ((List.range vs.length).zip vs).foldl (fun x e => if e.1 < 512 then x.setReg r e.1 e.2 else x) x

/-- Bytes of an element; the narrow integers are packed (R248). -/
def fmtBytes : VecFmt → Nat
  | .f32 => 4
  | .f16 => 2
  | .bf16 => 2
  | .i8 => 1
  | .i4 => 1
  | .i2 => 1

/-- The state slot and the stream of the frame a reference is of. -/
def frameSlot (s : Step) (e : StepEntry) (r : VecRef) : Nat := slotOf s (e.frame.getD 0 + r.frame)
def frameStream (s : Step) (e : StepEntry) (r : VecRef) : Nat := streamOf s (e.frame.getD 0 + r.frame)

/-- The exponent bias with which a reference's element `k` is stored (R259). -/
def Dev.refBias (d : Dev) (x : Context) (slot : Nat) (r : VecRef) (k : Nat) : Int :=
  match r.tensor with
  | none => 0
  | some t => d.tensorBias x slot t (r.channels.getD k 0)

/-- An element loaded into FP32, exactly (R267): at a byte offset, of a format; `k` is its place among packed integers. -/
def loadRaw (core : Core) (fmt : VecFmt) (a k : Nat) (bias : Int) : Nat :=
  match fmt with
  | .f32 => leNat (core.bytes a 4)
  | .f16 => rne32 ((Fmt.f16.decode (leNat (core.bytes a 2))).scale bias)
  | .bf16 => rne32 (Fmt.bf16.decode (leNat (core.bytes a 2)))
  | .i8 => fint (toSigned 8 (core.byte a).toNat)
  | .i4 => fint (toSigned 4 (bits (core.byte a).toNat (4 * (k % 2)) 4))
  | .i2 => fint (toSigned 2 (bits (core.byte a).toNat (2 * (k % 4)) 2))

/-- Where element `k` of a reference lies. -/
def elementPlace (fmt : VecFmt) (a stride k : Nat) : Nat :=
  match fmt with
  | .i4 => a + k / 2
  | .i2 => a + k / 4
  | _ => a + k * stride

/-! ### Functions (R267, R298) -/

/-- The larger of two by R298: NaN if either is, the first among equals. -/
def vmax (a b : Nat) : Nat := if (f32v a).isNan || (f32v b).isNan then fnan else fmax a b
def vmin (a b : Nat) : Nat := if (f32v a).isNan || (f32v b).isNan then fnan else fmin a b

def vecBin : VecBin → Nat → Nat → Nat
  | .add => fadd
  | .sub => fsub
  | .mul => fmul
  | .div => fdiv
  | .max => vmax
  | .min => vmin

def vecUn : VecUn → Nat → Nat
  | .sqrt => fsqrt
  | .exp => fexp
  | .log => flog
  | .rsqrt => frsqrt
  | .tanh => ftanh
  | .sigmoid => fsigmoid
  | .erf => ferf

/-- A reduction in the pairwise tree of R236; of no elements, +0. -/
def vecFold (op : VecFold) (vs : List Nat) : Nat :=
  match op with
  | .sum => fsum vs
  | .max => (treeLevels vmax (Nat.log2 vs.length + 1) vs).headD 0

/-- A scan (R236): place `k` has the reduction of elements 0 to `k`. -/
def vecScan (op : VecFold) (vs : List Nat) : List Nat := (List.range vs.length).map fun k => vecFold op (vs.take (k + 1))

/-! ### Pooling (R297 to R300) -/

/-- The value of a window's element, and whether it takes part. -/
def Dev.poolElement (d : Dev) (x : Context) (core : Core) (slot : Nat) (r : VecRef) (w : WinDesc) (c : Nat) : Element → Option Nat
  | .marked => if w.exclude then none else some 0
  | .outside => none
  | .constant => if w.exclude then none else some (h32 w.pconst)
  | .stored a _ padding => if padding && w.exclude then none else some (loadRaw core r.fmt a 0 (d.refBias x slot r c))

/-- One pooled output over the elements that take part, in ascending (ky, kx). -/
def pooled (w : WinDesc) (vs : List Nat) : Nat :=
  match vs with
  | [] => 0
  | v :: rest =>
    if w.poolOp = 1 then rest.foldl vmax (vmax v v)
    else fdiv (vs.foldl fadd 0) (fint (if w.divisor then vs.length else w.kh * w.kw))

/-- The outputs of a pooling operation: positions in order, channels innermost. -/
def Dev.poolOutputs (d : Dev) (x : Context) (core : Core) (slot : Nat) (r : VecRef) (w : WinDesc) (count : Nat) : List Nat :=
  (List.range count).flatMap fun v => (List.range w.cg).map fun c =>
    pooled w (((List.range w.kh).flatMap fun ky => (List.range w.kw).map fun kx => w.element (w.q0 + v) ky kx c).filterMap
      (d.poolElement x core slot r w c))

/-! ### The depth-wise path (R294, R295) -/

/-- A descriptor within the limits of R294. -/
def WinDesc.depthwiseValid (w : WinDesc) : Bool :=
  w.mapInRange && w.poolOp == 0 && w.kh == w.kw && (w.kh == 3 || w.kh == 5) && w.sy ≤ 2 && w.sx ≤ 2 && w.dy == 1 && w.dx == 1 &&
    (w.pmode == 0 || w.pmode == 2)

/-- The sum of one output of the path. -/
def Dev.depthwiseSum (d : Dev) (x : Context) (core : Core) (slot : Nat) (r : VecRef) (w : WinDesc) (weights : List Byte)
    (isFp8 : Bool) (v c : Nat) : Nat :=
  ((List.range w.kh).flatMap fun ky => (List.range w.kw).map fun kx => (ky, kx)).foldl (fun s t =>
    let weight := byteAt weights (c * (w.kh * w.kw) + t.1 * w.kw + t.2)
    let wv := if isFp8 then fp8 weight else .ofInt (toSigned 8 weight)
    match w.element (w.q0 + v) t.1 t.2 (w.g0 + c) with
    | .stored a _ _ =>
      let f := if r.fmt = .bf16 then Fmt.bf16 else Fmt.f16
      fadd s (rne32 (wv.mul ((f.decode (leNat (core.bytes a 2))).scale (if r.fmt = .bf16 then 0 else d.refBias x slot r c))))
    | _ => s) 0

/-! ### Attention (R333) -/

/-- The keys that take part for a query (R333): those below Ls and, for a causal operator of offset `o`, up to query + o. -/
def takingPart (ls query : Nat) (causal : Option Int) : List Nat :=
  (List.range ls).filter fun j => causal.all fun o => (j : Int) ≤ query + o

/-- The output row of one query over the keys that take part, densely numbered. -/
def attentionRow (scale width : Nat) (q : List Nat) (ks vs : List (List Nat)) : List Nat :=
  if ks = [] then List.replicate width 0
  else
    let s := ks.map fun k => fmul scale (fsum ((q.zip k).map fun e => fmul e.1 e.2))
    if s.any fun a => (f32v a).isNan then List.replicate width fnan
    else
      let m := (s.tail).foldl vmax (s.headD 0)
      let e := s.map fun a => fexp (fsub a m)
      let total := fsum e
      (List.range width).map fun h => fdiv (fsum ((e.zip vs).map fun a => fmul a.1 (a.2.getD h 0))) total

/-! ### Training (R268, R270) -/

/-- The exponentials of logits less the largest, their tree, and the largest (log entry 150). -/
def softmaxParts (z : List Nat) : List Nat × Nat × Nat :=
  let m := z.tail.foldl vmax (z.headD 0)
  let e := z.map fun a => fexp (fsub a m)
  (e, fsum e, m)

/-- The softmax cross-entropy of logits against a label. -/
def crossEntropy (z : List Nat) (label : Nat) : Nat :=
  let p := softmaxParts z
  fsub (flog p.2.1) (fsub (z.getD label 0) p.2.2)

/-- g_z = softmax(z) - y. -/
def softmaxGradient (z : List Nat) (label : Nat) : List Nat :=
  let p := softmaxParts z
  ((List.range z.length).zip p.1).map fun e => fsub (fdiv e.2 p.2.1) (if e.1 = label then fone else 0)

/-! ### Operations -/

/-- What an operation reads and writes: the core, the context, its step, and the entry in service. -/
structure VecAt where
  core : Nat
  context : Nat
  step : Step
  pos : Nat
  entry : StepEntry
  ctx : Context

/-- A row of a table or a tensor in the Press buffer. -/
def Dev.refRow (d : Dev) (v : VecAt) (r : VecRef) (row width : Nat) : List Nat :=
  (List.range width).map fun h =>
    loadRaw (d.core v.core) r.fmt (elementPlace r.fmt r.address (fmtBytes r.fmt) (row * width + h)) (row * width + h)
      (d.refBias v.ctx (frameSlot v.step v.entry r) r h)

/-- The draws that a store to a reference takes, of a purpose. -/
def VecAt.drawKey (v : VecAt) (tensor purpose stream : Nat) : DrawKey :=
  { tensor, purpose, step := v.ctx.drawStep v.step purpose, stream }

/-- One element stored (R267): FP32 as it is, a 16-bit format rounded and saturated, and gathered where its tensor is adaptive. `ch` is the
place of its channel in the reference, and `draw` its logical index where the store is stochastic. -/
def Dev.storeElement (d : Dev) (v : VecAt) (tgt : VecRef) (a ch value : Nat) (draw : Option Nat) : Dev :=
  let put (d : Dev) (bs : List Byte) : Dev := d.updCore v.core fun y => y.put a bs
  if tgt.fmt = .f32 then put d (leBytes 4 value)
  else
    let bf := tgt.fmt == .bf16
    let r : Option Nat × Dev := match draw with
      | none => (none, d)
      | some index =>
        let w := d.draw16 (d.core v.core) v.entry.draws (v.drawKey (tgt.tensor.getD 0xFFFF) 0 (frameStream v.step v.entry tgt)) index
        (some w.1, w.2)
    match tgt.tensor with
    | some t =>
      let w := r.2.convertFor v.ctx (frameSlot v.step v.entry tgt) t (tgt.channels.getD ch 0) bf (f32v value) r.1
      put w.2 (leBytes 2 w.1)
    | none =>
      let w := convert bf (f32v value) r.1
      put (r.2.countConverted w r.1.isSome) (leBytes 2 w.value)

/-- Elements stored one after another, `stride` bytes apart: with the places of their channels by turns of `channels`, and draws from a
first logical index on. -/
def Dev.storeList (d : Dev) (v : VecAt) (tgt : VecRef) (stride channels : Nat) (vs : List Nat) (draw : Option Nat) : Dev :=
  ((List.range vs.length).zip vs).foldl (fun d e =>
    d.storeElement v tgt (tgt.address + e.1 * stride) (e.1 % channels) e.2 (draw.map (· + e.1))) d

/-- A 32-bit draw of purpose 1 (R269, R273). -/
def Dev.draw32 (d : Dev) (v : VecAt) (tensor k : Nat) : Nat × Dev :=
  let key := v.drawKey tensor 1 (streamOf v.step (v.entry.frame.getD 0))
  let a := d.draw16 (d.core v.core) v.entry.draws key (2 * k)
  let b := a.2.draw16 (a.2.core v.core) v.entry.draws key (2 * k + 1)
  (a.1 + 65536 * b.1, b.2)

/-- One operation of a vector engine. A pooling or depth-wise operation whose descriptor is invalid ends its command (R287). -/
def Dev.vecOp (d : Dev) (v : VecAt) (op : VecOp) : Dev :=
  let core := d.core v.core
  let upd (f : Core → Core) : Dev := d.updCore v.core f
  match op with
  | .load dst r stride n =>
    let slot := frameSlot v.step v.entry r
    upd fun y => y.setRegList dst ((List.range n).map fun k =>
      loadRaw core r.fmt (elementPlace r.fmt r.address stride k) k (d.refBias v.ctx slot r k))
  | .store src tgt stride n draw =>
    d.storeList v tgt stride n (core.regList src n) draw
  | .bin op dst a b n => upd fun y => y.setRegList dst ((List.range n).map fun k => vecBin op (core.reg a k) (core.reg b k))
  | .fma dst a b c n => upd fun y => y.setRegList dst ((List.range n).map fun k => ffma (core.reg a k) (core.reg b k) (core.reg c k))
  | .un op dst a n => upd fun y => y.setRegList dst ((List.range n).map fun k => vecUn op (core.reg a k))
  | .fold op dst element a n => upd fun y => y.setReg dst element (vecFold op (core.regList a n))
  | .scan op dst a n => upd fun y => y.setRegList dst (vecScan op (core.regList a n))
  | .pool b r tgt stride count draw =>
    let w := parseWindow (leNat b)
    if !(w.mapInRange && (w.poolOp == 1 || w.poolOp == 2) && w.windowInside count 0 w.cg) then d.endFaulty v.core v.context 0x80 0x08
    else d.storeList v tgt stride w.cg (d.poolOutputs v.ctx core (frameSlot v.step v.entry r) r w count) draw
  | .globalPool op r tgt positions pitch channels stride draw =>
    let slot := frameSlot v.step v.entry r
    d.storeList v tgt stride channels ((List.range channels).map fun c =>
      let vs := (List.range positions).map fun q =>
        loadRaw core r.fmt (r.address + q * pitch + c * fmtBytes r.fmt) 0 (d.refBias v.ctx slot r c)
      match op with
      | .max => vecFold .max vs
      | .sum => fdiv (vecFold .sum vs) (fint positions)) draw
  | .product a b n dst element =>
    upd fun y => y.setReg dst element (fsum ((List.range n).map fun k => fmul (core.reg a k) (core.reg b k)))
  | .attention q kr vr scale width dimension query causal dst =>
    let keys := takingPart (v.step.dims.getD dimension 0) query causal
    upd fun y => y.setRegList dst (attentionRow scale width (core.regList q width)
      (keys.map fun j => d.refRow v kr j width) (keys.map fun j => d.refRow v vr j width))
  | .gather table rows width indices n dst =>
    let is := (List.range n).map fun i => toSigned 32 (leNat (core.bytes (indices + 4 * i) 4))
    let bad (i : Int) : Bool := i < 0 || (rows : Int) ≤ i
    let d := d.updCtx v.context fun x => { x with gatherOut := x.gatherOut + (is.filter bad).length }
    d.updCore v.core fun y => y.setRegList dst (is.flatMap fun i =>
      if bad i then List.replicate width 0 else d.refRow v table i.toNat width)
  | .depthwise b weights isFp8 r tgt constants channels count pitch draw =>
    let w := parseWindow (leNat b)
    if !v.ctx.manifest.dw7120 then d
    else if !(w.depthwiseValid && w.windowInside count w.g0 channels) then d.endFaulty v.core v.context 0x80 0x08
    else
      let all := ((tgt.tensor.bind fun t => v.ctx.facts.tensors[t]?).map TensorFacts.channels).getD channels
      (List.range count).foldl (fun d i => (List.range channels).foldl (fun d c =>
        let k := constantsAt core constants c
        let u := drainU (d.depthwiseSum v.ctx core (frameSlot v.step v.entry r) r w weights isFp8 i c) k.1 k.2
        d.storeElement v tgt (tgt.address + i * pitch + 2 * c) c u (draw.map (· + i * all + c))) d) d
  | .clear tgt stride n =>
    let size := if tgt.fmt = .f32 then 4 else 2
    upd fun y => (List.range n).foldl (fun y k => y.put (tgt.address + k * stride) (leBytes size 0)) y
  | .logits w b x tgt classes features =>
    let xs := d.refRow v x 0 features
    let bs := d.refRow v b 0 classes
    d.storeList v tgt 4 classes ((List.range classes).map fun c =>
      fadd (fsum (((d.refRow v w c features).zip xs).map fun e => fmul e.1 e.2)) (bs.getD c 0)) none
  | .loss z label classes dst element => upd fun y => y.setReg dst element (crossEntropy (d.refRow v z 0 classes) label)
  | .softmaxGradient z tgt label classes => d.storeList v tgt 4 classes (softmaxGradient (d.refRow v z 0 classes) label) none
  | .gradient g x batch classes features first n dst =>
    let entry (k i : Nat) : Nat :=
      let a := (d.refRow v g i classes).getD (k / features) 0
      match x with
      | none => a
      | some r => fmul a ((d.refRow v r i features).getD (k % features) 0)
    upd fun y => y.setRegList dst ((List.range n).map fun j =>
      fdiv (fsum ((List.range batch).map (entry (first + j)))) (fint batch))
  | .initialise tensor bound first n dst =>
    (List.range n).foldl (fun d i =>
      let w := d.draw32 v tensor (first + i)
      let r : FVal := .num false (w.1 / 256) (-24)
      let s := rne32 ((r.scale 1).add (.num true 1 0))
      let r := convert true (f32v (fmul bound s)) none
      (w.2.countConverted r false).updCore v.core fun y => y.setReg dst i (r.value * 65536)) d
  | .update w m g rate momentum tensor first n =>
    (List.range n).foldl (fun d i =>
      let y := d.core v.core
      let m' := if (f32v momentum).isZero then y.reg g i else ffma momentum (y.reg m i) (y.reg g i)
      let draw := d.draw16 y v.entry.draws (v.drawKey tensor 0 (streamOf v.step (v.entry.frame.getD 0))) (first + i)
      let r := convert true (f32v (fsub (y.reg w i) (fmul rate m'))) (some draw.1)
      (draw.2.countConverted r true).updCore v.core fun y => (y.setReg m i m').setReg w i (r.value * 65536)) d
  | .setScalar offset data =>
    upd fun y => { y with scalars := ((List.range data.length).zip data).foldl (fun t e => t.put (offset + e.1) e.2) y.scalars }

/-- VECTOR_OPERATION (R235): an operation of the command a core has in service. -/
def vectorOperationEffect (k : Nat) (op : VecOp) (d : Dev) : Dev :=
  match d.issuing k with
  | none => d
  | some (c, n, p, e) =>
    match d.ctx? c, d.step? c n with
    | some x, some s => d.vecOp { core := k, context := c, step := s, pos := p, entry := e, ctx := x } op
    | _, _ => d

def execVectorOperation (k : Nat) (op : VecOp) (s : State) := act (.vectorOperation k op) (vectorOperationEffect k op) s

end Sys2Proof.Machine
end

