-- ==== Sys2Proof/Machine/Tracker.lean ====
section
/-! DEFINITION. The tracker engine (R360 to R374, R390, R394): slices, box decoding, suppression, tracks, crops, embeddings and watch
lists. -/

namespace Sys2Proof.Machine

/-! ### Engines and slices (R361, R394) -/

def sliceArea (points : Bool) : Nat := if points then 0x0E else 0x0D

/-- A tracker engine or Points engine is presented and not retired. -/
def Dev.sliceAlive (d : Dev) (points : Bool) (e : Nat) : Bool :=
  if points then e < d.rd Reg.pointsEnginesPresented && !d.pointsRetired.contains e
  else e < d.rd Reg.trackerEnginesPresented && !d.flag Reg.trackerEngineState_retired e

/-- The entry that takes the next slice: the oldest waiting latency-critical one, or else the oldest best-effort one (R361). -/
def Dev.sliceNext (d : Dev) (points : Bool) : Option Choice :=
  let xs := (d.poolChoices (if points then 4 else 3)).filter fun x => x.entry.engine.isNone
  least (fun x => x.entry.order) (xs.filter fun x => (d.ctx? x.context).any Context.latency) <|>
    least (fun x => x.entry.order) (xs.filter fun x => !(d.ctx? x.context).any Context.latency)

/-- The entry an engine has goes back among those that wait. -/
def Dev.putBack (d : Dev) (points : Bool) (e : Nat) : Dev :=
  match d.sliceJobs.find? (sliceArea points, e) with
  | none => d
  | some j =>
    Dev.updEntry { d with sliceJobs := d.sliceJobs.erase (sliceArea points, e) } j.context j.step j.pos fun f => { f with engine := none }

/-- SLICE_BOUNDARY (R361): an engine takes the next slice by class; the operation begins with its first. -/
def sliceBoundaryEffect (points : Bool) (e : Nat) (d : Dev) : Dev :=
  if !d.sliceAlive points e then d
  else
    let d := d.putBack points e
    match d.sliceNext points with
    | none => d
    | some y =>
      Dev.updEntry { d with sliceJobs := d.sliceJobs.put (sliceArea points, e) { context := y.context, step := y.step, pos := y.pos } }
        y.context y.step y.pos fun f => { f with engine := some e, begun := true }

/-- TRACKER_ENGINE_FAULT (R394): the engine resets and restarts its operation; a second fault within 1 s retires it, and its entry waits
for another. -/
def trackerEngineFaultEffect (points : Bool) (e : Nat) (d : Dev) : Dev :=
  if !d.sliceAlive points e then d
  else if points then
    let again := (d.faults.find? (0xEF, e)).any fun t => d.now < t + secondTicks
    let d := { d with faults := d.faults.put (0xEF, e) d.now }
    let d := if again then
        (Dev.appendLedger { d with pointsRetired := e :: d.pointsRetired } 2 .pointsEngine (d.physical .pointsEngine e) 0).putBack points e
      else d
    d.attend { bit := Bit.fault, code := 0x31, area := 0x0E, detail := e + (if again then 0x8000 else 0) }
  else
    let d := d.engineFault 0x0D e Reg.trackerEngineState_retired Reg.trackerEngineState_resets .trackerEngine
    if d.sliceAlive points e then d else d.putBack points e

/-- What an engine has in service, with its context, its step and its entry. -/
structure SliceAt where
  at_ : SliceJob
  x : Context
  s : Step
  entry : StepEntry
  deriving Repr

def Dev.sliceAt (d : Dev) (points : Bool) (e : Nat) (op : Nat) : Option SliceAt :=
  match d.sliceJobs.find? (sliceArea points, e) with
  | none => none
  | some j =>
    match d.ctx? j.context, d.step? j.context j.step, d.entry? j.context j.step j.pos with
    | some x, some s, some f =>
      if d.sliceAlive points e && (d.getByte (x.store + f.e.body)).toNat == op then some { at_ := j, x, s, entry := f } else none
    | _, _, _ => none

/-- An operation commits: its entry is done, and the engine is free (R361). -/
def Dev.commitSlice (d : Dev) (points : Bool) (e : Nat) (y : SliceAt) : Dev :=
  Dev.updEntry { d with sliceJobs := d.sliceJobs.erase (sliceArea points, e) } y.at_.context y.at_.step y.at_.pos fun f =>
    { f with engine := none, state := .done }

/-! ### Settings that take effect at the next operation that begins (R373, R375, R393) -/

/-- Where stored entry `i` of watch list `l` lies (R366). -/
def Dev.watchAddress (d : Dev) (l i : Nat) : Nat := d.rd Reg.trackerRegion + 67108864 + (l * 4096 + i) * 528

/-- Two settings are one and the same. -/
def OldSetting.same : OldSetting → OldSetting → Bool
  | .elem o i _, .elem p j _ => o == p && i == j
  | .watchList l _ _, .watchList m _ _ => l == m
  | _, _ => false

/-- The operations that have begun on engines of a kind go on with a setting about to be replaced. -/
def Dev.keepSetting (d : Dev) (engine : Nat) (x : OldSetting) : Dev :=
  { d with contexts := d.contexts.map fun c =>
      (c.1, { c.2 with steps := c.2.steps.map fun s =>
        { s with entries := s.entries.map fun f =>
            if f.begun && f.e.engine == engine && f.state == .queued && !f.olds.any x.same then { f with olds := x :: f.olds } else f } }) }

/-- A setting put in place, and the one it takes the place of. -/
def Dev.swapSetting (d : Dev) : OldSetting → Dev × OldSetting
  | .elem o i v => (d.setElem o i v, .elem o i (d.elemNat o i))
  | .watchList l n bs =>
    ((d.store (d.watchAddress l 0) bs).wr Reg.trackerWatchCount l n,
      .watchList l (d.rd Reg.trackerWatchCount l) (d.getBytes (d.watchAddress l 0) bs.length))

/-- Several settings put in place, and those they take the place of. -/
def Dev.swapSettings (d : Dev) : List OldSetting → Dev × List OldSetting
  | [] => (d, [])
  | x :: xs =>
    let r := d.swapSetting x
    let t := Dev.swapSettings r.1 xs
    (t.1, t.2 ++ [r.2])

/-- What an operation does with the settings it began with; those of now stand again after it. -/
def Dev.withSettings (d : Dev) (xs : List OldSetting) (f : Dev → Dev) : Dev :=
  let r := d.swapSettings xs
  ((f r.1).swapSettings r.2).1

/-- A write of `tracker.stream.config`, which takes effect at the next DETECT (R393). -/
def Dev.applyTrackerConfig (d : Dev) (s v : Nat) : Dev :=
  (d.keepSetting 3 (.elem .trackerStreamConfig s (d.elemNat .trackerStreamConfig s))).setElem .trackerStreamConfig s v

/-! ### Box decoding (R362 to R365) -/

/-- A DETECT body (R362). -/
structure DetectBody where
  heads : Nat
  agnostic : Bool
  classes : Nat
  candMax : Nat
  keepMax : Nat
  score : Nat
  iou : Nat
  exportContext : Nat
  cropLevel : Nat
  cropMax : Nat
  cropW : Nat
  cropH : Nat
  embedEvery : Nat
  margin : Nat
  exportOffset : Nat
  deriving DecidableEq, Repr

def parseDetect (v : Nat) : DetectBody :=
  { heads := bits v 8 3 + 1, agnostic := v.testBit 11, classes := bits v 16 8 + 1, candMax := bits v 32 16, keepMax := bits v 48 16,
    score := bits v 64 32, iou := bits v 96 32, exportContext := bits v 128 8, cropLevel := bits v 136 8, cropMax := bits v 144 16,
    cropW := bits v 160 16, cropH := bits v 176 16, embedEvery := bits v 192 16, margin := bits v 208 16,
    exportOffset := bits v 224 32 }

/-- A head descriptor (R362). -/
structure Head where
  offset : Nat
  height : Nat
  width : Nat
  stride : Nat
  anchored : Bool
  anchors : Nat
  cpad : Nat
  sizes : List (Nat × Nat)
  deriving DecidableEq, Repr

def parseHead (v : Nat) : Head :=
  { offset := bits v 0 32, height := bits v 32 16, width := bits v 48 16, stride := bits v 64 8, anchored := bits v 72 8 == 1,
    anchors := bits v 80 8, cpad := bits v 96 16,
    sizes := (List.range 4).map fun i => (h32 (bits v (128 + 32 * i) 16), h32 (bits v (144 + 32 * i) 16)) }

/-- A box by its edges: FP32 encodings. -/
structure Box where
  x0 : Nat
  y0 : Nat
  x1 : Nat
  y1 : Nat
  deriving DecidableEq, Repr

/-- A candidate: its index, class, score and box in level-0 samples. -/
structure Candidate where
  index : Nat
  cls : Nat
  p : Nat
  box : Box
  deriving DecidableEq, Repr

def fhalf : Nat := 0x3F000000
def ftwo : Nat := 0x40000000

/-- The box an anchor of a cell decodes to (R363). -/
def decodeBox (h : Head) (x y a : Nat) (v : Nat → Nat) : Box :=
  let st := fint h.stride
  let cx := fadd (fint x) fhalf
  let cy := fadd (fint y) fhalf
  if h.anchored then
    let s := h.sizes.getD a (0, 0)
    let mx := fmul (fadd cx (v 0)) st
    let my := fmul (fadd cy (v 1)) st
    let w := fmul (fmul s.1 (fexp (vmin (v 2) (fint 8)))) fhalf
    let t := fmul (fmul s.2 (fexp (vmin (v 3) (fint 8)))) fhalf
    { x0 := fsub mx w, y0 := fsub my t, x1 := fadd mx w, y1 := fadd my t }
  else
    let side (c k : Nat) : Nat := fmul (vmax fzero (v k)) c
    { x0 := fsub (fmul cx st) (side st 0), y0 := fsub (fmul cy st) (side st 1),
      x1 := fadd (fmul cx st) (side st 2), y1 := fadd (fmul cy st) (side st 3) }

def Box.nan (b : Box) : Bool := [b.x0, b.y0, b.x1, b.y1].any fun v => (f32v v).isNan

/-- A box clipped to a width and a height. -/
def Box.clip (b : Box) (w h : Nat) : Box :=
  let k (v n : Nat) : Nat := fmin (fmax v fzero) (fint n)
  { x0 := k b.x0 w, y0 := k b.y0 h, x1 := k b.x1 w, y1 := k b.y1 h }

def Box.w (b : Box) : Nat := fsub b.x1 b.x0
def Box.h (b : Box) : Nat := fsub b.y1 b.y0

/-- What a cell and anchor yields (R363): nothing counted as NaN, or perhaps a candidate. -/
inductive CellOut where
  | nan
  | below
  | candidate (c : Candidate)
  deriving DecidableEq, Repr

def Dev.decodeCell (d : Dev) (b : DetectBody) (f : CalFrame) (slot hd : Nat) (h : Head) (y x a : Nat) : CellOut :=
  let at_ (ch : Nat) : Nat := h32 (d.getNat (slot + h.offset + ((y * h.width + x) * h.cpad + ch) * 2) 2)
  let logits := (List.range b.classes).map fun c => at_ (4 * h.anchors + a * b.classes + c)
  let box := decodeBox h x y a fun i => at_ (4 * a + i)
  match argmaxOf logits with
  | none => .nan
  | some l =>
    if box.nan then .nan
    else
      let box := box.clip f.width f.height
      let p := fsigmoid l.2
      if flt fzero box.w && flt fzero box.h && flt b.score p then
        .candidate { index := ((hd * h.height + y) * h.width + x) * h.anchors + a, cls := l.1, p, box }
      else .below

/-- Every cell and anchor of the heads, in order. -/
def Dev.decodeHeads (d : Dev) (b : DetectBody) (hs : List Head) (f : CalFrame) (slot : Nat) : List CellOut :=
  ((List.range hs.length).zip hs).flatMap fun e =>
    (List.range e.2.height).flatMap fun y => (List.range e.2.width).flatMap fun x => (List.range e.2.anchors).map fun a =>
      d.decodeCell b f slot e.1 e.2 y x a

/-- Intersection over union (R364), 0 when the denominator is 0. -/
def iou (a b : Box) : Nat :=
  let w := fmax fzero (fsub (fmin a.x1 b.x1) (fmax a.x0 b.x0))
  let h := fmax fzero (fsub (fmin a.y1 b.y1) (fmax a.y0 b.y0))
  let inter := fmul w h
  let den := fsub (fadd (fmul a.w a.h) (fmul b.w b.h)) inter
  if (f32v den).isZero then fzero else fdiv inter den

/-- Candidates in order of suppression (R364). -/
def candidateBefore (a b : Candidate) : Bool := flt b.p a.p || (!flt a.p b.p && a.index ≤ b.index)

/-- Suppression (R364): the boxes kept, and whether it stopped at keep_max with candidates still to be taken. -/
def suppress (b : DetectBody) : List Candidate → List Candidate → List Candidate × Bool
  | [], kept => (kept, false)
  | c :: cs, kept =>
    if b.keepMax ≤ kept.length then (kept, true)
    else if kept.any fun k => (b.agnostic || k.cls == c.cls) && flt b.iou (iou c.box k.box) then suppress b cs kept
    else suppress b cs (kept ++ [c])

/-- A coordinate in quarter luma samples (R365): exact, then rounded once. -/
def quarter (v scale limit : Nat) : Nat :=
  (min (max 0 (((f32v v).mul (.num false 1024 0)).div (.num false scale 0)).nearest) (4 * limit)).toNat

/-- A kept box of R365 by the frame's decoded size. -/
def Dev.quarterBox (d : Dev) (f : CalFrame) (b : Box) : List Nat :=
  let s := d.scale f.stream 0
  [quarter b.x0 s f.pictureWidth, quarter b.y0 s f.pictureHeight, quarter b.x1 s f.pictureWidth, quarter b.y1 s f.pictureHeight]

/-- A detection: class, score, its box in quarter samples. -/
structure Detection where
  cls : Nat
  p : Nat
  box : List Nat
  deriving DecidableEq, Repr, Inhabited

def q4 (b : List Nat) (i : Nat) : Nat := b.getD i 0
def boxOf (b : List Nat) : Box := { x0 := fint (q4 b 0), y0 := fint (q4 b 1), x1 := fint (q4 b 2), y1 := fint (q4 b 3) }

/-! ### Prediction, association and update (R368 to R370) -/

def fsq (v : Nat) : Nat := fmul v v

/-- The noise of a stream's filters: q_pos, q_vel, r_meas. -/
structure Noise where
  pos : Nat
  vel : Nat
  meas : Nat
  deriving DecidableEq, Repr

def Dev.noise (d : Dev) (s : Nat) : Noise :=
  { pos := d.rd Reg.trackerStreamConfig_qPos s, vel := d.rd Reg.trackerStreamConfig_qVel s, meas := d.rd Reg.trackerStreamConfig_rMeas s }

/-- h′ of R368: the predicted height, 1 at least. -/
def heightOf (k : Kalman) (dt : Nat) : Nat := vmax fone (fadd k.p (fmul k.v dt))

def Kalman.predict (k : Kalman) (n : Noise) (dt h : Nat) : Kalman :=
  { p := fadd k.p (fmul k.v dt), v := k.v,
    a := fadd (fadd (fadd k.a (fmul (fmul ftwo k.b) dt)) (fmul (fmul k.c dt) dt)) (fsq (fmul n.pos h)),
    b := fadd k.b (fmul k.c dt), c := fadd k.c (fsq (fmul n.vel h)) }

def Kalman.update (k : Kalman) (n : Noise) (z h : Nat) : Kalman :=
  let s := fadd k.a (fsq (fmul n.meas h))
  let k1 := fdiv k.a s
  let k2 := fdiv k.b s
  let y := fsub z k.p
  let r := fsub fone k1
  { p := fadd k.p (fmul k1 y), v := fadd k.v (fmul k2 y), c := fsub k.c (fmul k2 k.b), a := fmul r k.a, b := fmul r k.b }

def Kalman.birth (n : Noise) (z h : Nat) : Kalman :=
  { p := z, v := fzero, a := fsq (fmul (fmul ftwo n.meas) h), b := fzero, c := fsq (fmul (fmul (fint 10) n.vel) h) }

/-- cx, cy, w and h of a box in quarter samples. -/
def measure (b : List Nat) : List Nat :=
  [fmul (fint (q4 b 0 + q4 b 2)) fhalf, fmul (fint (q4 b 1 + q4 b 3)) fhalf, fint ((q4 b 2 : Int) - q4 b 0), fint ((q4 b 3 : Int) - q4 b 1)]

/-- A track predicted, with its h′. -/
structure Predicted where
  track : Track
  height : Nat
  deriving DecidableEq, Repr

def Track.predict (t : Track) (n : Noise) (dt : Nat) : Predicted :=
  let h := heightOf (t.filter.getD 3 default) dt
  { track := { t with filter := t.filter.map fun k => k.predict n dt h }, height := h }

/-- The box a predicted filter spans. -/
def Track.span (t : Track) : Box :=
  let p (i : Nat) : Nat := (t.filter.getD i default).p
  let w := fmul (p 2) fhalf
  let h := fmul (p 3) fhalf
  { x0 := fsub (p 0) w, y0 := fsub (p 1) h, x1 := fadd (p 0) w, y1 := fadd (p 1) h }

/-- A candidate pair of R369: 1 − IoU, the track's id, the detection's index. -/
structure Pair where
  distance : Nat
  id : Nat
  det : Nat
  deriving DecidableEq, Repr

def pairsOf (ts : List Predicted) (ds : List Detection) (least_ : Nat) : List Pair :=
  ts.flatMap fun t => ((List.range ds.length).zip ds).filterMap fun e =>
    let v := iou t.track.span (boxOf e.2.box)
    if t.track.cls == e.2.cls && !(f32v v).isNan && !flt v least_ then some { distance := fsub fone v, id := t.track.id, det := e.1 }
    else none

def pairBefore (a b : Pair) : Bool :=
  flt a.distance b.distance || (!flt b.distance a.distance && (a.id < b.id || (a.id == b.id && a.det ≤ b.det)))

/-- Assignment (R369): pairs in order, each when both its track and its detection are free. -/
def assign (ps : List Pair) : List Pair :=
  (isort pairBefore ps).foldl (fun acc p => if acc.any fun q => q.id == p.id || q.det == p.det then acc else acc ++ [p]) []

/-- What becomes of a track (R370): it goes on, or it is deleted, with a track end record when it had been confirmed. -/
def Track.step (t : Predicted) (hit : Option Detection) (n : Noise) (confirm maxMiss u ts : Nat) : Option Track :=
  let k := t.track
  match hit with
  | some x =>
    let zs := measure x.box
    let k := { k with filter := (k.filter.zip zs).map (fun (e : Kalman × Nat) => e.1.update n e.2 t.height), box := x.box, lastUnit := u,
                      lastTimestamp := ts }
    match k.state with
    | .tentative => some { k with hits := k.hits + 1, state := if confirm ≤ k.hits + 1 then .confirmed else .tentative }
    | .confirmed => some { k with hits := k.hits + 1, misses := 0 }
    | .coasting => some { k with state := .confirmed, misses := 0 }
  | none =>
    match k.state with
    | .tentative => none
    | .confirmed => some { k with state := .coasting, misses := 1 }
    | .coasting => if maxMiss < k.misses + 1 then none else some { k with misses := k.misses + 1 }

/-- A track end record (R383). -/
def endRecord (t : Track) : List Byte :=
  padTo 64 (leBytes 1 2 ++ leBytes 1 0 ++ leBytes 1 t.cls ++ leBytes 1 0 ++ leBytes 4 t.id ++
    (List.range 4).flatMap (fun i => leBytes 2 (q4 t.box i)) ++ leBytes 4 t.lastUnit ++ leBytes 2 t.hits)

/-- A detection record (R383), with the track it belongs to. -/
def detectionRecord (i : Nat) (x : Detection) (t : Option Track) : List Byte :=
  let st := match t with
    | none => 0
    | some k => if k.state = .tentative then 1 else 2
  let v (j : Nat) : Nat := Fmt.f16.round (f32v (((t.map fun k => (k.filter.getD j default).v)).getD 0))
  padTo 64 (leBytes 1 1 ++ leBytes 1 st ++ leBytes 1 x.cls ++ leBytes 1 0 ++ leBytes 4 ((t.map Track.id).getD 0) ++
    (List.range 4).flatMap (fun j => leBytes 2 (q4 x.box j)) ++ leBytes 2 (Fmt.f16.round (f32v x.p)) ++ leBytes 2 i ++
    leBytes 2 (v 0) ++ leBytes 2 (v 1) ++ leBytes 2 ((t.map Track.hits).getD 0))

/-- The id after `i`, and the next id not in use (R370). -/
def idAfter (i : Nat) : Nat := if i = 0xFFFFFFFF then 1 else i + 1
def freeId : (n : Nat) → List Track → Nat → Nat
  | 0, _, i => i
  | n + 1, ts, i => if ts.any fun t => t.id == i then freeId n ts (idAfter i) else i

/-- Tracks kept in rising id. -/
def insertTrack (ts : List Track) (t : Track) : List Track := insertBy (fun a b => a.id < b.id) t ts

/-- A birth (R367, R370): a tentative track from the set's reserve or the shared rest; none when the set is full or no entry is free. -/
def Dev.birth (d : Dev) (c s : Nat) (n : Noise) (x : Detection) (u ts : Nat) : Option Nat × Dev :=
  match d.trackSet? c s with
  | none => (none, d)
  | some t =>
    if t.tracks.length < d.rd Reg.trackerStreamConfig_trackMax s && (t.tracks.length < t.reserve || 0 < d.trackUnreserved) then
      let id := freeId (t.tracks.length + 1) t.tracks t.nextId
      let zs := measure x.box
      let k : Track :=
        { id, state := .tentative, cls := x.cls, hits := 1, misses := 0, filter := zs.map fun z => Kalman.birth n z (zs.getD 3 0),
          box := x.box, lastUnit := u, lastTimestamp := ts }
      (some id, (d.updTrackSet c s fun t => { t with tracks := insertTrack t.tracks k, nextId := idAfter id }).count
        Reg.trackerStreamCounters_born s)
    else (none, d.count Reg.trackerStreamCounters_refused s)

/-- The births of a frame, in ascending detection index: which track each unmatched detection became. -/
def Dev.births (d : Dev) (c s : Nat) (n : Noise) (xs : List (Nat × Detection)) (u ts : Nat) : List (Nat × Nat) × Bool × Dev :=
  xs.foldl (fun (acc : List (Nat × Nat) × Bool × Dev) e =>
    let r := acc.2.2.birth c s n e.2 u ts
    match r.1 with
    | some id => (acc.1 ++ [(e.1, id)], acc.2.1, r.2)
    | none => (acc.1, true, r.2)) ([], false, d)

/-! ### Crops (R371) -/

/-- Four values no rule gives: pad mode, pads, and the output's address (log entry 24). -/
def Dev.cropFree (d : Dev) : List Nat × Dev :=
  (List.range 5).foldl (fun (acc : List Nat × Dev) _ => let r := acc.2.fresh; (acc.1 ++ [r.1], r.2)) ([], d)

/-- The crop entry of a track (R371, R206): its box widened by the margin, mapped to a level, into the crop. -/
def Dev.cropEntry (d : Dev) (b : DetectBody) (f : CalFrame) (t : Track) : List Byte × Dev :=
  let r := d.cropFree
  let one : FVal := .num false 1 0
  let scale := (List.range (b.cropLevel + 1)).foldl (fun (v : FVal) k => v.mul (.num false (d.scale f.stream k) (-8))) one
  let m := Fmt.f16.decode b.margin
  let side (lo hi : Nat) : FVal × FVal :=
    let w : FVal := (FVal.ofInt ((q4 t.box hi : Int) - q4 t.box lo)).scale (-2)
    let x0 := ((FVal.ofInt (q4 t.box lo)).scale (-2)).add (m.mul w).neg
    let x1 := ((FVal.ofInt (q4 t.box hi)).scale (-2)).add (m.mul w)
    (x0.mul scale, (x1.add x0.neg).mul scale)
  let sx := side 0 2
  let sy := side 1 3
  let step (v : FVal) (n : Nat) : Nat := rne32 (v.div (.ofInt n))
  let co := [step sx.2 b.cropW, 0, 0, step sy.2 b.cropH, rne32 sx.1, rne32 sy.1]
  (leBytes 8 f.pointer ++ leBytes 1 b.cropLevel ++ leBytes 1 (r.1.getD 0 0 % 2) ++ leBytes 2 b.cropW ++ leBytes 2 b.cropH ++
    leBytes 2 0 ++ co.flatMap (leBytes 4) ++ ((List.range 3).flatMap fun i => leBytes 2 (r.1.getD (i + 1) 0)) ++ leBytes 2 0 ++
    leBytes 8 (r.1.getD 4 0) ++ leBytes 8 0, r.2)

/-- The tag of a crop (R371). -/
def cropTag (c : Nat) (f : CalFrame) (id : Nat) : List Byte :=
  leBytes 1 c ++ leBytes 1 0 ++ leBytes 2 f.stream ++ leBytes 4 id ++ leBytes 4 f.sequence ++ leBytes 4 0

/-- Tracks in the order crops are cut of them (R371): never cropped first, then by the unit of the last crop, then by id. -/
def cropBefore (a b : Track) : Bool :=
  match a.lastCrop, b.lastCrop with
  | none, none => a.id ≤ b.id
  | none, some _ => true
  | some _, none => false
  | some u, some v => u < v || (u == v && a.id ≤ b.id)

/-- Crops exported to the second-stage plan (R371). -/
def Dev.exportCrops (d : Dev) (c : Nat) (b : DetectBody) (f : CalFrame) : Dev :=
  match d.ctx? b.exportContext, d.trackSet? c f.stream with
  | some x, some t =>
    let u := f.sequence
    let due := isort cropBefore (t.tracks.filter fun k =>
      k.state == .confirmed && match k.lastCrop with
        | none => true
        | some v => v + b.embedEvery ≤ u)
    let chosen := due.take b.cropMax
    let base := x.scratch + b.exportOffset
    let d := d.store base (leBytes 4 due.length)
    let d := ((List.range chosen.length).zip chosen).foldl (fun d e =>
      let r := d.cropEntry b f e.2
      (r.2.store (base + 64 + 64 * e.1) r.1).store (base + 64 + 64 * b.cropMax + 16 * e.1) (cropTag c f e.2.id)) d
    d.updTrackSet c f.stream fun t =>
      { t with tracks := t.tracks.map fun k => if chosen.any fun z => z.id == k.id then { k with lastCrop := some u } else k }
  | _, _ => d

/-! ### DETECT -/

/-- T_d of R390. -/
def detectTime (nc nk nt g : Nat) : Nat :=
  2000 + ceilDiv nc 4 + ceilDiv (nc * nk) 32 + ceilDiv (nk * nt) 32 + 4 * g + 48 * (nt + nk)

/-- A latency-critical tracker or Points entry of a step dispatched before a place still waits (R390). -/
def Dev.earlierWaits (d : Dev) (c n : Nat) : Bool :=
  d.contexts.any fun e => e.2.latency && e.2.steps.any fun s => (e.1 != c || s.number < n) &&
    s.entries.any fun f => (f.e.engine == 3 || f.e.engine == 4) && f.state == .queued &&
      ((d.step? c n).any fun t => t.entries.any fun g => f.order < g.order)

/-- The tracks of a set after a frame's detections: predicted, associated and updated (R368 to R370), with the pairs made, the tracks
deleted, and G of R390. -/
structure Followed where
  tracks : List Track
  pairs : List Pair
  deleted : List Track
  g : Nat
  deriving DecidableEq, Repr

def Dev.follow (d : Dev) (t : TrackSet) (ds : List Detection) (u ts : Nat) : Followed :=
  let s := t.stream
  let n := d.noise s
  let dt := fint (min 8 (max 1 ((u : Int) - t.lastUnit)))
  let ps := t.tracks.map fun k => k.predict n dt
  let cand := pairsOf ps ds (d.rd Reg.trackerStreamConfig_iouMatch s)
  let made := assign cand
  let out := ps.map fun p =>
    let hit := (made.find? fun q => q.id == p.track.id).map fun q => ds.getD q.det default
    (p.track, Track.step p hit n (d.rd Reg.trackerStreamConfig_confirmHits s) (d.rd Reg.trackerStreamConfig_maxMiss s) u ts)
  { tracks := out.filterMap (·.2), pairs := made, deleted := (out.filter fun e => e.2.isNone).map (·.1), g := cand.length }

/-- The detections of a frame (R363 to R365), with the counts and flags they leave. -/
structure Found where
  detections : List Detection
  candidates : Nat
  leftOut : Nat
  nans : Nat
  keepClamped : Bool
  deriving DecidableEq, Repr

def Dev.findBoxes (d : Dev) (b : DetectBody) (hs : List Head) (f : CalFrame) (slot : Nat) : Found :=
  let cells := d.decodeHeads b hs f slot
  let cs := isort candidateBefore (cells.filterMap fun o => match o with
    | .candidate c => some c
    | _ => none)
  let kept := suppress b (cs.take b.candMax) []
  { detections := kept.1.map fun c => { cls := c.cls, p := c.p, box := d.quarterBox f c.box },
    candidates := min cs.length b.candMax, leftOut := cs.length - b.candMax,
    nans := (cells.filter fun o => o == .nan).length, keepClamped := kept.2 }

/-- The tracks whose entries of the table read as poison are deleted without a record (R465). -/
def Dev.loseTracks (d : Dev) (c s : Nat) (lost : List Nat) : Dev :=
  let n := ((d.trackSet? c s).map fun t => (t.tracks.filter fun k => lost.contains k.id).length).getD 0
  if n = 0 then d
  else (d.updTrackSet c s fun t => { t with tracks := t.tracks.filter fun k => !lost.contains k.id }).count
    Reg.trackerStreamCounters_deleted s n

/-- The tracks of one frame (R363 to R371): what the batch will say of them is added to the frame's place in the step. -/
def Dev.followFrame (d : Dev) (y : SliceAt) (i : Nat) (f : CalFrame) (slot : Nat) (lost : List Nat) : Dev :=
  let c := y.at_.context
  let s := f.stream
  let u := f.sequence
  let v := d.getNat (y.x.store + y.entry.e.body) 32
  let b := parseDetect v
  let hs := (List.range b.heads).map fun k => parseHead (d.getNat (y.x.store + y.entry.e.body + 32 + 32 * k) 32)
  let d := d.loseTracks c s lost
  match d.trackSet? c s with
  | none => d
  | some t =>
    let r := d.findBoxes b hs f slot
    let w := d.follow t r.detections u f.timestamp
    let ended := w.deleted.filter fun k => k.state != .tentative
    let late := d.earlierWaits c y.s.number
    let d := d.updTrackSet c s fun t =>
      { t with tracks := w.tracks, lastUnit := u, fresh := false,
               gone := t.gone ++ (ended.filter fun k => k.rules.any fun e => e.2.inside == some true).map fun k =>
                 { track := k.id, cls := k.cls, box := k.box, rules := k.rules } }
    let d := (d.count Reg.trackerStreamCounters_deleted s w.deleted.length).makeUpTracks
    let fresh := ((List.range r.detections.length).zip r.detections).filter fun e =>
      !(w.pairs.any fun q => q.det == e.1) && !flt e.2.p (d.rd Reg.trackerStreamConfig_birthThreshold s) && !(f32v e.2.p).isNan
    let born := d.births c s (d.noise s) fresh u f.timestamp
    let d := born.2.2
    let ts := ((d.trackSet? c s).map TrackSet.tracks).getD []
    let whose (i : Nat) : Option Track :=
      let id := ((w.pairs.find? fun q => q.det == i).map Pair.id) <|> ((born.1.find? fun e => e.1 == i).map (·.2))
      id.bind fun k => ts.find? fun t => t.id == k
    let d := if b.exportContext = 0 then d else d.exportCrops c b f
    let d := ((d.count Reg.trackerStreamCounters_frames s).count Reg.trackerStreamCounters_clamped s r.leftOut).count
      Reg.trackerStreamCounters_nanCells s r.nans
    let flags := b2n (r.leftOut != 0) + 2 * b2n r.keepClamped + 4 * b2n born.2.1
    d.updStepFrame c y.s.number i fun p =>
      { p with found :=
          { p.found with flags := p.found.flags ||| flags,
                         records := p.found.records ++ ((List.range r.detections.length).zip r.detections).map
                           (fun e => detectionRecord e.1 e.2 (whose e.1)),
                         ends := p.found.ends ++ ended.map endRecord,
                         td := p.found.td + detectTime r.candidates r.detections.length t.tracks.length w.g,
                         late := p.found.late || late } }

/-- The tracks of one frame, by the configuration its DETECT began with (R393). -/
def Dev.detectFrame (d : Dev) (y : SliceAt) (i : Nat) (f : CalFrame) (slot : Nat) (lost : List Nat) : Dev :=
  d.withSettings y.entry.olds fun d => d.followFrame y i f slot lost

/-- What a frame's batch carries (R384): LEDGER_LOST and nothing, or SHAPE_CLAMPED or OK and its records. -/
def Dev.sealFrame (d : Dev) (c n i : Nat) (events : List (List Byte)) : Dev :=
  match (d.step? c n).bind fun s => (s.frames[i]?).map fun f => (s, f) with
  | none => d
  | some (s, f) =>
    let d := if f.withheld then d.sealBatch c f.frame 0x43 0x0C f.found.flags []
      else d.sealBatch c f.frame (if s.clamped then 0x02 else 0) (if s.clamped then 0x0B else 0x0E) f.found.flags
        (f.found.records ++ f.found.ends ++ events)
    (d.updStepFrame c n i fun f => { f with sealed := true }).sealAllLate c

/-- DETECT (R360 to R371): commits for the frame its entry is for; a frame whose outputs are withheld is skipped (R384). Without an
EVALUATE entry in the list the batch is sealed here, when its turn comes (R382, R385). A head tensor that reads as poison faults the
context (R465). -/
def detectEffect (e slot : Nat) (ecc : List EccEvent) (lost : List Nat) (d : Dev) : Dev :=
  match d.sliceAt false e 1 with
  | none => d
  | some y =>
    let d := d.eccAndSlots ecc
    let c := y.at_.context
    let n := y.at_.step
    match y.entry.frame, d.step? c n with
    | some i, some s =>
      match s.frames[i]? with
      | none => d.commitSlice false e y
      | some f =>
        let seals := !(s.entries.any fun g => g.e.engine == 4)
        let heads := (List.range (parseDetect (d.getNat (y.x.store + y.entry.e.body) 32)).heads).map fun k =>
          parseHead (d.getNat (y.x.store + y.entry.e.body + 32 + 32 * k) 32)
        if seals && !y.x.mayLeave f.frame.stream f.frame.number then d
        else if heads.any fun h => d.poisoned (slot + h.offset) (h.height * h.width * h.cpad * 2) then
          Dev.faultCtx { d with sliceJobs := d.sliceJobs.erase (sliceArea false, e) } c 0x82 0x14
        else
          let d := if f.withheld then d else d.detectFrame y i f.frame slot lost
          let d := if seals then d.sealFrame c n i [] else d
          (d.commitSlice false e y).count Reg.trackerEngineState_committed e
    | _, _ => d.commitSlice false e y

/-! ### EMBED and watch lists (R372 to R374) -/

/-- A vector divided by the square root of the pairwise-tree sum of its squares (R372). -/
def normalise (v : List Nat) : List Nat :=
  let s := fsqrt (fsum (v.map fsq))
  v.map fun a => fdiv a s

def dot (a b : List Nat) : Nat := fsum ((a.zip b).map fun e => fmul e.1 e.2)

/-- The best entry of a list for an embedding (R374): entries that read as poison are skipped (R465). -/
def Dev.bestWatch (d : Dev) (l : Nat) (v : List Nat) : Option (Nat × Nat) :=
  (List.range (d.rd Reg.trackerWatchCount l)).foldl (fun (best : Option (Nat × Nat)) i =>
    let a := d.watchAddress l i
    if d.poisoned a 528 then best
    else
      let s := dot v ((List.range 128).map fun k => d.getNat (a + 16 + 4 * k) 4)
      if (f32v s).isNan then best
      else match best with
        | none => some (i, s)
        | some b => if flt b.2 s then some (i, s) else best) none

/-- The lists that enabled appearance rules of a stream name, in rising number. -/
def Dev.watchLists (d : Dev) (s : Nat) : List Nat :=
  let named := (List.range 4096).filter fun k =>
    d.flag Reg.pointsRule_enable k && d.rd Reg.pointsRule_kind k == 5 && d.rd Reg.pointsRule_stream k == s
  (List.range 16).filter fun l => named.any fun k => d.rd Reg.pointsRule_watch k == l

/-- WATCH_MATCH (R374): a track's embedding compared with the lists; each match is queued once. -/
def Dev.matchWatch (d : Dev) (c s id unit : Nat) : Dev :=
  (d.watchLists s).foldl (fun d l =>
    match (d.trackSet? c s).bind fun t => t.tracks.find? fun k => k.id == id with
    | none => d
    | some k =>
      match d.bestWatch l ((k.embedding.getD []).map h32) with
      | none => d
      | some b =>
        if flt b.2 (d.rd Reg.trackerWatchThreshold l) || k.reported.contains (l, b.1) then d
        else
          let m : Match :=
            { track := id, cls := k.cls, box := k.box, list := l, entry := b.1, entryId := d.getNat (d.watchAddress l b.1) 4,
              similarity := b.2, unit }
          d.updTrackSet c s fun t =>
            { t with matchQueue := t.matchQueue ++ [m],
                     tracks := t.tracks.map fun z => if z.id = id then { z with reported := (l, b.1) :: z.reported } else z }) d

/-- An embedding attached to a track (R372). -/
def Dev.attachEmbedding (d : Dev) (c s id unit : Nat) (raw : List Nat) : Dev :=
  match (d.trackSet? c s).bind fun t => t.tracks.find? fun k => k.id == id with
  | none => if s < 1024 then d.count Reg.trackerStreamCounters_embeddingsDiscarded s else d
  | some k =>
    if raw.all fun v => (f32v v).isZero then d.count Reg.trackerStreamCounters_embeddingsDiscarded s
    else
      let n := normalise raw
      let alpha := d.rd Reg.trackerStreamConfig_embedAlpha s
      let v := match k.embedding with
        | none => n
        | some old => normalise (((old.map h32).zip n).map fun (e : Nat × Nat) => fadd (fmul alpha e.1) (fmul (fsub fone alpha) e.2))
      let v := v.map fun a => Fmt.f16.round (f32v a)
      (d.updTrackSet c s fun t =>
        { t with tracks := t.tracks.map fun z => if z.id = id then { z with embedding := some v } else z }).matchWatch c s id unit

/-- The embeddings of `n` crops attached, each to the track its tag names (R372). -/
def Dev.attachAll (d : Dev) (vecs tags n : Nat) : Dev :=
  (List.range n).foldl (fun d i =>
    let t := tags + 16 * i
    let raw := (List.range 128).map fun k => h32 (d.getNat (vecs + 256 * i + 2 * k) 2)
    d.attachEmbedding (d.getNat t 1) (d.getNat (t + 2) 2) (d.getNat (t + 4) 4) (d.getNat (t + 8) 4) raw) d

/-- EMBED (R372, R374): the embeddings of the step's crops attach to the tracks their tags name; the watch lists are those it began
with (R373). -/
def embedEffect (e : Nat) (ecc : List EccEvent) (d : Dev) : Dev :=
  match d.sliceAt false e 2 with
  | none => d
  | some y =>
    let d := d.eccAndSlots ecc
    let body := y.x.store + y.entry.e.body
    let vecs := y.x.scratch + d.getNat (body + 8) 4
    let tags := y.x.scratch + d.getNat (body + 12) 4
    let n := y.s.dims.getD (d.getNat (body + 16) 1) 0
    if d.poisoned vecs (256 * n) || d.poisoned tags (16 * n) then
      Dev.faultCtx { d with sliceJobs := d.sliceJobs.erase (sliceArea false, e) } y.at_.context 0x82 0x14
    else
      let d := d.withSettings y.entry.olds fun d => d.attachAll vecs tags n
      (d.commitSlice false e y).count Reg.trackerEngineState_committed e

/-- Entry `i` of a WATCH_LOAD's data: its id and its 128 values (R373). -/
def watchEntry (data : List Byte) (i : Nat) : Nat × List Nat :=
  (le data (272 * i) 4, (List.range 128).map fun k => h32 (le data (272 * i + 16 + 2 * k) 2))

/-- An entry as it is stored. -/
def storedWatch (e : Nat × List Nat) : List Byte := leBytes 4 e.1 ++ List.replicate 12 0#8 ++ (normalise e.2).flatMap (leBytes 4)

/-- WATCH_LOAD (R373): replaces a list, or completes with WATCH_INVALID and leaves it. -/
def watchLoadEffect (q i : Nat) (d : Dev) : Dev :=
  match d.takeCommand q i 0x0D10 with
  | none => d
  | some f =>
    let l := byteAt f.entry 8
    let n := le f.entry 10 2
    if 15 < l || 4096 < n then d.complete q i 0x80 0x0D
    else if f.data.length < 272 * n then d
    else
      let es := (List.range n).map (watchEntry f.data)
      if es.any fun e => e.2.any (fun v => !(f32v v).isFinite) || e.2.all (fun v => (f32v v).isZero) then d.complete q i 0x80 0x0D
      else
        let old := d.rd Reg.trackerWatchCount l
        let d := d.keepSetting 3 (.watchList l old (d.getBytes (d.watchAddress l 0) (528 * old)))
        let d := ((List.range n).zip es).foldl (fun d e => d.store (d.watchAddress l e.1) (storedWatch e.2)) d
        -- an entry that read as poison was skipped until this reload (R465)
        let d := { d with poison := d.poison.filter fun u => !(d.watchAddress l 0 ≤ u && u < d.watchAddress l n) }
        (d.wr Reg.trackerWatchCount l n).complete q i 0 0x0D

def execSliceBoundary (p : Bool) (e : Nat) (s : State) := act (.sliceBoundary p e) (sliceBoundaryEffect p e) s
def execTrackerEngineFault (p : Bool) (e : Nat) (s : State) := act (.trackerEngineFault p e) (trackerEngineFaultEffect p e) s
def execDetect (e a : Nat) (x : List EccEvent) (l : List Nat) (s : State) := act (.detect e a x l) (detectEffect e a x l) s
def execEmbed (e : Nat) (x : List EccEvent) (s : State) := act (.embed e x) (embedEffect e x) s
def execWatchLoad (q i : Nat) (s : State) := act (.watchLoad q i) (watchLoadEffect q i) s

end Sys2Proof.Machine
end

