-- ==== Sys2Proof/Machine/Points.lean ====
section
/-! DEFINITION. Points (R375 to R385): rules, events, actions, and the sealing of a frame's batch. -/

namespace Sys2Proof.Machine

/-! ### Geometry (R376) -/

/-- A point in eighth samples. -/
structure Pt where
  x : Int
  y : Int
  deriving DecidableEq, Repr

/-- The anchor of a box: bottom centre, or centre. -/
def anchorOf (centre : Bool) (b : List Nat) : Pt :=
  { x := (q4 b 0 : Int) + q4 b 2, y := if centre then (q4 b 1 : Int) + q4 b 3 else 2 * (q4 b 3 : Int) }

/-- (p2 − p1) × (q − p1). -/
def cross (p1 p2 q : Pt) : Int := (p2.x - p1.x) * (q.y - p1.y) - (p2.y - p1.y) * (q.x - p1.x)

/-- A point lies on a segment. -/
def onEdge (a b q : Pt) : Bool :=
  cross a b q == 0 && min a.x b.x ≤ q.x && q.x ≤ max a.x b.x && min a.y b.y ≤ q.y && q.y ≤ max a.y b.y

/-- A ray from a point towards +x crosses an edge. -/
def rayCrosses (a b q : Pt) : Bool :=
  let up := decide (a.y ≤ q.y) && decide (q.y < b.y)
  let down := decide (b.y ≤ q.y) && decide (q.y < a.y)
  (up && decide ((q.x - a.x) * (b.y - a.y) < (q.y - a.y) * (b.x - a.x))) ||
    (down && decide ((q.y - a.y) * (b.x - a.x) < (q.x - a.x) * (b.y - a.y)))

/-- The edges of a polygon. -/
def polygonEdges (vs : List Pt) : List (Pt × Pt) := vs.zip (vs.drop 1 ++ vs.take 1)

/-- A point lies in a zone. -/
def inZone (vs : List Pt) (q : Pt) : Bool :=
  let es := polygonEdges vs
  es.any (fun e => onEdge e.1 e.2 q) || (es.filter fun e => rayCrosses e.1 e.2 q).length % 2 == 1

/-- The direction in which a segment crosses a vertex pair (R377): 1 negative to positive, 2 positive to negative. -/
def crossing (p1 p2 a b : Pt) : Option Nat :=
  let sa := cross p1 p2 a
  let sb := cross p1 p2 b
  let s1 := cross a b p1
  let s2 := cross a b p2
  let within := (decide (s1 ≤ 0) && decide (0 ≤ s2)) || (decide (s2 ≤ 0) && decide (0 ≤ s1))
  if !within then none
  else if sa < 0 ∧ 0 ≤ sb then some 1
  else if 0 < sa ∧ sb ≤ 0 then some 2
  else none

/-- The direction of the first consecutive pair of a line that a segment crosses as the rule asks. -/
def lineCross (vs : List Pt) (direction : Nat) (a b : Pt) : Option Nat :=
  (vs.zip (vs.drop 1)).findSome? fun e =>
    match crossing e.1 e.2 a b with
    | some k => if direction = 0 ∨ direction = k then some k else none
    | none => none

/-! ### Rules (R375, R377) -/

/-- The vertices of a rule, doubled. -/
def Dev.ruleVertices (d : Dev) (k : Nat) : List Pt :=
  (List.range (d.rd Reg.pointsRule_vertices k)).map fun i =>
    { x := 2 * (d.rd (Reg.pointsRule_x i) k : Int), y := 2 * (d.rd (Reg.pointsRule_y i) k : Int) }

/-- An event (R377, R383). -/
structure Event where
  rule : Nat
  kind : Nat
  direction : Nat := 0
  cls : Nat := 0
  track : Nat := 0
  box : List Nat := []
  watch : Nat := 0
  entryId : Nat := 0
  similarity : Nat := 0
  dwell : Nat := 0
  count : Nat := 0
  crop : Nat := 0
  deriving DecidableEq, Repr

/-- An event record (R383). -/
def eventRecord (e : Event) : List Byte :=
  padTo 64 (leBytes 1 3 ++ leBytes 1 e.kind ++ leBytes 1 e.cls ++ leBytes 1 e.direction ++ leBytes 4 e.track ++
    (List.range 4).flatMap (fun i => leBytes 2 (q4 e.box i)) ++ leBytes 2 e.rule ++ leBytes 1 e.watch ++ leBytes 1 0 ++
    leBytes 4 e.entryId ++ leBytes 2 e.similarity ++ leBytes 2 0 ++ leBytes 4 e.dwell ++ leBytes 2 e.count ++ leBytes 2 0 ++
    leBytes 4 e.crop)

/-- What a rule is evaluated against: its number, the frame, and stream time with its ticks per second. -/
structure RuleAt where
  rule : Nat
  unit : Nat
  time : Nat
  rate : Nat
  deriving DecidableEq, Repr

/-- Milliseconds since a stay began. -/
def RuleAt.dwell (a : RuleAt) (since : Nat) : Nat := (a.time - since) * 1000 / a.rate

/-- The debounced state of a track in a zone after a frame (R377), and whether it changed. -/
def RuleTrack.next (r : RuleTrack) (inside : Bool) (debounce time : Nat) : RuleTrack × Bool :=
  match r.inside with
  | none => ({ inside := some inside, other := 0, since := time, dwelt := false }, false)
  | some was =>
    if was = inside then ({ r with other := 0 }, false)
    else if debounce ≤ r.other + 1 then ({ inside := some inside, other := 0, since := time, dwelt := false }, true)
    else ({ r with other := r.other + 1 }, false)

/-- The events of a track under a rule of the kinds line to dwell, and what the rule keeps of it. -/
def Dev.trackEvent (d : Dev) (a : RuleAt) (t : Track) : Option Event × RuleTrack :=
  let k := a.rule
  let vs := d.ruleVertices k
  let kind := d.rd Reg.pointsRule_kind k
  let centre := d.rd Reg.pointsRule_anchor k == 1
  let q := anchorOf centre t.box
  let e : Event := { rule := k, kind, cls := t.cls, track := t.id, box := t.box }
  let r := t.rules.getD k {}
  if kind = 0 then
    match t.prev with
    | none => (none, r)
    | some p =>
      if p.1 + 8 < a.unit then (none, r)
      else ((lineCross vs (d.rd Reg.pointsRule_direction k) (anchorOf centre p.2) q).map fun dir => { e with direction := dir }, r)
  else
    let n := r.next (inZone vs q) (d.rd Reg.pointsRule_debounce k) a.time
    match kind with
    | 1 => (if n.2 && n.1.inside == some true then some e else none, n.1)
    | 2 => (if n.2 && n.1.inside == some false then some e else none, n.1)
    | 3 =>
      if n.1.inside == some true && !n.1.dwelt && d.rd Reg.pointsRule_dwellMs k * a.rate ≤ (a.time - n.1.since) * 1000 then
        (some { e with dwell := a.dwell n.1.since }, { n.1 with dwelt := true })
      else (none, n.1)
    | _ => (none, n.1)

/-- A class a rule applies to. -/
def Dev.ruleApplies (d : Dev) (k cls : Nat) : Bool := cls < 64 && (d.rd Reg.pointsRule_classMask k).testBit cls

/-- The events of one rule, in ascending track id, and the track set after it. -/
def Dev.ruleEvents (d : Dev) (a : RuleAt) (t : TrackSet) : List Event × TrackSet :=
  let k := a.rule
  let kind := d.rd Reg.pointsRule_kind k
  if kind = 5 then
    ((t.matchQueue.filter fun m => m.list == d.rd Reg.pointsRule_watch k && d.ruleApplies k m.cls).map fun m =>
      { rule := k, kind, cls := m.cls, track := m.track, box := m.box, watch := m.list, entryId := m.entryId,
        similarity := Fmt.f16.round (f32v m.similarity), crop := m.unit }, t)
  else
    let out := t.tracks.map fun x =>
      if x.state == .confirmed && d.ruleApplies k x.cls then
        let r := d.trackEvent a x
        (r.1, { x with rules := x.rules.put k r.2 })
      else (none, x)
    let gone := if kind = 2 then
        (t.gone.filter fun g => d.ruleApplies k g.cls && (g.rules.getD k {}).inside == some true).map fun g =>
          ({ rule := k, kind, cls := g.cls, track := g.track, box := g.box } : Event)
      else []
    let t := { t with tracks := out.map (·.2) }
    if kind = 4 then
      let n := (t.tracks.filter fun x =>
        x.state == .confirmed && d.ruleApplies k x.cls && (x.rules.getD k {}).inside == some true).length
      let lo := d.rd Reg.pointsRule_countLow k
      let hi := d.rd Reg.pointsRule_countHigh k
      let fire := (t.counts.find? k).any fun was => (was ≤ hi && hi < n) || (lo ≤ was && n < lo)
      (if fire then [{ rule := k, kind, count := n }] else [], { t with counts := t.counts.put k n })
    else (isort (fun x y => x.track ≤ y.track) (out.filterMap (·.1) ++ gone), t)

/-- The rules of a stream as a context tracks it, in ascending number. -/
def Dev.rulesOf (d : Dev) (s c : Nat) : List Nat :=
  (List.range 4096).filter fun k =>
    d.flag Reg.pointsRule_enable k && d.rd Reg.pointsRule_stream k == s && d.rd Reg.pointsRule_context k == c

/-- The action an event names, if any. -/
def Dev.actionOf (d : Dev) (e : Event) : Option Nat :=
  let a := d.rd Reg.pointsRule_action e.rule
  if a < 64 then some a else none

/-- The CAN FD frame of an event (R381). -/
def Dev.eventFrame (d : Dev) (a : Nat) (e : Event) (unit time : Nat) : CanFrame :=
  { identifier := if d.flag Reg.pointsAction_extended a then d.rd Reg.pointsAction_canId a else bits (d.rd Reg.pointsAction_canId a) 0 11,
    extended := d.flag Reg.pointsAction_extended a,
    data := leBytes 16 (d.rd Reg.pointsAction_template a) ++ leBytes 2 e.rule ++ leBytes 1 e.kind ++ leBytes 1 e.cls ++
      leBytes 4 e.track ++ leBytes 4 unit ++ leBytes 4 time }

/-- The actions of a frame's events (R378): discrete outputs, then CAN FD frames. -/
def Dev.issueActions (d : Dev) (es : List Event) (unit time : Nat) : Dev :=
  let as := es.filterMap fun e => (d.actionOf e).map fun a => (a, e)
  let d := as.foldl (fun d p => if d.flag Reg.pointsAction_dio p.1 then d.driveLine p.1 else d) d
  as.foldl (fun d p => if d.flag Reg.pointsAction_can p.1 then d.queueEvent (d.eventFrame p.1 p.2 unit time) else d) d

/-- The rules of a frame run (R377, R378): the events, and the device with the track set after them. -/
def Dev.runRules (d : Dev) (c : Nat) (f : CalFrame) : List Event × Dev :=
  let s := f.stream
  match d.trackSet? c s with
  | none => ([], d)
  | some t =>
    let rate := streamTicks f.kind (d.streams.getD s {}).file.timescale 1000
    let r := (d.rulesOf s c).foldl (fun (acc : List Event × TrackSet) k =>
      let r := d.ruleEvents { rule := k, unit := f.sequence, time := streamTime f.kind f.wraps f.timestamp, rate } acc.2
      (acc.1 ++ r.1, r.2)) ([], t)
    let after := { r.2 with
      matchQueue := [], gone := [],
      tracks := r.2.tracks.map fun x => if x.state = .confirmed then { x with prev := some (f.sequence, x.box) } else x }
    (r.1, d.updTrackSet c s fun _ => after)

/-- What a rule keeps of tracks and counts is unknown again (R375). -/
def Dev.forgetRule (d : Dev) (k : Nat) : Dev :=
  { d with trackSets := d.trackSets.map fun t =>
      { t with counts := t.counts.erase k, gone := t.gone.map fun g => { g with rules := g.rules.erase k },
               tracks := t.tracks.map fun x => { x with rules := x.rules.erase k } } }

/-- A write of `points.rule` (R375): what the rule keeps is unknown again; an EVALUATE that has begun goes on with the rule as it was. -/
def Dev.applyPointsRule (d : Dev) (k v : Nat) : Dev :=
  ((d.keepSetting 4 (.elem .pointsRule k (d.elemNat .pointsRule k))).setElem .pointsRule k v).forgetRule k

/-- T_e of R390. -/
def evaluateTime (tracks rules actions : Nat) : Nat := 1000 + ceilDiv (tracks * rules) 2 + 200 * actions

/-- EVALUATE (R378, R382 to R385): the rules run as they stood when it began, actions are issued, and the frame's batch is sealed, each when the batches of the
stream's earlier frames have left. A frame whose outputs are withheld yields an empty batch. -/
def evaluateEffect (e : Nat) (ecc : List EccEvent) (d : Dev) : Dev :=
  match d.sliceAt true e 1 with
  | none => d
  | some y =>
    let d := d.eccAndSlots ecc
    let c := y.at_.context
    let n := y.at_.step
    match y.entry.frame, d.step? c n with
    | some i, some s =>
      match s.frames[i]? with
      | none => d.commitSlice true e y
      | some f =>
        if !y.x.mayLeave f.frame.stream f.frame.number then d
        else
          let now := d.swapSettings y.entry.olds
          let r := if f.withheld then ([], now.1) else now.1.runRules c f.frame
          let d := r.2.count Reg.pointsCounters_events 0 r.1.length
          let u := ((d.trackSet? c f.frame.stream).map fun t => t.tracks.length).getD 0
          let te := evaluateTime u (d.rulesOf f.frame.stream c).length (r.1.filterMap d.actionOf).length
          let d := d.updStepFrame c n i fun f => { f with found := { f.found with te := f.found.te + te } }
          let d := d.issueActions r.1 f.frame.sequence f.frame.timestamp
          let records := (r.1.filter fun v => d.flag Reg.pointsRule_record v.rule).map eventRecord
          let d := y.entry.olds.foldl (fun d x => match x with
            | .elem .pointsRule k _ => d.forgetRule k
            | _ => d) (d.swapSettings now.2).1
          (d.sealFrame c n i records).commitSlice true e y
    | _, _ => d.commitSlice true e y


def execEvaluate (e : Nat) (x : List EccEvent) (s : State) := act (.evaluate e x) (evaluateEffect e x) s

end Sys2Proof.Machine
end

