-- ==== Sys2Proof/Machine/Power.lean ====
section
/-! DEFINITION. The Gauge, the bubble law, the slope limiter, operating points, the rack budget, the rail and heat (R476 to R513). Powers
are FP32 encodings in W where they are kept, and exact where they are computed (log entry 28). -/

namespace Sys2Proof.Machine

/-! ### Exact powers -/

/-- The value of a finite FP32 encoding, and a value rounded to FP32. -/
def ratOf (a : Nat) : Rat :=
  match f32v a with
  | .num s m e =>
    let v : Rat := if 0 ≤ e then (m * 2 ^ e.toNat : Nat) else (m : Rat) / (2 ^ (-e).toNat : Nat)
    if s then -v else v
  | _ => 0
def f32Of (r : Rat) : Nat := fratio r.num r.den

def Dev.watts (d : Dev) (r : Reg) : Rat := ratOf (d.rd r)
def Dev.setWatts (d : Dev) (r : Reg) (v : Rat) : Dev := d.wr r 0 (f32Of v)
def Dev.updPw (d : Dev) (f : Power → Power) : Dev := { d with pw := f d.pw }

/-! ### Operating points (R487) -/

def pointClock (p : Nat) : Nat := [240, 200, 150, 100].getD p 100
def pointVnom (p : Nat) : Nat := [600, 550, 500, 450].getD p 450
def pointVt (p : Nat) : Reg := [Reg.powerAvsState_v0, Reg.powerAvsState_v1, Reg.powerAvsState_v2, Reg.powerAvsState_v3].getD p Reg.powerAvsState_v3

/-- The arithmetic-rail factor of a point at a voltage in mV: clock times its square. -/
def railFactor (p mv : Nat) : Rat := (pointClock p * mv * mv : Nat)
def Dev.pointFactor (d : Dev) (p : Nat) : Rat := railFactor p (d.rd (pointVt p))
def Dev.point (d : Dev) : Nat := d.rd Reg.powerOpState_point

/-- V_t of a point written to the rail (R489, R503): whether AVSBus takes it; a failure is a lasting cause until a write succeeds. -/
def avsCause : Cause := { bit := Bit.power, area := 0x16, detail := 8 }
def Dev.setRail (d : Dev) (mv : Nat) (ok : Bool) : Dev :=
  if ok then
    (Dev.endLasting (d.updPw fun p => { p with rail := mv, avsFailed := false }) fun l => l == avsCause.lasting).send
      (.avsWrite (d.rd Reg.powerAvsRail) mv)
  else Dev.beginLasting (d.updPw fun p => { p with avsFailed := true }) avsCause

/-! ### Domains (R476 to R478) -/

/-- The switched power domains (R24). -/
def allDomains : List Domain :=
  (List.range 34).map .arrays ++ (List.range 34).map .shell ++ [.random] ++ (List.range 26).map (.engine .decode) ++
    (List.range 5).map (.engine .encode) ++ (List.range 5).map (.engine .calender) ++ (List.range 3).map (.engine .deckle) ++
    (List.range 3).map (.engine .tracker) ++ (List.range 2).map (.engine .points) ++ (List.range 16).map .vatGroup ++
    (List.range 12).map .control ++ (List.range 3).map .coupling ++ (List.range 2).map .ethernet ++ (List.range 2).map .phy

/-- Ticks from power off, and from a stopped clock, to ready (R478): a port and the PHY are ready as soon as they are on (log entry 154). -/
def wakeTicks (x : Domain) (powered : Bool) : Nat :=
  if powered then 1
  else match x with
    | .arrays _ => 16
    | .shell _ => 12
    | .random => 4
    | .engine _ _ => 8
    | .vatGroup _ => 8
    | .control _ => 32
    | .coupling _ | .ethernet _ | .phy _ => 0

/-- The power step of a wake (R478): rows on the arithmetic rail (R565: the arrays, vector engines, Vat and random unit) scale with its
factor against P0 at V_nom. -/
def Dev.wakeStep (d : Dev) (x : Domain) : Rat :=
  let scaled (w : Rat) : Rat := w * railFactor d.point d.pw.rail / railFactor 0 600
  match x with
  | .arrays _ => scaled (22 / 10)
  | .shell _ => scaled (18 / 10)
  | .random => scaled (3 / 10)
  | .engine _ _ => 9 / 10
  | .vatGroup _ => scaled (5 / 10)
  | .control _ => 6 / 10
  | .coupling _ | .ethernet _ | .phy _ => 0

/-- Presented banks of the Vat among the first `p` physical ones (R17). -/
def Dev.banksBelow (d : Dev) (p : Nat) : Nat :=
  match d.boot.units.find? .vatBank with
  | some l => (l.filter (· < p)).length
  | none => min p (d.rd Reg.vatBanksPresented)

/-- A bank of a group of 66 lies in a partition (R24, R440): the cache has the highest-numbered presented banks. -/
def Dev.groupInUse (d : Dev) (g : Nat) : Bool :=
  let first := d.banksBelow (66 * g)
  let past := d.banksBelow (66 * g + 66)
  let presented := d.rd Reg.vatBanksPresented
  first < past && (first < d.rd Reg.vatLayout_planBanks + d.rd Reg.vatLayout_poolBanks || presented < past + cacheBanks (d.rd Reg.vatCacheSize))

/-- The class of the command an engine has, if it has one (R477, R485): latency-critical or not. -/
def Dev.domainWork (d : Dev) (x : Domain) : Option Bool :=
  let cls (c : Nat) : Bool := d.boostedCtx c || (d.ctx? c).any Context.latency
  let core (k : Nat) : Option Bool :=
    match (d.core k).serving with
    | some r => some (cls r.1)
    | none =>
      match d.choices.find? fun y => y.entry.core == k && y.entry.state == .queued with
      | some y => some (cls y.context)
      | none => none
  let job (points : Bool) (e : Nat) : Option Bool := (d.sliceJobs.find? (sliceArea points, e)).map fun j => cls j.context
  match x with
  | .arrays k => core k
  | .shell k => core k
  | .random => if d.cores.any fun e => e.2.serving.isSome then some false else none
  | .engine .decode e => if (d.decodeJobs.find? e).isSome then some false else none
  | .engine .encode e => if (d.encodeJobs.find? e).isSome then some false else none
  | .engine .calender e => (d.calJob e).map fun _ => false
  | .engine .deckle _ => (d.poolNext 2).map fun _ => false
  | .engine .tracker e => job false e
  | .engine .points e => job true e
  | .vatGroup g => if d.groupInUse g then some false else none
  | .control _ => none
  | .coupling p => if d.flag Reg.couplingPortEnable p then some false else none
  | .ethernet p => if d.flag Reg.junctionPortEnable p then some false else none
  | .phy _ => if d.ep.memoryReady then some false else none

/-- A core kept awake by `power.lc_standby` (R477). -/
def Dev.standbyCore (d : Dev) (k : Nat) : Bool := d.flag Reg.powerLcStandby && d.latencyOn k != []
def Dev.standby (d : Dev) (x : Domain) : Bool :=
  match x with
  | .arrays k => d.standbyCore k
  | .shell k => d.standbyCore k
  | _ => false

/-- Domains whose engine has a command and whose clock does not run join the wakes waited for; idle ones note since when (R477, R478). A
latency-critical command that waits for a wake of its core is counted. -/
def Dev.noticeDomains (d : Dev) : Dev :=
  allDomains.foldl (fun d x =>
    let s := d.domain x
    match d.domainWork x with
    | some lc =>
      let d := if s.idleSince.isSome then d.updDomain x fun s => { s with idleSince := none } else d
      if s.running || s.readyAt.isSome || d.pw.wanted.any (fun w => w.1 == x) then d
      else
        let d := d.updPw fun p => { p with wanted := p.wanted ++ [(x, lc)] }
        match x with
        | .arrays _ => if lc then d.count Reg.powerCounters_wakeWaits else d
        | .shell k => if lc && (d.domain (.arrays k)).running then d.count Reg.powerCounters_wakeWaits else d
        | _ => d
    | none =>
      let d := d.updPw fun p => { p with wanted := p.wanted.filter fun w => w.1 != x }
      if s.running && s.idleSince.isNone then d.updDomain x fun s => { s with idleSince := some d.now } else d) d

/-- The random unit's check (R275): the draw it computes is the one the rule gives, and `good` says that the unit computes what R273 does.
One that fails is held out of service, with FAULT. -/
def Dev.checkRandom (d : Dev) (good : Bool) : Dev :=
  let ok := good && philoxSelftest
  let d := d.setFlag Reg.randomSelftest 0 ok
  if ok then d else d.attend { bit := Bit.fault, area := 0x0A, detail := 1 }

/-- DOMAIN_READY (R478): the random unit is checked after its domain has woken (R275). -/
def domainReadyEffect (x : Domain) (randomGood : Bool) (d : Dev) : Dev :=
  match (d.domain x).readyAt with
  | some t =>
    if t ≤ d.now then
      let off := !(d.domain x).powered
      let d := d.updDomain x fun _ => { running := true, powered := true }
      if x = .random && off then d.checkRandom randomGood else d
    else d
  | none => d

/-- The band of R485: P_est of the four epochs before, less and plus 6 W. -/
def Power.fits (p : Power) (v : Rat) : Bool := p.hist.all fun h => decide (ratOf h - 6 ≤ v) && decide (v ≤ ratOf h + 6)

/-- A Press core's domain may switch off (R239): at a tile boundary or while the core has no command. -/
def Dev.mayPowerOff (d : Dev) (x : Domain) : Bool :=
  match x with
  | .vatGroup _ => (d.domainWork x).isNone
  | _ => true

/-- IDLE_CLOCK_STOP (R477, R485): a domain idle for power.idle_off_us stops its clock, and switches off where it may, when its step fits
the band. -/
def idleClockStopEffect (x : Domain) (d : Dev) : Dev :=
  let s := d.domain x
  let waited := s.idleSince.any fun t => t * 8 + d.rd Reg.powerIdleOffUs * 25 ≤ d.now * 8
  if !s.running || (d.domainWork x).isSome || d.standby x || !waited then d
  else
    let v := ratOf d.pw.pred - d.wakeStep x
    if !d.pw.fits v then d.count Reg.powerCounters_slopeHeld
    else
      let d := Dev.updDomain (d.updPw fun p => { p with pred := f32Of v }) x fun _ => { running := false, powered := !d.mayPowerOff x }
      match x with
      | .arrays k => d.updCore k Core.freshArrays
      | .shell k => { d.updCore k (fun y => y.lose d.free) with free := d.free + 1 }
      | _ => d

/-- Clock domains that run (R23, R511): the ones that never stop, ports that are enabled, and those awake; an array pair and a shell are
two each. -/
def Dev.domainsAwake (d : Dev) : Nat :=
  let ports := ((List.range 2).filter fun p => d.flag Reg.junctionPortEnable p).length
  let coup := ((List.range 3).filter fun p => d.flag Reg.couplingPortEnable p).length
  let each (x : Domain) : Nat := match x with
    | .arrays _ => 2
    | .shell _ => 2
    | _ => 1
  22 + ports + coup + d.pw.domains.foldl (fun a e => if e.2.running then a + each e.1 else a) 0

/-! ### The estimate (R479 to R481) -/

/-- The hottest of the working sensors among some, in 1/16 °C. -/
def Dev.hottestOf (d : Dev) (ks : List Nat) : Option (Nat × Int) :=
  (ks.filter fun k => !d.pw.failed.contains k).foldl (fun (best : Option (Nat × Int)) k =>
    let v := toSigned 16 (d.rd Reg.thermalSensor k)
    match best with
    | some b => if b.2 < v then some (k, v) else best
    | none => some (k, v)) none

/-- w × c × s of a counter in W (R479). -/
def Dev.activityPower (d : Dev) (e : Activity) : Rat :=
  let v : Rat := (d.rd Reg.powerWeights e.counter * e.count : Nat) / 2560000000
  if e.arithmetic then v * (d.pw.rail * d.pw.rail : Nat) / 360000 else v

def sumRat (l : List Rat) : Rat := l.foldl (· + ·) 0

/-- P_raw (R479). -/
def Dev.rawPower (d : Dev) (es : List Activity) (zs : List ZoneLoad) : Rat :=
  sumRat (es.map d.activityPower) + sumRat (zs.map fun z =>
    (z.powered : Rat) / (max 1 z.total : Nat) *
      ratOf (Config.staticPower z.zone (((d.hottestOf z.sensors).map (·.2)).getD 0) z.millivolts))

/-- A class's power as it would draw it without bubbles (R480). -/
def Dev.unbubbled (d : Dev) (es : List Activity) (latency : Bool) (k : Nat) : Rat :=
  sumRat ((es.filter fun e => e.cls == some latency).map d.activityPower) * 64 / (64 - (k : Rat))

/-- The controlled value (R481, R502). -/
def Dev.controlled (d : Dev) (pEst : Rat) : Rat :=
  if 64 ≤ d.pw.missing then pEst * 11 / 10
  else if d.flag Reg.powerOpState_disagreement then
    (pEst + max 0 (d.watts Reg.powerEstimate_pMeas - d.watts Reg.powerEstimate_eMean)) * 11 / 10
  else pEst

/-! ### The bubble law (R482) -/

def Dev.capEff (d : Dev) : Rat :=
  min (d.watts (if d.flag Reg.powerOpState_leaseLapsed then Reg.powerCapFallback else Reg.powerCapWatts)) (d.watts Reg.thermalHottest_pTh)

/-- The power bubbles remove. -/
def removed (kBe kLc : Nat) (aBe aLc : Rat) : Rat := (kBe : Rat) / 64 * aBe + (kLc : Rat) / 64 * aLc

/-- The target fractions, in 64ths. -/
def bubbleTargets (pCtl cap : Rat) (kBe kLc : Nat) (aBe aLc : Rat) : Nat × Nat :=
  let x := max 0 (pCtl + removed kBe kLc aBe aLc - cap)
  let tBe := if x = 0 then 0 else if aBe = 0 then 60 else min 60 (64 * x / aBe).ceil.toNat
  let x2 := x - (tBe : Rat) / 64 * aBe
  let tLc := if x2 ≤ 0 then 0 else if aLc = 0 then 0 else min 60 (64 * x2 / aLc).ceil.toNat
  (tBe, tLc)

/-! ### The slope limiter (R485) -/

/-- The limiter at work: P_pred, and candidates held. -/
structure Slope where
  pred : Rat
  held : Nat := 0

/-- A rise of a fraction towards its target by the most that fits. -/
def Power.rise (p : Power) (s : Slope) (k t : Nat) (a : Rat) : Nat × Slope :=
  if t ≤ k then (k, s)
  else
    let ok := (List.range (t - k)).filter fun i => p.fits (s.pred - ((i + 1 : Nat) : Rat) / 64 * a)
    match ok.getLast? with
    | some i => (k + i + 1, { pred := s.pred - ((i + 1 : Nat) : Rat) / 64 * a, held := s.held + (if i + 1 < t - k then 1 else 0) })
    | none => (k, { s with held := s.held + 1 })

/-- A fall of a fraction by 1/64. -/
def Power.fall (p : Power) (s : Slope) (k t : Nat) (a : Rat) : Nat × Slope :=
  if k ≤ t then (k, s)
  else if p.fits (s.pred + a / 64) then (k - 1, { s with pred := s.pred + a / 64 })
  else (k, { s with held := s.held + 1 })

/-- The wakes of a class that wait, oldest first, admitted as their steps fit. -/
def Dev.admitWakes (d : Dev) (s : Slope) (latency : Bool) : Dev × Slope :=
  (d.pw.wanted.filter fun w => w.2 == latency).foldl (fun (acc : Dev × Slope) w =>
    let d := acc.1
    let v := acc.2.pred + d.wakeStep w.1
    if d.pw.fits v then
      let t := d.now + wakeTicks w.1 (d.domain w.1).powered
      (Dev.updDomain (d.updPw fun p => { p with wanted := p.wanted.filter fun u => u.1 != w.1 }) w.1 fun x => { x with readyAt := some t },
        { acc.2 with pred := v })
    else (d, { acc.2 with held := acc.2.held + 1 })) (d, s)

/-- SLOPE_LIMIT (R485): the candidate changes of an epoch, in its order. -/
def Dev.limitSlope (d : Dev) (pEst : Rat) (t : Nat × Nat) (aBe aLc : Rat) : Dev :=
  let p := d.pw
  let s : Slope := { pred := pEst }
  let r1 := p.rise s (d.rd Reg.powerOpState_kBe) t.1 aBe
  let r2 := p.rise r1.2 (d.rd Reg.powerOpState_kLc) t.2 aLc
  let r3 := p.fall r2.2 r2.1 t.2 aLc
  let w1 := d.admitWakes r3.2 true
  let r4 := p.fall w1.2 r1.1 t.1 aBe
  let w2 := w1.1.admitWakes r4.2 false
  let d := (w2.1.wr Reg.powerOpState_kBe 0 r4.1).wr Reg.powerOpState_kLc 0 r3.1
  (d.updPw fun p => { p with pred := f32Of w2.2.pred }).count Reg.powerCounters_slopeHeld 0 w2.2.held

/-! ### The epoch (R479, R488, R491, R496, R497, R507) -/

def stoppedCause : Cause := { bit := Bit.power, area := 0x16, detail := 2 }
def unreachableCause : Cause := { bit := Bit.power, code := 0x50, area := 0x16, detail := 3 }
def throttleCause : Cause := { bit := Bit.thermal, area := 0x17, detail := 2 }

/-- The thermal ceiling as a point. -/
def Dev.ceiling (d : Dev) : Nat := d.rd Reg.powerOpState_ceiling

/-- The lowest-numbered point allowed. -/
def Dev.highestAllowed (d : Dev) : Nat := max (d.rd Reg.powerOpMax) d.ceiling

/-- T_hot as the device acts on it (R506, R508): 105 °C while a region has no working sensor and another has. -/
def sensorRegion (k : Nat) : Nat := if k < 34 then 0 else if k < 50 then 1 else if k < 62 then 2 else if k < 66 then 3 else 4
def Dev.deadRegions (d : Dev) : List Nat :=
  (List.range 5).filter fun g => (List.range 72).all fun k => sensorRegion k != g || d.pw.failed.contains k
def Dev.actingHot (d : Dev) : Int :=
  let t := ((d.hottestOf (List.range 72)).map (·.2)).getD 0
  if d.deadRegions != [] && d.pw.failed.length < 72 then max t 1680 else t

/-- The thermal limit and ceiling fall and recover (R507). -/
def Dev.throttle (d : Dev) (pCtl : Rat) : Dev :=
  let p := d.pw
  if 1680 ≤ d.actingHot then
    let d := d.count Reg.thermalCounters_throttledEpochs
    let d := d.updPw fun p => { p with hotFor := p.hotFor + 1, coolFor := 0 }
    if (p.hotFor + 1) % 391 = 0 then
      (d.setWatts Reg.thermalHottest_pTh (max 40 (min (d.watts Reg.thermalHottest_pTh) pCtl - 5))).wr Reg.powerOpState_ceiling 0
        (min 3 (d.ceiling + 1))
    else d
  else if d.actingHot ≤ 1600 && d.deadRegions == [] then
    let n := p.coolFor + 1
    let d := d.updPw fun p => { p with hotFor := 0, coolFor := n }
    let d := if n = 39063 then
        Dev.endLasting (d.updPw fun p => { p with throttling := false }) fun l => l == throttleCause.lasting
      else d
    if 39063 < n && (n - 39063) % 3907 = 0 then
      (d.setWatts Reg.thermalHottest_pTh (min 260 (d.watts Reg.thermalHottest_pTh + 5))).wr Reg.powerOpState_ceiling 0 (d.ceiling - 1)
    else d
  else d.updPw fun p => { p with hotFor := 0, coolFor := 0 }

/-- Consecutive epochs of a condition. -/
def run (n : Nat) (b : Bool) : Nat := if b then n + 1 else 0

/-- The windows of R488, R491, R496 and R497 move on by an epoch. The point the device starts at (R487) does not by itself make it
capped: a change of R488 or the thermal ceiling does. -/
def Dev.moveWindows (d : Dev) (beyond : Bool) : Dev :=
  let kb := d.rd Reg.powerOpState_kBe
  let kl := d.rd Reg.powerOpState_kLc
  let moved := d.rd Reg.powerOpState_changes != 0 || d.rd Reg.powerOpMax < d.ceiling
  let capped := (d.rd Reg.powerOpMax < d.point && moved) || 0 < kl
  let d := d.updPw fun p =>
    { p with highFor := run p.highFor (16 < kb), lowFor := run p.lowFor (kb < 4), lcFor := run p.lcFor (0 < kl),
             lcZeroFor := run p.lcZeroFor (kl == 0), overFor := run p.overFor beyond, underFor := run p.underFor (!beyond),
             uncappedFor := run p.uncappedFor (!capped) }
  let d := if capped then d.setFlag Reg.powerOpState_capped 0 true
    else if 3907 ≤ d.pw.uncappedFor then d.setFlag Reg.powerOpState_capped 0 false else d
  let d := if 0 < kl then d.count Reg.powerCounters_lcEpochs else d
  if d.headroom then d else d.count Reg.powerCounters_heldEpochs

/-- BEST_EFFORT_STOP (R496). -/
def Dev.stopBestEffort (d : Dev) (cap : Rat) : Dev :=
  let floor := d.watts Reg.powerDemand_floor
  let rose := d.pw.below && decide (floor < cap)
  let d := d.updPw fun p => { p with below := decide (cap ≤ floor) }
  if d.flag Reg.powerOpState_beStopped then
    if 3907 ≤ d.pw.lcZeroFor || d.point < 3 || rose then
      (d.setFlag Reg.powerOpState_beStopped 0 false).endLasting fun l => l == stoppedCause.lasting
    else d
  else if d.point = 3 ∧ 391 ≤ d.pw.lcFor ∧ !rose then (d.setFlag Reg.powerOpState_beStopped 0 true).beginLasting stoppedCause
  else d

/-- CAP_UNREACHABLE (R497). -/
def Dev.checkUnreachable (d : Dev) : Dev :=
  let lc := d.rd Reg.powerOpState_kLc
  if d.flag Reg.powerOpState_unreachable then
    if 391 ≤ d.pw.underFor || lc < 60 then
      (d.setFlag Reg.powerOpState_unreachable 0 false).endLasting fun l => l == unreachableCause.lasting
    else d
  else if d.flag Reg.powerOpState_beStopped && d.contexts.all (fun e => e.2.latency || e.2.steps == []) && lc == 60 &&
      391 ≤ d.pw.overFor then
    (d.setFlag Reg.powerOpState_unreachable 0 true).beginLasting unreachableCause
  else d

/-- The decision of R488. -/
def Dev.decidePoint (d : Dev) (pCtl cap aBe aLc : Rat) : Dev :=
  let p := d.point
  if d.pw.changeTo.isSome then d
  else if (391 ≤ d.pw.highFor || p < d.highestAllowed) && p < 3 then
    (d.updPw fun w => { w with changeTo := some (p + 1) }).setFlag Reg.powerOpState_changing 0 true
  else if 3907 ≤ d.pw.lowFor && 0 < p && d.highestAllowed < p && !d.pw.avsFailed &&
      decide (pCtl + (d.pointFactor (p - 1) / d.pointFactor p - 1) * (aBe + aLc) ≤ 95 / 100 * cap) then
    (d.updPw fun w => { w with changeTo := some (p - 1) }).setFlag Reg.powerOpState_changing 0 true
  else d

/-- The demand of an epoch joins the window of R492. -/
def Dev.noteDemand (d : Dev) (v : Nat) : Dev :=
  d.updPw fun p =>
    { p with epoch := p.epoch + 1,
             demands := (p.demands.filter fun e => p.epoch < e.1 + 39063 && !flt e.2 v) ++ [(p.epoch, v)] }

/-- The power of Press issue under two fractions. -/
def issued (kBe kLc : Nat) (aBe aLc : Rat) : Rat := aBe + aLc - removed kBe kLc aBe aLc

/-- The targets recomputed at a lower point `q`, from the last epoch's estimate, and whether they keep P_pred within the band (R489). -/
def Dev.lowerTargets (d : Dev) (q : Nat) : (Nat × Nat) × Bool :=
  let kb := d.rd Reg.powerOpState_kBe
  let kl := d.rd Reg.powerOpState_kLc
  let aBe := d.watts Reg.powerEstimate_aBe
  let aLc := d.watts Reg.powerEstimate_aLc
  let ratio := d.pointFactor q / d.pointFactor d.point
  let rest := d.watts Reg.powerEstimate_pEst - issued kb kl aBe aLc
  let other := d.watts Reg.powerEstimate_pCtl - issued kb kl aBe aLc
  let t := bubbleTargets (other + issued kb kl (aBe * ratio) (aLc * ratio)) d.capEff kb kl (aBe * ratio) (aLc * ratio)
  (t, d.pw.fits (rest + issued t.1 t.2 (aBe * ratio) (aLc * ratio)))

/-- The targets of an epoch: while a step down waits, fractions rise until its targets fit the band, and do not fall (R489). -/
def Dev.epochTargets (d : Dev) (t : Nat × Nat) : Nat × Nat :=
  match d.pw.changeTo with
  | none => t
  | some q =>
    if q ≤ d.point then t
    else if (d.lowerTargets q).2 then (max t.1 (d.rd Reg.powerOpState_kBe), max t.2 (d.rd Reg.powerOpState_kLc))
    else (max 60 (d.rd Reg.powerOpState_kBe), max 60 (d.rd Reg.powerOpState_kLc))

/-- GAUGE_EPOCH (R479 to R497). -/
def gaugeEpochEffect (es : List Activity) (zs : List ZoneLoad) (d : Dev) : Dev :=
  let kb := d.rd Reg.powerOpState_kBe
  let kl := d.rd Reg.powerOpState_kLc
  let pEst := d.watts Reg.powerEstimateGain * d.rawPower es zs + d.watts Reg.powerEstimateOffset
  let aBe := d.unbubbled es false kb
  let aLc := d.unbubbled es true kl
  let pCtl := d.controlled pEst
  let d := d.noticeDomains
  let d := d.noteDemand (f32Of (pCtl + removed kb kl aBe aLc +
    (d.pointFactor (d.rd Reg.powerOpMax) / d.pointFactor d.point - 1) * (aBe + aLc)))
  let d := d.throttle pCtl
  let cap := d.capEff
  let d := (((d.setWatts Reg.powerEstimate_pEst pEst).setWatts Reg.powerEstimate_pCtl pCtl).setWatts Reg.powerEstimate_capEff cap)
  let d := (((d.setWatts Reg.powerEstimate_aBe aBe).setWatts Reg.powerEstimate_aLc aLc).setWatts Reg.powerEstimate_headroom (cap - pCtl))
  let d := d.updPw fun p => { p with hist := (f32Of pEst :: p.hist).take 4, sumEst := p.sumEst + pEst, countEst := p.countEst + 1 }
  let d := d.limitSlope pEst (d.epochTargets (bubbleTargets pCtl cap kb kl aBe aLc)) aBe aLc
  let d := d.moveWindows (decide (cap < pCtl))
  let d := (d.stopBestEffort cap).checkUnreachable
  d.decidePoint pCtl cap aBe aLc

/-! ### Operating point changes (R489) -/

/-- The point in force is another: the change is counted and raised, and the windows restart (R488, R489). -/
def Dev.enterPoint (d : Dev) (p : Nat) : Dev :=
  let d := ((d.wr Reg.powerOpState_point 0 p).setFlag Reg.powerOpState_changing 0 false).count Reg.powerOpState_changes
  let d := d.updPw fun w => { w with changeTo := none, highFor := 0, lowFor := 0 }
  d.attend { bit := Bit.power, area := 0x16, detail := 0x10 + p }

/-- The least fractions at or above those in force that keep P_pred from rising out of the band (R489). -/
def Dev.holdFractions (d : Dev) (rest aBe aLc : Rat) (kb kl : Nat) : Nat × Nat :=
  let ok (b l : Nat) : Bool := d.pw.hist.all fun h => decide (rest + issued b l aBe aLc ≤ ratOf h + 6)
  match (List.range (61 - kb)).find? fun i => ok (kb + i) kl with
  | some i => (kb + i, kl)
  | none =>
    match (List.range (61 - kl)).find? fun i => ok 60 (kl + i) with
    | some i => (max kb 60, kl + i)
    | none => (max kb 60, max kl 60)

/-- OPERATING_POINT_CHANGE (R489): a step down waits until the fractions its targets ask for keep P_pred within the band; a step up needs
AVSBus to confirm the rail. -/
def operatingPointChangeEffect (confirmed : Bool) (d : Dev) : Dev :=
  match d.pw.changeTo with
  | none => d
  | some q =>
    let p := d.point
    let kb := d.rd Reg.powerOpState_kBe
    let kl := d.rd Reg.powerOpState_kLc
    let aBe := d.watts Reg.powerEstimate_aBe
    let aLc := d.watts Reg.powerEstimate_aLc
    let pEst := d.watts Reg.powerEstimate_pEst
    let ratio := d.pointFactor q / d.pointFactor p
    let rest := pEst - issued kb kl aBe aLc
    if p < q then
      let (t, fits) := d.lowerTargets q
      if !fits then d
      else
        let d := (d.wr Reg.powerOpState_kBe 0 t.1).wr Reg.powerOpState_kLc 0 t.2
        (d.enterPoint q).setRail (d.rd (pointVt q)) confirmed
    else
      let d := d.setRail (d.rd (pointVt q)) confirmed
      if !confirmed then (d.updPw fun w => { w with changeTo := none }).setFlag Reg.powerOpState_changing 0 false
      else
        let t := d.holdFractions rest (aBe * ratio) (aLc * ratio) kb kl
        ((d.wr Reg.powerOpState_kBe 0 t.1).wr Reg.powerOpState_kLc 0 t.2).enterPoint q

/-! ### The rack budget (R492 to R495) -/

/-- DEMAND_PUBLISH (R492): the largest demand of the window, and floor, from the non-Press estimate, the latency-critical issue and the
spin of standby cores, at P3 and 60/64. -/
def demandPublishEffect (standby : Nat) (d : Dev) : Dev :=
  let most := d.pw.demands.foldl (fun a e => fmax a e.2) fzero
  let aBe := d.watts Reg.powerEstimate_aBe
  let aLc := d.watts Reg.powerEstimate_aLc
  let rest := d.watts Reg.powerEstimate_pCtl - issued (d.rd Reg.powerOpState_kBe) (d.rd Reg.powerOpState_kLc) aBe aLc
  let floor := rest + (aLc + ratOf standby) * (d.pointFactor 3 / d.pointFactor d.point) * 4 / 64
  ((d.wr Reg.powerDemand_demand 0 most).setWatts Reg.powerDemand_floor floor).wr Reg.powerDemand_sequence 0
    ((d.rd Reg.powerDemand_sequence + 1) % 2 ^ 32)

def lapsedCause : Cause := { bit := Bit.power, area := 0x16, detail := 4 }

/-- A write of `power.cap.watts` is accepted (R493, R495). -/
def Dev.applyCap (d : Dev) (v : Nat) : Dev :=
  let d := (d.wr Reg.powerCapWatts 0 v).wr Reg.powerCapSequence 0 ((d.rd Reg.powerCapSequence + 1) % 2 ^ 32)
  let d := d.updPw fun p => { p with leaseFrom := d.now }
  (d.setFlag Reg.powerOpState_leaseLapsed 0 false).endLasting fun l => l == lapsedCause.lasting

/-- LEASE_EXPIRY (R495). -/
def leaseExpiryEffect (d : Dev) : Dev :=
  let ms := d.rd Reg.powerCapLeaseMs
  if ms = 0 ∨ d.now < d.pw.leaseFrom + ms * 3125 ∨ d.flag Reg.powerOpState_leaseLapsed then d
  else (d.setFlag Reg.powerOpState_leaseLapsed 0 true).beginLasting lapsedCause

/-! ### Measured power (R499 to R502) -/

def disagreeCause : Cause := { bit := Bit.power, code := 0x51, area := 0x16, detail := 5 }
def missingCause : Cause := { bit := Bit.power, area := 0x16, detail := 6 }

/-- The disagreement ends at a recalibration, and its count restarts (R500). -/
def Dev.endDisagreement (d : Dev) : Dev :=
  let d := d.updPw fun p => { p with disagree := 0 }
  (d.setFlag Reg.powerOpState_disagreement 0 false).endLasting fun l => l == disagreeCause.lasting

/-- The summed pages. -/
def Dev.summedPages (d : Dev) : List Nat :=
  (List.range 8).filter fun i => d.flag Reg.powerVrmPage_enable i && d.flag Reg.powerVrmPage_sum i

/-- VRM_READ (R499, R500, R502): the reading is the sum of the summed pages, or is missing when one of them did not answer. -/
def vrmReadEffect (pages : List (Nat × Nat)) (d : Dev) : Dev :=
  let ps := d.summedPages
  let mean := if d.pw.countEst = 0 then d.watts Reg.powerEstimate_pEst else d.pw.sumEst / (d.pw.countEst : Nat)
  let d := d.updPw fun p => { p with sumEst := 0, countEst := 0 }
  if ps = [] then d
  else if !ps.all fun i => pages.any fun e => e.1 == i then
    let d := (d.updPw fun p => { p with missing := p.missing + 1 }).count Reg.powerCounters_missing
    if d.pw.missing = 64 then d.beginLasting missingCause else d
  else
    let pMeas := sumRat (ps.map fun i => ratOf (((pages.find? fun e => e.1 == i).map (·.2)).getD 0))
    let diff := if mean ≤ pMeas then pMeas - mean else mean - pMeas
    let bad := decide (max pMeas mean < 5 * diff)
    let d := (d.setWatts Reg.powerEstimate_pMeas pMeas).setWatts Reg.powerEstimate_eMean mean
    let d := d.updPw fun p =>
      { p with missing := 0, disagree := run p.disagree bad, readings := ((f32Of pMeas, f32Of mean) :: p.readings).take 64 }
    let d := d.endLasting fun l => l == missingCause.lasting
    let d := if bad then d.count Reg.powerCounters_disagreeing else d
    if 64 ≤ d.pw.disagree && !d.flag Reg.powerOpState_disagreement then
      (d.setFlag Reg.powerOpState_disagreement 0 true).beginLasting disagreeCause
    else d

/-- POWER_RECALIBRATE_FIT (R501). -/
def powerRecalibrateFitEffect (q i : Nat) (d : Dev) : Dev :=
  match d.takeCommand q i 0x1601 with
  | none => d
  | some f =>
    if byteAt f.entry 8 != 0 then d
    else
      let o := d.watts Reg.powerEstimateOffset
      let sp := sumRat (d.pw.readings.map fun e => ratOf e.1) - 64 * o
      let se := sumRat (d.pw.readings.map fun e => ratOf e.2) - 64 * o
      if d.pw.readings.length < 64 ∨ se ≤ 0 then d.complete q i 0x80 0x16
      else
        let g := f32Of (min 2 (max (1 / 2) (d.watts Reg.powerEstimateGain * sp / se)))
        ((d.wr Reg.powerEstimateGain 0 g).endDisagreement).complete q i 0 0x16 g

/-- POWER_RECALIBRATE_END (R501). -/
def powerRecalibrateEndEffect (q i : Nat) (d : Dev) : Dev :=
  match d.takeCommand q i 0x1601 with
  | none => d
  | some f => if byteAt f.entry 8 != 1 then d else d.endDisagreement.complete q i 0 0x16

/-! ### The rail (R503 to R505) -/

/-- V_t of each point and M, as the ledger's voltage entries hold them (R547). -/
def Dev.recordVoltages (d : Dev) : Dev :=
  d.appendLedger 5 .voltagePoint d.point 0
    ((List.range 4).flatMap (fun p => leBytes 2 (d.rd (pointVt p))) ++ leBytes 1 (d.rd Reg.powerAvsState_margin))

/-- MONITOR_ALARM (R505). -/
def Dev.monitorAlarm (d : Dev) (ok : Bool) : Dev :=
  let p := d.point
  let d := (d.wr (pointVt p) 0 (pointVnom p)).setRail (pointVnom p) ok
  let d := (d.wr Reg.powerAvsState_margin 0 (min 40 (d.rd Reg.powerAvsState_margin + 10))).count Reg.powerAvsState_alarms
  let d := d.updPw fun w => { w with quietFrom := d.rd Reg.powerAvsState_hours, slackOk := 0 }
  (d.recordVoltages).attend { bit := Bit.power, area := 0x16, detail := 7 }

/-- AVS_TRIM (R503, R505): S is the least slack. A write that AVSBus does not take leaves V_t and the rail. -/
def avsTrimEffect (slacks : List Int) (ok : Bool) (d : Dev) : Dev :=
  let s := slacks.foldl min (slacks.headD 0)
  let p := d.point
  let m : Int := d.rd Reg.powerAvsState_margin
  let v := d.rd (pointVt p)
  let d := d.updPw fun w => { w with slackOk := run w.slackOk (decide (m + 15 ≤ s)) }
  let go (d : Dev) (mv : Nat) : Dev := if ok then (d.wr (pointVt p) 0 mv).setRail mv true else d.setRail mv false
  if s < 0 then d.monitorAlarm ok
  else if s < m then (if v + 5 ≤ pointVnom p then go d (v + 5) else d)
  else if 100 ≤ d.pw.slackOk ∧ pointVnom p - 100 + 5 ≤ v then go d (v - 5)
  else d

/-- MARGIN_NARROWING (R504). -/
def marginNarrowingEffect (d : Dev) : Dev :=
  if d.rd Reg.powerAvsState_hours < d.pw.quietFrom + 8760 then d
  else
    let d := (d.wr Reg.powerAvsState_margin 0 (max 10 (d.rd Reg.powerAvsState_margin - 5))).updPw fun w =>
      { w with quietFrom := w.quietFrom + 8760 }
    d.recordVoltages

/-- VOLTAGE_DAILY_RECORD (R504). -/
def dayTicks : Nat := 270000000000
def voltageDailyRecordEffect (d : Dev) : Dev :=
  if d.now < d.pw.lastDaily + dayTicks then d
  else Dev.recordVoltages (d.updPw fun w => { w with lastDaily := d.now })

/-! ### Heat (R506 to R509) -/

def sensorCause (k : Nat) : Cause := { bit := Bit.thermal, area := 0x17, detail := 3 + k * 256 }
def warnCause : Cause := { bit := Bit.thermal, area := 0x17, detail := 1 }
def regionCause (g : Nat) : Cause := { bit := Bit.thermal, area := 0x17, detail := 4 + g * 256 }

/-- A sensor's domain is powered: the ones at Press cores and Vat bank groups may be off. -/
def Dev.sensorPowered (d : Dev) (k : Nat) : Bool :=
  if k < 34 then (d.domain (.shell k)).powered else if k < 50 then (d.domain (.vatGroup (k - 34))).powered else true

/-- One sensor's reading taken (R506). -/
def Dev.takeSensor (d : Dev) (k : Nat) (v : Int) : Dev :=
  let old := d.pw.sensors.find? k
  let since := match old with
    | some o => if o.1 = v then o.2 else d.now
    | none => d.now
  let d := d.updPw fun p => { p with sensors := p.sensors.put k (v, since) }
  let bad := v < -640 ∨ 2400 < v ∨ (since + secondTicks ≤ d.now ∧ d.sensorPowered k)
  if bad then
    let d := d.wr Reg.thermalSensor k 0x8000
    if d.pw.failed.contains k then d
    else
      let d := (d.updPw fun p => { p with failed := k :: p.failed }).count Reg.thermalCounters_failed
      d.beginLasting (sensorCause k)
  else
    let d := d.wr Reg.thermalSensor k (ofSigned 16 v)
    Dev.endLasting (d.updPw fun p => { p with failed := p.failed.filter (· != k) }) fun l => l == (sensorCause k).lasting

/-- Warning, throttling and dead regions as the readings stand (R507, R508). -/
def Dev.judgeHeat (d : Dev) : Dev :=
  let dead := d.deadRegions
  let d := (List.range 5).foldl (fun d g =>
    if dead.contains g then d.beginLasting (regionCause g) else d.endLasting fun l => l == (regionCause g).lasting) d
  let d := match d.hottestOf (List.range 72) with
    | some h => (d.wr Reg.thermalHottest_tHot 0 (ofSigned 16 h.2)).wr Reg.thermalHottest_sensor 0 h.1
    | none => d
  let warn := (toSigned 16 (d.rd Reg.thermalWarn)) * 16
  let t := d.actingHot
  let on := d.lasting.contains warnCause.lasting
  let d := if warn ≤ t ∧ !on then (d.count Reg.thermalCounters_warns).beginLasting warnCause
    else if t ≤ warn - 32 then d.endLasting fun l => l == warnCause.lasting
    else d
  if 1680 ≤ t ∧ !d.pw.throttling then
    Dev.beginLasting ((d.updPw fun p => { p with throttling := true }).count Reg.thermalCounters_throttles) throttleCause
  else d

/-- The trip (R509): every clock outside the always-on island stops, outputs go to their safe levels, THERMTRIP_N is asserted, and the
pages with trip_off are turned off. It is latched. -/
def Dev.trip (d : Dev) : Dev :=
  if d.pw.tripped then d
  else
    let d := d.sendNotices.updPw fun p => { p with tripped := true, domains := [], wanted := [] }
    let pages := (List.range 8).filter fun i => d.flag Reg.powerVrmPage_enable i && d.flag Reg.powerVrmPage_tripOff i
    pages.foldl (fun d i => d.send (.operationOff i)) (d.send .thermTrip)

/-- THERMAL_SAMPLE (R506 to R508): with every sensor failed the device trips. -/
def thermalSampleEffect (vs : List Int) (d : Dev) : Dev :=
  let d := ((List.range vs.length).zip vs).foldl (fun d e => d.takeSensor e.1 e.2) d
  let d := d.judgeHeat
  if 72 ≤ d.pw.failed.length then d.trip else d

/-- THERMAL_TRIP (R509): a failed sensor's comparator takes no part. -/
def thermalTripEffect (k : Nat) (d : Dev) : Dev := if d.pw.failed.contains k then d else d.trip

def execGaugeEpoch (es : List Activity) (zs : List ZoneLoad) (s : State) := act (.gaugeEpoch es zs) (gaugeEpochEffect es zs) s
def execOperatingPointChange (b : Bool) (s : State) := act (.operatingPointChange b) (operatingPointChangeEffect b) s
def execDomainReady (w : DomainWake) (s : State) := act (.domainReady w) (domainReadyEffect w.domain w.randomGood) s
def execIdleClockStop (x : Domain) (s : State) := act (.idleClockStop x) (idleClockStopEffect x) s
def execLeaseExpiry (s : State) := act .leaseExpiry leaseExpiryEffect s
def execDemandPublish (w : Nat) (s : State) := act (.demandPublish w) (demandPublishEffect w) s
def execVrmRead (l : List (Nat × Nat)) (s : State) := act (.vrmRead l) (vrmReadEffect l) s
def execPowerRecalibrateFit (q i : Nat) (s : State) := act (.powerRecalibrateFit q i) (powerRecalibrateFitEffect q i) s
def execPowerRecalibrateEnd (q i : Nat) (s : State) := act (.powerRecalibrateEnd q i) (powerRecalibrateEndEffect q i) s
def execAvsTrim (l : List Int) (b : Bool) (s : State) := act (.avsTrim l b) (avsTrimEffect l b) s
def execMarginNarrowing (s : State) := act .marginNarrowing marginNarrowingEffect s
def execVoltageDailyRecord (s : State) := act .voltageDailyRecord voltageDailyRecordEffect s
def execThermalSample (l : List Int) (s : State) := act (.thermalSample l) (thermalSampleEffect l) s
def execThermalTrip (k : Nat) (s : State) := act (.thermalTrip k) (thermalTripEffect k) s

end Sys2Proof.Machine
end

