-- ==== Sys2Proof/Machine/Coupling.lean ====
section
/-! DEFINITION. Coupling ports and systems of four (R514 to R530): code blocks, lanes, training, link loss, transfers, remote signals and
waits, credits, and the relay mailboxes. A relayed request is performed in Machine/Dictionary.lean. -/

namespace Sys2Proof.Machine

def Dev.updCoup (d : Dev) (p : Nat) (f : CoupPort → CoupPort) : Dev := d.setCoup p (f (d.coupPort p))

/-- The device a port meets (R518). -/
def Dev.peerOf (d : Dev) (p : Nat) : Nat := (d.ownNumber + p + 1) % 4

/-- States of a port (R529). -/
def portDisabled : Nat := 0
def portTraining : Nat := 1
def portUp : Nat := 2
def portMismatch : Nat := 3
def portIsDown : Nat := 4
def Dev.portState (d : Dev) (p : Nat) : Nat := d.rd Reg.couplingPortState_state p
def Dev.portIsUp (d : Dev) (p : Nat) : Bool := d.portState p == portUp

/-- Whether a lasting cause is a port's being down (R530). -/
def isPortCause (p : Nat) (l : Lasting) : Bool := l.bit == Bit.link && l.area == 0x18 && l.detail % 4 == p && l.detail < 0xF0

/-! ### Training (R516, R519) -/

/-- The lanes that serve: the lowest 8 of the 9 that are good, if there are 8. -/
def goodLanes (bad : List Nat) : List Nat := ((List.range 9).filter fun l => !bad.contains l).take 8
def laneMask (ls : List Nat) : Nat := ls.foldl (fun a l => a + 2 ^ l) 0

/-- A port trains, with the lanes that serve chosen (R516, R529). -/
def Dev.trainPort (d : Dev) (p : Nat) : Dev :=
  let ls := goodLanes (d.coupPort p).badLanes
  let d := d.updCoup p fun x => { x with lastTry := d.now, resuming := false }
  if ls.length < 8 then d.wr Reg.couplingPortState_state p portIsDown
  else ((d.wr Reg.couplingPortState_state p portTraining).wr Reg.couplingPortState_lanes p (laneMask ls)).setFlag
    Reg.couplingPortState_spareUsed p (ls.contains 8)

/-- PORT_TRAINED (R519, R527): the port comes up when identifiers and sizes are equal and the other end's number is the one R518 expects;
otherwise it reports mismatch. -/
def portTrainedEffect (p identifier size number : Nat) (d : Dev) : Dev :=
  let x := d.coupPort p
  if d.portState p == portTraining || d.portState p == portMismatch || (d.portState p == portIsDown && x.resuming) then
    if identifier = d.rd Reg.couplingSystem_identifier ∧ size = d.rd Reg.couplingSystem_size ∧ number = d.peerOf p then
      let d := (d.wr Reg.couplingPortState_state p portUp).wr Reg.couplingPortState_peer p number
      let d := d.setCoup p { badLanes := x.badLanes, lastTry := x.lastTry }
      d.endLasting (isPortCause p)
    else (d.wr Reg.couplingPortState_state p portMismatch).updCoup p fun x => { x with resuming := false }
  else d

/-- PORT_TRAIN_RETRY (R516): a port that is down tries to train once each second. -/
def portTrainRetryEffect (p : Nat) (d : Dev) : Dev :=
  if d.portState p == portIsDown && !(d.coupPort p).resuming && (d.coupPort p).lastTry + secondTicks ≤ d.now then d.trainPort p else d

/-! ### Link loss (R525, R526) -/

/-- Messages that are counted when they are discarded: signals and boost requests (R526). -/
def countedLost : CouplingMessage → Bool
  | .signal _ _ _ => true
  | .transferSignal _ _ _ => true
  | .boost _ _ => true
  | _ => false

/-- Context counters on which device `e` acts (R526, fourth point). -/
def Dev.peerCounters (d : Dev) (e : Nat) : List Nat :=
  ((d.waiters.map (·.1)).filter fun k => 224 ≤ k % 256 && k % 256 < 240).filter fun k =>
    (d.rd Reg.couplingContextPeers (k / 256)).testBit e || d.heard.contains (k, e)

/-- A remote wait is still held by an entry that is not suspended; a suspended entry's wait has been abandoned (R414). -/
def Dev.waitsRemotely (d : Dev) (w : RemoteWait) : Bool :=
  (d.entry? w.context w.step w.pos).any fun e => e.state != .suspended && (e.wait.any fun a => a.remote == some w.id)

/-- The same, of an entry that may be suspended: without a recorded grant it counts as waiting when the link is lost (R594). -/
def Dev.unmetRemotely (d : Dev) (w : RemoteWait) : Bool :=
  (d.entry? w.context w.step w.pos).any fun e => e.wait.any fun a => a.remote == some w.id && !a.met

/-- An up port goes down (R526): waits on the lost device are released, its waiters leave, waiters on counters it acts on are released,
messages not applied are discarded, the relay to it replies LINK_DOWN, and LINK is raised with the new state. -/
def Dev.portDown (d : Dev) (p newState : Nat) : Dev :=
  if !d.portIsUp p then d
  else
    let e := d.peerOf p
    let d := (d.wr Reg.couplingPortState_state p newState).count Reg.couplingPortState_downs p
    let lost := d.remoteWaits.filter fun w => w.device == e && d.unmetRemotely w
    let d : Dev := { d with remoteWaits := d.remoteWaits.filter fun w => w.device != e }
    let gone := lost.map fun w => ({ context := w.context, step := w.step, code := codeLinkDown, area := 0x11 } : Abandon)
    let d := d.withdraw fun w => match w with
      | .entry _ _ _ => false
      | .remote f _ => f == e
    let r := (d.peerCounters e).foldl (fun (acc : Dev × List Abandon) k =>
      let r := acc.1.releaseAll k codeLinkDown
      (r.1, acc.2 ++ r.2)) (d, gone)
    let x := r.1.coupPort p
    let n := ((x.inbox ++ x.waiting).filter countedLost).length
    let d := (r.1.setCoup p { badLanes := x.badLanes, lastTry := d.now }).count Reg.couplingPortCounters_discarded p n
    let d := if 1 ≤ e && (d.mailbox e).busy then d.relayLinkDown e else d
    (d.abandonSteps r.2).beginLasting { bit := Bit.link, area := 0x18, detail := p + 16 * newState }

/-- BLOCK_LOCK_LOSS (R525). -/
def blockLockLossEffect (p : Nat) (d : Dev) : Dev := d.portDown p portIsDown

/-- An element of `coupling.port.enable` written (R525, R529): enabling trains the port, disabling takes it down. -/
def Dev.applyCouplingPortEnable (d : Dev) (p old : Nat) : Dev :=
  let on := d.flag Reg.couplingPortEnable p
  if on && old == 0 then d.trainPort p
  else if !on && old != 0 then
    if d.portIsUp p then d.portDown p portDisabled else d.wr Reg.couplingPortState_state p portDisabled
  else d

/-! ### Code blocks, lanes and credits (R515, R516, R521) -/

/-- A notice that a context has closed changes nothing here: R422 governs what reaches it afterwards. -/
def isNotice : CouplingMessage → Bool
  | .contextClosed _ => true
  | _ => false

/-- CODE_BLOCK_RECEIVED (R515): a good block is acknowledged and its messages delivered; a bad one is sent again, and the eighth failure of
one block takes the port down. -/
def codeBlockReceivedEffect (p : Nat) (good : Bool) (errors : Nat) (ms : List CouplingMessage) (d : Dev) : Dev :=
  if !d.portIsUp p then d
  else
    let d := d.count Reg.couplingPortCounters_symbolErrors p errors
    if good then
      let notices := ms.filter isNotice
      let d := notices.foldl (fun d _ => d.send (.coupCredit p .control)) d
      d.updCoup p fun x => { x with badRun := 0, inbox := x.inbox ++ ms.filter fun m => !isNotice m }
    else
      let n := (d.coupPort p).badRun + 1
      let d := (d.updCoup p fun x => { x with badRun := n }).count Reg.couplingPortCounters_replays p
      if 8 ≤ n then d.portDown p portIsDown else d

/-- LANE_REPAIR (R516, R530): the spare takes the place of a failing lane, the ledger records it and LINK is raised; with the spare in use
the port goes down. -/
def laneRepairEffect (p l : Nat) (d : Dev) : Dev :=
  if !d.portIsUp p || !(d.rd Reg.couplingPortState_lanes p).testBit l then d
  else
    let d := d.updCoup p fun x => { x with badLanes := l :: x.badLanes }
    if d.flag Reg.couplingPortState_spareUsed p then d.portDown p portIsDown
    else
      let d := (d.setFlag Reg.couplingPortState_spareUsed p true).wr Reg.couplingPortState_lanes p
        (laneMask (goodLanes (d.coupPort p).badLanes))
      (d.appendLedger 2 .couplingLane p l).attend { bit := Bit.link, area := 0x18, detail := 0xF0 + p }

/-- The messages that wait for a credit of a class, sent while credits last, `n` at most. -/
def Dev.drainClass : (n : Nat) → Dev → Nat → CoupClass → Dev
  | 0, d, _, _ => d
  | n + 1, d, p, c =>
    let x := d.coupPort p
    match x.waiting.find? fun m => msgClass m == c with
    | none => d
    | some m =>
      if x.credit c = 0 then d
      else Dev.drainClass n ((d.setCoup p { x.spend c with waiting := x.waiting.erase m }).send (.coupling p m)) p c

/-- CREDIT_RETURN (R521): the class may send again. A class never has more credits than its receive buffer gives. -/
def creditReturnEffect (p : Nat) (c : CoupClass) (d : Dev) : Dev :=
  if !d.portIsUp p then d
  else
    let d := d.updCoup p fun x => match c with
      | .control => { x with control := min 32 (x.control + 1) }
      | .signal => { x with signal := min 64 (x.signal + 1) }
      | .data => x
    d.drainClass (d.coupPort p).waiting.length p c

/-- The next message of a class on an up port. -/
def Dev.nextMessage (d : Dev) (p : Nat) (c : CoupClass) : Option CouplingMessage :=
  if d.portIsUp p then (d.coupPort p).inbox.find? fun m => msgClass m == c else none

/-- A message taken: it leaves the receive buffer, and its credit returns (R521). -/
def Dev.takeMessage (d : Dev) (p : Nat) (m : CouplingMessage) : Dev :=
  (d.updCoup p fun x => { x with inbox := x.inbox.erase m }).send (.coupCredit p (msgClass m))

/-- RESET_NOTICE (R525). -/
def resetNoticeEffect (p : Nat) (d : Dev) : Dev :=
  match d.nextMessage p .control with
  | some .resetNotice => (d.takeMessage p .resetNotice).portDown p portIsDown
  | _ => d

/-! ### Remote signals and waits (R414, R418, R422, R522) -/

/-- A counter is noted as one that device `e` acts on (R526). -/
def Dev.hear (d : Dev) (k e : Nat) : Dev := if d.heard.contains (k, e) then d else { d with heard := (k, e) :: d.heard }

/-- A signal of another device reaches a counter here; with the context free it is discarded and counted (R422). -/
def Dev.signalHere (d : Dev) (e c n k : Nat) : Dev :=
  if (d.ctx? c).isNone then d.count Reg.signalCounters_discarded
  else (d.hear (counterKey c n) e).applySignal (counterKey c n) k false

/-- REMOTE_SIGNAL (R522). -/
def remoteSignalEffect (p : Nat) (d : Dev) : Dev :=
  match d.nextMessage p .signal with
  | some (.signal c n k) => (d.takeMessage p (.signal c n k)).signalHere (d.peerOf p) c n k
  | _ => d

/-- REMOTE_WAIT (R522): the wait joins the counter's queue, or is released with HOLDER_GONE when the context is free (R422). -/
def remoteWaitEffect (p : Nat) (d : Dev) : Dev :=
  match d.nextMessage p .signal with
  | some (.wait id c n k) =>
    let e := d.peerOf p
    let d := d.takeMessage p (.wait id c n k)
    if (d.ctx? c).isNone then (d.count Reg.signalCounters_holderGone).sendTo e (.release id codeHolderGone)
    else
      let key := counterKey c n
      let d := d.hear key e
      (d.setCounterQueue key (d.counterQueue key ++ [{ who := .remote e id, need := k, boosts := false }])).decide_ key
  | _ => d

/-- GRANT (R414, R522): a grant meets its wait, also of an entry that has been suspended since; a release abandons the step. -/
def grantEffect (p : Nat) (d : Dev) : Dev :=
  match d.nextMessage p .signal with
  | some (.grant id) =>
    let d := d.takeMessage p (.grant id)
    match d.remoteWaits.find? fun w => w.id == id && w.device == d.peerOf p with
    | none => d
    | some w =>
      let d : Dev := { d with remoteWaits := d.remoteWaits.filter fun v => v.id != id }
      d.updEntry w.context w.step w.pos fun e => { e with wait := e.wait.map fun a => { a with met := true } }
  | some (.release id code) =>
    let d := d.takeMessage p (.release id code)
    match d.remoteWaits.find? fun w => w.id == id && w.device == d.peerOf p with
    | none => d
    | some w =>
      let live := d.waitsRemotely w
      let d : Dev := { d with remoteWaits := d.remoteWaits.filter fun v => v.id != id }
      if !live then d
      else
        let d := if code = codeHolderGone then d.count Reg.signalCounters_holderGone else d
        d.abandonSteps [{ context := w.context, step := w.step, code, area := 0x11 }]
  | _ => d

/-- CANCEL (R414): the waiter leaves its queue. -/
def cancelEffect (p : Nat) (d : Dev) : Dev :=
  match d.nextMessage p .control with
  | some (.cancel id) =>
    (d.takeMessage p (.cancel id)).withdraw fun w => match w with
      | .entry _ _ _ => false
      | .remote e i => e == d.peerOf p && i == id
  | _ => d

/-- BOOST_REQUEST (R418): a best-effort holder is boosted while a waiter of the other device is on the unmet counter. -/
def boostRequestEffect (p : Nat) (d : Dev) : Dev :=
  match d.nextMessage p .control with
  | some (.boost c n) =>
    let d := d.takeMessage p (.boost c n)
    let waits := (d.counterQueue (counterKey c n)).any fun w => match w.who with
      | .entry _ _ _ => false
      | .remote e _ => e == d.peerOf p
    if waits && ((d.ctx? c).any fun x => !x.latency) && !d.boosted.contains (c, n) then { d with boosted := (c, n) :: d.boosted } else d
  | _ => d

/-! ### Transfers (R523, R524) -/

/-- Fields of a TRANSFER record. -/
structure TransferRecord where
  device : Nat
  named : Nat
  count : Nat
  source : Nat
  target : Nat
  length : Nat
  deriving DecidableEq, Repr

def transferRecord (b : List Byte) : TransferRecord :=
  { device := le b 1 1 % 4, named := le b 2 1, count := le b 4 2, source := le b 8 8, target := le b 16 8, length := le b 24 4 }

/-- The signal that follows the units, when the alias leads to a counter of the target (R523). -/
def Dev.transferSignal (d : Dev) (c : Nat) (r : TransferRecord) : Dev :=
  if r.named = 0 then d
  else match d.resolve c r.named with
    | .there e tc tn => if e = r.device then d.sendTo e (.transferSignal tc tn r.count) else d.count Reg.signalCounters_discarded
    | _ => d.count Reg.signalCounters_discarded

/-- The first `n` units of a transfer leave. -/
def Dev.sendUnits (d : Dev) (r : TransferRecord) (n : Nat) : Dev :=
  (List.range n).foldl (fun d i =>
    let bs := d.readOut (r.source + 256 * i) 256
    (d.sendTo r.device (.unit r.target r.length (r.target + 256 * i) bs)).count Reg.couplingPortCounters_sent (d.portTo r.device)) d

/-- TRANSFER (R523, R524): the units go out, then the signal; a transfer that fails ends the command with its code and abandons the step. -/
def transferEffect (k : Nat) (record : List Byte) (outcome : TransferOutcome) (d : Dev) : Dev :=
  match d.issuing k with
  | none => d
  | some (c, n, _, _) =>
    let r := transferRecord record
    let fail (d : Dev) (code : Nat) : Dev := d.abandonSteps [{ context := c, step := n, code, area := 0x18 }]
    if !d.linkTo r.device then fail d 0x81
    else if d.poisoned r.source r.length && ((d.ctx? c).any fun x => x.faultsAt r.source r.length) then
      d.endFaulty k c 0x82 (memArea r.source)
    else
      let units := r.length / 256
      let d := { d with free := d.free + 1 }
      match outcome with
      | .completed => (d.sendUnits r units).transferSignal c r
      | .denied => fail (d.sendUnits r units) 0x80
      | .linkLost m => fail (d.sendUnits r (min m units)) codeLinkDown

/-- Whether the window for a source device holds a transfer wholly (R524, R529). -/
def Dev.windowHolds (d : Dev) (e start length : Nat) : Bool :=
  d.rd Reg.couplingPeerWindow_start e ≤ start && start + length ≤ d.rd Reg.couplingPeerWindow_end e

/-- A unit lies within the transfer it belongs to (R523). -/
def unitInside (start length address n : Nat) : Bool := start ≤ address && address + n ≤ start + length

/-- TRANSFER_UNIT_RECEIVED (R4, R523, R524): the unit is written inside the window, or its transfer is denied; the signal behind a transfer's units is applied
unless it was denied. -/
def transferUnitReceivedEffect (p : Nat) (d : Dev) : Dev :=
  match d.nextMessage p .data with
  | some (.unit start length address data) =>
    let d := (d.takeMessage p (.unit start length address data)).count Reg.couplingPortCounters_received p
    if d.windowHolds (d.peerOf p) start length && unitInside start length address data.length then (d.updCoup p fun x => { x with denied := false }).storeMapped address data
    else
      let d := d.updCoup p fun x => { x with denied := true }
      if address = start then d.count Reg.couplingPortCounters_denied p else d
  | some (.transferSignal c n k) =>
    let d := d.takeMessage p (.transferSignal c n k)
    if (d.coupPort p).denied then d else d.signalHere (d.peerOf p) c n k
  | _ => d

/-! ### Relay mailboxes (R520) -/

/-- A queued relay request goes to its device, or gets the relay's own reply when no port to it is up. -/
def Dev.forwardRelay (d : Dev) (m : Nat) : Dev :=
  match (d.mailbox m).queued with
  | none => d
  | some r => if d.linkTo m then d.sendTo m (.relayRequest r) else d.relayLinkDown m

/-- RELAY_DOORBELL (R520): before firmware_ready the request waits (R73). -/
def relayDoorbellEffect (m : Nat) (d : Dev) : Dev :=
  if !d.barOpen then d.send .unsupportedRequest
  else if !d.mailboxExists m then d
  else if (d.mailbox m).busy then d.ringDoorbell m
  else if d.ep.firmwareReady then (d.ringDoorbell m).forwardRelay m else d.ringDoorbell m

/-- RELAY_REPLY_RECEIVED (R520): the reply fills the mailbox, and the mirror takes its status word. -/
def relayReplyReceivedEffect (p : Nat) (d : Dev) : Dev :=
  match d.nextMessage p .control with
  | some (.relayReply bs) =>
    let m := d.peerOf p
    let d := d.takeMessage p (.relayReply bs)
    if m = 0 || !(d.mailbox m).busy then d
    else (d.completeMailbox m bs).setMailbox m { (d.completeMailbox m bs).mailbox m with mirror := mirrorOf (le bs 4 4) }
  | _ => d

/-! ### What objects read (R519, R529) -/

/-- `coupling.system.state`: devices with an up port, own included, and whether every port to a device inside the system is up. -/
def Dev.systemDevices (d : Dev) : Nat :=
  (List.range 3).foldl (fun a p => if d.portIsUp p then a + 2 ^ d.peerOf p else a) (2 ^ d.ownNumber)
def Dev.systemJoined (d : Dev) : Bool :=
  (List.range (d.rd Reg.couplingSystem_size)).all fun e => e == d.ownNumber || d.linkTo e

def execCodeBlockReceived (p : Nat) (g : Bool) (n : Nat) (l : List CouplingMessage) (s : State) :=
  act (.codeBlockReceived p g n l) (codeBlockReceivedEffect p g n l) s
def execLaneRepair (p l : Nat) (s : State) := act (.laneRepair p l) (laneRepairEffect p l) s
def execBlockLockLoss (p : Nat) (s : State) := act (.blockLockLoss p) (blockLockLossEffect p) s
def execResetNotice (p : Nat) (s : State) := act (.resetNotice p) (resetNoticeEffect p) s
def execPortTrained (p i z n : Nat) (s : State) := act (.portTrained p i z n) (portTrainedEffect p i z n) s
def execPortTrainRetry (p : Nat) (s : State) := act (.portTrainRetry p) (portTrainRetryEffect p) s
def execTransfer (k : Nat) (b : List Byte) (o : TransferOutcome) (s : State) := act (.transfer k b o) (transferEffect k b o) s
def execTransferUnitReceived (p : Nat) (s : State) := act (.transferUnitReceived p) (transferUnitReceivedEffect p) s
def execRemoteSignal (p : Nat) (s : State) := act (.remoteSignal p) (remoteSignalEffect p) s
def execRemoteWait (p : Nat) (s : State) := act (.remoteWait p) (remoteWaitEffect p) s
def execGrant (p : Nat) (s : State) := act (.grant p) (grantEffect p) s
def execCancel (p : Nat) (s : State) := act (.cancel p) (cancelEffect p) s
def execBoostRequest (p : Nat) (s : State) := act (.boostRequest p) (boostRequestEffect p) s
def execCreditReturn (p : Nat) (c : CoupClass) (s : State) := act (.creditReturn p c) (creditReturnEffect p c) s
def execRelayDoorbell (m : Nat) (s : State) := act (.relayDoorbell m) (relayDoorbellEffect m) s
def execRelayReplyReceived (p : Nat) (s : State) := act (.relayReplyReceived p) (relayReplyReceivedEffect p) s

end Sys2Proof.Machine
end

