-- ==== Sys2Proof/Machine/Pins.lean ====
section
/-! DEFINITION. Reset and strap balls, discrete lines, the CAN FD port, PMBus alerts and the test access port (R569 to R581, R587). -/

namespace Sys2Proof.Machine

/-! ### Discrete lines (R573 to R576) -/

/-- Stage 2 of R544 has applied the configuration block. -/
def Dev.configured (d : Dev) : Bool := 2 ≤ d.rd Reg.bootState_stage

/-- An output line shows its safe level (R574). -/
def Dev.atSafe (d : Dev) (k : Nat) : Bool :=
  d.configured && d.rd Reg.pinsDioConfig_owner k != 0 && (!(d.dioLine k).taken || d.pw.tripped)

/-- A line shows what its owner drives, and its output is asserted. -/
def Dev.dioOutput (d : Dev) (k : Nat) : Bool := d.configured && !d.atSafe k && d.dioAsserted k

/-- The level a line drives, none for high impedance (R573, R574). -/
def Dev.dioDrives (d : Dev) (k : Nat) : Option Bool :=
  if !d.configured || d.perstLow || d.rd Reg.pinsDioConfig_owner k == 0 then none
  else if d.atSafe k then
    match d.rd Reg.pinsDioConfig_safe k with
    | 0 => some false
    | 1 => some true
    | _ => none
  else
    let level := d.dioAsserted k != d.flag Reg.pinsDioConfig_activeLow k
    if level && d.flag Reg.pinsDioConfig_drive k then none else some level

/-- Pulses and latches of a line end and it shows its safe level; its input goes on (R574). -/
def Dev.safeLine (d : Dev) (k : Nat) : Dev := d.updDio k fun l => { level := l.level }
def Dev.safeLines (d : Dev) : Dev := (List.range 16).foldl Dev.safeLine d

/-- An element of `pins.dio.config` written (R574): a write that changes it. -/
def Dev.applyDioConfig (d : Dev) (k old : Nat) : Dev := if d.elemNat .pinsDioConfig k = old then d else d.safeLine k

/-- A write of `pins.dio.out` (R575). -/
def Dev.applyDioOut (d : Dev) (v : Nat) : Dev :=
  ((List.range 16).filter v.testBit).foldl (fun d k =>
    if d.rd Reg.pinsDioConfig_owner k = 1 then d.updDio k fun l => { l with host := v.testBit (16 + k), taken := true }
    else d.count Reg.pinsDioIgnored) d

/-- DIO_INPUT_FILTERED (R576): the level is taken, and an edge counted. -/
def dioInputFilteredEffect (k : Nat) (level : Bool) (d : Dev) : Dev :=
  if (d.dioLine k).level = level then d else (d.updDio k fun l => { l with level }).count Reg.pinsDioEdges k

/-- A bit of each line, as a field of `pins.dio.state` (R576). -/
def lineBits (p : Nat → Bool) : Nat := (List.range 16).foldl (fun a k => if p k then a + 2 ^ k else a) 0

/-! ### The CAN FD port (R577, R578) -/

def busOffCause : Cause := { bit := Bit.link, area := 0x1B, detail := 0x100 }
def Dev.endBusOff (d : Dev) : Dev := d.endLasting fun l => l == busOffCause.lasting

/-- The state of the port while it is on the bus, by its error counts (ISO 11898-1). -/
def Dev.canErrorState (d : Dev) : Nat :=
  if 127 < d.rd Reg.pinsCanState_txErrors || 127 < d.rd Reg.pinsCanState_rxErrors then 2 else 1
def Dev.canOnBus (d : Dev) : Dev :=
  let d := (d.wr Reg.pinsCanState_txErrors 0 0).wr Reg.pinsCanState_rxErrors 0 0
  (d.wr Reg.pinsCanState_state 0 1).endBusOff

/-- `pins.can.enable` written (R577): disabling ends what waits for the bus; event frames that wait are dropped and counted. -/
def Dev.applyCanEnable (d : Dev) (old : Nat) : Dev :=
  let on := d.flag Reg.pinsCanEnable
  if on && old == 0 then d.canOnBus
  else if !on && old != 0 then
    let lost := d.canEvents.length
    let d := { d with canEvents := [], canSegments := [], canOpen := none, canWaiting := [] }
    let d := (d.wr Reg.pinsCanState_state 0 0).endBusOff
    if lost = 0 then d
    else (d.count Reg.pointsCounters_canDropped 0 lost).attend { bit := Bit.link, area := 0x0E, detail := 0x0E01 }
  else d

/-- CAN_BUS_OFF (R578, R587). -/
def canBusOffEffect (d : Dev) : Dev :=
  if !d.flag Reg.pinsCanEnable || d.rd Reg.pinsCanState_state == 3 then d
  else ((d.wr Reg.pinsCanState_state 0 3).count Reg.pinsCanState_busOffs).beginLasting busOffCause

/-- CAN_BUS_OFF_RECOVERY (R578). -/
def canBusOffRecoveryEffect (d : Dev) : Dev := if d.rd Reg.pinsCanState_state = 3 then d.canOnBus else d

/-- The frame at the head of what waits for the bus: event frames go before dictionary segments (R68). -/
def Dev.canHead (d : Dev) : Option (CanFrame × Dev) :=
  match d.canEvents with
  | f :: fs => some (f, { d with canEvents := fs })
  | [] => match d.canSegments with
    | f :: fs => some (f, { d with canSegments := fs })
    | [] => none

/-- CAN_FRAME_TRANSMITTED (R68, R381, R578): the transmit error count falls by 1, or rises by 8 for a frame that fails (ISO 11898-1). -/
def canFrameTransmittedEffect (ok : Bool) (d : Dev) : Dev :=
  if !d.flag Reg.pinsCanEnable || d.rd Reg.pinsCanState_state == 3 then d
  else match d.canHead with
    | none => d
    | some (f, d) =>
      let e := d.rd Reg.pinsCanState_txErrors
      let d := if ok then (d.send (.canSegment f.identifier f.data)).wr Reg.pinsCanState_txErrors 0 (e - 1)
        else d.wr Reg.pinsCanState_txErrors 0 (min 255 (e + 8))
      d.wr Reg.pinsCanState_state 0 d.canErrorState

/-! ### PMBus (R579, R587) -/

/-- PMB_ALERT (R579): STATUS_WORD of every enabled page is read, and each read raises POWER. -/
def pmbAlertEffect (words : List Nat) (d : Dev) : Dev :=
  ((List.range 8).filter fun i => d.flag Reg.powerVrmPage_enable i).foldl (fun d i =>
    (d.wr Reg.pinsPmbusStatus_status i (words.getD i 0)).attend { bit := Bit.power, area := 0x1B, detail := 0x20 + i }) d

/-! ### The test access port (R545, R581) -/

/-- The code an instruction selects: EXTEST, CLAMP and HIGHZ select BYPASS unless PERST_N is low. -/
def Dev.selectTap (d : Dev) (code : Nat) (perstOnly : Bool) : Dev :=
  { d with tap := if perstOnly && !d.perstLow then 0xFF else code }

def extestEffect (d : Dev) : Dev := d.selectTap 0x00 true
def samplePreloadEffect (d : Dev) : Dev := d.selectTap 0x01 false
def clampEffect (d : Dev) : Dev := d.selectTap 0x04 true
def highzEffect (d : Dev) : Dev := d.selectTap 0x05 true
def bypassEffect (_code : Nat) (d : Dev) : Dev := d.selectTap 0xFF false

/-- BOOTSTAT (R545): its data register is the boot status, which is shifted out. -/
def bootstatEffect (d : Dev) : Dev := (d.selectTap 0x20 false).send (.bootStatus (d.elemNat .bootState 0))

def execDioInputFiltered (k : Nat) (b : Bool) (s : State) := act (.dioInputFiltered k b) (dioInputFilteredEffect k b) s
def execCanBusOff (s : State) := act .canBusOff canBusOffEffect s
def execCanBusOffRecovery (s : State) := act .canBusOffRecovery canBusOffRecoveryEffect s
def execCanFrameTransmitted (b : Bool) (s : State) := act (.canFrameTransmitted b) (canFrameTransmittedEffect b) s
def execPmbAlert (l : List Nat) (s : State) := act (.pmbAlert l) (pmbAlertEffect l) s
def execExtest (s : State) := act .extest extestEffect s
def execSamplePreload (s : State) := act .samplePreload samplePreloadEffect s
def execClamp (s : State) := act .clamp clampEffect s
def execHighz (s : State) := act .highz highzEffect s
def execBypass (c : Nat) (s : State) := act (.bypass c) (bypassEffect c) s
def execBootstat (s : State) := act .bootstat bootstatEffect s

end Sys2Proof.Machine
end

