-- ==== Sys2Proof/Machine/Streams.lean ====
section
/-! DEFINITION. A stream enabled, disabled and stopped, across the Junction, the decoder, the encoder and the Calender (R120, R131, R152,
R172, R200, R211). -/

namespace Sys2Proof.Machine

/-- A stream enabled from stopped: waiting, with its claims made (R120, R131, R152, R200). -/
def Dev.enableStream (d : Dev) (s : Nat) : Dev :=
  let d := d.openStream s
  if (d.stream s).phase = .error then d else (d.claimFrames s).openCalender s

/-- An element of `junction.stream.enable` written to `v` (R120): a 1 while the stream drains is stored as a restart, which a 0 cancels. -/
def Dev.applyStreamEnable (d : Dev) (s v : Nat) : Dev :=
  let phase := (d.stream s).phase
  if v != 0 then
    if phase = .stopped then d.enableStream s
    else if phase = .draining then d.updStream s fun x => { x with restart := true }
    else d
  else if phase = .stopped then d
  else if phase = .draining then d.updStream s fun x => { x with restart := false }
  else (d.closeStream s).endStreamClips s

/-- The decoder's part of a stream that has stopped: its reserve returns, nothing is a reference any more, and pictures that await output
keep their buffers until they are released. -/
def Dev.stopDecoder (d : Dev) (s : Nat) : Dev :=
  let d := (d.release (d.rd Reg.decodeFramePool) s).updDec s fun x =>
    { frames := x.frames.map fun f => { f with reference := false, source := false } }
  d.reclaim s

/-- A stream becomes stopped: its reserves return and its lasting causes end (R54, R152, R211). -/
def Dev.stopStream (d : Dev) (s : Nat) : Dev :=
  let d := d.release (d.rd Reg.junctionAuPool) s
  let d := (d.stopDecoder s).closeCalender s
  (d.setStream s {}).endLasting fun l => l.bit == Bit.stream && l.stream == s && l.area != 0x0D

/-- STREAM_BECOMES_STOPPED (R120): a draining stream that holds no access-unit buffer and no ring cell is stopped, and starts afresh where
an enable was stored. -/
def streamBecomesStoppedEffect (s : Nat) (d : Dev) : Dev :=
  if !d.drained s then d
  else
    let restart := (d.stream s).restart
    let d := d.stopStream s
    if restart then d.enableStream s else d

def execStreamBecomesStopped (s : Nat) (t : State) := act (.streamBecomesStopped s) (streamBecomesStoppedEffect s) t

end Sys2Proof.Machine
end

