-- ==== Sys2Proof/Machine/Objects.lean ====
section
/-! DEFINITION. The objects of the dictionary as they read, when their blocks are stopped, how a value written is clamped, and what storing
it does (R29 to R35, R38, R40 to R43). -/

namespace Sys2Proof.Machine


/-! ### Reading (R30, R33) -/

/-- Fields whose value follows from the state of their block. -/
def Dev.liveField (d : Dev) (o : Obj) (i off : Nat) : Option Nat :=
  match o with
  | .dictionaryStatus => some (d.statusWord 0 0x01)
  | .hostLinkState => if off = 17 then some (b2n d.ep.busMaster) else none
  | .junctionStreamState => some (d.streamStateField i off)
  | .decodeStreamState => some (d.decodeStateField i off)
  | .decodeEngineState =>
    if off = 0 then some (b2n (d.isLatencyEngine i))
    else if off = 16 ∧ !d.flag Reg.decodeEngineState_busy i then some 0xFFFF else none
  | .encodeEngineState => if off = 16 ∧ !d.flag Reg.encodeEngineState_busy i then some 0xFFFF else none
  | .encodeClipState => some (d.clipStateField i off)
  | .calenderEngineState =>
    if off = 0 then some (b2n (d.latencyCalenders.contains i))
    else if off = 16 ∧ !d.flag Reg.calenderEngineState_busy i then some 0xFFFF else none
  | .deckleEngineState => if off = 16 then some 0xFFFF else none
  | .pressCoresByClass => if off < 24 then some (d.coresOfClass (off / 8)) else none
  | .pressCoreState => if off = 0 ∨ off = 16 then some (d.coreStateField i off) else none
  | .plansHeapFree => some d.heapFree
  | .plansContextState => some (d.planStateField i off)
  | .recomputeStreamState => some (d.recomputeField i off)
  | .trackerUnreserved => some d.trackUnreserved
  | .trackerEngineState =>
    match d.sliceJobs.find? (sliceArea false, i) with
    | some j => if off = 1 then some 1 else if off = 16 then some j.context else none
    | none => if off = 1 then some 0 else if off = 16 then some 0xFFFF else none
  | .pointsEgressRingState => if off = 64 then some (d.ringHeld i) else none
  | .yardContextConfig => if i = 0 then some 0 else none
  | .yardContextState => some (d.yardStateField i off)
  | .signalCounterState => if off = 24 then some (min 255 (d.counterQueue i).length) else none
  | .vatPlanFree => some d.scratchFree
  | .sidingsPoolState => some (d.poolStateField i off)
  | .sidingsBuffers => some d.sidingsBuffers
  | .lpddr6Migration => some (d.migrationField off)
  | .lpddr6Spares => some d.freeSpares.length
  | .powerOpState => if off = 6 then some (b2n !d.headroom) else none
  | .clocksDomainsAwake => some d.domainsAwake
  | .couplingSystemState => if off = 0 then some (b2n d.systemJoined) else if off = 1 then some d.systemDevices else none
  | .bootRootHash => some (leNat (beBytes 64 (Config.sha512 Config.rootModulus)))
  | .pinsDioState =>
    if off = 0 then some (lineBits fun k => (d.dioLine k).level)
    else if off = 16 then some (lineBits d.dioOutput)
    else if off = 32 then some (lineBits d.atSafe) else none
  | _ => none

/-- A field as it reads. -/
def Dev.readField (d : Dev) (o : Obj) (i off : Nat) : Nat := (d.liveField o i off).getD (d.rd ⟨o, off⟩ i)

/-- The bytes of an element as it reads (R30). -/
def Dev.readElem (d : Dev) (o : Obj) (i : Nat) : List Byte :=
  leBytes o.info.size (o.info.fields.foldl (fun a f => a + (bits (d.readField o i f.off) 0 f.width <<< f.off)) 0)

/-- What a READ returns, and the objects of access RC back at their defaults (R33). -/
def Dev.readElems (d : Dev) (o : Obj) (sub n : Nat) : List Byte × Dev :=
  let bytes := (List.range n).flatMap fun k => d.readElem o (sub + k)
  (bytes, if o.info.access = .rc then (List.range n).foldl (fun d k => d.clearElem o (sub + k)) d else d)

/-! ### Stopped blocks (R32) -/

/-- Every stream is stopped. -/
def Dev.allStreamsStopped (d : Dev) : Bool := d.streams.all fun e => e.2.phase == .stopped
def Dev.noContext (d : Dev) : Bool := d.contexts.all fun e => e.1 == 0

/-- The block that owns element `i` of an RWS object is stopped, as its chapter says. -/
def Dev.stopped (d : Dev) (o : Obj) (i : Nat) : Bool :=
  match o with
  | .hostQueueConfig => !d.flag Reg.hostQueueEnable i && !(d.queue i).draining
  | .junctionAuPool | .junctionRingPool | .decodeFramePool | .decodeLcEngines | .calenderVatPool | .calenderHistoryPool
  | .calenderLcReserved => d.allStreamsStopped
  | .junctionPortConfig => !d.flag Reg.junctionPortEnable i
  | .junctionStreamConfig | .decodeStreamConfig | .calenderStreamConfig => (d.stream i).phase == .stopped
  | .encodeClipPool => d.clips == []
  | .numericsBiasSatMin | .numericsBiasUnderShift | .numericsBiasDownFrames => d.noContext
  | .plansHeap => d.contexts == []
  | .trackerRegion => d.trackSets == []
  | .pointsEgressPool => ((List.range 8).all fun r => !d.flag Reg.pointsEgressRingEnable r) && d.allStreamsStopped
  | .pointsEgressRing => !d.flag Reg.pointsEgressRingEnable i
  | .signalAlias =>
    match d.ctx? (i / 16) with
    | none => true
    | some x => !(x.state == .active || x.state == .faulting || x.state == .closing)
  | .vatLayout =>
    d.contexts == [] && (List.range 32).all fun p =>
      !(d.pool p).on || d.rd Reg.sidingsPoolConfig_base p < vatBase
  | .sidingsPoolConfig => !(d.pool i).on
  | .lpddr6Map => !d.ep.memoryReady
  | .couplingDevice | .couplingSystem => (List.range 3).all fun p => !d.flag Reg.couplingPortEnable p
  | .pinsCanConfig => !d.flag Reg.pinsCanEnable
  | _ => true

/-! ### Clamping (R40, R41, R43) -/

/-- The nearest step from the minimum; a value halfway between two takes the lower. -/
def nearStep (lo hi step v : Nat) : Nat :=
  let r := (v - lo) % step
  let down := v - r
  if 2 * r ≤ step ∨ hi < down + step then down else down + step

/-- The stored value of a field, from its current value and the one written (R40). -/
def Field.clamp (f : Field) (current v : Nat) : Nat :=
  match f with
  | .full _ w _ => v % 2 ^ w
  | .uint _ _ lo hi step _ => if v < lo then lo else if hi < v then hi else if step ≤ 1 then v else nearStep lo hi step v
  | .sint _ w lo hi _ => ofSigned w (max lo (min hi (toSigned w v)))
  | .flag _ _ _ => min v 1
  | .enum _ _ set _ => if set.contains v then v else current
  | .real _ lo hi _ => if f32v v = .nan then current else if flt v lo then lo else if flt hi v then hi else v
  | .mask _ _ m _ => v &&& m
  | .page _ => if v = 0xFF then v else min v 31
  | .rsv _ _ => 0

/-- The 8 bytes of a clamp entry or a field record: extended by the field's type (R38, R43); of a value they cannot hold, a free value (log
entry 39). -/
def Field.wide (f : Field) (v : Nat) : Nat :=
  match f with
  | .sint _ w _ _ _ => ofSigned 64 (toSigned w v)
  | _ => if v < 2 ^ 64 then v else Config.wideValue v % 2 ^ 64

/-- A field in a write: what was asked and what is stored. -/
structure FieldWrite where
  field : Field
  requested : Nat
  stored : Nat
  marked : Bool
  deriving DecidableEq, Repr

/-- The fields of an element written as the number its bytes spell, each against its own range, then the relations in order. -/
def Dev.clampFields (d : Dev) (o : Obj) (i v : Nat) : List FieldWrite :=
  let fs := o.info.fields.map fun f =>
    let r := bits v f.off f.width
    -- 0 or 100 to 600,000 (R495): what lies between is below the minimum
    let s := if o = .powerCapLeaseMs ∧ 0 < r ∧ r < 100 then 100 else f.clamp (d.rd ⟨o, f.off⟩ i) r
    ({ field := f, requested := r, stored := s, marked := s != r } : FieldWrite)
  o.info.relations.foldl (fun fs ab =>
    match fs.find? fun x => x.field.off == ab.1 with
    | none => fs
    | some a => fs.map fun x =>
        if x.field.off = ab.2 ∧ x.stored < a.stored then { x with stored := a.stored, marked := true } else x) fs

/-- The number of an element, field by field. -/
def packFields (fs : List FieldWrite) : Nat := fs.foldl (fun a f => a + (f.stored <<< f.field.off)) 0

/-- What a block makes of a value that has passed its ranges, where its chapter says so (R85, R436, R441, R450). -/
def Dev.adjustElem (d : Dev) (o : Obj) (i v : Nat) : Nat :=
  match o with
  | .hostQueueEnable => if (d.queue i).draining then 0 else v
  | .yardContextConfig => if i = 0 then 0 else v
  | .vatLayout => d.adjustLayout v
  | .vatCacheSize => d.adjustCacheSize v
  | .sidingsPoolEnable => d.adjustPoolEnable i v
  | _ => v

/-- An element written: the value asked for after its ranges, the value stored, and its clamp entries in rising bit offset. -/
def Dev.clampElem (d : Dev) (o : Obj) (i element v : Nat) : Nat × Nat × List Clamp :=
  let fs := d.clampFields o i v
  let asked := packFields fs
  let final := d.adjustElem o i asked
  let entries := fs.filterMap fun f =>
    let s := bits final f.field.off f.field.width
    if f.marked || s != f.stored then
      some { element, offset := f.field.off, width := f.field.width, requested := f.field.wide f.requested, stored := f.field.wide s }
    else none
  (asked, final, isort (fun a b => a.offset ≤ b.offset) entries)

/-! ### What a write does (R46, R55, R82, R85) -/

/-- A named bit clears when its latest cause is no later than the sequence named and no lasting cause of it holds; the clearing is
recorded (R55), and may overflow the log (R56). -/
def Dev.ackBit (d : Dev) (sequence b : Nat) : Dev :=
  if d.attentionBit b && d.rd Reg.dictionaryAttentionCause_sequence (b - 8) ≤ sequence && !(d.lasting.any fun l => l.bit == b) then
    let full := d.logFull
    let d := Dev.logEntry { d with attention := d.attention &&& ~~~(1#8 <<< (b - 8)) } 0 { bit := b, area := 0x01 }
    if full && !d.logOverflowStands then d.record { bit := Bit.log, area := 0x01 } else d
  else d

/-- An acknowledgement (R55): mask bit i names status bit i + 8. -/
def Dev.ack (d : Dev) (mask sequence : Nat) : Dev :=
  ((List.range 8).filter mask.testBit).foldl (fun d i => d.ackBit sequence (i + 8)) d

/-- An element of `host.queue.enable` written (R82, R85); enabling clears its reset report (R100). -/
def Dev.applyQueueEnable (d : Dev) (q v : Nat) : Dev :=
  let was := d.rd Reg.hostQueueEnable q
  let d := d.wr Reg.hostQueueEnable q v
  if was = 0 ∧ v = 1 then (d.clearElem .hostQueueResetReport q).setQueue q {}
  else if was = 1 ∧ v = 0 then
    let x := d.queue q
    d.setQueue q { x with draining := x.inflight != [] }
  else d

/-- An element stored, with what its block does at the write. `asked` is the value after its ranges, `v` the one stored. -/
def Dev.storeElem (d : Dev) (o : Obj) (i asked v : Nat) : Dev :=
  let old := d.elemNat o i
  match o with
  | .dictionaryAttentionAck => d.ack (bits v 0 8) (bits v 32 32)
  | .dictionaryUdpEnable | .dictionaryUdpPort => (d.setElem o i v).dictConflict
  -- DESIGN CHOICE (log entry 131): what is under way on the transport ends, without an abort
  | .dictionaryCanEnable =>
    if v = 0 then { d.setElem o i v with canOpen := none, canWaiting := [], canSegments := [] } else d.setElem o i v
  | .hostQueueEnable => d.applyQueueEnable i v
  | .junctionPortEnable => d.applyPortEnable i v
  | .junctionStreamEnable => (d.setElem o i v).applyStreamEnable i v
  | .pointsDioRelease => d.applyDioRelease v
  | .pointsRule => d.applyPointsRule i v
  | .trackerStreamConfig => d.applyTrackerConfig i v
  | .pointsEgressRingEnable => d.applyRingEnable i v
  | .vatLayout => ((d.setElem o i v).moveVat (d.rd Reg.vatLayout_planBanks) (d.rd Reg.vatLayout_poolBanks)).afterLayout
  | .vatCacheSize => if v = old then d else d.changeCache v
  | .sidingsPoolEnable => (d.setElem o i v).applyPoolEnable i asked
  | .powerCapWatts => d.applyCap v
  | .powerEstimateGain | .powerEstimateOffset => (d.setElem o i v).endDisagreement
  | .couplingPortEnable => (d.setElem o i v).applyCouplingPortEnable i old
  | .pinsDioConfig => (d.setElem o i v).applyDioConfig i old
  | .pinsDioOut => d.applyDioOut v
  | .pinsCanEnable => (d.setElem o i v).applyCanEnable old
  | _ => d.setElem o i v

/-- The elements of a write in the order their blocks take them. A write is a single change (R46): pools that it disables are
disabled before R450 judges those that it enables. -/
def writeOrder (o : Obj) (n : Nat) (value : Nat → Nat) : List Nat :=
  let ks := List.range n
  if o = .sidingsPoolEnable then ks.filter (fun k => value k = 0) ++ ks.filter (fun k => value k ≠ 0) else ks

/-- The elements `ks` of a write from `sub` on, each with its value: the state and the clamp entries of each. -/
def Dev.writeEach (d : Dev) (o : Obj) (sub : Nat) (value : Nat → Nat) : List Nat → Dev × Tbl Nat (List Clamp)
  | [] => (d, [])
  | k :: ks =>
    let c := d.clampElem o (sub + k) k (value k)
    let r := Dev.writeEach (d.storeElem o (sub + k) c.1 c.2.1) o sub value ks
    (r.1, (k, c.2.2) :: r.2)

/-- `n` elements from `sub` on written with the values of a payload: the state, and the clamp entries by element and bit offset (R42, R43). -/
def Dev.writeElems (d : Dev) (n : Nat) (o : Obj) (sub : Nat) (payload : List Byte) : Dev × List Clamp :=
  let value (k : Nat) : Nat := leNat ((payload.drop (k * o.info.size)).take o.info.size)
  let r := d.writeEach o sub value (writeOrder o n value)
  (r.1, (List.range n).flatMap fun k => r.2.getD k [])

/-! ### Descriptors (R38) -/

def ObjType.code : ObjType → Nat
  | .bool => 1 | .u8 => 2 | .u16 => 3 | .u32 => 4 | .u64 => 5 | .s16 => 6 | .s32 => 7 | .f32 => 8 | .enum8 => 9 | .enum16 => 10
  | .bits => 11 | .str => 12 | .record => 13

def Access.code : Access → Nat
  | .ro => 1 | .rw => 2 | .rws => 3 | .wo => 4 | .rc => 5

/-- The type code of a field: the object's own where the field is its whole element, else the least type that holds it; u64 for one wider
than any (DESIGN CHOICE, log entry 33). -/
def Obj.fieldType (o : Obj) (f : Field) : Nat :=
  match f with
  | .rsv _ _ => 0
  | _ =>
    if o.info.type != .record then o.info.type.code
    else match f with
      | .flag _ _ _ => 1
      | .real _ _ _ _ => 8
      | .enum _ w _ _ => if w ≤ 8 then 9 else 10
      | .mask _ _ _ _ => 11
      | .sint _ w _ _ _ => if w ≤ 16 then 6 else 7
      | _ => if f.width ≤ 8 then 2 else if f.width ≤ 16 then 3 else if f.width ≤ 32 then 4 else 5

/-- Minimum, maximum and step of a field, each as 8 bytes show it; those no chapter gives are free values. DESIGN CHOICE (log entry 33): an
integer field to which no chapter gives a range, read-only ones among them, has the range of its width with step 1. -/
def Obj.fieldRange (o : Obj) (f : Field) : Nat × Nat × Nat :=
  let free (k : Nat) : Nat := Config.describeValue o.info.number f.off k % 2 ^ 64
  match f with
  | .full _ w _ => if w ≤ 64 then (0, 2 ^ w - 1, 1) else (free 0, free 1, free 2)
  | .uint _ _ lo hi step _ => (lo, hi, max 1 step)
  | .sint _ _ lo hi _ => (ofSigned 64 lo, ofSigned 64 hi, 1)
  | .flag _ _ _ => (0, 1, 1)
  | .real _ lo hi _ => (lo, hi, free 2)
  | .page _ => (0, 31, 1)
  | .rsv _ _ => (0, 0, 0)
  | .enum _ _ _ _ => (free 0, free 1, free 2)
  | .mask _ _ _ _ => (free 0, free 1, free 2)

/-- The object header, for sub-index 0. -/
def Obj.header (o : Obj) : List Byte :=
  let x := o.info
  leBytes 1 x.type.code ++ leBytes 1 x.access.code ++ leBytes 2 x.count ++ leBytes 2 x.size ++ leBytes 2 x.fields.length ++
    leBytes 1 o.area ++ leBytes 1 (b2n x.mailboxOnly) ++ leBytes 6 0 ++
    padTo 48 (x.name.toList.map fun c => Byte.ofNat' c.toNat)

/-- A field record, for sub-index k. -/
def Obj.fieldRecord (o : Obj) (f : Field) : List Byte :=
  let r := o.fieldRange f
  leBytes 2 f.off ++ leBytes 2 f.width ++ leBytes 1 (o.fieldType f) ++ leBytes 3 0 ++ leBytes 8 r.1 ++ leBytes 8 r.2.1 ++
    leBytes 8 r.2.2 ++ leBytes 8 (match f with | .rsv _ _ => 0 | _ => f.wide f.dflt)

/-- What a DESCRIBE returns. -/
def Obj.describe (o : Obj) (sub : Nat) : List Byte :=
  if sub = 0 then o.header
  else match o.info.fields[sub - 1]? with
    | some f => o.fieldRecord f
    | none => []

end Sys2Proof.Machine
end

