-- ==== Sys2Proof/Machine/Dictionary.lean ====
section
/-! DEFINITION. A dictionary request checked, performed and answered, and the transports it comes by (R36 to R46, R60 to R68, R520). -/

namespace Sys2Proof.Machine

/-- The dictionary is served: firmware is ready, and no firmware switch runs (R73, R554). -/
def Dev.dictReady (d : Dev) : Bool := d.ep.firmwareReady && d.boot.switching == none

/-! ### Checks (R39, R60, R61) -/

/-- A WRITE by this transport is denied (R60). -/
def Dev.writeDenied (d : Dev) (via : Via) (o : Obj) : Bool :=
  match via with
  | .mailbox => false
  | .relay _ => false
  | .udp _ _ _ _ _ => o.info.mailboxOnly || !(d.rd Reg.dictionaryUdpWriteAreas).testBit o.area
  | .can => o.info.mailboxOnly || !(d.rd Reg.dictionaryCanWriteAreas).testBit o.area

/-- The largest payload of a transport (R61); a relayed request is a mailbox request (R520). -/
def largestPayload : Via → Nat
  | .mailbox => 3840
  | .relay _ => 3840
  | .udp _ _ _ _ _ => 1024
  | .can => 1024

/-- The frame of a transport has no length of its own (R39). -/
def unframed : Via → Bool
  | .mailbox => true
  | .relay _ => true
  | .udp _ _ _ _ _ => false
  | .can => false

/-- The payload of the reply to a request that passes. -/
def replyLength (r : Request) (o : Obj) : Nat :=
  if r.opcode = 1 then r.count * o.info.size else if r.opcode = 3 then (if r.sub = 0 then 64 else 40) else 0

/-- Check 1 of R39. -/
def badOpcode (r : Request) : Bool :=
  !(r.opcode == 1 || r.opcode == 2 || r.opcode == 3) || r.reserved != 0 || 2 ≤ r.flags || (r.flags == 1 && r.opcode != 2)

/-- Check 3 of R39. -/
def badSubIndex (r : Request) (o : Obj) : Bool :=
  if r.opcode = 3 then r.count != 1 || o.info.fields.length < r.sub else r.count == 0 || o.info.count < r.sub + r.count

/-- Check 8 of R39. -/
def badLength (via : Via) (r : Request) (o : Obj) : Bool :=
  let want := if r.opcode = 2 then r.count * o.info.size else 0
  r.length != want || (!unframed via && r.payload.length != want)

/-- An element a request writes belongs to a running block. -/
def Dev.blockRunning (d : Dev) (r : Request) (o : Obj) : Bool :=
  o.info.access == .rws && (List.range r.count).any fun k => !d.stopped o (r.sub + k)

/-- The checks of R39 in order: a code, or the object. -/
def Dev.checkRequest (d : Dev) (via : Via) (r : Request) : Nat ⊕ Obj :=
  if badOpcode r then .inl 0x68
  else match Obj.ofNumber r.object with
    | none => .inl 0x60
    | some o =>
      if badSubIndex r o then .inl 0x61
      else if r.opcode = 1 ∧ o.info.access = .wo then .inl 0x63
      else if r.opcode = 2 ∧ (o.info.access = .ro ∨ o.info.access = .rc ∨ o.info.type = .str) then .inl 0x62
      else if r.opcode = 2 ∧ d.writeDenied via o then .inl 0x67
      else if r.opcode = 2 ∧ d.blockRunning r o then .inl 0x64
      else if badLength via r o then .inl 0x65
      else if largestPayload via < r.length ∨ largestPayload via < replyLength r o then .inl 0x66
      else .inr o

/-! ### A request performed (R40 to R46) -/

/-- The clamp object of a transport (R43). -/
def clampObject : Via → Obj
  | .mailbox => .dictionaryClampMailbox
  | .relay _ => .dictionaryClampMailbox
  | .udp _ _ _ _ _ => .dictionaryClampUdp
  | .can => .dictionaryClampCan

/-- The clamp object of a transport holds the last write on it that clamped a field (R43). -/
def Dev.keepClamps (d : Dev) (via : Via) (r : Request) (clamps : List Clamp) : Dev :=
  let o := clampObject via
  let listed := clamps.take 64
  let header := leBytes 3 r.object ++ [0] ++ leBytes 2 r.sub ++ leBytes 2 r.tag ++ leBytes 2 listed.length
  ((List.range listed.length).zip listed).foldl (fun (d : Dev) (e : Nat × Clamp) => d.setElem o (e.1 + 1) (leNat e.2.bytes))
    ((d.clearObj o).setElem o 0 (leNat header))

/-- A WRITE that has passed its checks (R40, R42): under CHECK_ONLY nothing is stored and no attention bit is raised. -/
def Dev.performWrite (d : Dev) (via : Via) (r : Request) (o : Obj) : Dev × List Byte :=
  let w := d.writeElems r.count o r.sub r.payload
  let clamped := w.2 != []
  let d := if r.flags = 1 then d else if clamped then w.1.attend { bit := Bit.clamped, code := 1, area := o.area } else w.1
  let d := if clamped then d.keepClamps via r w.2 else d
  (d, replyBytes r (d.resultWord (b2n clamped) o.area) [] w.2)

/-- A READ that has passed its checks. The status word is formed after the access (R47). -/
def Dev.performRead (d : Dev) (r : Request) (o : Obj) : Dev × List Byte :=
  let x := d.readElems o r.sub r.count
  (x.2, replyBytes r (x.2.resultWord 0 o.area) x.1 [])

/-- A DESCRIBE that has passed its checks (R38). -/
def Dev.performDescribe (d : Dev) (r : Request) (o : Obj) : Dev × List Byte :=
  (d, replyBytes r (d.resultWord 0 o.area) (o.describe r.sub) [])

/-- A request served: the state after it, its reply, and whether it was performed. -/
structure Served where
  dev : Dev
  reply : List Byte
  performed : Bool

def Dev.serve (d : Dev) (via : Via) (r : Request) : Served :=
  match d.checkRequest via r with
  | .inl code => { dev := d, reply := replyBytes r (d.statusWord code 0x01) [] [], performed := false }
  | .inr o =>
    let x := if r.opcode = 1 then d.performRead r o else if r.opcode = 2 then d.performWrite via r o else d.performDescribe r o
    { dev := x.1, reply := x.2, performed := true }

/-! ### Rotation (R44) -/

/-- A transport has a request waiting: 0 the mailbox, 1 UDP, 2 CAN FD. -/
def Dev.requestWaits (d : Dev) (t : Nat) : Bool :=
  match t with
  | 0 => (d.mailbox 0).queued.isSome
  | 1 => d.dictWaiting != []
  | _ => d.canWaiting != []

/-- The rotation serves a request of transport `t` now: no transport whose turn comes before it has one waiting. -/
def Dev.inTurn (d : Dev) (t : Nat) : Bool :=
  (List.range ((t + 3 - d.dictTurn) % 3)).all fun k => !d.requestWaits ((d.dictTurn + k) % 3)

/-- The turn passes on when transport `t` is served. -/
def Dev.turned (d : Dev) (t : Nat) : Dev := { d with dictTurn := (t + 1) % 3 }

/-! ### The mailbox (R63) and relays (R520) -/

/-- A request as the mailbox's region frames it: exactly the payload bytes its length gives, and no more than the region holds. -/
def mailboxRequest (r : Request) : Request := { r with payload := padTo (min r.length 4080) r.payload }

/-- A request of the mailbox: its doorbell is written where the mailbox is idle, and it is performed once the dictionary is served and
its turn comes. DEDUCED (log entry 38): the row names the request whole, so the bytes of the request region stay as they were. -/
def Dev.byMailbox (d : Dev) (r : Request) : Dev :=
  let r := mailboxRequest r
  let x := d.mailbox 0
  let d := if x.busy then d else if d.barOpen then d.setMailbox 0 { x with busy := true, queued := some r } else d.send .unsupportedRequest
  if d.dictReady && (d.mailbox 0).queued == some r && d.inTurn 0 then
    let x := (d.turned 0).serve .mailbox r
    x.dev.completeMailbox 0 x.reply
  else d

/-- A relayed request performed as a mailbox request, with its reply on the way back. -/
def Dev.byRelay (d : Dev) (e : Nat) (r : Request) : Dev :=
  if d.dictReady then
    let x := d.serve (.relay e) (mailboxRequest r)
    x.dev.sendTo e (.relayReply x.reply)
  else d

/-- RELAY_REQUEST_RECEIVED (R520). Until the dictionary is served the request waits. -/
def relayRequestReceivedEffect (p : Nat) (d : Dev) : Dev :=
  match d.nextMessage p .control with
  | some (.relayRequest r) => if d.dictReady then (d.takeMessage p (.relayRequest r)).byRelay (d.peerOf p) r else d
  | _ => d

/-! ### UDP (R64, R65) -/

/-- A source element admits a sender (R64). -/
def Dev.admits (d : Dev) (e family source : Nat) : Bool :=
  d.rd Reg.dictionaryUdpSources_family e == family &&
    prefixAgrees source (d.rd Reg.dictionaryUdpSources_address e) (d.rd Reg.dictionaryUdpSources_prefix e)

/-- The lowest source element that admits a sender (R65). -/
def Dev.sourceElement (d : Dev) (family source : Nat) : Option Nat := (List.range 8).find? fun e => d.admits e family source

/-- A request of an admitted source: a reply kept for its port and tag is sent again; otherwise it is performed, its reply kept among
the element's last four, and sent to the source (R65). DESIGN CHOICE (log entry 130): kept replies stay when their element is rewritten. -/
def Dev.byUdp (d : Dev) (port family source sourcePort e : Nat) (r : Request) : Dev :=
  let kept := d.kept.getD e []
  let own := d.rd Reg.dictionaryUdpPort
  match kept.find? fun k => k.sourcePort == sourcePort && k.tag == r.tag with
  | some k => d.sendUdp port source sourcePort own k.reply
  | none =>
    let x := d.serve (.udp port family source sourcePort e) r
    let d := if x.performed then
        { x.dev with kept := x.dev.kept.put e (({ sourcePort, tag := r.tag, reply := x.reply } :: kept).take 4) }
      else x.dev
    d.sendUdp port source sourcePort own x.reply

/-- A datagram on `dictionary.udp.port` (R39, R64): dropped and counted while the dictionary is not served, when no source element
admits it, and when it is shorter than a request header. -/
def Dev.takeDictDatagram (d : Dev) (x : Datagram) : Dev :=
  match d.sourceElement x.family x.source with
  | some e =>
    if d.dictReady && 16 ≤ x.data.length then
      if d.inTurn 1 then (d.turned 1).byUdp x.port x.family x.source x.sourcePort e (parseRequest x.data)
      else { d with dictWaiting := d.dictWaiting ++ [x] }
    else d.count Reg.dictionaryUdpDropped
  | none => d.count Reg.dictionaryUdpDropped

/-- DICT_UDP_DATAGRAM (R64): one that another transport's turn comes before waits (R44). -/
def dictUdpDatagramEffect (port family source sourcePort : Nat) (data : List Byte) (d : Dev) : Dev :=
  let x : Datagram := { port, family, source, sourcePort, data }
  let d : Dev := { d with dictWaiting := d.dictWaiting.erase x }
  if d.flag Reg.dictionaryUdpEnable && d.portOn port then d.takeDictDatagram x else d

/-! ### CAN FD (R66 to R68) -/

/-- Data lengths a CAN FD frame can have. -/
def canLength (n : Nat) : Nat :=
  if n ≤ 8 then n else if n ≤ 24 then (n + 3) / 4 * 4 else if n ≤ 32 then 32 else if n ≤ 48 then 48 else 64

/-- An identifier of the dictionary's transfers (R66). -/
def Dev.canIdentifier (d : Dev) (kind : Nat) : Nat :=
  d.rd Reg.dictionaryCanIdBase % 8192 * 65536 + kind * 256 + d.rd Reg.dictionaryCanNode % 256

def Dev.queueSegment (d : Dev) (kind : Nat) (data : List Byte) : Dev :=
  { d with canSegments := d.canSegments ++ [{ identifier := d.canIdentifier kind, extended := true, data }] }

/-- The segments of a frame, `n` left, from segment `i` on (R66). -/
def canSegmentsOf (transfer : Nat) : (n i : Nat) → List Byte → List (List Byte)
  | 0, _, _ => []
  | n + 1, i, frame =>
    let kind := if i = 0 then (if n = 0 then 3 else 0) else if n = 0 then 2 else 1
    let data := leBytes 1 (kind * 64 + i % 64) ++ leBytes 1 transfer ++ frame.take 62
    padTo (canLength data.length) data :: canSegmentsOf transfer n (i + 1) (frame.drop 62)

/-- An abort frame (R67). -/
def Dev.abortTransfer (d : Dev) (transfer code : Nat) : Dev :=
  Dev.queueSegment { d with canOpen := none } 3 (leBytes 4 (d.statusWord code 0x01) ++ leBytes 1 transfer)

/-- The open transfer is discarded, and its abort is its completion (R67). -/
def Dev.dropTransfer (d : Dev) : Dev :=
  match d.canOpen with
  | some t => d.abortTransfer t.transfer 0x69
  | none => d

/-- A request of a CAN FD transfer: it waits until its turn comes (R44), and is performed, its reply going out in segments (R66). -/
def Dev.byCan (d : Dev) (r : Request) : Dev :=
  let d : Dev := { d with canWaiting := d.canWaiting.erase r }
  if d.inTurn 2 then
    let x := (d.turned 2).serve .can r
    (canSegmentsOf r.tag (ceilDiv x.reply.length 62) 0 x.reply).foldl (fun d s => d.queueSegment 2 s) x.dev
  else { d with canWaiting := d.canWaiting ++ [r] }

/-- The zeros a last or only segment carries beyond the frame's end, whatever its data length, are no part of the frame (R66). -/
def trimFrame (before : Nat) (frame : List Byte) : List Byte :=
  let want := 16 + le frame 12 4
  if before < want ∧ (frame.drop want).all (· == 0#8) then frame.take want else frame

/-- A reassembled frame: one without a whole header is aborted with LENGTH_MISMATCH (R39). -/
def Dev.takeCanFrame (d : Dev) (transfer before : Nat) (frame : List Byte) : Dev :=
  let d : Dev := { d with canOpen := none }
  let frame := trimFrame before frame
  if frame.length < 16 then d.abortTransfer transfer 0x65 else d.byCan (parseRequest frame)

/-- The port takes part in dictionary transfers. -/
def Dev.canReady (d : Dev) : Bool := d.dictReady && d.flag Reg.dictionaryCanEnable && d.flag Reg.pinsCanEnable

/-- CAN_REQUEST_SEGMENT (R66, R67). -/
def canRequestSegmentEffect (identifier : Nat) (data : List Byte) (d : Dev) : Dev :=
  if !d.canReady || identifier != d.canIdentifier 1 then d
  else
    let kind := byteAt data 0 / 64
    let sequence := byteAt data 0 % 64
    let transfer := byteAt data 1
    let piece := data.drop 2
    if kind = 0 ∨ kind = 3 then
      let d := d.dropTransfer
      if sequence ≠ 0 then d
      else if kind = 3 then d.takeCanFrame transfer 0 piece
      else { d with canOpen := some { transfer, next := 1, data := piece, tick := d.now } }
    else match d.canOpen with
      | none => d
      | some t =>
        if t.transfer ≠ transfer ∨ t.next % 64 ≠ sequence ∨ t.tick + 312500 < d.now then d.dropTransfer
        else if kind = 2 then d.takeCanFrame transfer t.data.length (t.data ++ piece)
        else { d with canOpen := some { t with next := t.next + 1, data := t.data ++ piece, tick := d.now } }

/-- CAN_SEGMENT_TIMEOUT (R67): more than 312,500 ticks since the last segment. -/
def canSegmentTimeoutEffect (d : Dev) : Dev :=
  match d.canOpen with
  | some t => if t.tick + 312500 < d.now then d.dropTransfer else d
  | none => d

/-! ### The rows -/

/-- A request by a transport. -/
def requestEffect (via : Via) (r : Request) (d : Dev) : Dev :=
  match via with
  | .mailbox => d.byMailbox r
  | .udp port family source sourcePort e =>
    if d.flag Reg.dictionaryUdpEnable && d.portOn port && d.sourceElement family source == some e then
      if d.dictReady then d.byUdp port family source sourcePort e r else d.count Reg.dictionaryUdpDropped
    else d
  | .can => if d.canReady then d.byCan r else d
  | .relay e => d.byRelay e r

/-- MAILBOX_DOORBELL (R63). -/
def mailboxDoorbellEffect (d : Dev) : Dev := d.hostDoorbell 0

def execRead (v : Via) (r : Request) (s : State) := act (.read v r) (requestEffect v r) s
def execWrite (v : Via) (r : Request) (s : State) := act (.write v r) (requestEffect v r) s
def execDescribe (v : Via) (r : Request) (s : State) := act (.describe v r) (requestEffect v r) s
def execAttentionAck (v : Via) (r : Request) (s : State) := act (.attentionAck v r) (requestEffect v r) s
def execQueueEnable (v : Via) (r : Request) (s : State) := act (.queueEnable v r) (requestEffect v r) s
def execQueueDisable (v : Via) (r : Request) (s : State) := act (.queueDisable v r) (requestEffect v r) s
def execPortEnable (v : Via) (r : Request) (s : State) := act (.portEnable v r) (requestEffect v r) s
def execStreamEnable (v : Via) (r : Request) (s : State) := act (.streamEnable v r) (requestEffect v r) s
def execStreamDisable (v : Via) (r : Request) (s : State) := act (.streamDisable v r) (requestEffect v r) s
def execCacheSizeChange (v : Via) (r : Request) (s : State) := act (.cacheSizeChange v r) (requestEffect v r) s
def execPoolEnable (v : Via) (r : Request) (s : State) := act (.poolEnable v r) (requestEffect v r) s
def execPoolDisable (v : Via) (r : Request) (s : State) := act (.poolDisable v r) (requestEffect v r) s
def execDioRelease (v : Via) (r : Request) (s : State) := act (.dioRelease v r) (requestEffect v r) s
def execRingEnable (v : Via) (r : Request) (s : State) := act (.ringEnable v r) (requestEffect v r) s
def execPointsRuleWrite (v : Via) (r : Request) (s : State) := act (.pointsRuleWrite v r) (requestEffect v r) s
def execCapWrite (v : Via) (r : Request) (s : State) := act (.capWrite v r) (requestEffect v r) s
def execEstimateRecalibrationWrite (v : Via) (r : Request) (s : State) :=
  act (.estimateRecalibrationWrite v r) (requestEffect v r) s
def execCouplingPortEnable (v : Via) (r : Request) (s : State) := act (.couplingPortEnable v r) (requestEffect v r) s
def execDioOut (v : Via) (r : Request) (s : State) := act (.dioOut v r) (requestEffect v r) s
def execDioConfigWrite (v : Via) (r : Request) (s : State) := act (.dioConfigWrite v r) (requestEffect v r) s
def execCanEnable (v : Via) (r : Request) (s : State) := act (.canEnable v r) (requestEffect v r) s
def execMailboxDoorbell (s : State) := act .mailboxDoorbell mailboxDoorbellEffect s
def execDictUdpDatagram (p f a sp : Nat) (b : List Byte) (s : State) :=
  act (.dictUdpDatagram p f a sp b) (dictUdpDatagramEffect p f a sp b) s
def execCanRequestSegment (i : Nat) (b : List Byte) (s : State) := act (.canRequestSegment i b) (canRequestSegmentEffect i b) s
def execCanSegmentTimeout (s : State) := act .canSegmentTimeout canSegmentTimeoutEffect s
def execRelayRequestReceived (p : Nat) (s : State) := act (.relayRequestReceived p) (relayRequestReceivedEffect p) s

end Sys2Proof.Machine
end

