-- ==== Sys2Proof/Machine/Values.lean ====
section
/-! DEFINITION. The object value list of the owner section applied, at boot and after hot and function-level reset (R34, R542, R598). -/

namespace Sys2Proof.Machine

/-- What became of an entry: skipped, or applied, with the area of its object where a field of it was clamped. -/
inductive ValueResult where
  | skipped
  | applied
  | clamped (area : Nat)
  deriving DecidableEq, Repr

def ValueResult.isSkipped (r : ValueResult) : Bool := r == .skipped
def ValueResult.area? : ValueResult → Option Nat
  | .clamped a => some a
  | .skipped => none
  | .applied => none

/-- One entry after the checks of R39 that concern it, and then of R40 and R41. An entry for `host.queue.enable` is skipped (R598). -/
def Dev.applyValue (d : Dev) (o : Obj) (r : Request) : Dev × ValueResult :=
  if !(o.info.access == .rw || o.info.access == .rws) || o == .hostQueueEnable || r.reserved != 0 || badSubIndex r o ||
      d.blockRunning r o || r.payload.length != r.length then (d, .skipped)
  else
    let w := d.writeElems r.count o r.sub r.payload
    (w.1, if w.2 = [] then .applied else .clamped o.area)

/-- An entry of the list as a write of its object. -/
def valueRequest (o : Obj) (b : List Byte) : Request :=
  let n := le b 6 2 * o.info.size
  { opcode := 2, flags := 0, tag := 0, object := le b 0 3, reserved := byteAt b 3, sub := le b 4 2, count := le b 6 2, length := n,
    payload := (b.drop 8).take n }

/-- The list applied in order, entries of objects that `keep` admits alone. An entry of a number that names no object has no size, so
nothing after it can be found: it is skipped and ends the list. -/
def Dev.applyValues (keep : Obj → Bool) : (fuel : Nat) → Dev → List Byte → Dev × List ValueResult
  | 0, d, _ => (d, [])
  | n + 1, d, b =>
    if b.length < 8 then (d, [])
    else match Obj.ofNumber (le b 0 3) with
      | none => (d, [.skipped])
      | some o =>
        let r := valueRequest o b
        let x := if keep o then d.applyValue o r else (d, .skipped)
        let rest := Dev.applyValues keep n x.1 (b.drop (8 + roundUp r.length 8))
        (rest.1, x.2 :: rest.2)

/-- Every entry is admitted at fundamental reset. -/
def keepAll (_ : Obj) : Bool := true

/-- Objects that hot and function-level reset give their block values (R97). -/
def resetObject (o : Obj) : Bool :=
  (o.info.access == .rw || o.info.access == .rws) &&
    (o.area == 0x02 || (0x04 ≤ o.area && o.area ≤ 0x0E) || o.area == 0x10 || o.area == 0x11 || o.area == 0x14)

/-- The value list of the owner section in use. -/
def Dev.valueList (d : Dev) : List Byte := (d.boot.owner.map OwnerSection.values).getD []

end Sys2Proof.Machine
end

