-- ==== Sys2Proof/Machine/Reset.lean ====
section
/-! DEFINITION. The resets of R97: what each does to configuration space, to the queues, to the blocks and to their objects (R57, R90,
R94, R97 to R100, R458, R473, R525, R569, R593, R598). -/

namespace Sys2Proof.Machine

/-- Kinds of reset as last_reset names them (R73). -/
def resetFundamental : Nat := 1
def resetHot : Nat := 2
def resetFunction : Nat := 3
def resetD3 : Nat := 4

/-! ### Configuration space -/

def masterDisabledCause (detail : Nat) : Cause := { bit := Bit.link, code := 0x33, area := 0x02, detail }

/-- The registers that hot reset keeps, the sticky ones of Advanced Error Reporting, and those that function-level reset keeps. -/
def stickyKey (k : Nat) : Bool := 7 ≤ k && k ≤ 9
def functionKey (k : Nat) : Bool := stickyKey k || k == 1 || k == 12

/-- Max_Payload_Size, which a function-level reset keeps. -/
def payloadSize (cfg : Tbl Nat Nat) : Nat := bits (cfg.getD 5 0x2000) 5 3

/-- Configuration space takes a hot or function-level reset at once; clearing Bus Master Enable by a function-level reset raises LINK
(R90, R97). -/
def Dev.resetConfig (d : Dev) (kind : Nat) : Dev :=
  let was := d.ep.busMaster
  let cfg : Tbl Nat Nat := if kind = resetHot then d.ep.cfg.filter fun e => stickyKey e.1
    else Tbl.put (d.ep.cfg.filter fun (e : Nat × Nat) => functionKey e.1) 5 (0x2000 + 32 * payloadSize d.ep.cfg)
  let ep := { d.ep with busMaster := false, memorySpace := false, intDisable := false, power := .d0, answered := false, cfg,
                        linkTrained := d.ep.linkTrained && kind != resetHot }
  let d : Dev := { d with ep }
  if was && kind != resetHot then d.attend (masterDisabledCause 1) else d

/-! ### Reports, attention and objects -/

/-- Logs that hot reset empties, and the objects of the dictionary it clears (R43, R57, R473). -/
def hotObjects : List Obj :=
  [.dictionaryAttentionCause, .dictionaryAttentionLog, .dictionaryAttentionLogHead, .dictionaryAttentionLogRead, .dictionaryClampMailbox,
    .dictionaryClampUdp, .dictionaryClampCan, .lpddr6Log, .lpddr6LogHead, .lpddr6LogRead, .numericsBiasLog, .numericsBiasLogHead]

/-- Blocks whose conditions go on through a hot or function-level reset. -/
def keptArea (a : Nat) : Bool := a == 0x15 || a == 0x16 || a == 0x17 || a == 0x18 || a == 0x1A || a == 0x1B

/-- Attention state and the logs cleared by hot reset, and the mirrors of relay mailboxes (R57, R520). -/
def Dev.clearAttention (d : Dev) : Dev :=
  let d : Dev := { d with attention := 0, logWrapped := false, lp := { d.lp with logWrapped := false }, mailboxes := d.mailboxes.map fun e => (e.1, { e.2 with mirror := 0 }) }
  hotObjects.foldl Dev.clearObj d

/-- The reset report of a queue with commands fetched and not completed (R100). -/
def Dev.reportQueue (d : Dev) (kind q : Nat) : Dev :=
  match (d.queue q).inflight with
  | [] => d
  | f :: fs =>
    let d := (d.wr Reg.hostQueueResetReport_first q f.index).wr Reg.hostQueueResetReport_count q (fs.length + 1)
    let d := d.wr Reg.hostQueueResetReport_status q (d.statusWord 0x82 0x02)
    (d.wr Reg.hostQueueResetReport_kind q kind).wr Reg.hostQueueResetReport_sequence q d.ep.resetSequence

/-- Read-only objects that describe what a reset takes away, back at their defaults. -/
def tornObjects : List Obj :=
  [.junctionPortState, .encodeClipState, .plansContextCores, .plansContextRefusal, .plansContextShapeClamp, .plansStreamContexts,
    .recomputeStreamState, .trackerWatchCount, .pointsEgressRingState, .yardState, .yardContextState, .signalCounterState,
    .sidingsPoolState]

/-- The busy flags of engines: a reset ends what they have in service. -/
def busyFlags : List Reg :=
  [Reg.decodeEngineState_busy, Reg.encodeEngineState_busy, Reg.calenderEngineState_busy, Reg.deckleEngineState_busy,
    Reg.trackerEngineState_busy]

/-- A Press core after a reset: it serves nothing, and its arrays hold no work. -/
def Core.released (c : Core) : Core := { c.freshArrays with serving := none, last := 0 }

/-- Contexts, plans, streams, clips, track sets and pools go, with everything that hangs on them; memory is undefined (R97, R458, R598). -/
def Dev.tearDown (d : Dev) : Dev :=
  let next := match d.memFree with
    | none => 0
    | some k => k + 1
  { d with
    mem := [], memFree := some next, lasting := d.lasting.filter fun l => keptArea l.area, queues := [], streams := [], ports := [],
    dictWaiting := [], handedUnits := [], decoders := [], decodeJobs := [], released := [], held := [], droppedBefore := [],
    clips := [], encodeJobs := [], calStreams := [], frames := [], signalled := [],
    cores := d.cores.map fun e => (e.1, e.2.released), contexts := d.contexts.filter fun e => e.1 == 0, heap := [], scratch := [],
    waiters := [], remoteWaits := [], boosted := [], heard := [], quiescing := [], trackSets := [], sliceJobs := [], pools := [],
    cache := [], canEvents := [], fetchTurn := 0, fetchRun := 0,
    regs := d.regs.filter fun e => !(tornObjects.contains e.1.obj || busyFlags.contains ⟨e.1.obj, e.1.off⟩) }

/-- Station addresses of the factory section, which the ports take as defaults (R105). -/
def Dev.applyStations (d : Dev) : Dev :=
  match d.boot.factory with
  | none => d
  | some f => ((List.range f.stations.length).zip f.stations).foldl (fun d e => d.wr Reg.junctionPortConfig_mac e.1 e.2) d

/-- The objects of the areas that R97 names take their block values, in list order (R598). -/
def Dev.applyBlockValues (d : Dev) : Dev :=
  let d : Dev := { d with regs := d.regs.filter fun e => !resetObject e.1.obj }
  (Dev.applyValues resetObject d.valueList.length d.applyStations d.valueList).1

/-- The endpoint's registers of R92 and R73 after a hot or function-level reset: firmware keeps running, and memory stays trained.
DESIGN CHOICE (log entry 125): reset_sequence wraps. -/
def Dev.resetEndpoint (d : Dev) (kind : Nat) : Dev :=
  { d with ep := { d.ep with intEnable := 0, genSeen := 0, mailboxPending := false, lastReset := kind,
                             resetSequence := (d.ep.resetSequence + 1) % 65536 } }

/-- The flash after a staging command stops short: the region being written is left invalid (R533). -/
def Boot.settled (b : Boot) (copyInUse : Nat) : Boot :=
  match b.job with
  | none => b
  | some j =>
    match j.section_ with
    | some _ =>
      if copyInUse = 0 then { b with copy1 := { factory := none, owner := none } } else { b with copy0 := { factory := none, owner := none } }
    | none => if b.running = 0 then { b with slotB := {} } else { b with slotA := {} }

/-- A staging command that runs is given up, and appends that waited for it are made (R533). -/
def Dev.dropJob (d : Dev) : Dev :=
  match d.boot.job with
  | none => d
  | some j =>
    let other := if j.section_.isSome then d.rd Reg.bootFirmware_other else 4
    let boot := { d.boot.settled (d.rd Reg.bootConfig_copy) with job := none, staging := d.boot.staging && j.section_.isSome }
    Dev.wr (Dev.flushAppends { d with boot }) Reg.bootFirmware_other 0 other

/-- After DL_Down the log begins with a LINK entry whose cause is LINK_DOWN, whatever clears it before the link has trained (R96): the entry is
the first that a hot reset leaves in the cleared log. -/
def Dev.linkDownFirst (d : Dev) : Dev :=
  if d.ep.linkDownPending then
    Dev.attend { d with ep := { d.ep with linkDownPending := !d.ep.linkTrained } } { bit := Bit.link, code := 0x32, area := 0x02 }
  else d

/-- Every effect of a hot or function-level reset beside those on configuration space. -/
def Dev.resetBlocks (d : Dev) (kind : Nat) : Dev :=
  let d := d.sendNotices
  let d := if kind = resetHot then d.clearAttention.linkDownFirst else d
  let d := d.resetEndpoint kind
  let d := (List.range 64).foldl (fun d q => d.reportQueue kind q) d
  (d.dropJob.tearDown.applyBlockValues).safeLines

/-- A hot or function-level reset (R97). During a firmware switch it waits, but for configuration space (R593): a hot reset outweighs a
function-level reset that waits already. -/
def Dev.reset (d : Dev) (kind : Nat) : Dev :=
  let d := d.resetConfig kind
  match d.boot.switching with
  | none => d.resetBlocks kind
  | some _ =>
    let held := if d.boot.heldReset = some resetHot then resetHot else kind
    { d with boot := { d.boot with heldReset := some held } }

/-! ### Fundamental reset and power -/

/-- What the flash keeps of the boot state. -/
def Boot.flash (b : Boot) : Boot :=
  { first0 := b.first0, first1 := b.first1, copy0 := b.copy0, copy1 := b.copy1, slotA := b.slotA, slotB := b.slotB }

/-- What the flash keeps of the ledger; appends that waited are lost. -/
def Ledger.flash (l : Ledger) : Ledger := { half0 := l.half0, half1 := l.half1, active := l.active }

/-- The device with every block at its defaults: the flash, what has been sent, the thermal trip latch and what the model counts stay.
Memory is lost. -/
def Dev.fresh0 (d : Dev) : Dev :=
  let next := match d.memFree with
    | none => 0
    | some k => k + 1
  { free := d.free, sent := d.sent, memFree := some next, boot := (d.boot.settled (d.rd Reg.bootConfig_copy)).flash,
    ledger := d.ledger.flash, pw := { tripped := d.pw.tripped } }

/-- An asserted wire is deasserted by a reset (R94). -/
def Dev.dropWire (d : Dev) : Dev := if d.ep.intaWire then d.send .deassertInta else d

/-- FUNDAMENTAL_RESET (R97, R569): every block outside the always-on island is reset, and the boot begins. What the island holds stays. -/
def fundamentalResetEffect (d : Dev) : Dev :=
  let straps := d.rd Reg.pinsStraps
  let d := d.sendNotices.dropWire
  let e := d.fresh0
  let tap := if d.tap = 0x00 || d.tap = 0x04 || d.tap = 0x05 then 0xFF else d.tap
  let dio : Tbl Nat DioLine := d.dio.map fun x => (x.1, { level := x.2.level })
  Dev.wr { e with now := d.now, pwrgood := true, perstLow := false, tap, dio } Reg.pinsStraps 0 straps

/-- PWRGOOD_RISE (R569, R570): the straps are sampled, and the always-on island runs. -/
def pwrgoodRiseEffect (strap0 strap1 : Bool) (d : Dev) : Dev :=
  if d.pwrgood then d else Dev.wr { d with pwrgood := true, perstLow := true, now := 0 } Reg.pinsStraps 0 (b2n strap0 + 2 * b2n strap1)

/-- PWRGOOD_FALL (R569): the whole device is held in reset, but for the thermal trip latch. -/
def pwrgoodFallEffect (d : Dev) : Dev := if d.pwrgood then d.fresh0 else d

/-- VDD_AON_REMOVAL (R509): the latch is cleared with everything else. -/
def vddAonRemovalEffect (d : Dev) : Dev := { d.fresh0 with pw := {} }

/-- HOT_RESET (R97). -/
def hotResetEffect (d : Dev) : Dev := d.reset resetHot

/-- Configuration requests are completed with success: from stage 2 of the boot, or once the boot has failed (R98, R544, R545), and not while a reset waits for a switch
(R593). -/
def Dev.cfgServed (d : Dev) : Bool := (d.configured || d.rd Reg.bootState_failure != 0) && d.boot.heldReset == none

/-- FUNCTION_LEVEL_RESET (R97). -/
def functionLevelResetEffect (d : Dev) : Dev := if d.cfgServed then d.reset resetFunction else d

/-- DL_DOWN (R96): counted, and a hot reset follows. -/
def dlDownEffect (d : Dev) : Dev :=
  let d := d.count Reg.hostLinkDowns
  Dev.reset { d with ep := { d.ep with linkDownPending := true } } resetHot

/-- D3HOT_TO_D0 (R99): acts as a function-level reset. -/
def d3hotToD0Effect (d : Dev) : Dev := if d.cfgServed && d.ep.power == .d3hot then d.reset resetD3 else d

/-- D3HOT_ENTRY (R99). Work that needs host memory stops as for Bus Master Enable cleared. -/
def Dev.enterD3 (d : Dev) : Dev :=
  if d.ep.power = .d3hot then d
  else Dev.attend { d with ep := { d.ep with power := .d3hot } } (masterDisabledCause 3)

def execFundamentalReset (s : State) := act .fundamentalReset fundamentalResetEffect s
def execHotReset (s : State) := act .hotReset hotResetEffect s
def execFunctionLevelReset (s : State) := act .functionLevelReset functionLevelResetEffect s
def execDlDown (s : State) := act .dlDown dlDownEffect s
def execD3hotToD0 (s : State) := act .d3hotToD0 d3hotToD0Effect s
def execPwrgoodRise (a b : Bool) (s : State) := act (.pwrgoodRise a b) (pwrgoodRiseEffect a b) s
def execPwrgoodFall (s : State) := act .pwrgoodFall pwrgoodFallEffect s
def execVddAonRemoval (s : State) := act .vddAonRemoval vddAonRemovalEffect s

end Sys2Proof.Machine
end

