-- ==== Sys2Proof/Machine/HostEndpoint.lean ====
section
/-! DEFINITION. The PCI Express endpoint: BAR0, BAR2, queues and their commands, host reads, mastering, interrupts and configuration
requests (R62, R69 to R103). Where the manual points to the base specification, its layout is taken (log entry 30). -/

namespace Sys2Proof.Machine

/-! ### Commands of a queue (R79) -/

/-- The fields of a command's body: first byte, bytes, and the defined bits of each byte. Bytes that no field covers are reserved. -/
def bodyFields (opcode : Nat) : Option (List (Nat × Nat × Nat)) :=
  match opcode with
  | 0x0401 => some [(8, 2, 255), (10, 1, 1), (12, 4, 255), (16, 8, 255)]
  | 0x0601 => some [(8, 3, 255), (11, 1, 3), (12, 6, 255), (20, 11, 255)]
  | 0x0602 => some [(8, 1, 255)]
  | 0x0603 => some [(8, 1, 255)]
  | 0x0B01 => some [(8, 1, 7), (9, 2, 255), (16, 16, 255)]
  | 0x0B02 => some []
  | 0x0B03 => some [(8, 2, 255), (10, 1, 1), (16, 8, 255)]
  | 0x0B04 => some [(8, 2, 255)]
  | 0x0D10 => some [(8, 1, 255), (10, 2, 255), (16, 8, 255)]
  | 0x1001 => some [(8, 4, 255)]
  | 0x1002 => some [(8, 1, 255)]
  | 0x1101 => some [(8, 3, 255), (12, 2, 255)]
  | 0x1401 => some [(8, 1, 255), (12, 4, 255)]
  | 0x1402 => some [(8, 12, 255)]
  | 0x1501 => some [(8, 1, 255)]
  | 0x1601 => some [(8, 1, 255)]
  | 0x1A01 => some [(8, 40, 255)]
  | 0x1A02 => some [(8, 16, 255), (24, 1, 3)]
  | 0x1A03 => some []
  | 0x1A04 => some []
  | 0x1A05 => some [(8, 12, 255)]
  | 0x1A06 => some [(8, 8, 255)]
  | _ => none

/-- A reserved bit of the entry or its body is set. -/
def reservedSet (e : List Byte) (fields : List (Nat × Nat × Nat)) : Bool :=
  2 ≤ byteAt e 2 || byteAt e 3 != 0 ||
    (List.range 56).any fun k =>
      let i := k + 8
      let mask := ((fields.find? fun f => f.1 ≤ i && i < f.1 + f.2.1).map fun f => f.2.2).getD 0
      byteAt e i &&& (255 - mask) != 0

/-- Commands that name a context (R79). -/
def namesContext (opcode : Nat) (e : List Byte) : Bool :=
  opcode == 0x0B01 || opcode == 0x0B02 || opcode == 0x0B03 || opcode == 0x0B04 || opcode == 0x1001 || opcode == 0x1101 ||
    (opcode == 0x1002 && byteAt e 8 == 2)

/-- A body field lies outside the range its chapter states. DEDUCED (log entry 126): a WATCH_LOAD whose list or count is out of range is
BAD_COMMAND, as R79 says of every command, and not the WATCH_INVALID of R395. -/
def outOfRange (opcode : Nat) (e : List Byte) : Bool :=
  let b (i : Nat) : Nat := byteAt e i
  let stream := le e 8 2
  match opcode with
  | 0x0401 => 1023 < stream || le e 12 4 == 0 || 4194304 < le e 12 4
  | 0x0601 => 1023 < stream || !(b 10 == 1 || b 10 == 2) || 60000 < le e 12 2 || (!(b 11).testBit 0 && 60000 < le e 14 2) ||
      15 < b 16 || ((b 11).testBit 1 && 15 < b 17) || !(1 ≤ b 30 && b 30 ≤ 3)
  | 0x0B01 => !(b 9 ≤ 2 || b 9 == 255) || 31 < b 10
  | 0x0B03 => 1023 < stream && stream != 65535
  | 0x0B04 => 1023 < stream && stream != 65535
  | 0x0D10 => 15 < b 8 || 4096 < le e 10 2
  | 0x1001 => le e 8 4 == 0 || 65535 < le e 8 4
  | 0x1002 => 2 < b 8
  | 0x1101 => 239 < stream || 2 < b 10 || (b 10 != 2 && le e 12 2 == 0)
  | 0x1401 => 31 < b 8 || le e 12 4 == 0
  | 0x1501 => 59 < b 8
  | 0x1601 => 1 < b 8
  | 0x1A02 => le e 12 4 % 256 != 0 || 4194304 < le e 12 4
  | 0x1A05 => 245760 < le e 16 4
  | _ => false

/-- A command completes with BAD_COMMAND (R79). -/
def badCommand (e : List Byte) : Bool :=
  let opcode := le e 0 2
  let context := le e 6 2
  match bodyFields opcode with
  | none => true
  | some fields =>
    reservedSet e fields || (if namesContext opcode e then !(1 ≤ context && context ≤ 63) else context != 65535) || outOfRange opcode e

/-- The bytes of host memory a command reads. -/
def Fetched.hostBytes (f : Fetched) : Nat :=
  match f.opcode with
  | 0x0401 => le f.entry 12 4
  | 0x0B01 => if (byteAt f.entry 8).testBit 2 then 0 else le f.entry 24 8
  | 0x0D10 => 272 * le f.entry 10 2
  | 0x1A02 => le f.entry 12 4
  | 0x1A05 => le f.entry 16 4
  | _ => 0

/-- A command has host data still to come. -/
def Fetched.reading (f : Fetched) : Bool := f.done == none && f.data.length < f.hostBytes

/-- A command has a host read still to issue (R90). -/
def Fetched.unissued (f : Fetched) : Bool := f.done == none && f.issued < f.hostBytes

/-- The size of the read requests the device issues: the programmed Max_Read_Request_Size, up to 4,096 bytes (R69). -/
def Dev.readSize (d : Dev) : Nat := min 4096 (128 <<< bits (d.cfgReg .deviceControl 0x2000) 12 3)

/-- Reads of a command that are issued and not yet answered. -/
def Fetched.outstanding (size : Nat) (f : Fetched) : Nat := if f.done = none then ceilDiv (f.issued - f.data.length) size else 0

/-- Host reads are issued in the order the commands were fetched, as long as fewer than 768 are outstanding (R69). DESIGN CHOICE (log
entry 127): each is issued as soon as that limit allows. -/
def Dev.issueReads (d : Dev) : Dev :=
  if !d.canMaster then d
  else
    let size := d.readSize
    let all := d.queues.flatMap fun e => e.2.inflight.map fun f => (e.1, f)
    let busy := all.foldl (fun n e => n + e.2.outstanding size) 0
    let todo := isort (fun a b => a.2.order ≤ b.2.order) (all.filter fun e => e.2.unissued)
    (todo.foldl (fun (x : Dev × Nat) e =>
      let n := min x.2 (ceilDiv (e.2.hostBytes - e.2.issued) size)
      (if n = 0 then x.1 else x.1.updFetched e.1 e.2.index fun g => { g with issued := min g.hostBytes (g.issued + n * size) }, x.2 - n))
      (d, 768 - busy)).1

/-! ### Doorbells and fetching (R81 to R84, R93) -/

/-- A doorbell of a queue before firmware is ready is ignored (R73); one that R81 calls bad sets bad_doorbell. -/
def Dev.doorbell (d : Dev) (q value size : Nat) (good : Nat → Dev → Dev) : Dev :=
  if !d.barOpen then d.send .unsupportedRequest
  else if !d.ep.firmwareReady then d
  else if !d.flag Reg.hostQueueEnable q || size ≤ value % 65536 then d.setQueue q { d.queue q with badDoorbell := true }
  else good (value % 65536) d

/-- SQ_TAIL (R81). -/
def sqTailEffect (q value : Nat) (d : Dev) : Dev :=
  d.doorbell q value (d.sqSize q) fun v d => d.setQueue q { d.queue q with sqTail := v }

/-- CQ_HEAD (R83, R93): slots are released, and the queue may stop being pending. -/
def cqHeadEffect (q value : Nat) (d : Dev) : Dev :=
  d.doorbell q value (d.cqSize q) fun v d =>
    let x := d.queue q
    let n := (v + d.cqSize q - x.cqHead) % d.cqSize q
    (d.setQueue q { x with cqHead := v, waits := x.waits.drop n }).updatePending q

/-- CQ_DELAY_EXPIRY (R93). -/
def cqDelayExpiryEffect (q : Nat) (d : Dev) : Dev :=
  let x := d.queue q
  let delay := d.rd Reg.hostQueueConfig_cqDelay q
  match x.waits with
  | t :: _ => if delay != 0 && t + delay ≤ d.now then d.setQueue q { x with pending := true } else d
  | [] => d

/-- A queue from which an entry can be fetched: one is there, and a completion slot can be reserved for it (R83); nothing is fetched
during a firmware switch (R553), nor before the batches held while Bus Master Enable was clear are written (R91). -/
def Dev.fetchable (d : Dev) (q : Nat) : Bool :=
  let x := d.queue q
  d.dictReady && d.canMaster && d.flag Reg.hostQueueEnable q && x.sqHead != x.sqTail &&
    x.waits.length + x.inflight.length < d.cqSize q && !(d.held.any fun b => b.parked && !b.ringDone)

/-- The queue the rotation of R84 fetches from next: at most 4 entries of a queue in a turn. -/
def Dev.nextFetch (d : Dev) : Option Nat :=
  if d.fetchRun < 4 && d.fetchable d.fetchTurn then some d.fetchTurn
  else ((List.range 64).map fun k => (d.fetchTurn + 1 + k) % 64).find? d.fetchable

/-- COMMAND_FETCH (R79, R83, R84). -/
def commandFetchEffect (q : Nat) (entry : List Byte) (d : Dev) : Dev :=
  if d.nextFetch != some q then d
  else
    let x := d.queue q
    let f : Fetched := { order := d.fetchCount, index := x.sqHead, entry }
    let run := if d.fetchRun < 4 && d.fetchTurn == q then d.fetchRun + 1 else 1
    let d := Dev.setQueue { d with fetchCount := d.fetchCount + 1, fetchTurn := q, fetchRun := run } q
      { x with sqHead := (x.sqHead + 1) % d.sqSize q, inflight := x.inflight ++ [f] }
    if badCommand entry then d.complete q f.index 0x83 0x02 else d.issueReads

/-! ### Host reads (R101) -/

/-- A command of a queue with reads issued whose data has not all arrived. -/
def Dev.reader (d : Dev) (q i : Nat) : Option Fetched :=
  (d.fetched? q i).filter fun f => f.reading && f.data.length < f.issued

/-- The read of a submission entry that is in progress: of the entry at the head of the queue R84 fetches from next. -/
def Dev.fetchingAt (d : Dev) (q i : Nat) : Bool := d.nextFetch == some q && i == (d.queue q).sqHead

/-- COMPLETION_TIMEOUT. The read of a submission entry that times out is logged alike; it is no command's data, and the entry is read again
(DESIGN CHOICE, log entry 128). -/
def completionTimeoutEffect (q i : Nat) (d : Dev) : Dev :=
  match d.reader q i with
  | some _ => ((d.logUncorrectable aerTimeout 0x80).complete q i 0x80 0x02).issueReads
  | none => if d.fetchingAt q i then d.logUncorrectable aerTimeout 0x80 else d

/-- HOST_READ_COMPLETION: of a command's data, or of a submission entry whose read fails (log entry 128). -/
def hostReadCompletionEffect (q i : Nat) (result : HostReadResult) (d : Dev) : Dev :=
  match d.reader q i with
  | none => if result == .poisoned && d.fetchingAt q i then d.logUncorrectable aerPoisoned 0x81 else d
  | some f =>
    match result with
    | .data bytes => (d.updFetched q i fun g => { g with data := (g.data ++ bytes).take f.issued }).issueReads
    | .unsupported => (d.complete q i 0x80 0x02).issueReads
    | .aborted => (d.complete q i 0x80 0x02).issueReads
    | .poisoned => ((d.logUncorrectable aerPoisoned 0x81).complete q i 0x81 0x02).issueReads

/-! ### Mastering (R90, R91, R99) -/

/-- Commands with a host read still to issue fail (R90). -/
def Dev.failReads (d : Dev) : Dev :=
  let lost := d.queues.flatMap fun e => (e.2.inflight.filter Fetched.unissued).map fun f => (e.1, f.index)
  lost.foldl (fun d k => d.complete k.1 k.2 0x33 0x02) d

/-- Bus Master Enable goes from 1 to 0. -/
def Dev.clearMaster (d : Dev) : Dev :=
  if d.ep.busMaster then (Dev.attend { d with ep := { d.ep with busMaster := false } } (masterDisabledCause 1)).failReads else d

/-- Bus Master Enable goes from 0 to 1: records held are written, and batches held for a ring are to be written before anything more is
fetched (R91). -/
def Dev.setMaster (d : Dev) : Dev :=
  if d.ep.busMaster then d
  else (List.range 64).foldl (fun d q => d.flushQueue q)
    { d with ep := { d.ep with busMaster := true }, held := d.held.map fun b => { b with parked := !b.ringDone } }

/-- A configuration request that the function completes with success (R72, R98). -/
def Dev.served (d : Dev) : Dev := { d with ep := { d.ep with answered := true } }

def busMasterEnableClearEffect (d : Dev) : Dev := if d.cfgServed then d.served.clearMaster else d
def busMasterEnableSetEffect (d : Dev) : Dev := if d.cfgServed then d.served.setMaster else d

/-- INTERRUPT_DISABLE_SET (R92). -/
def interruptDisableSetEffect (d : Dev) : Dev :=
  if d.cfgServed then { d.served with ep := { d.served.ep with intDisable := true } } else d

/-- D3HOT_ENTRY (R99). -/
def d3hotEntryEffect (d : Dev) : Dev :=
  if d.cfgServed && d.ep.power == .d0 then d.served.enterD3.failReads else d

/-! ### Configuration requests (R69, R70, R92, R97 to R99) -/

/-- The identifiers of the capability list and of the extended capability list, in the order of R70 (PRESUMED of the base specification, log
entry 30). -/
def capabilities : List Nat := [0x01, 0x10]
def extendedCapabilities : List Nat :=
  [0x0001, 0x0003, 0x0019, 0x0025, 0x0026, 0x002A, 0x0031, 0x0027, 0x0032, 0x002F]

/-- The code of a link rate, given in units of 0.5 GT/s, in the link registers. -/
def rateCode (rate : Nat) : Nat := ([5, 10, 16, 32, 64, 128].findIdx? (· == rate)).elim 0 (· + 1)

/-- What a configuration register reads. -/
def Dev.cfgRead (d : Dev) (r : CfgReg) : Nat :=
  match r with
  | .vendorId => 0x1F3C
  | .deviceId => 0x9640
  | .revisionId => 0xB1
  | .classCode => 0x120000
  | .subsystemVendorId => (d.boot.factory.map FactorySection.subsystemVendor).getD 0x1F3C
  | .subsystemId => (d.boot.factory.map FactorySection.subsystem).getD 0x9640
  | .interruptPin => 1
  | .interruptLine => d.cfgReg r 0
  | .command => d.cfgReg r 0 + 2 * b2n d.ep.memorySpace + 4 * b2n d.ep.busMaster + 1024 * b2n d.ep.intDisable
  | .status => 0x10 + 8 * b2n d.ep.intaWire + d.cfgReg r 0
  | .bar0 => d.cfgReg r 0 + 4
  | .bar2 => d.cfgReg r 0 + 12
  | .deviceControl => d.cfgReg r 0x2000
  | .deviceControl2 => d.cfgReg r 0
  | .powerState => match d.ep.power with
    | .d0 => 0
    | .d3hot => 3
  | .serialNumber => d.rd Reg.bootSerial
  | .aerUncorrectableStatus => d.ep.aerUncorrectable
  | .aerUncorrectableMask => d.cfgReg r 0x00400000
  | .aerUncorrectableSeverity => d.cfgReg r 0x00462030
  | .aerCorrectableStatus => d.ep.aerCorrectable
  | .aerCorrectableMask => d.cfgReg r 0xE000
  | .capability k => capabilities.getD k 0
  | .extendedCapability k => extendedCapabilities.getD k 0
  | .pmCapabilities => 3
  | .noSoftReset => 0
  -- Max_Payload_Size Supported 512 bytes, role-based error reporting, function-level reset
  | .deviceCapabilities => 2 + 0x8000 + 2 ^ 28
  | .deviceStatus => d.cfgReg r 0
  -- 64.0 GT/s, x16, ASPM Support 00b, ASPM optionality
  | .linkCapabilities => 6 + 16 * 16 + 2 ^ 22
  | .linkControl => d.cfgReg r 0
  | .linkStatus => rateCode (d.rd Reg.hostLinkState_rate) + 16 * d.rd Reg.hostLinkState_width
  -- completion timeout ranges A to D and disable, 10-bit tag completer and requester
  | .deviceCapabilities2 => 0x1F + 2 ^ 16 + 2 ^ 17

/-- Device Control written: a code of Max_Payload_Size above 512 bytes, or of Max_Read_Request_Size above 4,096, keeps the field as it is
(DESIGN CHOICE, log entry 30). Bits of features that R69 does not support are hardwired to zero. -/
def Dev.deviceControlAfter (d : Dev) (v : Nat) : Nat :=
  let old := d.cfgReg .deviceControl 0x2000
  let v := v &&& 0x71EF
  let v := if 2 < bits v 5 3 then setBits v 5 3 (bits old 5 3) else v
  if 5 < bits v 12 3 then setBits v 12 3 (bits old 12 3) else v

/-- Device Control 2 written: a Completion Timeout Value of no range of R69 keeps the field as it is. -/
def Dev.deviceControl2After (d : Dev) (v : Nat) : Nat :=
  let v := v &&& 0x101F
  if [0, 1, 2, 5, 6, 9, 10, 13, 14].contains (v % 16) then v else setBits v 0 4 (d.cfgReg .deviceControl2 0 % 16)

/-- The Command register written. -/
def Dev.writeCommand (d : Dev) (v : Nat) : Dev :=
  let d := d.setCfg .command (v &&& 0x0140)
  let d : Dev := { d with ep := { d.ep with memorySpace := v.testBit 1, intDisable := v.testBit 10 } }
  if v.testBit 2 then d.setMaster else d.clearMaster

/-- What a write of a configuration register does; read-only registers keep their value. -/
def Dev.cfgWrite (d : Dev) (r : CfgReg) (v : Nat) : Dev :=
  match r with
  | .interruptLine => d.setCfg r (v % 256)
  | .command => d.writeCommand v
  | .bar0 => d.setCfg r (v % 2 ^ 64 / 2 ^ 24 * 2 ^ 24)
  | .bar2 => d.setCfg r (v % 2 ^ 64 / 2 ^ 36 * 2 ^ 36)
  | .deviceControl => if v.testBit 15 then d.reset resetFunction else d.setCfg r (d.deviceControlAfter v)
  | .deviceControl2 => d.setCfg r (d.deviceControl2After v)
  -- Read Completion Boundary, common clock, extended synch; ASPM Control is hardwired to zero
  | .linkControl => d.setCfg r (v &&& 0xC8)
  -- bits that a one clears
  | .deviceStatus => d.setCfg r (d.cfgReg r 0 &&& (0xF ^^^ (v % 16)))
  | .status => d.setCfg r (d.cfgReg r 0 &&& (0xFFFF ^^^ (v % 65536)))
  | .powerState =>
    if v % 4 = 3 then (if d.ep.power = .d0 then d.enterD3.failReads else d)
    else if v % 4 = 0 ∧ d.ep.power = .d3hot then d.reset resetD3
    else d
  | .aerUncorrectableStatus => { d with ep := { d.ep with aerUncorrectable := d.ep.aerUncorrectable &&& (0xFFFFFFFF ^^^ (v % 2 ^ 32)) } }
  | .aerUncorrectableMask => d.setCfg r (v % 2 ^ 32)
  | .aerUncorrectableSeverity => d.setCfg r (v % 2 ^ 32)
  | .aerCorrectableStatus => { d with ep := { d.ep with aerCorrectable := d.ep.aerCorrectable &&& (0xFFFFFFFF ^^^ (v % 2 ^ 32)) } }
  | .aerCorrectableMask => d.setCfg r (v % 2 ^ 32)
  | .vendorId => d
  | .deviceId => d
  | .revisionId => d
  | .classCode => d
  | .subsystemVendorId => d
  | .subsystemId => d
  | .interruptPin => d
  | .serialNumber => d
  | .capability _ => d
  | .extendedCapability _ => d
  | .pmCapabilities => d
  | .noSoftReset => d
  | .deviceCapabilities => d
  | .linkCapabilities => d
  | .linkStatus => d
  | .deviceCapabilities2 => d

/-- CONFIGURATION_REQUEST (R98). -/
def configurationRequestEffect (r : CfgRequest) (d : Dev) : Dev :=
  if !d.cfgServed then d.send .configRetry
  else match r with
    | .read r => (d.served.send (.configCompletion (d.cfgRead r)))
    | .write r v => Dev.cfgWrite (d.served.send (.configCompletion 0)) r v

/-! ### The link (R96, R101) -/

def Dev.setLink (d : Dev) (rate width : Nat) (flit : Bool) : Dev :=
  ((d.wr Reg.hostLinkState_rate 0 rate).wr Reg.hostLinkState_width 0 width).setFlag Reg.hostLinkState_flit 0 flit

/-- The link trains at a rate and width: a change after the first training raises LINK (R101). -/
def Dev.trainLink (d : Dev) (rate width : Nat) (flit : Bool) : Dev :=
  let changed := d.ep.trainedBefore &&
    (d.rd Reg.hostLinkState_rate != rate || d.rd Reg.hostLinkState_width != width)
  let d := d.setLink rate width flit
  let d : Dev := { d with ep := { d.ep with linkTrained := true, trainedBefore := true } }
  if changed then d.attend { bit := Bit.link, area := 0x02 } else d

/-- PCIE_LINK_TRAINED (R96): the log has begun with LINK_DOWN since the hot reset that DL_Down caused, unless that reset still waits for a
firmware switch. -/
def pcieLinkTrainedEffect (rate width : Nat) (flit : Bool) (d : Dev) : Dev :=
  Dev.trainLink { d with ep := { d.ep with linkDownPending := d.ep.linkDownPending && d.boot.heldReset.isSome } } rate width flit

/-- LINK_RATE_CHANGE (R101): of a link that has trained. -/
def linkRateChangeEffect (rate width : Nat) (flit : Bool) (d : Dev) : Dev := if d.ep.linkTrained then d.trainLink rate width flit else d

/-! ### BAR0 (R62, R71 to R73, R81, R92) -/

/-- Queues pending, as bits from a first queue. -/
def Dev.pendingBits (d : Dev) (first : Nat) : Nat :=
  (List.range 32).foldl (fun a k => if (d.queue (first + k)).pending then a + 2 ^ k else a) 0

/-- The state word of a mailbox (R62). -/
def Mailbox.stateWord (x : Mailbox) : Nat := b2n x.busy + 2 * b2n x.overrun + 65536 * (x.doneTag % 65536)

/-- The mailbox an offset lies in, and the offset within it. -/
def Dev.mailboxAt (d : Dev) (offset : Nat) : Option (Nat × Nat) :=
  let m := offset / 0x4000
  if offset < 0x10000 && offset % 0x4000 < 0x200C && d.mailboxExists m then some (m, offset % 0x4000) else none

/-- A location of BAR0 that R62, R73, R81 or R92 describes and does not reserve. -/
def Dev.bar0Known (d : Dev) (offset : Nat) : Bool :=
  (d.mailboxAt offset).isSome || (0x10000 ≤ offset && offset < 0x10018) || (0x20000 ≤ offset && offset < 0x20008) ||
    (0x100000 ≤ offset && offset < 0x140000 && offset % 0x1000 < 0xC)

/-- What a register of BAR0 reads; write-only and reserved locations read zero. -/
def Dev.bar0Register (d : Dev) (offset : Nat) : Nat :=
  match d.mailboxAt offset with
  | some (m, o) =>
    let x := d.mailbox m
    if o < 0x1000 then leNat ((List.range 4).map fun k => x.requestByte (o + k))
    else if o < 0x2000 then leNat ((List.range 4).map fun k => x.reply.getD (o - 0x1000 + k) 0#8)
    else if o = 0x2004 then x.stateWord
    else if o = 0x2008 then (if m = 0 then d.statusWord 0 0x01 else x.mirror)
    else 0
  | none =>
    if offset = 0x10000 then
      b2n (d.queues.any fun e => e.2.pending && d.flag Reg.hostQueueConfig_irq e.1) +
        2 * b2n (d.rd Reg.dictionaryAttentionLogHead != d.ep.genSeen) + 4 * b2n d.ep.mailboxPending
    else if offset = 0x10004 then d.ep.intEnable
    else if offset = 0x10008 then d.ep.genSeen
    else if offset = 0x1000C then d.pendingBits 0
    else if offset = 0x10010 then d.pendingBits 32
    else if offset = 0x20000 then 0x420125A8
    else if offset = 0x20004 then
      b2n d.ep.firmwareReady + 2 * b2n d.ep.selftestDone + 4 * b2n d.ep.memoryReady + 256 * d.ep.lastReset + 65536 * d.ep.resetSequence
    else if 0x100000 ≤ offset && offset < 0x140000 && offset % 0x1000 == 8 then
      let q := (offset - 0x100000) / 0x1000
      let x := d.queue q
      b2n (d.flag Reg.hostQueueEnable q) + 2 * b2n x.draining + 4 * b2n x.badDoorbell + 65536 * x.sqHead
    else 0

/-- Bytes written into a mailbox's request region. -/
def Dev.writeRequest (d : Dev) (m o : Nat) (data : List Byte) : Dev :=
  let x := d.mailbox m
  d.setMailbox m { x with request :=
    ((List.range data.length).zip data).foldl (fun (r : Tbl Nat Byte) e => r.put (o + e.1) e.2) x.request }

/-- A register of BAR0 written; those with rows of their own act as the rows say. -/
def Dev.writeRegister (d : Dev) (offset v : Nat) : Dev :=
  match d.mailboxAt offset with
  | some (m, o) => if o = 0x2000 then (if m = 0 then mailboxDoorbellEffect d else relayDoorbellEffect m d) else d
  | none =>
    if offset = 0x10004 then { d with ep := { d.ep with intEnable := v % 8 } }
    else if offset = 0x10008 then { d with ep := { d.ep with genSeen := v } }
    else if offset = 0x10014 then (if v.testBit 2 then { d with ep := { d.ep with mailboxPending := false } } else d)
    else if 0x100000 ≤ offset && offset < 0x140000 then
      let q := (offset - 0x100000) / 0x1000
      if offset % 0x1000 = 0 then sqTailEffect q v d else if offset % 0x1000 = 4 then cqHeadEffect q v d else d
    else d

/-- A write that stays within a mailbox's request region. -/
def Dev.inRequest (d : Dev) (offset size : Nat) : Option (Nat × Nat) :=
  (d.mailboxAt offset).filter fun e => e.2 + size ≤ 0x1000

/-- An access of a size that R72 accepts. -/
def Dev.accepted (d : Dev) (isWrite : Bool) (offset size : Nat) : Bool :=
  (isWrite && (d.inRequest offset size).isSome) || (size == 4 && offset % 4 == 0)

/-- BAR0_BAD_ACCESS (R72): discarded and counted; a discarded read returns zero. -/
def bar0BadAccessEffect (isWrite : Bool) (offset size : Nat) (d : Dev) : Dev :=
  if !d.barOpen then d.send .unsupportedRequest
  else if !d.bar0Known offset then (if isWrite then d else d.send (.readCompletion (List.replicate (min size 4096) 0#8) false))
  else if d.accepted isWrite offset size then d
  else
    let d := d.count Reg.hostBar0BadAccess
    if isWrite then d else d.send (.readCompletion (List.replicate (min size 4096) 0#8) false)

/-- BAR0_REGISTER_WRITE (R72, R92, R101). -/
def bar0RegisterWriteEffect (offset : Nat) (data : List Byte) (poisoned : Bool) (d : Dev) : Dev :=
  if !d.barOpen then d.send .unsupportedRequest
  else if poisoned then (d.count Reg.hostBar0BadAccess).logUncorrectable aerPoisoned 0
  else match d.inRequest offset data.length with
    | some (m, o) => d.writeRequest m o data
    | none =>
      if !d.bar0Known offset then d
      else if d.accepted true offset data.length then d.writeRegister offset (leNat data)
      else d.count Reg.hostBar0BadAccess

/-- MAILBOX_CLEAR (R92). -/
def mailboxClearEffect (v : Nat) (d : Dev) : Dev := if d.barOpen then d.writeRegister 0x10014 v else d.send .unsupportedRequest

/-- MAILBOX_STATE_READ (R62): the overrun bit reads once. -/
def mailboxStateReadEffect (m : Nat) (d : Dev) : Dev :=
  if !d.barOpen then d.send .unsupportedRequest
  else
    let d' := d.send (.readCompletion (leBytes 4 (d.bar0Register (m * 0x4000 + 0x2004))) false)
    if d.mailboxExists m then d'.setMailbox m { d'.mailbox m with overrun := false } else d'

/-! ### BAR2 (R74 to R76, R101) -/

/-- BAR2_READ. DESIGN CHOICE (log entry 129): a read that meets poison in several places raises MEMORY once, for the first poisoned byte. -/
def bar2ReadEffect (offset length : Nat) (ecc : List EccEvent) (d : Dev) : Dev :=
  if !d.barOpen then d.send .unsupportedRequest
  else if !d.ep.memoryReady then d.send (.readCompletion (List.replicate length 0#8) false)
  else
    let d := d.eccAndSlots ecc
    let bytes := (List.range length).map fun i => if d.mapped (offset + i) then d.getByte (offset + i) else 0#8
    match (List.range length).find? fun i => d.mapped (offset + i) && d.poisoned (offset + i) 1 with
    | none => d.send (.readCompletion bytes false)
    | some i =>
      let a := offset + i
      let cause : Cause := if a < lpddrEnd then { bit := Bit.memory, code := 0x82, area := 0x15, detail := a / 256 % 60 }
        else { bit := Bit.memory, code := 0x82, area := 0x14, detail := d.vatBank (a - vatBase) }
      (d.attend cause).send (.readCompletion bytes true)

/-- Bytes of a BAR2 write stored at an address, marked poisoned where they came so (R101). -/
def Dev.storeBar2 (d : Dev) (a : Nat) (bytes : List Byte) (poisoned : Bool) : Dev :=
  if bytes = [] then d
  else
    let d := d.store a bytes
    if poisoned then
      let step := if a < vatBase then 256 else 32
      (List.range ((a + bytes.length - 1) / step + 1 - a / step)).foldl (fun d k => d.poisonAt ((a / step + k) * step)) d
    else d

/-- BAR2_WRITE: split at range boundaries, and counted once where any of it is discarded (R75). -/
def bar2WriteEffect (offset : Nat) (data : List Byte) (poisoned : Bool) (d : Dev) : Dev :=
  if !d.barOpen then d.send .unsupportedRequest
  else
    let d := if poisoned then d.logUncorrectable aerPoisoned 0 else d
    if !d.flag Reg.hostBar2WriteEnable then d.count Reg.hostBar2Discarded
    else
      let low := data.take (lpddrEnd - offset)
      let high := data.drop (lpddrEnd - offset)
      let start := max offset vatBase
      let vat := high.take (vatBase + d.vatMapped - start)
      let trained := d.ep.memoryReady
      let d := if trained then d.storeBar2 offset low poisoned else d
      let d := d.storeBar2 start vat poisoned
      if vat.length < high.length || (!trained && low != []) then d.count Reg.hostBar2Discarded else d

def execBar0BadAccess (w : Bool) (o n : Nat) (s : State) := act (.bar0BadAccess w o n) (bar0BadAccessEffect w o n) s
def execBar0RegisterWrite (o : Nat) (b : List Byte) (p : Bool) (s : State) :=
  act (.bar0RegisterWrite o b p) (bar0RegisterWriteEffect o b p) s
def execMailboxClear (v : Nat) (s : State) := act (.mailboxClear v) (mailboxClearEffect v) s
def execMailboxStateRead (m : Nat) (s : State) := act (.mailboxStateRead m) (mailboxStateReadEffect m) s
def execBar2Read (o n : Nat) (e : List EccEvent) (s : State) := act (.bar2Read o n e) (bar2ReadEffect o n e) s
def execBar2Write (o : Nat) (b : List Byte) (p : Bool) (s : State) := act (.bar2Write o b p) (bar2WriteEffect o b p) s
def execSqTail (q v : Nat) (s : State) := act (.sqTail q v) (sqTailEffect q v) s
def execCqHead (q v : Nat) (s : State) := act (.cqHead q v) (cqHeadEffect q v) s
def execCommandFetch (q : Nat) (b : List Byte) (s : State) := act (.commandFetch q b) (commandFetchEffect q b) s
def execCqDelayExpiry (q : Nat) (s : State) := act (.cqDelayExpiry q) (cqDelayExpiryEffect q) s
def execBusMasterEnableClear (s : State) := act .busMasterEnableClear busMasterEnableClearEffect s
def execBusMasterEnableSet (s : State) := act .busMasterEnableSet busMasterEnableSetEffect s
def execInterruptDisableSet (s : State) := act .interruptDisableSet interruptDisableSetEffect s
def execD3hotEntry (s : State) := act .d3hotEntry d3hotEntryEffect s
def execCompletionTimeout (q i : Nat) (s : State) := act (.completionTimeout q i) (completionTimeoutEffect q i) s
def execHostReadCompletion (q i : Nat) (r : HostReadResult) (s : State) :=
  act (.hostReadCompletion q i r) (hostReadCompletionEffect q i r) s
def execLinkRateChange (r w : Nat) (f : Bool) (s : State) := act (.linkRateChange r w f) (linkRateChangeEffect r w f) s
def execPcieLinkTrained (r w : Nat) (f : Bool) (s : State) := act (.pcieLinkTrained r w f) (pcieLinkTrainedEffect r w f) s
def execConfigurationRequest (r : CfgRequest) (s : State) := act (.configurationRequest r) (configurationRequestEffect r) s

end Sys2Proof.Machine
end

