-- ==== Sys2Proof/Machine/Boot.lean ====
section
/-! DEFINITION. Boot, trust and repair (R531 to R559): the boot stages with the self-test, the repair ledger and the choice of copies and
slots, staging of configuration and firmware, the firmware switch, attestation and the export of the ledger. -/

namespace Sys2Proof.Machine

/-! ### Images (R538) -/

def imageVersion (b : List Byte) : Nat := le b 8 4
def imageSecurity (b : List Byte) : Nat := le b 12 4
def imageLength (b : List Byte) : Nat := 256 + le b 24 4

/-- The digest of an image: of its header and body, which the root key signs. -/
def imageDigest (b : List Byte) : Nat := Config.sha512 (b.take (imageLength b))

/-- An image of a kind (1 first stage, 2 firmware) has the form of R538, fits this revision, and carries the root key's signature. -/
def imageSigned (kind : Nat) (b : List Byte) : Bool :=
  imageLength b + 512 ≤ b.length && le b 0 4 == 0x4D574653 && byteAt b 4 == kind && le b 16 2 == 0x4201 &&
    Config.rsaVerifies Config.rootModulus (imageDigest b) (slice b (imageLength b) 512)

/-- The least security version the owner section in use admits. -/
def Dev.minSecurity (d : Dev) : Nat := (d.boot.owner.map OwnerSection.minSecurity).getD 0

/-- A firmware image verifies (R538). -/
def Dev.firmwareGood (d : Dev) (b : List Byte) : Bool := imageSigned 2 b && d.minSecurity ≤ imageSecurity b

def Boot.slot (b : Boot) (n : Nat) : FwSlot := if n = 0 then b.slotA else b.slotB
def Boot.setSlot (b : Boot) (n : Nat) (x : FwSlot) : Boot := if n = 0 then { b with slotA := x } else { b with slotB := x }
def Dev.updBoot (d : Dev) (f : Boot → Boot) : Dev := { d with boot := f d.boot }

/-! ### Stages 1 to 3 -/

/-- The boot ends with a failure (R545). -/
def Dev.bootFails (d : Dev) (code : Nat) : Dev := d.wr Reg.bootState_failure 0 code

/-- Stage 1: the flash is found, with what the board has written to it, and a first stage verifies. -/
def Dev.bootFirst (d : Dev) (flash : Bool) (board : Option FlashImage) : Dev :=
  let d := match board with
    | none => d
    | some b => d.updBoot fun x =>
        { x with first0 := b.first0, first1 := b.first1, slotA := { bytes := b.slotA }, slotB := { bytes := b.slotB },
                 copy0 := b.copy0, copy1 := b.copy1 }
  if !flash then d.bootFails 1
  else if imageSigned 1 d.boot.first0 then d.wr Reg.bootState_stage 0 1
  else if imageSigned 1 d.boot.first1 then (d.wr Reg.bootState_firstCopy 0 1).wr Reg.bootState_stage 0 1
  else d.bootFails 2

/-- The first stage in use. -/
def Dev.firstStage (d : Dev) : List Byte := if d.flag Reg.bootState_firstCopy then d.boot.first1 else d.boot.first0

/-- The owner section in use with the number of its copy: the higher sequence, copy 0 when they are equal (R541). -/
def chooseOwner : Option OwnerSection → Option OwnerSection → Option (OwnerSection × Nat)
  | some a, some b => if a.sequence < b.sequence then some (b, 1) else some (a, 0)
  | some a, none => some (a, 0)
  | none, some b => some (b, 1)
  | none, none => none

/-- Stage 2 (R34, R541, R542): the sections in use are chosen, and the value list is applied. -/
def Dev.bootConfigured (d : Dev) : Dev :=
  let c0 := d.boot.copy0
  let c1 := d.boot.copy1
  let factory := if c0.factory.isSome then c0.factory else c1.factory
  let chosen := chooseOwner c0.owner c1.owner
  let owner := chosen.map (·.1)
  let copy := match chosen with
    | some x => x.2
    | none => if c0.factory.isNone && c1.factory.isSome then 1 else 0
  let d := d.updBoot fun x => { x with factory, owner }
  let d := ((d.setFlag Reg.bootState_config0 0 c0.owner.isSome).setFlag Reg.bootState_config1 0 c1.owner.isSome).wr Reg.bootConfig_copy 0 copy
  let d := match factory with
    | none => d
    | some f => ((d.wr Reg.bootSerial 0 f.serial).setElem .bootIdentityCert 0 (leNat f.identityCert)).setElem .bootManufacturingCert 0
        (leNat f.manufacturingCert)
  let d := match owner with
    | none => d
    | some o => ((List.range 4).zip (o.owners.take 4)).foldl (fun (d : Dev) (e : Nat × List Byte) => d.wr Reg.bootOwnerKeys_keyId e.1 (certKey e.2))
        (d.wr Reg.bootConfig_sequence 0 o.sequence)
  let d := d.applyStations
  let r := Dev.applyValues keepAll d.valueList.length d d.valueList
  let areas := r.2.filterMap ValueResult.area?
  let skipped := (r.2.filter ValueResult.isSkipped).length
  let d := r.1.updBoot fun x => { x with clamped := areas }
  let d := d.count Reg.bootConfig_applied 0 (r.2.length - skipped)
  let d := (d.count Reg.bootConfig_skipped 0 skipped).count Reg.bootConfig_clamped 0 areas.length
  d.wr Reg.bootState_stage 0 2

/-- Stage 3 (R550): the identity key is available when the helper data yields it. -/
def Dev.bootIdentity (d : Dev) (regenerated : Bool) : Dev :=
  let ok := regenerated && d.boot.factory.isSome
  let d : Dev := { d with ledger := { d.ledger with identity := ok } }
  (d.setFlag Reg.bootState_identity 0 ok).wr Reg.bootState_stage 0 3

/-! ### Stage 4: the ledger and LPDDR6 (R461, R503, R504, R548, R549) -/

/-- The entries a half begins with: a snapshot from its start to its end. -/
def snapshotLength (es : List LedgerEntry) : Nat :=
  match es with
  | e :: _ => if e.kind = 8 then (es.takeWhile fun x => x.kind != 9).length + 1 else 0
  | [] => 0

/-- The latest entry about a unit. -/
def latestFor (es : List LedgerEntry) (t : UnitType) (unit sub : Nat) : Option LedgerEntry :=
  (es.filter fun e => e.unitType == t && e.unit == unit && e.sub == sub && 1 ≤ e.kind && e.kind ≤ 4).getLast?
def kindOf (es : List LedgerEntry) (t : UnitType) (unit sub : Nat) : Nat := ((latestFor es t unit sub).map LedgerEntry.kind).getD 0

/-- The ledger as read: the entries that verify stand; one whose snapshot does not verify, or read with no identity key, is treated as empty. -/
def Dev.readLedger (d : Dev) (verified : Nat) : Dev :=
  let es := d.ledger.entries
  let n := min verified es.length
  let whole := d.ledger.identity && (es == [] || (0 < n && snapshotLength es ≤ n))
  let kept := if whole then es.take n else []
  let d := d.count Reg.bootLedger_rejected 0 (es.length - kept.length)
  let d : Dev := if d.ledger.identity then { d with ledger := d.ledger.withEntries kept } else d
  let d := ((d.wr Reg.bootLedger_head 0 ((kept.getLast?.map LedgerEntry.sequence).getD 0)).wr Reg.bootLedger_entries 0 kept.length).wr
    Reg.bootLedger_half 0 d.ledger.active
  let d := d.setFlag Reg.bootState_ledger 0 (whole && es != [])
  let d := d.wr Reg.bootCount 0 ((kept.getLast?.map fun e => e.boots + 1).getD 1)
  d.wr Reg.powerAvsState_hours 0 ((kept.getLast?.map LedgerEntry.hours).getD 0)

/-- The entries boot goes by: none where the ledger is treated as empty. -/
def Dev.bootEntries (d : Dev) : List LedgerEntry := if d.ledger.identity then d.ledger.entries else []

/-- The powered hours since which M has stood as the last voltage entries record it. -/
def marginSince (m : Nat) : List LedgerEntry → Nat → Nat
  | [], since => since
  | e :: es, since => if byteAt e.data 8 = m then marginSince m es e.hours else since

/-- V_t of each point and M start as last recorded, or at V_nom and 40 mV (R503, R504); the device boots at its initial point (R488). -/
def Dev.bootVoltages (d : Dev) : Dev :=
  let volts := (d.bootEntries.filter fun e => e.kind == 5).reverse
  let d := match volts with
    | [] => (List.range 4).foldl (fun (d : Dev) p => d.wr (pointVt p) 0 (pointVnom p)) (d.wr Reg.powerAvsState_margin 0 40)
    | e :: _ => (List.range 4).foldl (fun (d : Dev) p => d.wr (pointVt p) 0 (le e.data (2 * p) 2))
        (d.wr Reg.powerAvsState_margin 0 (byteAt e.data 8))
  let d := d.updPw fun w => { w with quietFrom := marginSince (d.rd Reg.powerAvsState_margin) volts 0, lastDaily := d.now }
  let p := max (d.rd Reg.powerOpInitial) (d.rd Reg.powerOpMax)
  (d.wr Reg.powerOpState_point 0 p).setRail (d.rd (pointVt p)) true

/-- The number of the physical rank an entry of `lpddr6.remap` names first, in a ledger entry: channel × 2 + rank (R461). -/
def rankUnit (e : Nat) : Nat := e % 32 * 2 + e / 32

/-- An entry of `lpddr6.remap`: the physical rank that entry `p` names first, with a state. -/
def Dev.setRemap (d : Dev) (e p state : Nat) : Dev :=
  ((d.wr Reg.lpddr6Remap_channel e (p % 32)).wr Reg.lpddr6Remap_rank e (p / 32)).wr Reg.lpddr6Remap_state e state

/-- Logical ranks served in order: by their own rank, or, where it is out, by the lowest spare left; and the ranks with none. -/
def Dev.fillRemap (out : List Nat) : (ranks spares : List Nat) → Dev → Dev × Nat
  | [], _, d => (d, 0)
  | l :: ls, spares, d =>
    if !out.contains l then Dev.fillRemap out ls spares (d.setRemap l l 1)
    else match spares with
      | e :: es => Dev.fillRemap out ls es ((d.setRemap l e 1).setRemap e l 5)
      | [] => let r := Dev.fillRemap out ls [] (d.setRemap l l 5); (r.1, r.2 + 1)

/-- Stage 4. -/
def Dev.bootMemory (d : Dev) (trained : List Nat) (verified : Nat) : Dev :=
  let d := (d.readLedger verified).bootVoltages
  let old := (List.range 64).filter fun e => kindOf d.bootEntries .lpddrRank (rankUnit e) 0 == 2
  let bad := (List.range 64).filter fun e => !old.contains e && !trained.contains (rankUnit e)
  let d := bad.foldl (fun (d : Dev) e => d.appendLedger 2 .lpddrRank (rankUnit e) 0) d
  let out := old ++ bad
  let spares := (List.range 64).filter fun e => 60 ≤ e && !out.contains e
  let d := (List.range 4).foldl (fun (d : Dev) k => d.setRemap (60 + k) (60 + k) (if out.contains (60 + k) then 5 else 0)) d
  let r := Dev.fillRemap out (List.range 60) spares d
  let d := r.1
  if r.2 ≠ 0 then d.bootFails 3
  else Dev.wr { d with ep := { d.ep with memoryReady := true } } Reg.bootState_stage 0 4

/-! ### Stage 5: self-test (R549) -/

/-- Unit types with spares among whole units: built, presented (R16), and the object that reports how many are presented. -/
def unitKinds : List (UnitType × Nat × Nat × Reg) :=
  [(.decodeEngine, 26, 24, Reg.decodeEnginesPresented), (.encodeEngine, 5, 4, Reg.encodeEnginesPresented),
    (.calender, 5, 4, Reg.calenderEnginesPresented), (.deckle, 3, 2, Reg.deckleEnginesPresented),
    (.trackerEngine, 3, 2, Reg.trackerEnginesPresented), (.pointsEngine, 2, 1, Reg.pointsEnginesPresented),
    (.vatBank, 1056, 1024, Reg.vatBanksPresented)]

/-- What self-test finds out: a unit recorded retired, or one that fails. -/
def Dev.isOut (d : Dev) (failed : List UnitRef) (t : UnitType) (unit sub : Nat) : Bool :=
  kindOf d.bootEntries t unit sub == 2 || failed.contains { type := t, unit, sub }

/-- A spare brought into service is recorded once (R547). -/
def Dev.recordSpare (d : Dev) (t : UnitType) (unit : Nat) (sub : Nat := 0) (data : List Byte := []) : Dev :=
  if kindOf d.bootEntries t unit sub == 1 then d else d.appendLedger 1 t unit sub data

/-- The first good units in physical order are presented (R17), and spares among them recorded. -/
def Dev.presentUnits (d : Dev) (failed : List UnitRef) (x : UnitType × Nat × Nat × Reg) : Dev :=
  let good := ((List.range x.2.1).filter fun p => !d.isOut failed x.1 p 0).take x.2.2.1
  let d := (d.wr x.2.2.2 0 good.length).updBoot fun b => { b with units := b.units.put x.1 good }
  (good.filter fun p => x.2.2.1 ≤ p).foldl (fun (d : Dev) p => d.recordSpare x.1 p) d

/-- Columns in service of an array (R230), as physical columns: half-array 0 has 0 to 129, half-array 1 the rest. -/
def Dev.goodColumns (d : Dev) (failed : List UnitRef) (array : Nat) : List Nat :=
  (List.range 260).filter fun c => !d.isOut failed .arrayColumn array c

/-- The presented width of an array (R230). -/
def arrayWidth (columns : List Nat) : Nat :=
  let g0 := (columns.filter fun c => c < 130).length
  2 * min (min 128 g0) (min 128 (columns.length - g0))

/-- The code of a width class: 0 is 256, 1 is 252, 2 is 248. -/
def widthClass (w : Nat) : Nat := if 256 ≤ w then 0 else if 252 ≤ w then 1 else 2

/-- Accumulator halves in service (R232), and the lanes a vector engine presents (R235). -/
def Dev.goodHalves (d : Dev) (failed : List UnitRef) (array : Nat) : Nat :=
  ((List.range 2).filter fun h => !d.isOut failed .arrayHalf array h).length
def Dev.goodLanesOf (d : Dev) (failed : List UnitRef) (p : Nat) : Nat :=
  32 * min 16 ((List.range 17).filter fun g => !d.isOut failed .vectorLanes p g).length

/-- A Press core is in service (R230, R232, R233). -/
def Dev.goodCore (d : Dev) (failed : List UnitRef) (p : Nat) : Bool :=
  !d.isOut failed .pressCore p 0 && 256 ≤ d.goodLanesOf failed p &&
    (List.range 2).all fun a => 248 ≤ arrayWidth (d.goodColumns failed (2 * p + a)) && 1 ≤ d.goodHalves failed (2 * p + a)

/-- The objects of one array of a presented core (R245). -/
def Dev.presentArray (d : Dev) (failed : List UnitRef) (k p a : Nat) : Dev :=
  let columns := d.goodColumns failed (2 * p + a)
  let i := 2 * k + a
  let w := arrayWidth columns
  let g0 := (columns.filter fun c => c < 130).length
  let d := (d.wr Reg.pressArrayState_width i w).wr Reg.pressArrayState_class i (widthClass w)
  let d := (d.wr Reg.pressArrayState_halves i (if d.goodHalves failed (2 * p + a) = 2 then 3 else 1)).wr Reg.pressArrayState_out0 i (130 - g0)
  (d.wr Reg.pressArrayState_out1 i (130 - (columns.length - g0))).wr Reg.pressArrayColumnMap_map i
    (columns.foldl (fun m c => m + 2 ^ c) 0)

/-- The presented width of the array a unit belongs to, in the data of the entries for its columns (R233, log entry 153). -/
def Dev.widthData (d : Dev) (failed : List UnitRef) (u : UnitRef) : List Byte :=
  if u.type = .arrayColumn then leBytes 2 (arrayWidth (d.goodColumns failed u.unit)) else []

/-- The columns an array's presented width uses that stand beyond the 128 of their half-array (R230, R231): its spares in service. -/
def spareColumns (columns : List Nat) : List Nat :=
  let half := columns.partition (· < 130)
  let n := arrayWidth columns / 2
  (half.1.take n ++ half.2.take n).filter fun c => 128 ≤ c % 130

/-- The spare columns and the spare lane group of a core in service are recorded (R18, R235). -/
def Dev.recordCoreSpares (d : Dev) (failed : List UnitRef) (p : Nat) : Dev :=
  let d := (List.range 2).foldl (fun (d : Dev) a =>
    let columns := d.goodColumns failed (2 * p + a)
    (spareColumns columns).foldl (fun (d : Dev) c => d.recordSpare .arrayColumn (2 * p + a) c (leBytes 2 (arrayWidth columns))) d) d
  let groups := ((List.range 17).filter fun g => !d.isOut failed .vectorLanes p g).take 16
  if groups.contains 16 then d.recordSpare .vectorLanes p 16 else d

/-- The objects of a presented core, number `k`, that is physical core `p`. -/
def Dev.presentCore (d : Dev) (failed : List UnitRef) (k p : Nat) : Dev :=
  let d := (d.presentArray failed k p 0).presentArray failed k p 1
  let w := min (d.rd Reg.pressArrayState_width (2 * k)) (d.rd Reg.pressArrayState_width (2 * k + 1))
  let d := (d.wr Reg.pressCoreState_width k w).wr Reg.pressCoreState_class k (widthClass w)
  let d := d.wr Reg.pressCoreState_halves k (min (d.goodHalves failed (2 * p)) (d.goodHalves failed (2 * p + 1)))
  d.wr Reg.pressCoreState_lanes k (d.goodLanesOf failed p)

/-- Numbers that no core has: nothing is presented there. -/
def Dev.absentCore (d : Dev) (k : Nat) : Dev :=
  let d := ((d.wr Reg.pressCoreState_width k 0).wr Reg.pressCoreState_halves k 0).wr Reg.pressCoreState_lanes k 0
  (List.range 2).foldl (fun (d : Dev) a => ((d.wr Reg.pressArrayState_width (2 * k + a) 0).wr Reg.pressArrayState_halves (2 * k + a) 0).wr
    Reg.pressArrayColumnMap_map (2 * k + a) 0) d

/-- The Press cores are presented (R17, R233): the first 32 good ones in physical order; one that is retired at boot is recorded. -/
def Dev.presentCores (d : Dev) (failed : List UnitRef) : Dev :=
  let good := ((List.range 34).filter fun p => d.goodCore failed p).take 32
  let lost := (List.range 34).filter fun p => !d.goodCore failed p && !d.isOut failed .pressCore p 0
  let d := lost.foldl (fun (d : Dev) p => d.appendLedger 2 .pressCore p 0) d
  let d := ((List.range good.length).zip good).foldl (fun (d : Dev) e => d.presentCore failed e.1 e.2) d
  let d := ((List.range 32).filter fun k => good.length ≤ k).foldl Dev.absentCore d
  let d := (d.wr Reg.pressCoresPresented 0 good.length).updBoot fun b => { b with units := b.units.put .pressCore good }
  let n (c : Nat) : Nat := ((List.range good.length).filter fun k => d.rd Reg.pressCoreState_class k == c).length
  let d := ((d.wr Reg.pressCoresByClass_c256 0 (n 0)).wr Reg.pressCoresByClass_c252 0 (n 1)).wr Reg.pressCoresByClass_c248 0 (n 2)
  let d := (good.filter fun p => 32 ≤ p).foldl (fun (d : Dev) p => d.recordSpare .pressCore p) d
  good.foldl (fun (d : Dev) p => d.recordCoreSpares failed p) d

/-- Coupling ports (R516): lanes out are left aside, and every enabled port trains; a spare lane that serves from the start is recorded. -/
def Dev.trainPorts (d : Dev) (failed : List UnitRef) : Dev :=
  (List.range 3).foldl (fun (d : Dev) p =>
    let d := d.updCoup p fun x => { x with badLanes := (List.range 9).filter fun l => d.isOut failed .couplingLane p l }
    if d.flag Reg.couplingPortEnable p then
      let d := d.trainPort p
      if d.flag Reg.couplingPortState_spareUsed p then d.recordSpare .couplingLane p 8 else d
    else d) d

/-- The slot boot chooses, with its state, the boots it has left, the last confirmed slot, and the data of the entry to append (R555). -/
structure SlotChoice where
  slot : Nat
  state : SlotState
  left : Nat
  confirmed : Nat
  entry : Option (List Byte)
  deriving DecidableEq, Repr

/-- The data of a slot entry: slot, state (0 confirmed, 1 on trial, 2 failed), boots left, last confirmed slot (log entry 9). -/
def slotData (slot state left confirmed : Nat) : List Byte := leBytes 1 slot ++ leBytes 1 state ++ leBytes 1 left ++ leBytes 1 confirmed

/-- What the latest slot entry makes of the boot (R555). -/
def Dev.chooseSlot (d : Dev) : SlotChoice :=
  match (d.bootEntries.filter fun e => e.kind == 7).getLast? with
  | none =>
    let n := if d.firmwareGood d.boot.slotA.bytes then 0 else 1
    { slot := n, state := .confirmed, left := 0, confirmed := n, entry := some (slotData n 0 0 n) }
  | some e =>
    let slot := byteAt e.data 0
    let left := byteAt e.data 2
    let confirmed := byteAt e.data 3
    if byteAt e.data 1 = 0 then { slot, state := .confirmed, left := 0, confirmed := slot, entry := none }
    else if byteAt e.data 1 = 1 then
      if left = 0 then { slot := confirmed, state := .confirmed, left := 0, confirmed, entry := some (slotData slot 2 0 confirmed) }
      else { slot, state := .trial, left := left - 1, confirmed, entry := some (slotData slot 1 (left - 1) confirmed) }
    else { slot := confirmed, state := .confirmed, left := 0, confirmed, entry := none }

/-- The slot that boots: the chosen one, or the other where it does not verify (R555). -/
def Dev.bootSlot (d : Dev) : Option SlotChoice :=
  let c := d.chooseSlot
  if d.firmwareGood (d.boot.slot c.slot).bytes then some c
  else if d.firmwareGood (d.boot.slot (1 - c.slot)).bytes then some { c with slot := 1 - c.slot, state := .confirmed, left := 0 }
  else none

/-- The seal of a boot (R547): digests and versions of the first stage, the firmware and the owner section. -/
def Dev.sealData (d : Dev) : List Byte :=
  let fw := (d.bootSlot.map fun c => (d.boot.slot c.slot).bytes).getD []
  let owner := d.boot.owner.getD { sequence := 0, minSecurity := 0, owners := [], revoked := [], values := [], bytes := [] }
  beBytes 64 (imageDigest d.firstStage) ++ beBytes 64 (imageDigest fw) ++ beBytes 64 (Config.sha512 owner.bytes) ++
    leBytes 4 (imageVersion d.firstStage) ++ leBytes 4 (imageVersion fw) ++ leBytes 4 owner.sequence

/-- Stage 5. -/
def Dev.bootSelfTest (d : Dev) (reported : List UnitRef) (randomGood : Bool) : Dev :=
  -- a unit recorded retired is never tested
  let failed := reported.filter fun u => u.type != .lpddrRank && kindOf d.bootEntries u.type u.unit u.sub != 2
  let suspects := (d.bootEntries.filter fun e => kindOf d.bootEntries e.unitType e.unit e.sub == 3).map fun e =>
    ({ type := e.unitType, unit := e.unit, sub := e.sub } : UnitRef)
  let cleared := suspects.eraseDups.filter fun u => !failed.contains u
  let d := cleared.foldl (fun (d : Dev) u => d.appendLedger 4 u.type u.unit u.sub) d
  let d := failed.eraseDups.foldl (fun (d : Dev) u => d.appendLedger 2 u.type u.unit u.sub (d.widthData failed u)) d
  let d := unitKinds.foldl (fun (d : Dev) x => d.presentUnits failed x) d
  let d := (d.presentCores failed).trainPorts failed
  let served (e : Nat) : Nat := d.rd Reg.lpddr6Remap_channel e + 32 * d.rd Reg.lpddr6Remap_rank e
  let d := ((List.range 60).filter fun l => 60 ≤ served l).foldl (fun (d : Dev) l => d.recordSpare .lpddrRank (rankUnit (served l))) d
  let d := d.checkRandom randomGood
  let d := d.appendLedger 6 .none 0 0 d.sealData
  Dev.wr { d with ep := { d.ep with selftestDone := true } } Reg.bootState_stage 0 5

/-! ### Stage 6: firmware (R555, R559) -/

/-- Lasting causes of area 0x1A. -/
def bootCause (detail : Nat) : Cause := { bit := Bit.fault, area := 0x1A, detail }

/-- What `boot.firmware` reports of the slot not running. -/
def Boot.otherState (b : Boot) : Nat :=
  let x := b.slot (1 - b.running)
  if x.bytes = [] then 0 else if !x.verified then 4 else if b.confirmed = 1 - b.running then 2 else 1

/-- `boot.firmware` follows the slots. -/
def Dev.showSlots (d : Dev) : Dev :=
  let b := d.boot
  let image := (b.slot b.running).bytes
  let staged := if b.otherState = 1 then imageVersion (b.slot (1 - b.running)).bytes else 0
  let d := ((d.wr Reg.bootFirmware_slot 0 b.running).wr Reg.bootFirmware_other 0 b.otherState).wr Reg.bootFirmware_trialLeft 0 b.trialLeft
  ((d.wr Reg.bootFirmware_version 0 (imageVersion image)).wr Reg.bootFirmware_security 0 (imageSecurity image)).wr
    Reg.bootFirmware_stagedVersion 0 staged

/-- Relay requests that waited for firmware go out (R73, R520). -/
def Dev.forwardRelays (d : Dev) : Dev := (d.forwardRelay 1).forwardRelay 2 |>.forwardRelay 3

/-- Stage 6. -/
def Dev.bootFirmware (d : Dev) : Dev :=
  let choice := d.bootSlot
  let d := match d.chooseSlot.entry with
    | some x => if choice.isSome || byteAt x 1 != 0 then d.appendLedger 7 .none 0 0 x else d
    | none => d
  match choice with
  | none => d.bootFails 4
  | some c =>
    let d := d.updBoot fun b =>
      { b with running := c.slot, state := c.state, trialLeft := c.left, confirmed := c.confirmed,
               slotA := { b.slotA with verified := d.firmwareGood b.slotA.bytes }, slotB := { b.slotB with verified := d.firmwareGood b.slotB.bytes } }
    let d := (d.showSlots.wr Reg.bootState_slot 0 c.slot).wr Reg.bootState_stage 0 6
    let d : Dev := { d with ep := { d.ep with firmwareReady := true } }
    let d := d.boot.clamped.foldl (fun (d : Dev) a => d.attend { bit := Bit.clamped, code := 1, area := a }) d
    let d := if d.ledger.identity then d else d.beginLasting (bootCause 1)
    let d := if d.rd Reg.bootLedger_rejected = 0 then d else d.beginLasting (bootCause 2)
    d.forwardRelays

/-- What a stage that completes does. -/
def Dev.bootStage (d : Dev) : BootReport → Dev
  | .firstStage flash board => d.bootFirst flash board
  | .configuration => d.bootConfigured
  | .identity ok => d.bootIdentity ok
  | .memory trained verified => d.bootMemory trained verified
  | .selfTest failed good => d.bootSelfTest failed good
  | .firmware => d.bootFirmware

/-- The stage a report ends. -/
def stageOf : BootReport → Nat
  | .firstStage _ _ => 1 | .configuration => 2 | .identity _ => 3 | .memory _ _ => 4 | .selfTest _ _ => 5 | .firmware => 6

/-- BOOT_STAGE_COMPLETE (R544, R545): stages pass in order, and a failure ends the boot. -/
def bootStageCompleteEffect (r : BootReport) (d : Dev) : Dev :=
  if d.rd Reg.bootState_failure = 0 ∧ d.rd Reg.bootState_stage + 1 = stageOf r then d.bootStage r else d

/-! ### Staging (R533, R543, R552) -/

/-- A staging command ends with a code of area 0x1A. -/
def Dev.endBoot (d : Dev) (q i code : Nat) (detail : Nat := 0) : Dev := d.complete q i code 0x1A detail

/-- The owner section of a finished CONFIG_STAGE stands in the copy not in use, beside the factory section in use. -/
def Dev.writeCopy (d : Dev) (o : OwnerSection) : Dev :=
  let copy : ConfigCopy := { factory := d.boot.factory, owner := some o }
  d.updBoot fun b => if d.rd Reg.bootConfig_copy = 0 then { b with copy1 := copy } else { b with copy0 := copy }

/-- A piece of an image stands in the slot; the last one has the image verified (R552). -/
def Dev.writePiece (d : Dev) (q i : Nat) (f : Fetched) : Dev :=
  let n := 1 - d.boot.running
  let bytes := (d.boot.slot n).bytes ++ f.data
  if (byteAt f.entry 24).testBit 1 then
    let d := (d.updBoot fun b => { b.setSlot n { bytes, verified := d.firmwareGood bytes } with staging := false }).showSlots
    if !imageSigned 2 bytes then d.endBoot q i 0x11
    else if imageSecurity bytes < d.minSecurity then d.endBoot q i 0x86
    else d.endBoot q i 0 (imageVersion bytes)
  else ((d.updBoot fun b => { b.setSlot n { bytes } with staging := true }).showSlots).endBoot q i 0

/-- The steps of a staging command are done. -/
def Dev.finishJob (d : Dev) (j : FlashJob) : Dev :=
  let d := d.updBoot fun b => { b with job := none }
  match d.fetched? j.queue j.index, j.section_ with
  | none, _ => d
  | some _, some o => (d.writeCopy o).endBoot j.queue j.index 0
  | some f, none => d.writePiece j.queue j.index f

/-- A staging command has its first step under way, or is done at once where it has none. -/
def Dev.runJob (d : Dev) (j : FlashJob) : Dev :=
  if j.erases + j.programs = 0 then d.finishJob j
  else Dev.updBoot { d with ledger := { d.ledger with stepping := true } } fun b => { b with job := some j }

/-- CONFIG_STAGE (R543): 256 KiB are erased, and the whole block is programmed. -/
def configStageEffect (q i : Nat) (o : OwnerSection) (verifies : Bool) (d : Dev) : Dev :=
  match d.takeCommand q i 0x1A05 with
  | none => d
  | some f =>
    if f.started || f.reading || d.boot.job.isSome then d
    else if !verifies then d.endBoot q i 0x11
    else if d.boot.owner.any fun x => o.sequence ≤ x.sequence then d.endBoot q i 0x85
    else
      let n := 64 + ((d.boot.factory.map fun x => x.bytes.length).getD 0) + o.bytes.length
      let d := d.updBoot fun b => if d.rd Reg.bootConfig_copy = 0 then { b with copy1 := { factory := none, owner := none } }
        else { b with copy0 := { factory := none, owner := none } }
      (d.startCommand q i).runJob { queue := q, index := i, erases := 4, programs := ceilDiv n 65536, section_ := some o }

/-- FW_STAGE (R552): a first piece erases the slot not running; a later one begins where the last one ended. -/
def fwStageEffect (q i : Nat) (d : Dev) : Dev :=
  match d.takeCommand q i 0x1A02 with
  | none => d
  | some f =>
    let first := (byteAt f.entry 24).testBit 0
    let offset := le f.entry 8 4
    let n := 1 - d.boot.running
    if f.started || f.reading || d.boot.job.isSome then d
    else if 12582912 < offset + f.data.length then d.endBoot q i 0x85
    else if first then
      if offset ≠ 0 then d.endBoot q i 0x85
      else
        let d := (d.updBoot fun b => { b.setSlot n {} with staging := true }).wr Reg.bootFirmware_other 0 4
        (d.startCommand q i).runJob { queue := q, index := i, erases := 192, programs := ceilDiv f.data.length 65536 }
    else if !d.boot.staging || offset ≠ (d.boot.slot n).bytes.length then d.endBoot q i 0x85
    else (d.startCommand q i).runJob { queue := q, index := i, erases := 0, programs := ceilDiv f.data.length 65536 }

/-- FLASH_STEP_DONE (R533, R559): appends that waited are made before the next step; a step that fails ends its command. -/
def flashStepDoneEffect (ok : Bool) (d : Dev) : Dev :=
  match d.boot.job with
  | none => d
  | some j =>
    if !ok then
      let d := (d.dropJob.count Reg.bootFlashCounters_failures).beginLasting (bootCause 3)
      d.endBoot j.queue j.index 0x80
    else
      let d := if 0 < j.erases then d.count Reg.bootFlashCounters_erased else d
      let j := if 0 < j.erases then { j with erases := j.erases - 1 } else { j with programs := j.programs - 1 }
      d.flushAppends.runJob j

/-! ### The firmware switch (R553 to R555, R593) -/

/-- The state of the running slot as a report gives it: 2 confirmed, 3 on trial. -/
def SlotState.code : SlotState → Nat
  | .confirmed => 2
  | .trial => 3

/-- The slot entry of the running slot. -/
def Boot.slotEntry (b : Boot) : List Byte :=
  slotData b.running (match b.state with | .confirmed => 0 | .trial => 1) b.trialLeft b.confirmed

/-- Another command has been fetched and has not completed. -/
def Dev.otherCommand (d : Dev) (q i : Nat) : Bool :=
  d.queues.any fun e => e.2.inflight.any fun f => f.done == none && !(e.1 == q && f.index == i)

/-- Every stream's decoder waits for a key picture (R554). -/
def Dev.switchDecoders (d : Dev) : Dev :=
  (d.streams.filter fun e => e.2.phase != .stopped).foldl (fun (d : Dev) e => d.updDec e.1 fun x => { x with switching := true }) d

/-- FW_ACTIVATE (R553, R554): the switch begins, with fetching paused. -/
def fwActivateEffect (q i : Nat) (d : Dev) : Dev :=
  match d.takeCommand q i 0x1A03 with
  | none => d
  | some f =>
    let n := 1 - d.boot.running
    if f.started || d.boot.switching.isSome then d
    else if d.rd Reg.yardState ≠ 2 then d.endBoot q i 0x81
    else if d.otherCommand q i then d.endBoot q i 0x82
    else if !(d.boot.slot n).verified then d.endBoot q i 0x83
    else
      let d := (d.startCommand q i).sendNotices
      let d := d.appendLedger 7 .none 0 0 (slotData n 1 (d.rd Reg.bootTrialBoots) d.boot.confirmed)
      let d := (d.clips.map (·.1)).foldl (fun (d : Dev) c => d.closeClip c) d.switchDecoders
      d.dropTransfer.updBoot fun b => { b with switching := some (q, i) }

/-- FIRMWARE_SWITCH_DONE (R553, R593): the new firmware runs, on trial, or the old one again; a reset that arrived meanwhile is performed
in place of the completion. -/
def firmwareSwitchDoneEffect (verified : Bool) (d : Dev) : Dev :=
  match d.boot.switching with
  | none => d
  | some (q, i) =>
    let n := 1 - d.boot.running
    let held := d.boot.heldReset
    let left := d.rd Reg.bootTrialBoots
    let d := if verified then
        d.updBoot fun b => { b with running := n, state := .trial, trialLeft := left, switching := none, heldReset := none }
      else
        let d := d.updBoot fun b => { b.setSlot n { b.slot n with verified := false } with switching := none, heldReset := none }
        d.appendLedger 7 .none 0 0 d.boot.slotEntry
    let d := d.showSlots
    match held with
    | some kind => d.resetBlocks kind
    | none =>
      let d := if verified then d.endBoot q i 0 (imageVersion (d.boot.slot n).bytes) else d.endBoot q i 0x11
      d.forwardRelays

/-- FW_CONFIRM (R555). -/
def fwConfirmEffect (q i : Nat) (d : Dev) : Dev :=
  match d.takeCommand q i 0x1A04 with
  | none => d
  | some _ =>
    if d.boot.state = .confirmed then d.endBoot q i 0x87
    else
      let d := d.updBoot fun b => { b with state := .confirmed, trialLeft := 0, confirmed := b.running }
      ((d.appendLedger 7 .none 0 0 d.boot.slotEntry).showSlots).endBoot q i 0

/-! ### Attestation and the ledger export (R551, R556) -/

/-- An entry of the context table (R551). -/
def Dev.attestContext (d : Dev) (c : Nat) : List Byte :=
  let x := d.ctx? c
  leBytes 1 c ++ leBytes 1 (d.yardStateField c 0) ++ leBytes 14 0 ++ leBytes 16 ((x.map Context.planId).getD 0) ++
    (match x with
    | some y => beBytes 64 y.digest
    | none => leBytes 64 0)

/-- The spares a Coupling port's lanes use, as a bit mask over ports. -/
def Dev.spareMask (d : Dev) : Nat :=
  ((List.range 3).filter fun p => d.flag Reg.couplingPortState_spareUsed p).foldl (fun a p => a + 2 ^ p) 0

/-- The attestation report (R551). -/
def Dev.attestReport (d : Dev) (nonce table : List Byte) : List Byte :=
  let b := d.boot
  let image := (b.slot b.running).bytes
  let digestOf (x : Option (List Byte)) : List Byte := match x with
    | some y => beBytes 64 (Config.sha512 y)
    | none => leBytes 64 0
  padTo 1024 <| leBytes 4 0x54544153 ++ leBytes 2 (d.rd Reg.identityPart) ++ leBytes 2 (d.rd Reg.identityRevision) ++
    leBytes 8 (d.rd Reg.bootSerial) ++ nonce ++ leBytes 4 (d.rd Reg.bootCount) ++ leBytes 4 d.ep.resetSequence ++
    beBytes 64 (imageDigest d.firstStage) ++ beBytes 64 (imageDigest image) ++ leBytes 4 (imageVersion image) ++
    leBytes 4 (imageSecurity image) ++ leBytes 1 b.running ++ leBytes 1 b.state.code ++ leBytes 2 0 ++
    digestOf (b.factory.map FactorySection.bytes) ++ digestOf (b.owner.map OwnerSection.bytes) ++
    leBytes 4 (d.rd Reg.bootConfig_sequence) ++ (List.range 4).flatMap (fun k => leBytes 8 (d.rd Reg.bootOwnerKeys_keyId k)) ++
    leBytes 4 (d.rd Reg.bootLedger_head) ++ beBytes 64 (lastDigest d.bootEntries) ++
    leBytes 4 (d.elemNat .pressCoresByClass 0) ++ leBytes 1 (d.rd Reg.pressCoresPresented) ++ leBytes 1 d.freeSpares.length ++
    leBytes 1 (d.rd Reg.decodeEnginesPresented) ++ leBytes 1 d.spareMask ++ beBytes 64 (Config.sha512 table)

/-- ATTEST (R551). It waits while the device may not write host memory (R91). -/
def attestEffect (q i : Nat) (d : Dev) : Dev :=
  match d.takeCommand q i 0x1A01 with
  | none => d
  | some f =>
    if !d.ledger.identity then d.endBoot q i 0x84
    else if !d.canMaster then d
    else
      let table := (List.range 64).flatMap d.attestContext
      let report := d.attestReport (slice f.entry 8 32) table
      (d.send (.hostWrite (le f.entry 40 8) (report ++ padTo 512 (Config.identitySign (Config.sha512 report)) ++ table))).endBoot q i 0 7680

/-- A half of the ledger's region as the flash holds it: erased bytes read 0xFF. -/
def halfBytes (es : List LedgerEntry) : List Byte :=
  (es.flatMap LedgerEntry.bytes ++ List.replicate (2097152 - 1024 * es.length) 0xFF#8).take 2097152

/-- LEDGER_EXPORT (R556). It waits while the device may not write host memory (R91). -/
def ledgerExportEffect (q i : Nat) (d : Dev) : Dev :=
  match d.takeCommand q i 0x1A06 with
  | none => d
  | some f =>
    if !d.canMaster then d
    else (d.send (.hostWrite (le f.entry 8 8) (halfBytes d.ledger.half0 ++ halfBytes d.ledger.half1))).endBoot q i 0 (d.rd Reg.bootLedger_head)

def execBootStageComplete (r : BootReport) (s : State) := act (.bootStageComplete r) (bootStageCompleteEffect r) s
def execConfigStage (q i : Nat) (o : OwnerSection) (v : Bool) (s : State) := act (.configStage q i o v) (configStageEffect q i o v) s
def execAttest (q i : Nat) (s : State) := act (.attest q i) (attestEffect q i) s
def execFwStage (q i : Nat) (s : State) := act (.fwStage q i) (fwStageEffect q i) s
def execFwActivate (q i : Nat) (s : State) := act (.fwActivate q i) (fwActivateEffect q i) s
def execFirmwareSwitchDone (v : Bool) (s : State) := act (.firmwareSwitchDone v) (firmwareSwitchDoneEffect v) s
def execFwConfirm (q i : Nat) (s : State) := act (.fwConfirm q i) (fwConfirmEffect q i) s
def execLedgerExport (q i : Nat) (s : State) := act (.ledgerExport q i) (ledgerExportEffect q i) s
def execFlashStepDone (ok : Bool) (s : State) := act (.flashStepDone ok) (flashStepDoneEffect ok) s

end Sys2Proof.Machine
end

