-- ==== Sys2Proof/Machine/Dispatch.lean ====
section
/-! DEFINITION. Each command's meaning: one arm per constructor of Instr, in the order of the opcode table. -/

namespace Sys2Proof.Machine

def exec (i : Instr) (s : State) : Host.Outcome State Fault Refusal :=
  match i with
  | .read via r => Sys2Proof.Machine.execRead via r s
  | .write via r => Sys2Proof.Machine.execWrite via r s
  | .describe via r => Sys2Proof.Machine.execDescribe via r s
  | .attentionAck via r => Sys2Proof.Machine.execAttentionAck via r s
  | .mailboxDoorbell => Sys2Proof.Machine.execMailboxDoorbell s
  | .dictUdpDatagram port family source sourcePort data => Sys2Proof.Machine.execDictUdpDatagram port family source sourcePort data s
  | .canRequestSegment identifier data => Sys2Proof.Machine.execCanRequestSegment identifier data s
  | .canSegmentTimeout => Sys2Proof.Machine.execCanSegmentTimeout s
  | .bar0BadAccess isWrite offset size => Sys2Proof.Machine.execBar0BadAccess isWrite offset size s
  | .bar0RegisterWrite offset data poisoned => Sys2Proof.Machine.execBar0RegisterWrite offset data poisoned s
  | .mailboxClear value => Sys2Proof.Machine.execMailboxClear value s
  | .bar2Read offset length ecc => Sys2Proof.Machine.execBar2Read offset length ecc s
  | .bar2Write offset data poisoned => Sys2Proof.Machine.execBar2Write offset data poisoned s
  | .sqTail queue value => Sys2Proof.Machine.execSqTail queue value s
  | .cqHead queue value => Sys2Proof.Machine.execCqHead queue value s
  | .commandFetch queue entry => Sys2Proof.Machine.execCommandFetch queue entry s
  | .queueEnable via r => Sys2Proof.Machine.execQueueEnable via r s
  | .queueDisable via r => Sys2Proof.Machine.execQueueDisable via r s
  | .cqDelayExpiry queue => Sys2Proof.Machine.execCqDelayExpiry queue s
  | .busMasterEnableClear => Sys2Proof.Machine.execBusMasterEnableClear s
  | .busMasterEnableSet => Sys2Proof.Machine.execBusMasterEnableSet s
  | .interruptDisableSet => Sys2Proof.Machine.execInterruptDisableSet s
  | .fundamentalReset => Sys2Proof.Machine.execFundamentalReset s
  | .hotReset => Sys2Proof.Machine.execHotReset s
  | .functionLevelReset => Sys2Proof.Machine.execFunctionLevelReset s
  | .dlDown => Sys2Proof.Machine.execDlDown s
  | .d3hotEntry => Sys2Proof.Machine.execD3hotEntry s
  | .d3hotToD0 => Sys2Proof.Machine.execD3hotToD0 s
  | .completionTimeout queue index => Sys2Proof.Machine.execCompletionTimeout queue index s
  | .hostReadCompletion queue index result => Sys2Proof.Machine.execHostReadCompletion queue index result s
  | .linkRateChange rate width flit => Sys2Proof.Machine.execLinkRateChange rate width flit s
  | .ethFrameReceived port fcsOk overRate frame => Sys2Proof.Machine.execEthFrameReceived port fcsOk overRate frame s
  | .gapTimerExpiry stream sequence => Sys2Proof.Machine.execGapTimerExpiry stream sequence s
  | .auHandOff stream => Sys2Proof.Machine.execAuHandOff stream s
  | .portEnable via r => Sys2Proof.Machine.execPortEnable via r s
  | .portLinkChange port up => Sys2Proof.Machine.execPortLinkChange port up s
  | .junctionPush queue index => Sys2Proof.Machine.execJunctionPush queue index s
  | .streamEnable via r => Sys2Proof.Machine.execStreamEnable via r s
  | .streamDisable via r => Sys2Proof.Machine.execStreamDisable via r s
  | .streamBecomesStopped stream => Sys2Proof.Machine.execStreamBecomesStopped stream s
  | .decodeStart engine header => Sys2Proof.Machine.execDecodeStart engine header s
  | .decodeFinish engine result ecc => Sys2Proof.Machine.execDecodeFinish engine result ecc s
  | .budgetAbort engine result => Sys2Proof.Machine.execBudgetAbort engine result s
  | .pictureRelease stream => Sys2Proof.Machine.execPictureRelease stream s
  | .decodeEngineFault engine result => Sys2Proof.Machine.execDecodeEngineFault engine result s
  | .encodeClip queue index => Sys2Proof.Machine.execEncodeClip queue index s
  | .encodeStop queue index => Sys2Proof.Machine.execEncodeStop queue index s
  | .encodeKey queue index => Sys2Proof.Machine.execEncodeKey queue index s
  | .encodePictureStart engine => Sys2Proof.Machine.execEncodePictureStart engine s
  | .encodePictureDone engine picture => Sys2Proof.Machine.execEncodePictureDone engine picture s
  | .encodeEngineFault engine => Sys2Proof.Machine.execEncodeEngineFault engine s
  | .calenderStart engine => Sys2Proof.Machine.execCalenderStart engine s
  | .calenderBufferGrant => Sys2Proof.Machine.execCalenderBufferGrant s
  | .calenderHandOn engine ecc => Sys2Proof.Machine.execCalenderHandOn engine ecc s
  | .calenderFault engine writingHistory => Sys2Proof.Machine.execCalenderFault engine writingHistory s
  | .deckleEntry engine => Sys2Proof.Machine.execDeckleEntry engine s
  | .deckleFault engine => Sys2Proof.Machine.execDeckleFault engine s
  | .passEntry core pass timing => Sys2Proof.Machine.execPassEntry core pass timing s
  | .drain core array => Sys2Proof.Machine.execDrain core array s
  | .tileBoundary core array => Sys2Proof.Machine.execTileBoundary core array s
  | .vectorOperation core op => Sys2Proof.Machine.execVectorOperation core op s
  | .dataMoverTransfer core op ecc badLines => Sys2Proof.Machine.execDataMoverTransfer core op ecc badLines s
  | .randomFill core op => Sys2Proof.Machine.execRandomFill core op s
  | .watchdogTrip core => Sys2Proof.Machine.execWatchdogTrip core s
  | .pressCoreFault core fault => Sys2Proof.Machine.execPressCoreFault core fault s
  | .planLoad queue index facts => Sys2Proof.Machine.execPlanLoad queue index facts s
  | .planBind queue index => Sys2Proof.Machine.execPlanBind queue index s
  | .planUnbind queue index => Sys2Proof.Machine.execPlanUnbind queue index s
  | .planUnload queue index => Sys2Proof.Machine.execPlanUnload queue index s
  | .batchEgress stream consumer => Sys2Proof.Machine.execBatchEgress stream consumer s
  | .detect engine slot ecc lost => Sys2Proof.Machine.execDetect engine slot ecc lost s
  | .embed engine ecc => Sys2Proof.Machine.execEmbed engine ecc s
  | .evaluate engine ecc => Sys2Proof.Machine.execEvaluate engine ecc s
  | .sliceBoundary points engine => Sys2Proof.Machine.execSliceBoundary points engine s
  | .watchLoad queue index => Sys2Proof.Machine.execWatchLoad queue index s
  | .trackerEngineFault points engine => Sys2Proof.Machine.execTrackerEngineFault points engine s
  | .dioPulseEnd line => Sys2Proof.Machine.execDioPulseEnd line s
  | .dioRelease via r => Sys2Proof.Machine.execDioRelease via r s
  | .ringEnable via r => Sys2Proof.Machine.execRingEnable via r s
  | .pointsRuleWrite via r => Sys2Proof.Machine.execPointsRuleWrite via r s
  | .frameReady => Sys2Proof.Machine.execFrameReady s
  | .stepDispatch context => Sys2Proof.Machine.execStepDispatch context s
  | .gatherTimeout context => Sys2Proof.Machine.execGatherTimeout context s
  | .yardRun queue index => Sys2Proof.Machine.execYardRun queue index s
  | .entryIssue context step pos deckle => Sys2Proof.Machine.execEntryIssue context step pos deckle s
  | .entryComplete context step pos => Sys2Proof.Machine.execEntryComplete context step pos s
  | .stepComplete context step => Sys2Proof.Machine.execStepComplete context step s
  | .switchPoint core overrun => Sys2Proof.Machine.execSwitchPoint core overrun s
  | .teardownEnd context => Sys2Proof.Machine.execTeardownEnd context s
  | .quiesce queue index => Sys2Proof.Machine.execQuiesce queue index s
  | .endQuiesce queue index => Sys2Proof.Machine.execEndQuiesce queue index s
  | .resumeHalted queue index => Sys2Proof.Machine.execResumeHalted queue index s
  | .signal core counter n => Sys2Proof.Machine.execSignal core counter n s
  | .wait core counter n => Sys2Proof.Machine.execWait core counter n s
  | .signalOpSignal queue index => Sys2Proof.Machine.execSignalOpSignal queue index s
  | .signalOpTake queue index => Sys2Proof.Machine.execSignalOpTake queue index s
  | .signalOpRead queue index => Sys2Proof.Machine.execSignalOpRead queue index s
  | .cacheSizeChange via r => Sys2Proof.Machine.execCacheSizeChange via r s
  | .poolEnable via r => Sys2Proof.Machine.execPoolEnable via r s
  | .poolDisable via r => Sys2Proof.Machine.execPoolDisable via r s
  | .poolAlloc queue index ecc => Sys2Proof.Machine.execPoolAlloc queue index ecc s
  | .poolFree queue index ecc => Sys2Proof.Machine.execPoolFree queue index ecc s
  | .freeRingRefill pool ecc => Sys2Proof.Machine.execFreeRingRefill pool ecc s
  | .refreshDue entry queued => Sys2Proof.Machine.execRefreshDue entry queued s
  | .refreshMakeUp entry count => Sys2Proof.Machine.execRefreshMakeUp entry count s
  | .rankTemperatureRead entry celsius => Sys2Proof.Machine.execRankTemperatureRead entry celsius s
  | .rankRetire queue index => Sys2Proof.Machine.execRankRetire queue index s
  | .migrationStart => Sys2Proof.Machine.execMigrationStart s
  | .migrationDone unreadable => Sys2Proof.Machine.execMigrationDone unreadable s
  | .gaugeEpoch events zones => Sys2Proof.Machine.execGaugeEpoch events zones s
  | .operatingPointChange confirmed => Sys2Proof.Machine.execOperatingPointChange confirmed s
  | .domainReady domain => Sys2Proof.Machine.execDomainReady domain s
  | .idleClockStop domain => Sys2Proof.Machine.execIdleClockStop domain s
  | .capWrite via r => Sys2Proof.Machine.execCapWrite via r s
  | .leaseExpiry => Sys2Proof.Machine.execLeaseExpiry s
  | .demandPublish standby => Sys2Proof.Machine.execDemandPublish standby s
  | .vrmRead pages => Sys2Proof.Machine.execVrmRead pages s
  | .estimateRecalibrationWrite via r => Sys2Proof.Machine.execEstimateRecalibrationWrite via r s
  | .powerRecalibrateFit queue index => Sys2Proof.Machine.execPowerRecalibrateFit queue index s
  | .powerRecalibrateEnd queue index => Sys2Proof.Machine.execPowerRecalibrateEnd queue index s
  | .avsTrim slacks acknowledged => Sys2Proof.Machine.execAvsTrim slacks acknowledged s
  | .marginNarrowing => Sys2Proof.Machine.execMarginNarrowing s
  | .voltageDailyRecord => Sys2Proof.Machine.execVoltageDailyRecord s
  | .thermalSample readings => Sys2Proof.Machine.execThermalSample readings s
  | .thermalTrip sensor => Sys2Proof.Machine.execThermalTrip sensor s
  | .vddAonRemoval => Sys2Proof.Machine.execVddAonRemoval s
  | .codeBlockReceived port good symbolErrors messages => Sys2Proof.Machine.execCodeBlockReceived port good symbolErrors messages s
  | .laneRepair port lane => Sys2Proof.Machine.execLaneRepair port lane s
  | .blockLockLoss port => Sys2Proof.Machine.execBlockLockLoss port s
  | .resetNotice port => Sys2Proof.Machine.execResetNotice port s
  | .portTrained port identifier size number => Sys2Proof.Machine.execPortTrained port identifier size number s
  | .portTrainRetry port => Sys2Proof.Machine.execPortTrainRetry port s
  | .couplingPortEnable via r => Sys2Proof.Machine.execCouplingPortEnable via r s
  | .transfer core record outcome => Sys2Proof.Machine.execTransfer core record outcome s
  | .transferUnitReceived port => Sys2Proof.Machine.execTransferUnitReceived port s
  | .remoteSignal port => Sys2Proof.Machine.execRemoteSignal port s
  | .remoteWait port => Sys2Proof.Machine.execRemoteWait port s
  | .grant port => Sys2Proof.Machine.execGrant port s
  | .cancel port => Sys2Proof.Machine.execCancel port s
  | .boostRequest port => Sys2Proof.Machine.execBoostRequest port s
  | .creditReturn port cls => Sys2Proof.Machine.execCreditReturn port cls s
  | .relayDoorbell mailbox => Sys2Proof.Machine.execRelayDoorbell mailbox s
  | .relayRequestReceived port => Sys2Proof.Machine.execRelayRequestReceived port s
  | .relayReplyReceived port => Sys2Proof.Machine.execRelayReplyReceived port s
  | .bootStageComplete report => Sys2Proof.Machine.execBootStageComplete report s
  | .configStage queue index section_ verifies => Sys2Proof.Machine.execConfigStage queue index section_ verifies s
  | .attest queue index => Sys2Proof.Machine.execAttest queue index s
  | .fwStage queue index => Sys2Proof.Machine.execFwStage queue index s
  | .fwActivate queue index => Sys2Proof.Machine.execFwActivate queue index s
  | .firmwareSwitchDone verified => Sys2Proof.Machine.execFirmwareSwitchDone verified s
  | .fwConfirm queue index => Sys2Proof.Machine.execFwConfirm queue index s
  | .ledgerExport queue index => Sys2Proof.Machine.execLedgerExport queue index s
  | .flashStepDone ok => Sys2Proof.Machine.execFlashStepDone ok s
  | .pwrgoodRise strap0 strap1 => Sys2Proof.Machine.execPwrgoodRise strap0 strap1 s
  | .pwrgoodFall => Sys2Proof.Machine.execPwrgoodFall s
  | .dioOut via r => Sys2Proof.Machine.execDioOut via r s
  | .dioConfigWrite via r => Sys2Proof.Machine.execDioConfigWrite via r s
  | .dioInputFiltered line level => Sys2Proof.Machine.execDioInputFiltered line level s
  | .canEnable via r => Sys2Proof.Machine.execCanEnable via r s
  | .canBusOff => Sys2Proof.Machine.execCanBusOff s
  | .canBusOffRecovery => Sys2Proof.Machine.execCanBusOffRecovery s
  | .pmbAlert words => Sys2Proof.Machine.execPmbAlert words s
  | .extest => Sys2Proof.Machine.execExtest s
  | .samplePreload => Sys2Proof.Machine.execSamplePreload s
  | .clamp => Sys2Proof.Machine.execClamp s
  | .highz => Sys2Proof.Machine.execHighz s
  | .bootstat => Sys2Proof.Machine.execBootstat s
  | .bypass code => Sys2Proof.Machine.execBypass code s
  | .canFrameTransmitted ok => Sys2Proof.Machine.execCanFrameTransmitted ok s
  | .configurationRequest r => Sys2Proof.Machine.execConfigurationRequest r s
  | .pcieLinkTrained rate width flit => Sys2Proof.Machine.execPcieLinkTrained rate width flit s
  | .mailboxStateRead mailbox => Sys2Proof.Machine.execMailboxStateRead mailbox s
  | .clipCopyDone clip sequence => Sys2Proof.Machine.execClipCopyDone clip sequence s

end Sys2Proof.Machine
end

