-- ==== Sys2Proof/Safety.lean ====
section
/-! DEFINITION. What counts as a good state and a safe run, in the terms the statements use. -/

namespace Sys2Proof.Safety

open Sys2Proof.Machine

/-- The virtual INTA wire stands where the masked pending set puts it (R92, R94). -/
abbrev wireFollows (s : State) : Prop := s.dev.ep.intaWire = s.dev.wireLevel

/-- Device memory has its canonical form. -/
abbrev memoryCanonical (s : State) : Prop := Memory.wf s.dev.memFree s.dev.mem

/-- Every waiting command is one that its sender can send. -/
abbrev wellFormedQueue (s : State) : Prop := ∀ c ∈ s.pending, c.wf = true

/-- A step that ends in a next state: neither a fault nor a refusal. -/
def continues (s : State) : Prop := ∃ t, step s = .next t

/-- A command whose operands its sender can send, for a block that runs. -/
abbrev ready (c : Instr) (s : State) : Prop := c.wf = true ∧ s.dev.runs c = true

/-- The command answers the next state whose device is `d`, with the interrupt wire settled after it; everything of the device that `d`
does not change is as it was, and so is the queue. -/
abbrev leads (c : Instr) (s : State) (d : Dev) : Prop := exec c s = .next { s with dev := settle d }

/-- The command answers a next state with the queue as it was and a device of which `P` holds. -/
abbrev yields (c : Instr) (s : State) (P : Dev → Prop) : Prop := ∃ t, exec c s = .next t ∧ t.pending = s.pending ∧ P t.dev

/-! ### Dictionary requests -/

/-- The dictionary mailbox is idle, the host reaches BAR0, the dictionary is served (R63, R72, R73), and no transport whose turn comes
before the mailbox's has a request waiting (R44). -/
abbrev mailboxIdle (d : Dev) : Prop := d.barOpen = true ∧ d.dictReady = true ∧ (d.mailbox 0).busy = false ∧ d.inTurn 0 = true

/-- The device once the doorbell has been written for a request and its turn has come: the mailbox is busy with it, and the turn after it is
the next transport's. -/
def rung (d : Dev) (r : Request) : Dev := (d.setMailbox 0 { d.mailbox 0 with busy := true, queued := some r }).turned 0

/-- Rows of the table that are a dictionary request by a transport. -/
def requestRows : List (Via → Request → Instr) :=
  [.read, .write, .describe, .attentionAck, .queueEnable, .queueDisable, .portEnable, .streamEnable, .streamDisable, .cacheSizeChange,
    .poolEnable, .poolDisable, .dioRelease, .ringEnable, .pointsRuleWrite, .capWrite, .estimateRecalibrationWrite, .couplingPortEnable,
    .dioOut, .dioConfigWrite, .canEnable]

/-- A row that writes one object, the object, and what its block does with element `i`, the value asked for after its ranges and the
value stored. -/
structure StoreRow where
  row : Via → Request → Instr
  obj : Obj
  op : Dev → (i asked v : Nat) → Dev

def storeRows : List StoreRow :=
  [ ⟨.attentionAck, .dictionaryAttentionAck, fun d _ _ v => d.ack (bits v 0 8) (bits v 32 32)⟩,
    ⟨.queueEnable, .hostQueueEnable, fun d i _ v => d.applyQueueEnable i v⟩,
    ⟨.queueDisable, .hostQueueEnable, fun d i _ v => d.applyQueueEnable i v⟩,
    ⟨.portEnable, .junctionPortEnable, fun d i _ v => d.applyPortEnable i v⟩,
    ⟨.streamEnable, .junctionStreamEnable, fun d i _ v => (d.setElem .junctionStreamEnable i v).applyStreamEnable i v⟩,
    ⟨.streamDisable, .junctionStreamEnable, fun d i _ v => (d.setElem .junctionStreamEnable i v).applyStreamEnable i v⟩,
    ⟨.cacheSizeChange, .vatCacheSize, fun d i _ v => if v = d.elemNat .vatCacheSize i then d else d.changeCache v⟩,
    ⟨.poolEnable, .sidingsPoolEnable, fun d i a v => (d.setElem .sidingsPoolEnable i v).applyPoolEnable i a⟩,
    ⟨.poolDisable, .sidingsPoolEnable, fun d i a v => (d.setElem .sidingsPoolEnable i v).applyPoolEnable i a⟩,
    ⟨.dioRelease, .pointsDioRelease, fun d _ _ v => d.applyDioRelease v⟩,
    ⟨.ringEnable, .pointsEgressRingEnable, fun d i _ v => d.applyRingEnable i v⟩,
    ⟨.pointsRuleWrite, .pointsRule, fun d i _ v => d.applyPointsRule i v⟩,
    ⟨.capWrite, .powerCapWatts, fun d _ _ v => d.applyCap v⟩,
    ⟨.estimateRecalibrationWrite, .powerEstimateGain, fun d i _ v => (d.setElem .powerEstimateGain i v).endDisagreement⟩,
    ⟨.estimateRecalibrationWrite, .powerEstimateOffset, fun d i _ v => (d.setElem .powerEstimateOffset i v).endDisagreement⟩,
    ⟨.couplingPortEnable, .couplingPortEnable,
      fun d i _ v => (d.setElem .couplingPortEnable i v).applyCouplingPortEnable i (d.elemNat .couplingPortEnable i)⟩,
    ⟨.dioOut, .pinsDioOut, fun d _ _ v => d.applyDioOut v⟩,
    ⟨.dioConfigWrite, .pinsDioConfig, fun d i _ v => (d.setElem .pinsDioConfig i v).applyDioConfig i (d.elemNat .pinsDioConfig i)⟩,
    ⟨.canEnable, .pinsCanEnable, fun d i _ v => (d.setElem .pinsCanEnable i v).applyCanEnable (d.elemNat .pinsCanEnable i)⟩ ]

end Sys2Proof.Safety
end

