-- ==== Sys2Proof/Certificates/Slice0/Obligations.lean ====
section
/-! DEFINITION. The statements for the provers, each a proposition about the model. -/

open Sys2Proof Sys2Proof.Machine Sys2Proof.Safety

/-! ### The machine as a whole -/

/-- A step takes the command at the front of the queue and runs it on the device with the queue's rest; with none waiting only the
always-on clock moves (the model's choice, log entries 1 and 2). -/
def Obligations.StepRunsFront : Prop :=
  (∀ (c : Instr) (rest : List Instr) (d : Dev), step { dev := d, pending := c :: rest } = exec c { dev := d, pending := rest }) ∧
    ∀ d : Dev, step { dev := d, pending := [] } = .next { dev := tick d, pending := [] }

/-- No meaning touches the queue of waiting commands, no step ends in a fault, and a step is refused only for a front command that its
sender cannot send. A run over well-formed commands therefore never stops. -/
def Obligations.StepsContinue : Prop :=
  (∀ (c : Instr) (s : State),
    (∀ r, exec c s ≠ .fault r) ∧ (∀ r, exec c s = .refused r ↔ c.wf = false ∧ r = .illFormed) ∧
      ∀ t, exec c s = .next t → t.pending = s.pending) ∧
    ∀ s : State, wellFormedQueue s → ∃ t, step s = .next t ∧ wellFormedQueue t

/-- The interrupt wire is an invariant: whatever a step does, the virtual INTA wire stands afterwards where the masked pending set, Interrupt
Disable and the power state put it (R92). -/
def Obligations.WireInvariant : Prop :=
  (∀ s t : State, wireFollows s → step s = .next t → wireFollows t) ∧
    ∀ s : State, wireFollows s → (s.dev.ep.intDisable = true ∨ s.dev.ep.power = .d3hot) → s.dev.ep.intaWire = false

/-- The invariants hold right after power-on. -/
def Obligations.ResetIsGood : Prop :=
  wireFollows State.reset ∧ memoryCanonical State.reset ∧ State.reset.pending = [] ∧ State.reset.dev.pwrgood = false ∧
    State.reset.dev.perstLow = true

/-- Power and resets gate every command: while PWRGOOD is low only the events of the rails act (R569); while PERST_N is low, and while a
thermal trip stands, only the always-on island acts (R509, R569). -/
def Obligations.HeldInReset : Prop :=
  (∀ (c : Instr) (s : State), s.dev.pwrgood = false → c.wf = true → atPower c = false → exec c s = .next s) ∧
    ∀ (c : Instr) (s : State), (s.dev.perstLow = true ∨ s.dev.pw.tripped = true) → s.dev.pwrgood = true → c.wf = true →
      alwaysOn c = false → exec c s = .next s

/-! ### The object dictionary and its transports -/

/-- A dictionary request by the mailbox, whatever it asks and whether its checks pass: it is served on the device as its doorbell left it,
and its reply completes in the mailbox (R39, R63). One statement for every row that is such a request. -/
def Obligations.MailboxRequest : Prop :=
  ∀ row ∈ requestRows, ∀ (s : State) (r : Request), ready (row .mailbox r) s → mailboxIdle s.dev → mailboxRequest r = r →
    let d := rung s.dev r
    (∀ o, d.checkRequest .mailbox r = .inr o →
      leads (row .mailbox r) s
        (let x := if r.opcode = 1 then d.performRead r o else if r.opcode = 2 then d.performWrite .mailbox r o else d.performDescribe r o
         x.1.completeMailbox 0 x.2)) ∧
      ∀ code, d.checkRequest .mailbox r = .inl code →
        leads (row .mailbox r) s (d.completeMailbox 0 (replyBytes r (d.statusWord code 0x01) [] []))

/-- The checks of R39 are made in its order, and the first that holds gives the code. -/
def Obligations.ChecksInOrder : Prop :=
  ∀ (d : Dev) (via : Via) (r : Request),
    (((¬(r.opcode = 1 ∨ r.opcode = 2 ∨ r.opcode = 3)) ∨ r.reserved ≠ 0 ∨ 2 ≤ r.flags ∨ (r.flags = 1 ∧ r.opcode ≠ 2)) →
      d.checkRequest via r = .inl 0x68) ∧
    (badOpcode r = false → Obj.ofNumber r.object = none → d.checkRequest via r = .inl 0x60) ∧
    ∀ o, badOpcode r = false → Obj.ofNumber r.object = some o →
      ((r.opcode ≠ 3 → r.count = 0 ∨ o.info.count < r.sub + r.count → d.checkRequest via r = .inl 0x61) ∧
       (r.opcode = 3 → r.count ≠ 1 ∨ o.info.fields.length < r.sub → d.checkRequest via r = .inl 0x61) ∧
       (badSubIndex r o = false →
         (r.opcode = 1 → o.info.access = .wo → d.checkRequest via r = .inl 0x63) ∧
         (r.opcode = 2 → o.info.access = .ro ∨ o.info.access = .rc ∨ o.info.type = .str → d.checkRequest via r = .inl 0x62) ∧
         (r.opcode = 2 → ¬(o.info.access = .ro ∨ o.info.access = .rc ∨ o.info.type = .str) →
           (d.writeDenied via o = true → d.checkRequest via r = .inl 0x67) ∧
           (d.writeDenied via o = false → d.blockRunning r o = true → d.checkRequest via r = .inl 0x64))) ∧
       (∀ p, d.checkRequest via r = .inr p → p = o ∧ badSubIndex r o = false ∧ badLength via r o = false ∧
         r.length ≤ largestPayload via ∧ replyLength r o ≤ largestPayload via))

/-- A write of one element by the mailbox that passes its checks: the block does what its chapter says with the value stored; a field
clamped raises CLAMPED and fills the clamp object; the reply carries the status word formed afterwards (R40 to R43, R47). -/
def Obligations.ObjectWrite : Prop :=
  ∀ row ∈ storeRows, ∀ (s : State) (r : Request), ready (row.row .mailbox r) s → mailboxIdle s.dev → mailboxRequest r = r →
    r.opcode = 2 → r.flags = 0 → r.count = 1 →
    let d := rung s.dev r
    d.checkRequest .mailbox r = .inr row.obj →
    let c := d.clampElem row.obj r.sub 0 (leNat (r.payload.take row.obj.info.size))
    let e := row.op d r.sub c.1 c.2.1
    let f := if c.2.2 = [] then e else (e.attend { bit := Bit.clamped, code := 1, area := row.obj.area }).keepClamps .mailbox r c.2.2
    leads (row.row .mailbox r) s
      (f.completeMailbox 0 (replyBytes r (f.resultWord (if c.2.2 = [] then 0 else 1) row.obj.area) [] c.2.2))

/-- The fields of a status word (R47), and the code a reply carries while a standing code holds (R52). -/
def Obligations.StatusWord : Prop :=
  ∀ (d : Dev) (code area : Nat), code < 256 → area < 256 →
    bits (d.statusWord code area) 0 8 = code ∧ bits (d.statusWord code area) 8 8 = d.attention.toNat ∧
      bits (d.statusWord code area) 16 8 = d.rd Reg.dictionaryAttentionLogHead % 256 ∧ bits (d.statusWord code area) 24 8 = area ∧
      (code ≠ 0 → d.standing code area = (code, area)) ∧
      (d.flag Reg.powerOpState_unreachable = true → d.standing 0 area = (0x50, 0x16)) ∧
      (d.flag Reg.powerOpState_unreachable = false → d.flag Reg.powerOpState_disagreement = true → d.standing 0 area = (0x51, 0x16)) ∧
      (d.flag Reg.powerOpState_unreachable = false → d.flag Reg.powerOpState_disagreement = false → d.standing 0 area = (0, area))

/-- An attention event (R53, R54): the bit is set, the log gets one entry at the head, and the bit's latest cause is that entry. What an acknowledgement does with one bit it names (R55). -/
def Obligations.AttentionEvent : Prop :=
  (∀ (d : Dev) (c : Cause), 8 ≤ c.bit → c.bit ≤ 15 →
     let h := d.rd Reg.dictionaryAttentionLogHead
     let e := d.record c
     e.attentionBit c.bit = true ∧ (∀ b, 8 ≤ b → b ≤ 15 → b ≠ c.bit → e.attentionBit b = d.attentionBit b) ∧
       e.rd Reg.dictionaryAttentionLogHead = (h + 1) % 2 ^ 32 ∧
       e.rd Reg.dictionaryAttentionLog_sequence (h % 256) = h ∧
       e.rd Reg.dictionaryAttentionLog_status (h % 256) = e.statusWord c.code c.area ∧
       e.rd Reg.dictionaryAttentionLog_bit (h % 256) = c.bit ∧
       e.rd Reg.dictionaryAttentionLog_kind (h % 256) = (if d.attentionBit c.bit then 2 else 1) ∧
       e.rd Reg.dictionaryAttentionLog_context (h % 256) = c.context ∧
       e.rd Reg.dictionaryAttentionLog_stream (h % 256) = c.stream ∧
       e.rd Reg.dictionaryAttentionLog_detail (h % 256) = c.detail % 65536 ∧
       e.rd Reg.dictionaryAttentionCause_sequence (c.bit - 8) = h ∧
       e.rd Reg.dictionaryAttentionCause_kind (c.bit - 8) = (if d.attentionBit c.bit then 2 else 1) ∧
       (∀ i off, i ≠ h % 256 → e.rd ⟨.dictionaryAttentionLog, off⟩ i = d.rd ⟨.dictionaryAttentionLog, off⟩ i) ∧
       (∀ i off, i ≠ c.bit - 8 → e.rd ⟨.dictionaryAttentionCause, off⟩ i = d.rd ⟨.dictionaryAttentionCause, off⟩ i) ∧
       ∀ o i off, o ≠ .dictionaryAttentionLog → o ≠ .dictionaryAttentionCause → o ≠ .dictionaryAttentionLogHead →
         e.rd ⟨o, off⟩ i = d.rd ⟨o, off⟩ i) ∧
  ∀ (d : Dev) (n b : Nat), 8 ≤ b → b ≤ 15 →
    (d.attentionBit b = true → d.rd Reg.dictionaryAttentionCause_sequence (b - 8) ≤ n → (d.lasting.any fun l => l.bit == b) = false →
      (b ≠ Bit.log ∨ d.logFull = false → (d.ackBit n b).attentionBit b = false)) ∧
    (d.attentionBit b = false ∨ n < d.rd Reg.dictionaryAttentionCause_sequence (b - 8) ∨ (d.lasting.any fun l => l.bit == b) = true →
      d.ackBit n b = d)

/-- The doorbell (R62, R63): an idle mailbox takes a copy of the frame and is busy; a busy one ignores the doorbell and sets overrun. The
state word reads, and its overrun bit reads once. -/
def Obligations.MailboxDoorbell : Prop :=
  (∀ s : State, s.dev.runs .mailboxDoorbell = true → s.dev.barOpen = true →
    ((s.dev.mailbox 0).busy = false → leads .mailboxDoorbell s
      (s.dev.setMailbox 0 { s.dev.mailbox 0 with busy := true, queued := some (s.dev.mailbox 0).frame })) ∧
    ((s.dev.mailbox 0).busy = true → leads .mailboxDoorbell s (s.dev.setMailbox 0 { s.dev.mailbox 0 with overrun := true }))) ∧
  (∀ (s : State) (m : Nat), ready (.mailboxStateRead m) s → s.dev.barOpen = true → s.dev.mailboxExists m = true →
    leads (.mailboxStateRead m) s
      ((s.dev.send (.readCompletion (leBytes 4 (b2n (s.dev.mailbox m).busy + 2 * b2n (s.dev.mailbox m).overrun +
        65536 * ((s.dev.mailbox m).doneTag % 65536))) false)).setMailbox m { s.dev.mailbox m with overrun := false })) ∧
  ∀ (s : State) (m : Nat), s.dev.barOpen = false →
    (s.dev.runs .mailboxDoorbell = true → leads .mailboxDoorbell s (s.dev.send .unsupportedRequest)) ∧
    (ready (.mailboxStateRead m) s → leads (.mailboxStateRead m) s (s.dev.send .unsupportedRequest))

/-- A dictionary datagram (R44, R64, R65): it waits while another transport's turn comes before it; performed for the lowest source element that admits it, its reply sent and kept among that element's
last four; answered from the kept reply when its port and tag match one; dropped and counted otherwise. -/
def Obligations.UdpDatagram : Prop :=
  ∀ (s : State) (port family source sourcePort : Nat) (data : List Byte),
    ready (.dictUdpDatagram port family source sourcePort data) s →
    s.dev.flag Reg.dictionaryUdpEnable = true → s.dev.portOn port = true →
    let d : Dev := { s.dev with dictWaiting := s.dev.dictWaiting.erase { port, family, source, sourcePort, data } }
    let own := d.rd Reg.dictionaryUdpPort
    (s.dev.sourceElement family source = none ∨ s.dev.dictReady = false ∨ data.length < 16 →
      leads (.dictUdpDatagram port family source sourcePort data) s (d.count Reg.dictionaryUdpDropped)) ∧
    ∀ e, s.dev.sourceElement family source = some e → s.dev.dictReady = true → 16 ≤ data.length →
      let r := parseRequest data
      let kept := d.kept.getD e []
      (d.inTurn 1 = false → leads (.dictUdpDatagram port family source sourcePort data) s
        { d with dictWaiting := d.dictWaiting ++ [{ port, family, source, sourcePort, data }] }) ∧
      (d.inTurn 1 = true → ∀ k, (kept.find? fun k => k.sourcePort == sourcePort && k.tag == r.tag) = some k →
        leads (.dictUdpDatagram port family source sourcePort data) s ((d.turned 1).sendUdp port source sourcePort own k.reply)) ∧
      (d.inTurn 1 = true → (kept.find? fun k => k.sourcePort == sourcePort && k.tag == r.tag) = none →
        let x := (d.turned 1).serve (.udp port family source sourcePort e) r
        (x.performed = true → leads (.dictUdpDatagram port family source sourcePort data) s
          (Dev.sendUdp { x.dev with kept := x.dev.kept.put e (({ sourcePort, tag := r.tag, reply := x.reply } :: kept).take 4) }
            port source sourcePort own x.reply)) ∧
        (x.performed = false → leads (.dictUdpDatagram port family source sourcePort data) s
          (x.dev.sendUdp port source sourcePort own x.reply)))

/-- CAN FD transfers (R44, R66, R67): a first segment opens a transfer, a middle one in order joins it, a last or only one performs the
request in its turn, one out of order discards the transfer with an abort frame, and so does silence of more than 312,500 ticks. -/
def Obligations.CanTransfers : Prop :=
  (∀ (s : State) (identifier : Nat) (data : List Byte), ready (.canRequestSegment identifier data) s → s.dev.canReady = true →
    identifier = s.dev.canIdentifier 1 →
    let d := s.dev
    let kind := byteAt data 0 / 64
    let sequence := byteAt data 0 % 64
    (d.canOpen = none → kind = 0 → sequence = 0 → leads (.canRequestSegment identifier data) s
      { d with canOpen := some { transfer := byteAt data 1, next := 1, data := data.drop 2, tick := d.now } }) ∧
    (∀ t, d.canOpen = some t → kind = 1 → t.transfer = byteAt data 1 → t.next % 64 = sequence → d.now ≤ t.tick + 312500 →
      leads (.canRequestSegment identifier data) s
        { d with canOpen := some { t with next := t.next + 1, data := t.data ++ data.drop 2, tick := d.now } }) ∧
    (∀ t, d.canOpen = some t → kind = 1 ∨ kind = 2 → t.transfer ≠ byteAt data 1 ∨ t.next % 64 ≠ sequence ∨ t.tick + 312500 < d.now →
      leads (.canRequestSegment identifier data) s
        (Dev.queueSegment { d with canOpen := none } 3 (leBytes 4 (d.statusWord 0x69 0x01) ++ leBytes 1 t.transfer))) ∧
    (d.canOpen = none → kind = 3 → sequence = 0 → 16 ≤ (trimFrame 0 (data.drop 2)).length →
      let r := parseRequest (trimFrame 0 (data.drop 2))
      let w : Dev := { d with canWaiting := d.canWaiting.erase r }
      let x := (w.turned 2).serve .can r
      (w.inTurn 2 = true → leads (.canRequestSegment identifier data) s
        ((canSegmentsOf r.tag (ceilDiv x.reply.length 62) 0 x.reply).foldl (fun d b => d.queueSegment 2 b) x.dev)) ∧
      (w.inTurn 2 = false → leads (.canRequestSegment identifier data) s { w with canWaiting := w.canWaiting ++ [r] }))) ∧
  (∀ (d : Dev) (t : Nat), d.inTurn t = true ↔ ∀ k, k < (t + 3 - d.dictTurn) % 3 → d.requestWaits ((d.dictTurn + k) % 3) = false) ∧
  ∀ (s : State) (t : CanTransfer), s.dev.runs .canSegmentTimeout = true → s.dev.canOpen = some t → t.tick + 312500 < s.dev.now →
    leads .canSegmentTimeout s
      (Dev.queueSegment { s.dev with canOpen := none } 3 (leBytes 4 (s.dev.statusWord 0x69 0x01) ++ leBytes 1 t.transfer))

/-! ### The host endpoint -/

/-- The doorbells of a queue (R73, R81, R93). -/
def Obligations.QueueDoorbells : Prop :=
  ∀ (s : State) (q v : Nat),
    let d := s.dev
    let x := d.queue q
    let w := v % 65536
    (ready (.sqTail q v) s →
      (d.barOpen = false → leads (.sqTail q v) s (d.send .unsupportedRequest)) ∧
      (d.barOpen = true → d.ep.firmwareReady = false → leads (.sqTail q v) s d) ∧
      (d.barOpen = true → d.ep.firmwareReady = true →
        (d.flag Reg.hostQueueEnable q = true → w < d.sqSize q → leads (.sqTail q v) s (d.setQueue q { x with sqTail := w })) ∧
        (d.flag Reg.hostQueueEnable q = false ∨ d.sqSize q ≤ w → leads (.sqTail q v) s (d.setQueue q { x with badDoorbell := true })))) ∧
    (ready (.cqHead q v) s →
      (d.barOpen = false → leads (.cqHead q v) s (d.send .unsupportedRequest)) ∧
      (d.barOpen = true → d.ep.firmwareReady = false → leads (.cqHead q v) s d) ∧
      (d.barOpen = true → d.ep.firmwareReady = true →
        (d.flag Reg.hostQueueEnable q = true → w < d.cqSize q → leads (.cqHead q v) s
          ((d.setQueue q { x with cqHead := w, waits := x.waits.drop ((w + d.cqSize q - x.cqHead) % d.cqSize q) }).updatePending q)) ∧
        (d.flag Reg.hostQueueEnable q = false ∨ d.cqSize q ≤ w → leads (.cqHead q v) s (d.setQueue q { x with badDoorbell := true }))))

/-- Fetching (R69, R79, R83, R84): the queue whose turn it is gives its next entry, and a bad command completes at once; another's host
reads are issued while the limit allows, which changes nothing but which reads are issued. -/
def Obligations.CommandFetch : Prop :=
  (∀ (s : State) (q : Nat) (entry : List Byte), ready (.commandFetch q entry) s →
    let d := s.dev
    let x := d.queue q
    let f : Fetched := { order := d.fetchCount, index := x.sqHead, entry }
    let run := if d.fetchRun < 4 ∧ d.fetchTurn = q then d.fetchRun + 1 else 1
    let e := Dev.setQueue { d with fetchCount := d.fetchCount + 1, fetchTurn := q, fetchRun := run } q
      { x with sqHead := (x.sqHead + 1) % d.sqSize q, inflight := x.inflight ++ [f] }
    (d.nextFetch = some q →
      (badCommand entry = false → leads (.commandFetch q entry) s e.issueReads) ∧
      (badCommand entry = true → leads (.commandFetch q entry) s (e.complete q f.index 0x83 0x02)) ∧
      d.ep.busMaster = true ∧ d.ep.power = .d0 ∧ d.flag Reg.hostQueueEnable q = true ∧ x.sqHead ≠ x.sqTail ∧
      x.waits.length + x.inflight.length < d.cqSize q ∧ ∀ b ∈ d.held, b.parked = true → b.ringDone = true) ∧
    (d.nextFetch ≠ some q → leads (.commandFetch q entry) s d)) ∧
  ∀ d : Dev, d.issueReads.regs = d.regs ∧ d.issueReads.sent = d.sent ∧ d.issueReads.mem = d.mem ∧ d.issueReads.ep = d.ep ∧
    (d.canMaster = false → d.issueReads = d) ∧
    ∀ q, (d.issueReads.queue q).inflight.map (fun f => (f.index, f.entry, f.data, f.done)) =
      (d.queue q).inflight.map fun f => (f.index, f.entry, f.data, f.done)

/-- The completion record of a command (R47, R80, R84, R91): written at once when no earlier command of its queue is still to complete and
the device may write host memory; held otherwise. A queue with an unconsumed completion that has waited its delay becomes pending (R93). -/
def Obligations.CompletionRecord : Prop :=
  (∀ (d : Dev) (q code area detail : Nat) (f : Fetched), f.done = none →
     let x := d.queue q
     let w := d.resultWord code area
     let tail := (x.cqTail + 1) % d.cqSize q
     (x.inflight = [f] → d.canMaster = true →
       d.complete q f.index code area detail =
         (Dev.setQueue
           (d.send (.hostWrite (d.rd Reg.hostQueueConfig_cqPage q * 4096 + x.cqTail * 16)
             (leBytes 4 w ++ leBytes 2 f.tag ++ leBytes 2 x.sqHead ++ leBytes 4 (detail % 2 ^ 32) ++ [0, 0, 0, if x.phase then 1 else 0]))) q
           { x with inflight := [], cqTail := tail, phase := (if tail = 0 then !x.phase else x.phase), waits := x.waits ++ [d.now], draining := false }).updatePending q) ∧
     (x.inflight = [f] → d.canMaster = false →
       d.complete q f.index code area detail = d.setQueue q { x with inflight := [{ f with done := some (w, detail % 2 ^ 32) }] }) ∧
     ∀ g, x.inflight = [g, f] → g.done = none → g.index ≠ f.index →
       (d.complete q f.index code area detail).sent = d.sent ∧
         ((d.complete q f.index code area detail).queue q).inflight = [g, { f with done := some (w, detail % 2 ^ 32) }]) ∧
  (∀ (s : State) (q : Nat), ready (.cqDelayExpiry q) s →
    let x := s.dev.queue q
    let delay := s.dev.rd Reg.hostQueueConfig_cqDelay q
    (∀ t rest, x.waits = t :: rest → delay ≠ 0 → t + delay ≤ s.dev.now →
      leads (.cqDelayExpiry q) s (s.dev.setQueue q { x with pending := true })) ∧
    (x.waits = [] ∨ delay = 0 ∨ (∃ t rest, x.waits = t :: rest ∧ s.dev.now < t + delay) → leads (.cqDelayExpiry q) s s.dev)) ∧
  ∀ (d : Dev) (q : Nat),
    let x := d.queue q
    (x.waits ≠ [] → d.rd Reg.hostQueueConfig_cqThreshold q ≤ x.waits.length → ((d.updatePending q).queue q).pending = true) ∧
    (x.waits = [] → x.cqHead = x.cqTail → ((d.updatePending q).queue q).pending = false)

/-- BAR0 (R62, R72, R92). -/
def Obligations.BarRegisters : Prop :=
  (∀ (s : State) (w : Bool) (o n : Nat), ready (.bar0BadAccess w o n) s →
    (s.dev.barOpen = false → leads (.bar0BadAccess w o n) s (s.dev.send .unsupportedRequest)) ∧
    (s.dev.barOpen = true → s.dev.bar0Known o = true → s.dev.accepted w o n = false →
      leads (.bar0BadAccess w o n) s
        (if w then s.dev.count Reg.hostBar0BadAccess
         else (s.dev.count Reg.hostBar0BadAccess).send (.readCompletion (List.replicate (min n 4096) 0#8) false)))) ∧
  (∀ (s : State) (o : Nat) (data : List Byte) (p : Bool), ready (.bar0RegisterWrite o data p) s →
    (s.dev.barOpen = false → leads (.bar0RegisterWrite o data p) s (s.dev.send .unsupportedRequest)) ∧
    (s.dev.barOpen = true → p = true →
      leads (.bar0RegisterWrite o data p) s ((s.dev.count Reg.hostBar0BadAccess).logUncorrectable aerPoisoned 0)) ∧
    (s.dev.barOpen = true → p = false →
      (o = 0x10004 → data.length = 4 →
        leads (.bar0RegisterWrite o data p) s { s.dev with ep := { s.dev.ep with intEnable := leNat data % 8 } }) ∧
      (o = 0x10008 → data.length = 4 →
        leads (.bar0RegisterWrite o data p) s { s.dev with ep := { s.dev.ep with genSeen := leNat data } }) ∧
      ∀ m k, s.dev.inRequest o data.length = some (m, k) → leads (.bar0RegisterWrite o data p) s (s.dev.writeRequest m k data))) ∧
  ∀ (s : State) (v : Nat), ready (.mailboxClear v) s →
    (s.dev.barOpen = false → leads (.mailboxClear v) s (s.dev.send .unsupportedRequest)) ∧
    (s.dev.barOpen = true → v.testBit 2 = true →
      leads (.mailboxClear v) s { s.dev with ep := { s.dev.ep with mailboxPending := false } }) ∧
    (s.dev.barOpen = true → v.testBit 2 = false → leads (.mailboxClear v) s s.dev)

/-- BAR2 (R74, R75, R101): device memory as the host reads and writes it. -/
def Obligations.BarMemory : Prop :=
  (∀ (s : State) (o n : Nat) (x : List EccEvent), ready (.bar2Read o n x) s → s.dev.barOpen = true →
    let d := s.dev.eccAndSlots x
    (s.dev.ep.memoryReady = false → leads (.bar2Read o n x) s (s.dev.send (.readCompletion (List.replicate n 0#8) false))) ∧
    (s.dev.ep.memoryReady = true → (∀ i, i < n → d.mapped (o + i) = true → d.poisoned (o + i) 1 = false) →
      leads (.bar2Read o n x) s (d.send (.readCompletion
        ((List.range n).map fun i => if d.mapped (o + i) then d.getByte (o + i) else 0#8) false)))) ∧
  (∀ (s : State) (o : Nat) (data : List Byte), ready (.bar2Write o data false) s → s.dev.barOpen = true →
    (s.dev.flag Reg.hostBar2WriteEnable = false → leads (.bar2Write o data false) s (s.dev.count Reg.hostBar2Discarded)) ∧
    (s.dev.flag Reg.hostBar2WriteEnable = true → s.dev.ep.memoryReady = true → data ≠ [] → o + data.length ≤ lpddrEnd →
      leads (.bar2Write o data false) s (s.dev.store o data))) ∧
  ∀ (s t : State) (o : Nat) (data : List Byte) (p : Bool), memoryCanonical s → exec (.bar2Write o data p) s = .next t →
    memoryCanonical t ∧ ∀ a, a < o ∨ o + data.length ≤ a → t.dev.getByte a = s.dev.getByte a

/-- Mastering ends (R90, R99): LINK is raised, and every command with a host read still to issue fails. -/
def Obligations.MasteringEnds : Prop :=
  (∀ s : State, ready .busMasterEnableClear s → s.dev.cfgServed = true →
    let d := s.dev.served
    (d.ep.busMaster = false → leads .busMasterEnableClear s d) ∧
    (d.ep.busMaster = true → (∀ e ∈ d.queues, e.2.inflight.filter Fetched.unissued = []) →
      leads .busMasterEnableClear s (Dev.attend { d with ep := { d.ep with busMaster := false } } { bit := Bit.link, code := 0x33, area := 0x02, detail := 1 }))) ∧
  (∀ s : State, ready .d3hotEntry s → s.dev.cfgServed = true → s.dev.ep.power = .d0 →
    let d := s.dev.served
    (∀ e ∈ d.queues, e.2.inflight.filter Fetched.unissued = []) →
      leads .d3hotEntry s (Dev.attend { d with ep := { d.ep with power := .d3hot } } { bit := Bit.link, code := 0x33, area := 0x02, detail := 3 })) ∧
  ∀ (c : Instr) (s : State), c = .busMasterEnableClear ∧ s.dev.ep.busMaster = true ∨ c = .d3hotEntry ∧ s.dev.ep.power = .d0 →
    ready c s → s.dev.cfgServed = true → yields c s fun e =>
      e.canMaster = false ∧ (∀ a b, .hostWrite a b ∈ e.sent → .hostWrite a b ∈ s.dev.sent) ∧
      ∀ q f, f ∈ (s.dev.queue q).inflight → f.unissued = true → ∃ g ∈ (e.queue q).inflight, g.index = f.index ∧
        g.done.any (fun r => bits r.1 0 8 == 0x33 && bits r.1 24 8 == 0x02) = true

/-- Mastering resumes (R91, R84): the records held are written, in the order of submission; the rows that only set a bit. -/
def Obligations.MasteringResumes : Prop :=
  (∀ s : State, ready .busMasterEnableSet s → s.dev.cfgServed = true →
    (s.dev.ep.busMaster = true → leads .busMasterEnableSet s s.dev.served) ∧
    (s.dev.ep.busMaster = false → leads .busMasterEnableSet s
      ((List.range 64).foldl (fun d q => d.flushQueue q) { s.dev.served with
        ep := { s.dev.served.ep with busMaster := true }, held := s.dev.held.map fun b => { b with parked := !b.ringDone } }))) ∧
  (∀ s : State, ready .interruptDisableSet s → s.dev.cfgServed = true →
    leads .interruptDisableSet s { s.dev.served with ep := { s.dev.served.ep with intDisable := true } } ∧
    yields .interruptDisableSet s fun e => e.ep.intaWire = false) ∧
  ∀ c ∈ [Instr.busMasterEnableClear, .busMasterEnableSet, .interruptDisableSet, .d3hotEntry, .d3hotToD0, .functionLevelReset],
    ∀ s : State, s.dev.runs c = true → s.dev.cfgServed = false → leads c s s.dev

/-- Data read from the host (R101). -/
def Obligations.HostReads : Prop :=
  (∀ (s : State) (q i : Nat) (f : Fetched), s.dev.reader q i = some f →
    (∀ bytes, ready (.hostReadCompletion q i (.data bytes)) s → leads (.hostReadCompletion q i (.data bytes)) s
      (s.dev.updFetched q i fun g => { g with data := (g.data ++ bytes).take f.issued }).issueReads) ∧
    (∀ r, r = .unsupported ∨ r = .aborted → ready (.hostReadCompletion q i r) s →
      leads (.hostReadCompletion q i r) s (s.dev.complete q i 0x80 0x02).issueReads) ∧
    (ready (.hostReadCompletion q i .poisoned) s →
      leads (.hostReadCompletion q i .poisoned) s ((s.dev.logUncorrectable aerPoisoned 0x81).complete q i 0x81 0x02).issueReads) ∧
    (ready (.completionTimeout q i) s →
      leads (.completionTimeout q i) s ((s.dev.logUncorrectable aerTimeout 0x80).complete q i 0x80 0x02).issueReads)) ∧
  (∀ (s : State) (q i : Nat) (r : HostReadResult), s.dev.reader q i = none →
    (ready (.hostReadCompletion q i r) s → r ≠ .poisoned ∨ s.dev.fetchingAt q i = false → leads (.hostReadCompletion q i r) s s.dev) ∧
    (ready (.hostReadCompletion q i .poisoned) s → s.dev.fetchingAt q i = true →
      leads (.hostReadCompletion q i .poisoned) s (s.dev.logUncorrectable aerPoisoned 0x81)) ∧
    (ready (.completionTimeout q i) s → leads (.completionTimeout q i) s
      (if s.dev.fetchingAt q i then s.dev.logUncorrectable aerTimeout 0x80 else s.dev))) ∧
  ∀ (d : Dev) (error code : Nat),
    let fatal := (d.cfgReg .aerUncorrectableSeverity 0x00462030).testBit error
    let e := d.logUncorrectable error code
    e.ep.aerUncorrectable = d.ep.aerUncorrectable ||| 2 ^ error ∧ e.attentionBit Bit.link = true ∧
      (e.sent = d.sent ∨ e.sent = .aerMessage fatal error :: d.sent) ∧
      ((d.cfgReg .aerUncorrectableMask 0x00400000).testBit error = true → e.sent = d.sent)

/-- The link (R96, R101), and configuration requests (R69, R98). -/
def Obligations.LinkAndConfiguration : Prop :=
  (∀ (s : State) (rate width : Nat) (flit : Bool), ready (.pcieLinkTrained rate width flit) s →
    let e : Dev := { s.dev with ep := { s.dev.ep with linkDownPending := s.dev.ep.linkDownPending && s.dev.boot.heldReset.isSome } }
    let t : Dev := { e.setLink rate width flit with ep := { e.ep with linkTrained := true, trainedBefore := true } }
    leads (.pcieLinkTrained rate width flit) s
      (if e.ep.trainedBefore = true ∧ ¬(e.rd Reg.hostLinkState_rate = rate ∧ e.rd Reg.hostLinkState_width = width)
       then t.attend { bit := Bit.link, area := 0x02 } else t)) ∧
  (∀ (s : State) (rate width : Nat) (flit : Bool), ready (.linkRateChange rate width flit) s →
    (s.dev.ep.linkTrained = false → leads (.linkRateChange rate width flit) s s.dev) ∧
    (s.dev.ep.linkTrained = true → leads (.linkRateChange rate width flit) s (s.dev.trainLink rate width flit))) ∧
  (∀ (s : State) (x : CfgRequest), ready (.configurationRequest x) s →
    (s.dev.cfgServed = false → leads (.configurationRequest x) s (s.dev.send .configRetry)) ∧
    (s.dev.cfgServed = true →
      (∀ r, x = .read r → leads (.configurationRequest x) s (s.dev.served.send (.configCompletion (s.dev.cfgRead r)))) ∧
      (∀ r v, x = .write r v → (r ∈ [CfgReg.vendorId, .deviceId, .revisionId, .classCode, .subsystemVendorId, .subsystemId, .interruptPin,
        .serialNumber, .pmCapabilities, .noSoftReset, .deviceCapabilities, .linkCapabilities, .linkStatus, .deviceCapabilities2] ∨
        ∃ k, r = .capability k ∨ r = .extendedCapability k) →
        leads (.configurationRequest x) s (s.dev.served.send (.configCompletion 0))) ∧
      ∀ v, x = .write .status v → yields (.configurationRequest x) s fun e =>
        e.cfgReg .status 0 = s.dev.cfgReg .status 0 &&& (0xFFFF ^^^ (v % 65536)) ∧ .configCompletion 0 ∈ e.sent)) ∧
  (∀ (d : Dev) (v : Nat), v < 65536 → bits (d.deviceControlAfter v) 5 3 ≤ 2 ∨ bits (d.deviceControlAfter v) 5 3 = bits (d.cfgReg .deviceControl 0x2000) 5 3) ∧
  ∀ d : Dev, d.cfgRead .vendorId = 0x1F3C ∧ d.cfgRead .deviceId = 0x9640 ∧ d.cfgRead .revisionId = 0xB1 ∧ d.cfgRead .classCode = 0x120000 ∧
    d.cfgRead .noSoftReset = 0 ∧ bits (d.cfgRead .deviceCapabilities) 0 3 = 2 ∧ (d.cfgRead .deviceCapabilities).testBit 28 = true ∧
    bits (d.cfgRead .linkCapabilities) 0 4 = 6 ∧ bits (d.cfgRead .linkCapabilities) 4 6 = 16 ∧ bits (d.cfgRead .linkCapabilities) 10 2 = 0

/-- What a hot or function-level reset does (R90, R97 to R99, R598), for a device with no staging command, no firmware switch and an empty
value list. -/
def Obligations.ResetTearsDown : Prop :=
  (∀ (c : Instr) (kind : Nat) (s : State), ready c s →
    (c = .hotReset ∧ kind = 2 ∨ c = .dlDown ∧ kind = 2 ∨ c = .functionLevelReset ∧ kind = 3 ∧ s.dev.cfgServed = true ∨
      c = .d3hotToD0 ∧ kind = 4 ∧ s.dev.cfgServed = true ∧ s.dev.ep.power = .d3hot) →
    s.dev.boot.switching = none → s.dev.boot.job = none → s.dev.valueList = [] →
    yields c s fun e =>
      (e.ep.busMaster = false ∧ e.ep.memorySpace = false ∧ e.ep.intDisable = false ∧ e.ep.power = .d0 ∧ e.ep.intEnable = 0 ∧
        e.ep.genSeen = 0 ∧ e.ep.mailboxPending = false ∧ e.ep.intaWire = false ∧ e.ep.lastReset = kind ∧
        e.ep.resetSequence = (s.dev.ep.resetSequence + 1) % 65536 ∧ e.ep.firmwareReady = s.dev.ep.firmwareReady ∧
        e.ep.selftestDone = s.dev.ep.selftestDone ∧ e.ep.memoryReady = s.dev.ep.memoryReady ∧
        e.ep.linkDownPending = (s.dev.ep.linkDownPending || c == .dlDown)) ∧
      (e.queues = [] ∧ e.streams = [] ∧ e.clips = [] ∧ e.trackSets = [] ∧ e.pools = [] ∧ e.held = [] ∧ e.waiters = [] ∧ e.frames = [] ∧
        e.handedUnits = [] ∧ e.contexts = s.dev.contexts.filter (fun x => x.1 == 0)) ∧
      (e.mem = [] ∧ e.memFree ≠ s.dev.memFree ∧ e.memFree ≠ none ∧ e.poison = s.dev.poison ∧ e.lp = { s.dev.lp with logWrapped := kind != 2 && s.dev.lp.logWrapped } ∧ e.pw = s.dev.pw ∧
        e.ledger = s.dev.ledger ∧ e.boot = s.dev.boot) ∧
      (∀ o i off, resetObject o = true → o ≠ .junctionPortConfig → e.rd ⟨o, off⟩ i = o.dfltAt off) ∧
      (∀ o i off, o.info.access = .rw ∨ o.info.access = .rws → o.area ∈ [0x15, 0x16, 0x17, 0x18, 0x1A, 0x1B] → o ≠ .lpddr6LogRead →
        e.rd ⟨o, off⟩ i = s.dev.rd ⟨o, off⟩ i) ∧
      (kind = 2 → e.rd Reg.dictionaryAttentionLogRead = 0 ∧ e.rd Reg.lpddr6LogRead = 0) ∧
      (kind = 2 → (s.dev.ep.linkDownPending || c == .dlDown) = false → e.attention = 0 ∧ e.rd Reg.dictionaryAttentionLogHead = 0) ∧
      (kind = 2 → (s.dev.ep.linkDownPending || c == .dlDown) = true → e.attentionBit Bit.link = true ∧
        e.rd Reg.dictionaryAttentionLogHead = 1 ∧ e.rd Reg.dictionaryAttentionLog_bit 0 = Bit.link ∧
        bits (e.rd Reg.dictionaryAttentionLog_status 0) 0 8 = 0x32) ∧
      (kind ≠ 2 → s.dev.ep.busMaster = false → e.attention = s.dev.attention)) ∧
  ∀ s : State, ready .dlDown s → s.dev.boot.switching = none → s.dev.boot.job = none → s.dev.valueList = [] →
    s.dev.rd Reg.hostLinkDowns + 1 < 2 ^ Reg.hostLinkDowns.width →
    yields .dlDown s fun e => e.rd Reg.hostLinkDowns = s.dev.rd Reg.hostLinkDowns + 1

/-- The reset report (R100), and the reset that waits for a firmware switch (R593). -/
def Obligations.ResetReport : Prop :=
  (∀ (c : Instr) (kind : Nat) (s : State), ready c s →
    c = .hotReset ∧ kind = 2 ∨ c = .functionLevelReset ∧ kind = 3 ∧ s.dev.cfgServed = true →
    s.dev.boot.switching = none → s.dev.boot.job = none → s.dev.valueList = [] →
    yields c s fun e => (∀ a b, .hostWrite a b ∈ e.sent → .hostWrite a b ∈ s.dev.sent) ∧ ∀ q, q < 64 →
      (∀ f fs, (s.dev.queue q).inflight = f :: fs →
        e.rd Reg.hostQueueResetReport_first q = f.index ∧ e.rd Reg.hostQueueResetReport_count q = fs.length + 1 ∧
        bits (e.rd Reg.hostQueueResetReport_status q) 0 8 = 0x82 ∧ bits (e.rd Reg.hostQueueResetReport_status q) 24 8 = 0x02 ∧
        e.rd Reg.hostQueueResetReport_kind q = kind ∧
        e.rd Reg.hostQueueResetReport_sequence q = (s.dev.ep.resetSequence + 1) % 65536) ∧
      ((s.dev.queue q).inflight = [] → ∀ off, e.rd ⟨.hostQueueResetReport, off⟩ q = s.dev.rd ⟨.hostQueueResetReport, off⟩ q)) ∧
  ∀ (c : Instr) (s : State), c = .hotReset ∨ c = .functionLevelReset ∧ s.dev.cfgServed = true → ready c s →
    s.dev.boot.switching.isSome = true → yields c s fun e =>
      e.ep.busMaster = false ∧ e.ep.memorySpace = false ∧ e.boot.heldReset.isSome = true ∧ e.cfgServed = false ∧
      e.queues = s.dev.queues ∧ e.contexts = s.dev.contexts ∧ e.streams = s.dev.streams ∧ e.mem = s.dev.mem ∧ e.memFree = s.dev.memFree ∧
      ∀ o i off, o ≠ .dictionaryAttentionLog → o ≠ .dictionaryAttentionCause → o ≠ .dictionaryAttentionLogHead →
        e.rd ⟨o, off⟩ i = s.dev.rd ⟨o, off⟩ i

/-- Fundamental reset and power (R94, R97, R509, R569, R570). -/
def Obligations.FundamentalReset : Prop :=
  (∀ s : State, ready .fundamentalReset s → yields .fundamentalReset s fun e =>
    (∀ r i, ¬(r = Reg.pinsStraps ∧ i = 0) → e.rd r i = r.obj.dfltAt r.off) ∧ e.rd Reg.pinsStraps = s.dev.rd Reg.pinsStraps ∧
    e.queues = [] ∧ e.contexts = [] ∧ e.streams = [] ∧ e.pools = [] ∧ e.attention = 0 ∧ e.lasting = [] ∧ e.ep = {} ∧ e.lp = {} ∧
    e.pw = { tripped := s.dev.pw.tripped } ∧ e.ledger.half0 = s.dev.ledger.half0 ∧ e.ledger.half1 = s.dev.ledger.half1 ∧
    (s.dev.boot.job = none → e.boot.copy0 = s.dev.boot.copy0 ∧ e.boot.copy1 = s.dev.boot.copy1 ∧ e.boot.slotA = s.dev.boot.slotA ∧
      e.boot.slotB = s.dev.boot.slotB) ∧
    e.mem = [] ∧ e.memFree ≠ s.dev.memFree ∧ e.poison = [] ∧ e.now = s.dev.now ∧ e.pwrgood = true ∧ e.perstLow = false) ∧
  (∀ (s : State) (a b : Bool), ready (.pwrgoodRise a b) s →
    (s.dev.pwrgood = false → leads (.pwrgoodRise a b) s
      (Dev.wr { s.dev with pwrgood := true, perstLow := true, now := 0 } Reg.pinsStraps 0 (b2n a + 2 * b2n b))) ∧
    (s.dev.pwrgood = true → leads (.pwrgoodRise a b) s s.dev)) ∧
  ∀ s : State,
    (ready .pwrgoodFall s → s.dev.pwrgood = true → yields .pwrgoodFall s fun e =>
      e.pwrgood = false ∧ e.regs = [] ∧ e.pw = { tripped := s.dev.pw.tripped } ∧ e.ledger.half0 = s.dev.ledger.half0 ∧
      e.boot.slotA = (s.dev.boot.settled (s.dev.rd Reg.bootConfig_copy)).slotA ∧ e.ep = {}) ∧
    (ready .vddAonRemoval s → yields .vddAonRemoval s fun e => e.pwrgood = false ∧ e.regs = [] ∧ e.pw = {} ∧
      e.ledger.half0 = s.dev.ledger.half0 ∧ e.ep = {})

/-! ### The Junction -/

/-- A frame received on a port (R104, R107, R110). -/
def Obligations.FrameReceived : Prop :=
  (∀ (s : State) (p : Nat) (fcsOk beyond : Bool) (f : List Byte), ready (.ethFrameReceived p fcsOk beyond f) s →
    let c := Instr.ethFrameReceived p fcsOk beyond f
    let d := s.dev.count Reg.junctionPortCounters_received p
    let h := parseEth f
    let mine := d.acceptsMac p h.dst = true ∧ h.vlan.getD 0 = d.rd Reg.junctionPortConfig_vlan p
    (s.dev.portOn p = false → leads c s s.dev) ∧
    (s.dev.portOn p = true →
      (beyond = true → leads c s (d.count Reg.junctionPortCounters_droppedAtRate p)) ∧
      (beyond = false → fcsOk = false → leads c s (d.count Reg.junctionPortCounters_badFcs p)) ∧
      (beyond = false → fcsOk = true → ¬mine → leads c s (d.count Reg.junctionPortCounters_notAddressed p)) ∧
      (beyond = false → fcsOk = true → mine → h.type = 0x8808 → leads c s d) ∧
      (beyond = false → fcsOk = true → h.type ≠ 0x8808 → mine →
        (h.type = 0x0806 → leads c s (d.arp p h.payload)) ∧
        (h.type ≠ 0x0806 → parseIp h.type h.payload = none → leads c s d) ∧
        ∀ k, h.type ≠ 0x0806 → parseIp h.type h.payload = some k →
          (k.fragment = true → leads c s (d.count Reg.junctionPortCounters_fragments p)) ∧
          (k.fragment = false → k.proto = 17 → udpChecksumBad k = true → leads c s (d.count Reg.junctionPortCounters_checksumErrors p)) ∧
          (k.fragment = false → k.proto = 17 → udpChecksumBad k = false → leads c s (d.takeDatagram p k)) ∧
          (k.fragment = false → k.proto = 6 → leads c s (d.count Reg.junctionPortCounters_unbound p)) ∧
          (k.fragment = false → k.proto ≠ 17 → k.proto ≠ 6 → leads c s (d.control p h.src k))))) ∧
  ∀ (s t : State) (p : Nat) (fcsOk beyond : Bool) (f : List Byte), exec (.ethFrameReceived p fcsOk beyond f) s = .next t →
    t.dev.mem = s.dev.mem ∧ t.dev.memFree = s.dev.memFree ∧ t.dev.queues = s.dev.queues ∧ t.dev.contexts = s.dev.contexts ∧
      t.dev.handedUnits = s.dev.handedUnits

/-- Which stream a packet goes to (R110, R111), and the order of packets (R121, R124, R125). -/
def Obligations.PacketsOfAStream : Prop :=
  (∀ (d : Dev) (p : Nat) (k : IpPacket),
    let data := (k.payload.take (be k.payload 4 2)).drop 8
    let forDictionary := d.flag Reg.dictionaryUdpEnable = true ∧ ((d.portAddresses p).any fun a => a.2 == k.dst) = true ∧
      be k.payload 2 2 = d.rd Reg.dictionaryUdpPort
    let fits := (List.range 1024).filter (d.datagramFits p k)
    (forDictionary → (d.takeDatagram p k).streams = d.streams ∧ (d.takeDatagram p k).regs = d.regs ∧
      (d.takeDatagram p k).dictWaiting.length = d.dictWaiting.length + 1) ∧
    (¬forDictionary → isRtcp data = true ∨ parseRtp data = none ∨ fits = [] → d.takeDatagram p k = d.count Reg.junctionPortCounters_unbound p) ∧
    (∀ r s, ¬forDictionary → isRtcp data = false → parseRtp data = some r → s ∈ fits → d.ssrcFits s r = true →
      (∀ n ∈ fits, n < s → d.ssrcFits n r = false) →
      (d.payloadFits s r = false → d.takeDatagram p k = d.count Reg.junctionStreamCounters_wrongSsrc s) ∧
      (d.payloadFits s r = true → d.takeDatagram p k = d.takeRtp s r)) ∧
    ∀ r s rest, ¬forDictionary → isRtcp data = false → parseRtp data = some r → fits = s :: rest → (∀ n ∈ fits, d.ssrcFits n r = false) →
      d.takeDatagram p k = d.count Reg.junctionStreamCounters_wrongSsrc s) ∧
  (∀ (d : Dev) (s seq : Nat) (p : HeldPacket),
    let w := (d.stream s).window
    let e := w.extend seq
    ¬((w.highest : Int) + 3000 < e) → ¬(e + 100 < (w.highest : Int) ∧ e < (w.next : Int)) →
    ((w.held.find? e.toNat).isSome = true ∨ w.gone.contains e.toNat = true →
      d.placePacket s seq p = d.count Reg.junctionStreamCounters_duplicate s) ∧
    ((w.held.find? e.toNat).isSome = false → w.gone.contains e.toNat = false → e.toNat < w.next ∨ w.losses.contains e.toNat = true →
      d.placePacket s seq p = d.count Reg.junctionStreamCounters_late s)) ∧
  ∀ (s : State) (n g : Nat), ready (.gapTimerExpiry n g) s →
    let w := (s.dev.stream n).window
    let due := ∃ e ∈ w.gaps, e.1 = g ∧ e.2 + s.dev.rd Reg.junctionStreamConfig_gapTicks n ≤ s.dev.now
    (due → leads (.gapTimerExpiry n g) s (s.dev.withWindow n (w.lose g)) ∧ g ∈ (w.lose g).losses ∧ ∀ e ∈ (w.lose g).gaps, e.1 ≠ g) ∧
    (¬due → leads (.gapTimerExpiry n g) s s.dev)

/-- A unit handed on (R123, R126, R128, R129, R131). -/
def Obligations.UnitHandedOn : Prop :=
  ∀ (s : State) (n : Nat), ready (.auHandOff n) s →
    let d := s.dev
    let x := d.stream n
    ((x.ready = [] ∨ x.taking = false) → leads (.auHandOff n) s d) ∧
    ∀ u rest, x.ready = u :: rest → x.taking = true →
      let t := u.timestamp.getD 0
      let y : Stream := { x with
        ready := rest
        wraps := if x.anyTimestamp && u.timestamp.isSome && wrapped u.kind x.lastTimestamp t then x.wraps + 1 else x.wraps
        anyTimestamp := x.anyTimestamp || u.timestamp.isSome
        lastTimestamp := u.timestamp.getD x.lastTimestamp }
      let limit := d.rd Reg.junctionStreamConfig_maxAuKib n * 1024
      let pool := d.rd Reg.junctionAuPool
      let asked := ((d.setStream n { x with ready := rest }).setStream n y).alloc pool limit n
      (x.phase = .discarding → u.key = false →
        leads (.auHandOff n) s (((((d.setStream n { x with ready := rest }).setStream n y).setStream n
          { y with sequence := x.sequence + 1 }).count Reg.junctionStreamCounters_discarded n))) ∧
      (x.phase ≠ .discarding ∨ u.key = true → u.key = false ∨ x.claimed = true → d.rd Reg.junctionStreamConfig_ringMib n = 0 →
        memoryCanonical s →
        (∀ a, asked.1 = .ok a → memoryCanonical { s with dev := asked.2 } → asked.2.stream n = y →
          let data := (u.parts.flatten).take limit
          let cut := limit < u.parts.flatten.length
          yields (.auHandOff n) s fun e => ∃ au, e.handedUnits = asked.2.handedUnits ++ [au] ∧
            au.stream = n ∧ au.sequence = x.sequence ∧ au.pointer = a ∧ au.length = data.length ∧ au.timestamp = t ∧ au.wraps = y.wraps ∧
            au.kind = u.kind ∧
            au.flags = (if u.damaged ∨ cut then 1 else 0) + (if cut then 2 else 0) + (if x.discontinuity ∨ u.discontinuity then 4 else 0) +
              (if u.key then 8 else 0) + (if x.first then 16 else 0) + (if u.timestamp.isNone then 32 else 0) ∧
            (∀ i, i < data.length → e.getByte (a + i) = data.getD i 0#8) ∧
            (∀ b, b < a ∨ a + data.length ≤ b → e.getByte b = asked.2.getByte b) ∧
            (e.stream n).sequence = x.sequence + 1 ∧ (e.stream n).discontinuity = false ∧ (e.stream n).first = false) ∧
        (asked.1 = .fail 0x20 → (d.pool pool).on = true → asked.2.stream n = y → yields (.auHandOff n) s fun e =>
          e.handedUnits = asked.2.handedUnits ∧ (e.stream n).phase = .discarding ∧ (e.stream n).sequence = x.sequence + 1 ∧
            (e.stream n).discontinuity = true ∧
            ((∀ c y, asked.2.clip? c = some y → y.stream ≠ n) → e.mem = asked.2.mem)))

/-- A port's link (R109), and a stream that becomes stopped (R120). -/
def Obligations.LinkAndStop : Prop :=
  (∀ (s : State) (p : Nat) (up : Bool), ready (.portLinkChange p up) s →
    let d := s.dev
    let x := d.ports.getD p {}
    (d.portOn p = false ∨ x.up = up → leads (.portLinkChange p up) s d) ∧
    (d.portOn p = true → x.up ≠ up → yields (.portLinkChange p up) s fun e =>
      (e.ports.getD p {}).up = up ∧ e.rd Reg.junctionPortState_linkUp p = (if up then 1 else 0) ∧
      e.rd Reg.junctionPortState_speed p = (if up then d.rd Reg.junctionPortConfig_speed p else 0) ∧
      (d.rd Reg.junctionPortState_linkChanges p + 1 < 2 ^ Reg.junctionPortState_linkChanges.width →
        e.rd Reg.junctionPortState_linkChanges p = d.rd Reg.junctionPortState_linkChanges p + 1) ∧
      (up = true → e.attentionBit Bit.link = true ∧ (∀ l ∈ e.lasting, ¬(l.bit = Bit.link ∧ l.area = 0x04 ∧ l.detail = p)) ∧
        e.rd Reg.dictionaryAttentionCause_detail (Bit.link - 8) = p) ∧
      (up = false → ∃ l ∈ e.lasting, l.bit = Bit.link ∧ l.code = 0x32 ∧ l.area = 0x04 ∧ l.detail = p) ∧
      e.mem = d.mem ∧ e.queues = d.queues ∧ e.streams = d.streams ∧ e.contexts = d.contexts ∧
      ∀ o i off, o ≠ .junctionPortState → o ≠ .dictionaryAttentionLog → o ≠ .dictionaryAttentionCause → o ≠ .dictionaryAttentionLogHead →
        e.rd ⟨o, off⟩ i = d.rd ⟨o, off⟩ i)) ∧
  ∀ (s : State) (n : Nat), ready (.streamBecomesStopped n) s →
    (s.dev.drained n = false → leads (.streamBecomesStopped n) s s.dev) ∧
    (s.dev.drained n = true → (s.dev.stream n).restart = false →
      leads (.streamBecomesStopped n) s (s.dev.stopStream n) ∧ (s.dev.stopStream n).stream n = {}) ∧
    (s.dev.drained n = true → (s.dev.stream n).restart = true →
      leads (.streamBecomesStopped n) s ((s.dev.stopStream n).enableStream n))

/-- Pushes (R113, R118, R120, R137). -/
def Obligations.Pushes : Prop :=
  ∀ (s : State) (q i : Nat) (f : Fetched), ready (.junctionPush q i) s → s.dev.takeCommand q i 0x0401 = some f →
    let d := s.dev
    let n := le f.entry 8 2
    let size := le f.entry 12 4
    let source := d.rd Reg.junctionStreamConfig_source n
    let fin := (byteAt f.entry 10).testBit 0
    let taken := d.updStream n Stream.run
    let x := taken.stream n
    let b := x.carry ++ f.data.take size
    ((d.stream n).phase = .error → leads (.junctionPush q i) s (d.complete q i 0x81 0x04)) ∧
    ((d.stream n).phase ≠ .error → (d.stream n).taking = false → leads (.junctionPush q i) s (d.complete q i 0x80 0x04)) ∧
    ((d.stream n).taking = true → source < 2 → leads (.junctionPush q i) s (d.complete q i 0x81 0x04)) ∧
    ((d.stream n).taking = true → 2 ≤ source → f.data.length < size ∨ d.earlierPush n f.order = true → leads (.junctionPush q i) s d) ∧
    ((d.stream n).taking = true → size ≤ f.data.length → d.earlierPush n f.order = false →
      (source = 2 →
        let r := Dev.pushRtp (b.length + 1) taken n b fin
        (r.2.2 = true → leads (.junctionPush q i) s
          ((if fin then r.1.endOfData n else r.1).complete q i 0x82 0x04 (r.2.1 - x.carry.length))) ∧
        (r.2.2 = false → leads (.junctionPush q i) s ((if fin then r.1.endOfData n else r.1).complete q i 0 0x04 size))) ∧
      (source = 3 →
        let e := taken.setStream n (Stream.tsPackets (b.length + 1) x (d.rd Reg.junctionStreamConfig_pid n) (d.rd Reg.junctionStreamConfig_codec n) b)
        leads (.junctionPush q i) s ((if fin then e.endOfData n else e).complete q i 0 0x04 size)) ∧
      (source = 4 →
        let r := Stream.fileBoxes (b.length + 1) x (d.rd Reg.junctionStreamConfig_codec n) (d.rd Reg.junctionStreamConfig_trackId n) b false
        let e := taken.setStream n r.1
        leads (.junctionPush q i) s ((if r.2 then e.streamCause n 6 0x40 0x04 else e).complete q i 0 0x04 size)))

/-! ### Decode and encode -/

/-- Which picture an engine takes, and what becomes of it (R146, R152, R155, R159). -/
def Obligations.DecodeStarts : Prop :=
  (∀ (s : State) (e : Nat) (h : PictureHeader), ready (.decodeStart e h) s →
    let d := s.dev
    let idle := d.decoderBusy e = false ∧ d.liveDecoders.contains e = true ∧ d.ep.firmwareReady = true
    (¬idle → leads (.decodeStart e h) s d) ∧
    (idle → d.unitFor e = none →
      (d.latencyEngines.contains e = true ∨ d.headroom = false ∨ d.clipToDecode = none → leads (.decodeStart e h) s d) ∧
      (d.latencyEngines.contains e = false → d.headroom = true → ∀ c, d.clipToDecode = some c →
        leads (.decodeStart e h) s (d.takeClipUnit e c h))) ∧
    ∀ u, idle → d.unitFor e = some u →
      let x := d.dec u.stream
      let y := d.setDec u.stream { x with switching := false }
      (x.claimed = false → h.key = false → x.switching = false → leads (.decodeStart e h) s (y.noBufferDiscard u)) ∧
      (x.claimed = true → x.noBuffers = false → x.switching = false →
        (∀ code, x.rejects u h = some code → leads (.decodeStart e h) s (y.rejectPicture u code)) ∧
        (x.rejects u h = none → ∀ n, h.showExisting = some n → leads (.decodeStart e h) s (y.showExisting u h n)) ∧
        ∀ a z, x.rejects u h = none → h.showExisting = none → h.last = true →
          y.alloc (d.rd Reg.decodeFramePool) u.form.bytes u.stream = (.ok a, z) → yields (.decodeStart e h) s fun w =>
            w.decodeJobs.find? e = some { unit := u, header := h, pointer := a, pool := d.rd Reg.decodeFramePool, start := z.now, clip := none } ∧
            w.handedUnits = z.handedUnits.erase u ∧ w.rd Reg.decodeEngineState_busy e = 1 ∧ w.rd Reg.decodeEngineState_stream e = u.stream ∧ w.mem = z.mem)) ∧
  ∀ (d : Dev) (e : Nat) (u : AccessUnit), d.unitFor e = some u →
    u ∈ d.handedUnits ∧ d.inDecode u.stream = false ∧ (d.handedUnits.find? fun v => v.stream == u.stream) = some u ∧
      (d.dec u.stream).frames.length < d.rd Reg.decodeStreamConfig_dpbMax u.stream + 2 ∧ d.dueOut u.stream = none ∧
      (d.latencyEngines.contains e = true → d.latencyStream u.stream = true)

/-- How a picture ends (R148, R155, R160, R163). -/
def Obligations.PictureEnds : Prop :=
  (∀ (s : State) (e : Nat) (r : PictureResult), s.dev.decodeJobs.find? e = none →
    (ready (.decodeFinish e r []) s → leads (.decodeFinish e r []) s s.dev) ∧
    (ready (.budgetAbort e r) s → leads (.budgetAbort e r) s s.dev)) ∧
  (∀ (s : State) (e : Nat) (r : PictureResult) (j : DecodeJob), s.dev.decodeJobs.find? e = some j → j.clip = none →
    (s.dev.decodeJobs.filter fun k => k.1 == e) = [(e, j)] →
    (∀ x, ready (.decodeFinish e r x) s →
      leads (.decodeFinish e r x) s ((s.dev.eccErrors x).endPicture e r (if j.overdue s.dev.now then .aborted else .finished))) ∧
    (ready (.budgetAbort e r) s →
      (j.mayAbort s.dev.now = true → leads (.budgetAbort e r) s (s.dev.endPicture e r .aborted)) ∧
      (j.mayAbort s.dev.now = false → leads (.budgetAbort e r) s s.dev)) ∧
    (∀ t, j.overdue t = true → j.mayAbort t = true) ∧
    ∀ how, (s.dev.endPicture e r how).decodeJobs.find? e = none ∧ (s.dev.endPicture e r how).decoderBusy e = false ∧
      (s.dev.endPicture e r how).rd Reg.decodeEngineState_busy e = 0 ∧ (s.dev.endPicture e r how).rd Reg.decodeEngineState_stream e = 0xFFFF ∧
      (s.dev.rd Reg.decodeEngineState_finished e + 1 < 2 ^ Reg.decodeEngineState_finished.width →
        let x := s.dev.dec j.unit.stream
        (s.dev.endPicture e r how).rd Reg.decodeEngineState_finished e = s.dev.rd Reg.decodeEngineState_finished e +
          (if (finishedFrame x e j (settledResult r x j.header) how).awaiting then 0 else 1))) ∧
  (∀ (x : DecodeStream) (e : Nat) (j : DecodeJob) (r : PictureResult) (how : Ending),
    let f := finishedFrame x e j r how
    f.pointer = j.pointer ∧ f.unit = j.unit ∧ f.reference = j.header.kept ∧
      (f.awaiting = true ↔ (j.header.shown = true ∨ j.unit.codec ≠ 3) ∧ how = .finished ∧ (j.unit.releaseConcealed = true ∨ f.concealed = false)) ∧
      (f.concealed = true ↔ ∃ b, b < ceilDiv j.header.width 16 * ceilDiv j.header.height 16 ∧ outcomeAt r b = none)) ∧
  ∀ (s : State) (e : Nat) (r : PictureResult), ready (.decodeEngineFault e r) s →
    (s.dev.liveDecoders.contains e = false → leads (.decodeEngineFault e r) s s.dev) ∧
    (s.dev.liveDecoders.contains e = true → yields (.decodeEngineFault e r) s fun w => w.decodeJobs = (s.dev.decodeJobs.erase e) ∧
      w.attentionBit Bit.fault = true ∧
      w.rd Reg.dictionaryAttentionCause_detail (Bit.fault - 8) =
        (e + (if ((s.dev.endPicture e r .reset).faults.find? (5 * 16 + Reg.decodeEngineState_retired.obj.info.number % 16, e)).any
          (fun t => decide (s.dev.now < t + secondTicks)) then 0x8000 else 0)) % 65536)

/-- What a picture leaves in memory (R141, R142, R155, R157). -/
def Obligations.PlanesStored : Prop :=
  (∀ (d : Dev) (base pitch bytes w h : Nat) (v : Nat → Nat → Nat), Memory.wf d.memFree d.mem → w * bytes ≤ pitch →
    (∀ x y, x < w → y < h → (d.putPlane base pitch bytes w h v).sample base pitch bytes x y = v x y % 256 ^ bytes) ∧
    (∀ a, (∀ y, y < h → a < base + y * pitch ∨ base + y * pitch + w * bytes ≤ a) →
      (d.putPlane base pitch bytes w h v).getByte a = d.getByte a) ∧
    Memory.wf (d.putPlane base pitch bytes w h v).memFree (d.putPlane base pitch bytes w h v).mem) ∧
  (∀ (depth w h : Nat) (plane : List Nat) (x y : Nat), chroma420 .c400 depth w h plane x y = 2 ^ (depth - 1) ∧
    chroma420 .c420 depth w h plane x y = plane.getD (y * ceilDiv w 2 + x) (2 ^ (depth - 1)) ∧
    (2 * y + 1 = h → chroma420 .c422 depth w h plane x y = plane.getD (2 * y * ceilDiv w 2 + x) (2 ^ (depth - 1))) ∧
    (2 * y + 1 < h → 2 * chroma420 .c422 depth w h plane x y ≥
      plane.getD (2 * y * ceilDiv w 2 + x) (2 ^ (depth - 1)) + plane.getD ((2 * y + 1) * ceilDiv w 2 + x) (2 ^ (depth - 1)) ∧
    2 * chroma420 .c422 depth w h plane x y ≤
      plane.getD (2 * y * ceilDiv w 2 + x) (2 ^ (depth - 1)) + plane.getD ((2 * y + 1) * ceilDiv w 2 + x) (2 ^ (depth - 1)) + 1)) ∧
  ∀ (d : Dev) (s : FrameForm) (b ptr w h : Nat) (prev : Option Nat) (r : PictureResult) (bx k : Nat),
    let o := blockOutcome r w (bx * 16) (k * 16)
    (o = none ∨ o = some .substituted → d.hintEntry s b ptr w h prev r bx k = 2) ∧
    (o = some .coded → d.hintEntry s b ptr w h prev r bx k = 1) ∧
    (o = some .zeroCopy → (d.hintEntry s b ptr w h prev r bx k = 0 ↔ ∃ p, prev = some p ∧ d.blockEqual s b ptr p w h bx k = true) ∧
      (d.hintEntry s b ptr w h prev r bx k = 0 ∨ d.hintEntry s b ptr w h prev r bx k = 1))

/-- Clips: opened, stopped, keyed (R167 to R173, R181). -/
def Obligations.ClipCommands : Prop :=
  (∀ (s : State) (q i : Nat) (f : Fetched), ready (.encodeClip q i) s → s.dev.takeCommand q i 0x0601 = some f →
    ((∀ c, c < 64 → (s.dev.clip? c).isSome = true) → leads (.encodeClip q i) s (s.dev.complete q i 0x80 0x06)) ∧
    ((∃ c, c < 64 ∧ s.dev.clip? c = none) → (s.dev.stream (le f.entry 8 2)).phase ≠ .running →
      leads (.encodeClip q i) s (s.dev.complete q i 0x83 0x06)) ∧
    (s.dev.clipRefusal f.entry = none → leads (.encodeClip q i) s ((s.dev.openClip f.entry).complete q i 0 0x06 s.dev.freeClip) ∧
      s.dev.clip? s.dev.freeClip = none ∧ (∀ c, c < s.dev.freeClip → (s.dev.clip? c).isSome = true) ∧
      ((s.dev.openClip f.entry).clip? s.dev.freeClip).map Clip.stream = some (le f.entry 8 2))) ∧
  (∀ (s : State) (q i : Nat) (f : Fetched), ready (.encodeStop q i) s → s.dev.takeCommand q i 0x0602 = some f →
    (s.dev.clip? (byteAt f.entry 8) = none → leads (.encodeStop q i) s (s.dev.complete q i 0x81 0x06)) ∧
    ∀ x, s.dev.clip? (byteAt f.entry 8) = some x →
      (x.inService = none → leads (.encodeStop q i) s ((s.dev.endClip (byteAt f.entry 8)).complete q i 0 0x06)) ∧
      (x.inService ≠ none → leads (.encodeStop q i) s ((s.dev.setClip (byteAt f.entry 8) { x with stopping := true }).complete q i 0 0x06))) ∧
  ∀ (s : State) (q i : Nat) (f : Fetched), ready (.encodeKey q i) s → s.dev.takeCommand q i 0x0603 = some f →
    (s.dev.clip? (byteAt f.entry 8) = none → leads (.encodeKey q i) s (s.dev.complete q i 0x81 0x06)) ∧
    ∀ x, s.dev.clip? (byteAt f.entry 8) = some x → leads (.encodeKey q i) s
      ((s.dev.setClip (byteAt f.entry 8) { x with rc := { x.rc with keyRequested := true } }).complete q i 0 0x06)

/-- Encode engines (R170, R171, R180, R182, R186, R187, R189). -/
def Obligations.EncodePictures : Prop :=
  (∀ (s : State) (e : Nat), ready (.encodePictureStart e) s →
    let d := s.dev
    let free := d.encodeJobs.find? e = none ∧ d.flag Reg.encodeEngineState_retired e = false ∧ e < d.rd Reg.encodeEnginesPresented ∧
      d.headroom = true
    (¬free ∨ d.encodeChoice = none → leads (.encodePictureStart e) s d) ∧
    (∀ c p x, free → d.encodeChoice = some (c, p) → d.clip? c = some x → d.poisoned p.pointer p.form.hintOffset = true →
      leads (.encodePictureStart e) s ((((d.dropLive c { x with pictures := x.pictures.erase p, inService := none }).freeClipPicture c p).unpinDone
        c).clipDone c)) ∧
    ∀ c p x, free → d.encodeChoice = some (c, p) → d.clip? c = some x → d.poisoned p.pointer p.form.hintOffset = false → yields (.encodePictureStart e) s fun w =>
      (∃ j, w.encodeJobs.find? e = some j ∧ j.clip = c ∧ j.picture = p ∧ j.key = d.nextKey x p ∧ j.qp = d.nextQp x ∧
        j.mask = d.elemNat .encodeStreamMask x.stream ∧ j.window = windowAt (blockSize x.codec) 0 0) ∧
      w.clip? c = some { x with inService := some p, pictures := x.pictures.erase p, rc := { x.rc with keyRequested := false } } ∧
      w.rd Reg.encodeEngineState_busy e = 1 ∧ w.rd Reg.encodeEngineState_clip e = c ∧ w.mem = d.mem ∧ w.queues = d.queues) ∧
  (∀ (s : State) (e n : Nat), (∀ j, s.dev.encodeJobs.find? e = some j → j.picture.sequence ≠ n) → ready (.encodePictureDone e n) s →
    leads (.encodePictureDone e n) s s.dev) ∧
  (∀ (s : State) (e : Nat) (j : EncodeJob), s.dev.encodeJobs.find? e = some j → ready (.encodePictureDone e j.picture.sequence) s →
    let d := Dev.count ((Dev.setFlag { s.dev with encodeJobs := s.dev.encodeJobs.erase e }
      Reg.encodeEngineState_busy e false).wr Reg.encodeEngineState_clip e 0xFFFF) Reg.encodeEngineState_encoded e
    (s.dev.clip? j.clip = none → leads (.encodePictureDone e j.picture.sequence) s d) ∧
    ∀ x, s.dev.clip? j.clip = some x →
      let o := j.encode (d.codingInput x j)
      let e1 := if j.key && j.capped && j.size - x.rc.fullness < o.bits then d.count Reg.encodeClipOverflows j.clip else d
      let done : Clip := { x with
        inService := none, bytes := x.bytes + (byteStream o.nals).length, rc := x.afterPicture j o.bits,
        firstTime := some (x.firstTime.getD j.picture.timestamp), lastTime := j.picture.timestamp,
        reference := some (j.picture.width, j.picture.height, o.rebuilt) }
      let record := fun last => (e1.sendRecord j.clip x j.picture.sequence j.picture.wraps j.picture.timestamp j.picture.kind j.key last
        (byteStream o.nals)).freeClipPicture j.clip j.picture
      let packets := e1.sendRtp j.clip x j.picture o.nals
      (x.rtp = false → x.stopping = false → x.endless = true → leads (.encodePictureDone e j.picture.sequence) s (((record false).setClip j.clip done).unpinDone j.clip)) ∧
      (x.rtp = false → x.stopping = true → leads (.encodePictureDone e j.picture.sequence) s ((((record true).setClip j.clip done).unpinDone j.clip).closeClip j.clip)) ∧
      (x.rtp = true → x.stopping = false → x.endless = true → leads (.encodePictureDone e j.picture.sequence) s
        (((packets.1.freeClipPicture j.clip j.picture).setClip j.clip
          { done with rtpSequence := x.rtpSequence + packets.2 }).unpinDone j.clip))) ∧
  (∀ (s : State) (e : Nat), ready (.encodeEngineFault e) s →
    (s.dev.flag Reg.encodeEngineState_retired e = true ∨ s.dev.rd Reg.encodeEnginesPresented ≤ e → leads (.encodeEngineFault e) s s.dev) ∧
    ∀ j x, s.dev.flag Reg.encodeEngineState_retired e = false → e < s.dev.rd Reg.encodeEnginesPresented → s.dev.encodeJobs.find? e = some j → s.dev.clip? j.clip = some x →
      yields (.encodeEngineFault e) s fun w => w.attentionBit Bit.fault = true ∧ w.encodeJobs = s.dev.encodeJobs.erase e ∧
        w.clip? j.clip = some { x with rc := { x.rc with keyRequested := x.rc.keyRequested || j.key } } ∧
        w.mem = s.dev.mem) ∧
  (∀ (s : State) (c n : Nat) (x : Clip) (p : ClipPicture), ready (.clipCopyDone c n) s → s.dev.clip? c = some x →
    (x.pictures.find? fun y => y.sequence == n && !y.ready) = some p →
    leads (.clipCopyDone c n) s (((s.dev.copyBytes p.source p.pointer p.form.bytes).setClip c
      { x with pictures := x.pictures.map fun y => if y = p then ({ p with ready := true } : ClipPicture) else y }).releaseHold x.stream p.source)) ∧
  (∀ (d : Dev) (src dst n i : Nat), Memory.wf d.memFree d.mem → i < n →
    (d.copyBytes src dst n).getByte (dst + i) = d.getByte (src + i)) ∧
  (∀ (d : Dev) (x : Clip), (d.rd Reg.encodeProfile_mode x.profile = 0 → d.nextQp x = d.rd Reg.encodeProfile_qp x.profile) ∧
    (d.rd Reg.encodeProfile_mode x.profile ≠ 0 → d.rd Reg.encodeProfile_qpMin x.profile ≤ d.rd Reg.encodeProfile_qpMax x.profile →
      d.rd Reg.encodeProfile_qpMin x.profile ≤ d.nextQp x ∧ d.nextQp x ≤ d.rd Reg.encodeProfile_qpMax x.profile) ∧
    (∀ p, x.rc.encoded = 0 ∨ x.rc.keyRequested = true → d.nextKey x p = true)) ∧
  ∀ (codec room : Nat) (n : List Byte), codec = 1 ∨ codec = 2 → 4 ≤ room →
    (∀ p ∈ rtpPayloads codec room n, p.length ≤ room) ∧
    (room < n.length → ((rtpPayloads codec room n).map fun p => p.drop (if codec = 1 then 2 else 3)).flatten =
      n.drop (if codec = 1 then 1 else 2))

/-! ### The Calender and the Deckle -/

/-- The next picture in output order is released (R154, R155, R194). -/
def Obligations.PictureReleased : Prop :=
  (∀ (s : State) (n : Nat), ready (.pictureRelease n) s → s.dev.dueOut n = none → leads (.pictureRelease n) s s.dev) ∧
  (∀ (s : State) (n : Nat) (f : Frame), ready (.pictureRelease n) s → s.dev.dueOut n = some f →
    yields (.pictureRelease n) s fun e =>
      e.released = (if s.dev.flag Reg.calenderStreamConfig_produce n then
        s.dev.released ++ [f.picture] else s.dev.released) ∧
      e.frames = s.dev.frames ∧ e.queues = s.dev.queues ∧ e.handedUnits = s.dev.handedUnits ∧
      (s.dev.rd Reg.decodeStreamCounters_released n + 1 < 2 ^ Reg.decodeStreamCounters_released.width →
        e.rd Reg.decodeStreamCounters_released n = s.dev.rd Reg.decodeStreamCounters_released n + 1)) ∧
  (∀ (d : Dev) (n : Nat) (f : Frame), d.dueOut n = some f → (d.dec n).nextOut = some f) ∧
  ∀ (x : DecodeStream) (f : Frame), x.nextOut = some f → f ∈ x.frames ∧ f.awaiting = true ∧
    ∀ g ∈ x.frames, g.awaiting = true → f.order ≤ g.order

/-- The Calender takes, hands on and faults (R195, R197, R200, R202, R205). -/
def Obligations.CalenderWork : Prop :=
  (∀ (s : State) (e : Nat), (∀ p ∈ s.dev.released, p.waited = true → p.buffer ≠ none) →
    let d := s.dev
    let free := d.calJob e = none ∧ d.liveCalenders.contains e = true
    (ready .calenderBufferGrant s → leads .calenderBufferGrant s d) ∧
    (ready (.calenderStart e) s → ¬free ∨ d.pictureFor e = none → leads (.calenderStart e) s d) ∧
    ∀ p, ready (.calenderStart e) s → free → d.pictureFor e = some p → p.buffer = none →
      let c := if p.flags.testBit 0 = true ∧ p.waited = false ∧ p.old = false ∧ (d.stream p.stream).phase ≠ .stopped
        then (d.claimOutput p.stream).claimHistory p.stream else d
      let asked := c.alloc (c.rd Reg.calenderVatPool) (c.outBytes p.stream) p.stream
      (∀ a z, asked = (.ok a, z) → yields (.calenderStart e) s fun w =>
        (∃ x, w.calJob e = some x ∧ x.stream = p.stream ∧ x.sequence = p.sequence ∧ x.buffer = some a) ∧
        w.rd Reg.calenderEngineState_busy e = 1 ∧ w.rd Reg.calenderEngineState_stream e = p.stream ∧ w.mem = z.mem ∧ w.frames = d.frames) ∧
      ∀ code z, asked = (.fail code, z) →
        leads (.calenderStart e) s ((z.updPicture p fun x => { x with waited := true }).count Reg.calenderStreamCounters_bufferWaits p.stream)) ∧
  (∀ (s : State) (p : Picture), ready .calenderBufferGrant s → (s.dev.released.filter fun x => x.waited && x.buffer.isNone) = [p] →
    (∀ a z, s.dev.alloc (s.dev.rd Reg.calenderVatPool) (s.dev.outBytes p.stream) p.stream = (.ok a, z) → leads .calenderBufferGrant s
      (z.updPicture p fun x => { x with buffer := some a, bufferPool := s.dev.rd Reg.calenderVatPool })) ∧
    ∀ code z, s.dev.alloc (s.dev.rd Reg.calenderVatPool) (s.dev.outBytes p.stream) p.stream = (.fail code, z) → leads .calenderBufferGrant s z) ∧
  (∀ (d : Dev) (e : Nat) (p : Picture), d.pictureFor e = some p → p ∈ d.released ∧ p.engine = none ∧
    (d.released.find? fun x => x.stream == p.stream) = some p ∧
    (d.latencyCalenders.contains e = true → d.latencyStream p.stream = true)) ∧
  (∀ (s : State) (e : Nat) (x : List EccEvent), ready (.calenderHandOn e x) s → s.dev.calJob e = none → leads (.calenderHandOn e x) s s.dev) ∧
  (∀ (s : State) (e : Nat) (x : List EccEvent) (p : Picture) (a : Nat), ready (.calenderHandOn e x) s → s.dev.calJob e = some p → p.buffer = some a →
    let d := s.dev.eccErrors x
    yields (.calenderHandOn e x) s fun w =>
      (∃ f, w.frames = d.frames ++ [f] ∧ f.stream = p.stream ∧ f.sequence = p.sequence ∧ f.pointer = a ∧ f.number = d.frameCount ∧
        f.timestamp = p.timestamp ∧ f.flags % 256 = p.flags % 256 ∧
        (f.flags / 256 = 1 ↔ (p.old = true ∨ (d.calStream p.stream).fresh = true ∨ (d.calStream p.stream).stale = true ∨
          (d.calStream p.stream).history = none ∨ (d.calStream p.stream).width ≠ f.width ∨
          (d.calStream p.stream).height ≠ f.height))) ∧
      w.signalled = d.signalled ++ [d.frameCount] ∧ w.frameCount = d.frameCount + 1 ∧ w.calJob e = none ∧
      w.rd Reg.calenderEngineState_busy e = 0 ∧ w.rd Reg.calenderEngineState_stream e = 0xFFFF) ∧
  ∀ (s : State) (e : Nat) (b : Bool), ready (.calenderFault e b) s →
    (s.dev.liveCalenders.contains e = false → leads (.calenderFault e b) s s.dev) ∧
    ∀ p, s.dev.liveCalenders.contains e = true → s.dev.calJob e = some p → yields (.calenderFault e b) s fun w =>
      w.attentionBit Bit.fault = true ∧ w.rd Reg.calenderEngineState_busy e = 0 ∧ w.mem = s.dev.mem ∧ w.frames = s.dev.frames ∧
      (∀ x ∈ w.released, x.stream = p.stream → x.sequence = p.sequence → x.engine = none) ∧
      (b = true → (w.calStream p.stream).stale = true) ∧ (b = false → (w.calStream p.stream).stale = (s.dev.calStream p.stream).stale)

/-- The entries of the difference map (R203, R204), and what a level's size and a plane's place are (R199, R201). -/
def Obligations.DifferenceMap : Prop :=
  (∀ (d : Dev) (p : Picture) (new : List Plane) (bad : Bool) (bx k : Nat),
    d.mapEntry p new none bad bx k = (0x7C00, 3) ∧
    ∀ old, (2 ∈ d.footprintHints p bx k → d.mapEntry p new (some old) bad bx k = (0x7C00, 2)) ∧
      ((∀ h ∈ d.footprintHints p bx k, h = 0) → d.mapEntry p new (some old) bad bx k = (0, 0)) ∧
      (2 ∉ d.footprintHints p bx k → (∃ h ∈ d.footprintHints p bx k, h ≠ 0) → bad = true → d.mapEntry p new (some old) bad bx k = (0x7C00, 2)) ∧
      (2 ∉ d.footprintHints p bx k → bad = false → d.mapEntry p new (some old) bad bx k = (0, 0) ∨
        ((d.mapEntry p new (some old) bad bx k).1 ≠ 0 ∧ (d.mapEntry p new (some old) bad bx k).2 = 1))) ∧
  (∀ n m, 1 ≤ outDim n m ∧ (256 ≤ n * m → 256 * outDim n m ≤ n * m)) ∧
  ∀ (planes : Nat) (sizes : List (Nat × Nat)) (pos : Nat),
    let r := layLevels planes sizes pos
    r.1.length = sizes.length ∧ pos ≤ r.2 ∧
    (∀ l ∈ r.1, l.offset % 4096 = 0 ∧ pos ≤ l.offset ∧ l.offset + planes * l.height * l.pitch ≤ r.2 ∧ 2 * l.width ≤ l.pitch) ∧
    r.1.Pairwise fun a b => a.offset + planes * a.height * a.pitch ≤ b.offset

/-- Crops (R206 to R209, R211). -/
def Obligations.DeckleWork : Prop :=
  (∀ (s : State) (e : Nat), ready (.deckleEntry e) s →
    (s.dev.liveDeckles.contains e = false ∨ s.dev.poolNext 2 = none → leads (.deckleEntry e) s s.dev) ∧
    ∀ y w, s.dev.liveDeckles.contains e = true → s.dev.poolNext 2 = some y → y.entry.crops = some w → w.cut < w.count →
      leads (.deckleEntry e) s ((s.dev.cutCrop e (w.list + 64 * w.cut) (w.results + 4 * w.cut)).updEntry y.context y.step y.pos fun f =>
        { f with crops := some { w with cut := w.cut + 1 }, state := if w.cut + 1 < w.count then .queued else .done })) ∧
  (∀ (d : Dev) (e : Nat) (y : Choice), d.poolNext e = some y → y ∈ d.poolChoices e ∧ y.entry.state = .queued ∧ y.entry.e.engine = e ∧
    ∀ z ∈ d.poolChoices e,
      ((d.ctx? y.context).any Context.latency = false → (d.ctx? z.context).any Context.latency = false) ∧
      ((d.ctx? y.context).any Context.latency = (d.ctx? z.context).any Context.latency → y.entry.order ≤ z.entry.order)) ∧
  (∀ (d : Dev) (x : Crop),
    (d.isOutput x.source = false ∨ x.output < vatBase → d.cropCode x = 0x21) ∧
    (d.isOutput x.source = true → vatBase ≤ x.output → x.output + d.bufferPlanes x.source * x.height * levelPitch x.width ≤ vatBase + d.vatMapped →
      (d.getNat (x.source + 19) 1 ≤ x.level ∨ x.width = 0 ∨ 512 < x.width ∨ x.height = 0 ∨ 512 < x.height ∨ x.reserved ≠ 0 →
        d.cropCode x = 0x80))) ∧
  (∀ (d : Dev) (e at_ result : Nat), d.cropCode (parseCrop (d.getNat at_ 64)) ≠ 0 →
    d.cutCrop e at_ result = d.store result (leBytes 4 (d.cropCode (parseCrop (d.getNat at_ 64))))) ∧
  ∀ (s : State) (e : Nat), ready (.deckleFault e) s →
    (s.dev.liveDeckles.contains e = false → leads (.deckleFault e) s s.dev) ∧
    (s.dev.liveDeckles.contains e = true → yields (.deckleFault e) s fun w => w.attentionBit Bit.fault = true ∧ w.mem = s.dev.mem ∧
      w.contexts = s.dev.contexts ∧
      w.rd Reg.dictionaryAttentionCause_context (Bit.fault - 8) = 0xFFFF)

/-! ### Press cores -/

/-- PASS_ENTRY (R217 to R224, R245, R348). -/
def Obligations.PassEnters : Prop :=
  (∀ (s : State) (k : Nat) (ref : PassRef) (t : PassTiming), ready (.passEntry k ref t) s →
    let d := s.dev
    let go := leads (.passEntry k ref t) s
    (d.issuing k = none → go d) ∧
    ∀ c n p e x st, d.issuing k = some (c, n, p, e) → d.ctx? c = some x → d.step? c n = some st →
      let r := (d.core k).array ref.array
      let record := d.getNat (x.store + ref.offset) 64
      let m := bits record 0 64
      let size := if modeSplit m then 320 else 128
      let inside := e.e.body ≤ ref.offset ∧ ref.offset + size ≤ e.e.body + e.e.bodyBytes ∧
        (∀ q ∈ e.passed, q.1 = ref.array → q.2 < ref.offset) ∧ r.atBoundary = false
      let qs := d.quads x st e ref.offset
      let loads := d.loads x st e r ref m
      let valid := passValid r (d.rd Reg.pressCoreState_width k) (popCount 2 (d.rd Reg.pressArrayState_halves (2 * k + ref.array))) m loads
        (qs.map Quad.desc)
      let may := r.mayEnter (d.bubbleFraction c) m loads t = true ∧ ∀ o, (d.core k).origin = some o → o = t.origin
      let windows := (modeQuads m).map fun q => (q, d.getNat (x.store + ref.offset + 64 + 64 * q) 64)
      (¬inside → go d) ∧
      (inside → d.poisoned (x.store + ref.offset) size = true → go (d.endFaulty k c 0x82 (memArea (x.store + ref.offset)))) ∧
      (inside → d.poisoned (x.store + ref.offset) size = false →
        (d.skipped x st e ref.offset = true → go d) ∧
        (d.skipped x st e ref.offset = false → valid = false → go (d.endFaulty k c 0x80 0x08)) ∧
        (d.skipped x st e ref.offset = false → valid = true → ¬may → go d) ∧
        (d.skipped x st e ref.offset = false → valid = true → may →
          yields (.passEntry k ref t) s fun w =>
            ((w.core k).array ref.array) = d.afterPass x (d.core k) r (d.rd Reg.pressArrayColumnMap_map (2 * k + ref.array)) m record
              loads ref t qs windows ∧ (w.core k).origin = some t.origin ∧ ((w.core k).array ref.array).idle = false ∧
            ((w.core k).buffer = (d.core k).buffer) ∧ w.mem = d.mem ∧ w.queues = d.queues ∧
            (d.entry? c n p = some e → ∃ f, w.entry? c n p = some f ∧ f.passed = e.passed ++ [(ref.array, ref.offset)]) ∧
            (d.rd Reg.pressArrayState_passes (2 * k + ref.array) + 1 < 2 ^ Reg.pressArrayState_passes.width →
              w.rd Reg.pressArrayState_passes (2 * k + ref.array) = d.rd Reg.pressArrayState_passes (2 * k + ref.array) + 1)))) ∧
  (∀ (start n : Nat) (gaps : List Nat), (entryCycles start gaps n).length = n ∧ (∀ c ∈ entryCycles start gaps n, start ≤ c) ∧
    (entryCycles start gaps n).Pairwise (· < ·)) ∧
  (∀ (x : Earliest) (start : Nat) (es : List Nat), x.free ≤ start →
    (x.lost start es).1 + (x.lost start es).2.1 + (x.lost start es).2.2.1 + (x.lost start es).2.2.2 = start - x.free) ∧
  (∀ (r : PressArray) (k m : Nat) (loads : Bool) (t : PassTiming), r.mayEnter k m loads t = true →
    (r.idle = false → r.ended ≤ t.start) ∧ (loads = true → r.loadEnd ≤ t.load ∧ t.load + 256 + t.pause ≤ t.start) ∧
    (r.idle = false → r.split = false → modeSplit m = true → r.ended + 258 ≤ t.start) ∧
    ∀ e ∈ entryCycles t.start t.gaps (modeVectors m), bubble k t.origin e = false) ∧
  ∀ k origin c, k ≤ 64 → ((List.range 64).filter fun i => bubble k origin (c + i)).length = k

/-- Sums of an array (R249 to R252, R284, R290, R292): what the arithmetic gives at its edges. -/
def Obligations.PressArithmetic : Prop :=
  (∀ v, v < 2 ^ 16 → (Fmt.f16.decode v).isFinite = true → Fmt.f16.round (Fmt.f16.decode v) = v) ∧
  (∀ v, v < 2 ^ 16 → (Fmt.bf16.decode v).isFinite = true → Fmt.bf16.round (Fmt.bf16.decode v) = v) ∧
  (∀ v, v < 2 ^ 32 → (f32v v).isFinite = true → rne32 (f32v v) = v) ∧
  (∀ a : Option FVal, product none a = 0 ∧ product a none = 0) ∧
  (∀ (w : WinDesc) (row col : Nat), w.structural row col = true ↔ 1 < w.gpack ∧ row / w.kg ≠ col / w.og) ∧
  (∀ (packed : Nat → Byte) (scale : Nat → Nat) (k : Nat), packed k = 0x7F#8 ∨ packed k = 0xFF#8 → expanded 3 packed scale k = .nan) ∧
  (∀ (packed : Nat → Byte) (scale : Nat → Nat) (k : Nat), expanded 0 packed scale k = .ofInt (packed k).toInt) ∧
  (∀ a b, fadd a b = fadd b a ∧ fmul a b = fmul b a) ∧
  (∀ a b, (f32v a).isNan = true → fadd a b = rne32 .nan ∧ fmul a b = rne32 .nan) ∧
  (∀ s t, s ≠ t → FVal.add (.inf s) (.inf t) = .nan) ∧
  (∀ s e t f, FVal.add (.num s 0 e) (.num t 0 f) = .num (s && t) 0 0) ∧
  (∀ ws, columnSum ws [] = 0) ∧
  ∀ (ws l : List (Option FVal)) (w a : Option FVal), ws.length = l.length →
    columnSum (ws ++ [w]) (l ++ [a]) = fadd (columnSum ws l) (product w a)

/-- Drains, boundaries and fills (R225, R238, R274). -/
def Obligations.DrainsAndFills : Prop :=
  (∀ (s : State) (k a : Nat), s.dev.running k = none →
    (ready (.drain k a) s → leads (.drain k a) s s.dev) ∧ (ready (.tileBoundary k a) s → leads (.tileBoundary k a) s s.dev) ∧
    ∀ op, ready (.randomFill k op) s → leads (.randomFill k op) s s.dev) ∧
  (∀ (s : State) (k a c n p : Nat) (e : StepEntry), ready (.drain k a) s → s.dev.running k = some (c, n, p, e) →
    (((s.dev.core k).array a).drains = [] → leads (.drain k a) s s.dev) ∧
    ∀ j rest, (s.dev.ctx? c).isSome = true → ((s.dev.core k).array a).drains = j :: rest → (s.dev.step? c n).isSome = true → yields (.drain k a) s fun w =>
      w.queues = s.dev.queues ∧
      ((s.dev.core k).array0.stopped = false → (s.dev.core k).array1.stopped = false → ((w.core k).array a).drains = rest ∧
        ((w.core k).array a).boundary =
          (if modeBoundary j.mode then some (j.reads.getLast?.getD 0 + 13) else ((s.dev.core k).array a).boundary)) ∧
      (((s.dev.core k).array (1 - a)).stopped = true → ((s.dev.core k).array a).quiet = false → rest = [] →
        ((s.dev.core k).array a).halfA.opened = none → ((s.dev.core k).array a).halfB.opened = none →
        ((s.dev.core k).array a).boundary = none → modeBoundary j.mode = false → (w.core k).array0 = {} ∧ (w.core k).array1 = {}) ∧
      (∀ x, s.dev.ctx? c = some x → (∀ ch, x.biasPlace j.tensor ch = none) → w.mem = s.dev.mem)) ∧
  (∀ (s : State) (k a c n p : Nat) (e : StepEntry), ready (.tileBoundary k a) s → s.dev.running k = some (c, n, p, e) →
    let other := (s.dev.core k).array (1 - a)
    (((s.dev.core k).array a).boundary = none → leads (.tileBoundary k a) s s.dev) ∧
    (((s.dev.core k).array a).boundary ≠ none →
      (other.stopped = true ∨ (other.quiet = true ∧ other.boundary = none) → yields (.tileBoundary k a) s fun w =>
        (w.core k).array0 = {} ∧ (w.core k).array1 = {} ∧ w.mem = s.dev.mem ∧
        (s.dev.entry? c n p = some e → ∃ f, w.entry? c n p = some f ∧ f.atSwitch = true ∧ f.boundaries = e.boundaries + 1)) ∧
      (¬(other.stopped = true ∨ (other.quiet = true ∧ other.boundary = none)) →
        leads (.tileBoundary k a) s (s.dev.updCore k fun y => y.updArray a fun _ => { stopped := true })))) ∧
  ∀ (s : State) (k c n p : Nat) (e : StepEntry) (x : Context) (op : FillOp), ready (.randomFill k op) s →
    s.dev.issuing k = some (c, n, p, e) → s.dev.ctx? c = some x →
    (s.dev.flag Reg.randomSelftest = false → leads (.randomFill k op) s s.dev) ∧
    (s.dev.flag Reg.randomSelftest = true →
      let g := op.first / 8
      let count := (op.first + op.count - 1) / 8 + 1 - g
      leads (.randomFill k op) s (((s.dev.updCore k fun y => y.put op.address
        ((List.range count).flatMap fun i => drawBytes (x.seedOf op.stream) op.tensor op.step op.stream op.purpose (g + i))).updEntry c n p
          fun f => { f with draws := f.draws ++ [{ tensor := op.tensor, purpose := op.purpose, step := op.step, stream := op.stream,
                                                   first := op.first, count := op.count, address := op.address }] }).count
            Reg.randomDraws 0 count))

/-- The data mover (R212, R445, R465). -/
def Obligations.DataMover : Prop :=
  (∀ (s : State) (k : Nat) (op : MoverOp) (x : List EccEvent) (l : List Nat), ready (.dataMoverTransfer k op x l) s →
    (s.dev.issuing k = none → leads (.dataMoverTransfer k op x l) s s.dev) ∧
    ∀ r, s.dev.issuing k = some r →
      let d := ((l.filter s.dev.cache.contains).foldl Dev.cacheLineError s.dev).eccAndSlots x
      (op.rows = 0 ∨ (op.rows = 1 ∧ d.issuing k = none) → leads (.dataMoverTransfer k op x l) s d) ∧
      (op.rows = 1 → (d.issuing k).isSome = true → op.toPress = true →
        leads (.dataMoverTransfer k op x l) s (d.moverRead k r.1 op 0)) ∧
      (op.rows = 1 → (d.issuing k).isSome = true → op.toPress = false →
        leads (.dataMoverTransfer k op x l) s (d.storeMapped op.device ((d.core k).bytes op.press op.bytes)))) ∧
  ∀ (s : State) (k : Nat) (op : MoverOp), ready (.dataMoverTransfer k op [] []) s →
    let d := s.dev
    (d.issuing k = none → leads (.dataMoverTransfer k op [] []) s d) ∧
    ∀ c n p e x, d.issuing k = some (c, n, p, e) → d.ctx? c = some x →
      (op.rows = 0 → leads (.dataMoverTransfer k op [] []) s d) ∧
      (op.rows = 1 → op.toPress = false → (∀ i, i < op.bytes → d.mapped (op.device + i) = true) →
        leads (.dataMoverTransfer k op [] []) s (d.store op.device ((d.core k).bytes op.press op.bytes)) ∧
        (memoryCanonical s → ∀ t, exec (.dataMoverTransfer k op [] []) s = .next t → memoryCanonical t ∧
          (∀ i, i < op.bytes → t.dev.getByte (op.device + i) = (d.core k).byte (op.press + i)) ∧
          ∀ a, a < op.device ∨ op.device + op.bytes ≤ a → t.dev.getByte a = d.getByte a)) ∧
      (op.rows = 1 → op.toPress = true → op.cacheable = false → d.poisoned op.device op.bytes = false →
        leads (.dataMoverTransfer k op [] []) s (Dev.updCore { d with free := d.free + 1 } k fun y => y.put op.press (d.readOut op.device op.bytes))) ∧
      (op.rows = 1 → op.toPress = true → op.cacheable = false → d.poisoned op.device op.bytes = true → x.faultsAt op.device op.bytes = true →
        leads (.dataMoverTransfer k op [] []) s (d.endFaulty k c 0x82 (memArea op.device)))

/-- Vector operations (R235, R236, R265 to R267). -/
def Obligations.VectorOperations : Prop :=
  (∀ (s : State) (k : Nat) (op : VecOp), ready (.vectorOperation k op) s → s.dev.issuing k = none → leads (.vectorOperation k op) s s.dev) ∧
  (∀ (s : State) (k c n p : Nat) (e : StepEntry) (x : Context) (st : Step) (op : VecOp), ready (.vectorOperation k op) s →
    s.dev.issuing k = some (c, n, p, e) → s.dev.ctx? c = some x → s.dev.step? c n = some st →
    leads (.vectorOperation k op) s (s.dev.vecOp { core := k, context := c, step := st, pos := p, entry := e, ctx := x } op) ∧
    ∀ dst m f, m ≤ 512 →
      ((∃ o a b, op = .bin o dst a b m ∧ f = fun i => vecBin o ((s.dev.core k).reg a i) ((s.dev.core k).reg b i)) ∨
        (∃ o a, op = .un o dst a m ∧ f = fun i => vecUn o ((s.dev.core k).reg a i)) ∨
        (∃ a b g, op = .fma dst a b g m ∧ f = fun i => ffma ((s.dev.core k).reg a i) ((s.dev.core k).reg b i) ((s.dev.core k).reg g i))) →
      yields (.vectorOperation k op) s fun w =>
        (∀ i, i < m → (w.core k).reg dst i = f i) ∧
        (∀ r i, r ≠ dst ∨ m ≤ i → (w.core k).reg r i = (s.dev.core k).reg r i) ∧
        (w.core k).buffer = (s.dev.core k).buffer ∧ (∀ j, j ≠ k → w.core j = s.dev.core j) ∧ w.mem = s.dev.mem ∧ w.regs = s.dev.regs ∧
        w.contexts = s.dev.contexts) ∧
  (∀ (d : Dev) (v : VecAt) (o : VecFold) (dst element a n : Nat),
    d.vecOp v (.fold o dst element a n) = d.updCore v.core fun y => y.setReg dst element (vecFold o ((d.core v.core).regList a n))) ∧
  (∀ (d : Dev) (v : VecAt) (a b n dst element : Nat),
    d.vecOp v (.product a b n dst element) = d.updCore v.core fun y =>
      y.setReg dst element (fsum ((List.range n).map fun i => fmul ((d.core v.core).reg a i) ((d.core v.core).reg b i)))) ∧
  vecFold .sum [] = 0 ∧ (∀ a, vecFold .sum [a] = a ∧ vecFold .max [a] = a) ∧
  ∀ (d : Dev) (v : VecAt) (table : VecRef) (rows width indices dst : Nat) (x : Context), d.ctx? v.context = some x → width ≤ 512 →
    (rows : Int) ≤ toSigned 32 (leNat ((d.core v.core).bytes indices 4)) →
    ((d.vecOp v (.gather table rows width indices 1 dst)).ctx? v.context).map Context.gatherOut = some (x.gatherOut + 1) ∧
    ∀ i, i < width → ((d.vecOp v (.gather table rows width indices 1 dst)).core v.core).reg dst i = 0

/-- Faults of a core (R228, R240, R242). -/
def Obligations.CoreFaults : Prop :=
  (∀ (s : State) (k : Nat) (f : PressFault), ready (.pressCoreFault k f) s → s.dev.liveCores.contains k = false →
    leads (.pressCoreFault k f) s s.dev) ∧
  (∀ (s : State) (k : Nat), ready (.watchdogTrip k) s →
    (s.dev.running k = none → leads (.watchdogTrip k) s s.dev) ∧ (s.dev.running k ≠ none → leads (.watchdogTrip k) s (s.dev.coreFault k))) ∧
  ∀ (s : State) (k : Nat) (f : PressFault), ready (.pressCoreFault k f) s → s.dev.liveCores.contains k = true →
    leads (.pressCoreFault k f) s ((s.dev.recordSuspect k f).coreFault k) ∧
    ((s.dev.core k).serving = none → (∀ key t, s.dev.faults.find? key = some t → t + secondTicks ≤ s.dev.now) → yields (.pressCoreFault k f) s fun w =>
      (w.core k).serving = none ∧ (w.core k).array0 = {} ∧ (w.core k).array1 = {} ∧ w.attentionBit Bit.fault = true ∧
      w.rd Reg.dictionaryAttentionCause_detail (Bit.fault - 8) = k ∧
      bits (w.rd Reg.dictionaryAttentionCause_status (Bit.fault - 8)) 0 8 = 0x31 ∧
      bits (w.rd Reg.dictionaryAttentionCause_status (Bit.fault - 8)) 24 8 = 0x08 ∧
      (∀ a p, f = .column a p → w.rd Reg.pressArrayState_suspect (2 * k + a) = p) ∧
      w.mem = s.dev.mem ∧ (s.dev.coreAlive k = true → w.contexts = s.dev.contexts))

/-! ### Plans, the Yard and the Signal box -/

/-- The commands of area 0x0B (R307 to R319). -/
def Obligations.PlanCommands : Prop :=
  (∀ (s : State) (q i : Nat) (facts : PlanFacts) (f : Fetched), ready (.planLoad q i facts) s → s.dev.takeCommand q i 0x0B01 = some f →
    let d := s.dev
    let go := leads (.planLoad q i facts) s
    let flags := byteAt f.entry 8
    let n := le f.entry 24 8
    let b := f.data.take n
    (d.earlierLoad f.order = true → go d) ∧
    (d.earlierLoad f.order = false → (d.ctx? f.context).isSome = true → go ((d.recordRefusal f.context []).complete q i 0x82 0x0B)) ∧
    (d.earlierLoad f.order = false → d.ctx? f.context = none → flags.testBit 2 = false →
      (f.data.length < n → go d) ∧
      (n ≤ f.data.length →
        (formValid b n = false → go ((d.recordRefusal f.context []).complete q i 0x81 0x0B)) ∧
        (formValid b n = true → d.packageSigned b = false → go ((d.recordRefusal f.context []).complete q i 0x11 0x0B)) ∧
        (formValid b n = true → d.packageSigned b = true → d.targetFits b = false → go ((d.recordRefusal f.context []).complete q i 0x80 0x0B)) ∧
        ∀ v k e rs, formValid b n = true → d.packageSigned b = true → d.targetFits b = true →
          d.tryVariants b (flags.testBit 1) facts (variantOrder b (byteAt f.entry 9)) = (rs, some (v, k, e)) →
          go ((if flags.testBit 0 then d else e.admitPlan f.context v b (flags.testBit 1) (byteAt f.entry 10) facts k).complete q i 0 0x0B
            (v + 256 * (packageManifest b v).wclass + 65536 * (packageManifest b v).grid))))) ∧
  (∀ (s : State) (q i : Nat) (f : Fetched), ready (.planBind q i) s → s.dev.takeCommand q i 0x0B03 = some f →
    (∀ code, s.dev.bindFails f.context (le f.entry 8 2) = some code → leads (.planBind q i) s (s.dev.complete q i code 0x0B)) ∧
    (s.dev.ctx? f.context = none → s.dev.bindFails f.context (le f.entry 8 2) = some 0x83) ∧
    ∀ x, s.dev.ctx? f.context = some x → s.dev.bindFails f.context (le f.entry 8 2) = none →
      let seed := if (byteAt f.entry 10).testBit 0 then le f.entry 16 8 else x.seed
      leads (.planBind q i) s ((s.dev.bindStream f.context (le f.entry 8 2) seed x).complete q i 0 0x0B x.freeSlot)) ∧
  (∀ (d : Dev) (c stream seed : Nat) (x : Context), d.ctx? c = some x →
    let e := d.initBiasTable x x.freeSlot
    let g := e.updCtx c fun y => { y with bindings := y.bindings ++ [{ stream, slot := x.freeSlot, seed, biases := e.initialBiases x }] }
    (stream = 0xFFFF → g.holdsDetect x = false → d.bindStream c stream seed x = g) ∧
    (∀ k, stream ≠ 0xFFFF → k < 4 → g.rd (Reg.plansStreamContexts_context k) stream = 0 →
      (∀ j, j < k → g.rd (Reg.plansStreamContexts_context j) stream ≠ 0) →
      let h := g.wr (Reg.plansStreamContexts_context k) stream c
      d.bindStream c stream seed x = if h.holdsDetect x then h.createTrackSet c stream else h) ∧
    (g.ctx? c).bind (·.binding? stream) = ((x.bindings ++ [{ stream, slot := x.freeSlot, seed, biases := e.initialBiases x }] : List Binding).find?
      fun b => b.stream == stream)) ∧
  (∀ (s : State) (q i : Nat) (f : Fetched), ready (.planUnbind q i) s → s.dev.takeCommand q i 0x0B04 = some f →
    (f.started = true → leads (.planUnbind q i) s s.dev) ∧
    (f.started = false → s.dev.ctx? f.context = none → leads (.planUnbind q i) s (s.dev.complete q i 0x86 0x0B)) ∧
    ∀ x, f.started = false → s.dev.ctx? f.context = some x →
      (x.binding? (le f.entry 8 2) = none → leads (.planUnbind q i) s (s.dev.complete q i 0x86 0x0B)) ∧
      ((x.binding? (le f.entry 8 2)).isSome = true →
        let d := (s.dev.startCommand q i).updCtx f.context fun x =>
          x.updBinding (le f.entry 8 2) fun b => { b with leaving := b.leaving ++ [(q, i)] }
        (x.steps = [] → leads (.planUnbind q i) s (d.settleUnbinds f.context)) ∧
        (x.steps ≠ [] → leads (.planUnbind q i) s d))) ∧
  ∀ (s : State) (q i : Nat) (f : Fetched), ready (.planUnload q i) s → s.dev.takeCommand q i 0x0B02 = some f →
    (f.started = true → leads (.planUnload q i) s s.dev) ∧
    (f.started = false → s.dev.ctx? f.context = none → leads (.planUnload q i) s (s.dev.complete q i 0x83 0x0B)) ∧
    ∀ x, f.started = false → s.dev.ctx? f.context = some x → leads (.planUnload q i) s
      (thenAbandon (((s.dev.startCommand q i).updCtx f.context fun x =>
        { x with unloading := x.unloading ++ [(q, i)], state := if x.state = .faulting then .faulting else .closing }).finishUnload f.context))

/-- Frames and steps (R398 to R404, R434). -/
def Obligations.YardFrames : Prop :=
  (∀ s : State, ready .frameReady s →
    (s.dev.signalled = [] → leads .frameReady s s.dev) ∧
    ∀ n rest f, s.dev.signalled = n :: rest → (s.dev.frames.find? fun f => f.number == n) = some f →
      let d : Dev := { s.dev with signalled := rest }
      let cs := isort (· ≤ ·) ((d.contexts.filter fun e => (e.2.binding? f.stream).isSome).map (·.1))
      (cs = [] → leads .frameReady s (d.returnFrame n)) ∧
      (cs ≠ [] → leads .frameReady s (cs.foldl (fun d c => d.frameToContext f c)
        { d with frames := d.frames.map fun g => if g.number = n then { g with holds := cs } else g }))) ∧
  (∀ (s : State) (c : Nat), ready (.gatherTimeout c) s →
    (s.dev.ctx? c = none → leads (.gatherTimeout c) s s.dev) ∧
    ∀ x, s.dev.ctx? c = some x →
      (x.latency = true ∨ s.dev.gatherOver c x = false → leads (.gatherTimeout c) s s.dev) ∧
      (x.latency = false → s.dev.gatherOver c x = true → leads (.gatherTimeout c) s (s.dev.updCtx c fun x => { x with gathered := true }))) ∧
  (∀ (s : State) (c : Nat), ready (.stepDispatch c) s →
    (s.dev.ctx? c = none → leads (.stepDispatch c) s s.dev) ∧
    ∀ x, s.dev.ctx? c = some x →
      (s.dev.mayDispatch c = false ∨ s.dev.stepDue c x = false → leads (.stepDispatch c) s s.dev) ∧
      (s.dev.mayDispatch c = true → s.dev.stepDue c x = true → leads (.stepDispatch c) s (s.dev.dispatchStep c x)) ∧
      (s.dev.mayDispatch c = true → s.dev.stepDue c x = true → x.manifest.maxStreams = 0 → x.latency = false → s.dev.commandList x x.manifest.reduced = [] →
        s.dev.commandList x false = [] →
        yields (.stepDispatch c) s fun w => ∃ y, w.ctx? c = some y ∧ y.state = .active ∧ y.dispatched = x.dispatched + 1 ∧
          y.credit + 1 = x.credit ∧ y.steps.length = x.steps.length + 1 ∧ (∀ t ∈ x.steps, t ∈ y.steps) ∧
          (∃ t ∈ y.steps, t.number = x.dispatched ∧ t.entries = [] ∧ t.frames = []) ∧ w.mem = s.dev.mem ∧ w.queues = s.dev.queues)) ∧
  (∀ (d : Dev) (c : Nat) (x : Context), d.ctx? c = some x → d.mayDispatch c = true →
    (x.state = .idle ∨ x.state = .active) ∧ x.unloading = [] ∧ d.rd Reg.yardState = 0 ∧ x.steps.length < d.effDepth c ∧
      (x.latency = false → d.headroom = true)) ∧
  (∀ x : Context, x.bindable.Pairwise (fun a b => a.stream ≠ b.stream) ∧
    (∀ r ∈ x.bindable, r ∈ x.ready ∧ (x.manifest.ledgerBytes ≠ 0 → x.streamBusy r.stream = false))) ∧
  ∀ (s : State) (c : Nat), ready (.teardownEnd c) s →
    (s.dev.ctx? c = none → leads (.teardownEnd c) s s.dev) ∧
    ∀ x, s.dev.ctx? c = some x →
      (x.state ≠ .faulting → leads (.teardownEnd c) s s.dev) ∧
      (x.state = .faulting → x.unloading ≠ [] →
        leads (.teardownEnd c) s (thenAbandon ((s.dev.updCtx c fun x => { x with state := .closing }).finishUnload c))) ∧
      (x.state = .faulting → x.unloading = [] →
        let halt := s.dev.flag Reg.yardContextConfig_haltOnFault c = true ∨ s.dev.eligible x.manifest x.latency = [] ∨ x.manifest.enrol = true
        (halt → leads (.teardownEnd c) s (thenAbandon ((s.dev.updCtx c fun x => { x with state := .halted }).stepBoundary c))) ∧
        (¬halt → leads (.teardownEnd c) s (thenAbandon ((s.dev.updCtx c fun x => { x with state := .idle }).stepBoundary c))))

/-- Entries of a step, and switch points (R320, R328 to R330, R404, R407, R411, R412, R414). -/
def Obligations.YardEntries : Prop :=
  (∀ (s : State) (c n p : Nat) (b : Option DeckleBody), ready (.entryIssue c n p b) s →
    (s.dev.ctx? c = none ∨ s.dev.entry? c n p = none → leads (.entryIssue c n p b) s s.dev) ∧
    ∀ x e, s.dev.ctx? c = some x → s.dev.entry? c n p = some e →
      (e.state ≠ .placed ∨ (e.wait.any fun w => !w.met) = true ∨ x.behind e (fun f => f.state != .placed) = true ∨ (e.e.engine = 2 ∧ b = none) →
        leads (.entryIssue c n p b) s s.dev) ∧
      (e.state = .placed → (e.wait.any fun w => !w.met) = false → x.behind e (fun f => f.state != .placed) = false → e.e.engine ≠ 2 →
        dimsUsed e.e = [] → s.dev.knownOp x e.e = true →
        leads (.entryIssue c n p b) s (s.dev.updEntry c n p fun e => { e with state := .queued, crops := none })) ∧
      (e.state = .placed → (e.wait.any fun w => !w.met) = false → x.behind e (fun f => f.state != .placed) = false → e.e.engine ≠ 2 →
        dimsUsed e.e = [] → s.dev.knownOp x e.e = false →
        leads (.entryIssue c n p b) s (s.dev.contextFault c codeContextFault 0x0B 0x0B 0x0B30)) ∧
      ∀ t, e.state = .placed → (e.wait.any fun w => !w.met) = false → x.behind e (fun f => f.state != .placed) = false →
        (e.e.engine = 2 → b.isSome = true) →
        let d := (dimsUsed e.e).foldl (fun d k => d.readDim c n k) s.dev
        d.step? c n = some t →
        ((∃ k ∈ dimsUsed e.e, t.dims.getD k 0 = 0) →
          leads (.entryIssue c n p b) s (d.updEntry c n p fun e => { e with idle := true, state := .done })) ∧
        ((∀ k ∈ dimsUsed e.e, t.dims.getD k 0 ≠ 0) → d.knownOp x e.e = true →
          (e.e.engine ≠ 2 → leads (.entryIssue c n p b) s (d.updEntry c n p fun e => { e with state := .queued, crops := none })) ∧
          (∀ y, e.e.engine = 2 → b = some y → leads (.entryIssue c n p b) s (d.updEntry c n p fun e => { e with
            state := .queued, crops := some { list := y.list, count := t.dims.getD y.dimension 0, results := y.results } })))) ∧
  (∀ (s : State) (c n p : Nat), ready (.entryComplete c n p) s →
    (s.dev.entry? c n p = none → leads (.entryComplete c n p) s s.dev) ∧
    ∀ e, s.dev.entry? c n p = some e → e.state = .done → s.dev.coreOf c n p = none →
      leads (.entryComplete c n p) s ((s.dev.updEntry c n p fun e => { e with state := .complete }).signalFrom c
        (s.dev.relocated c n e.e.signalCounter) e.e.signalCount)) ∧
  (∀ (s : State) (c n p k : Nat) (e : StepEntry), ready (.entryComplete c n p) s → s.dev.entry? c n p = some e → s.dev.coreOf c n p = some k →
    let ended := e.state = .done ∨ e.state = .service ∧ e.e.engine = 1 ∧ (e.wait.all Armed.met) = true ∧ (s.dev.core k).drained = true
    let d := (s.dev.updCore k fun x => { x with serving := none, last := c }).count Reg.pressCoreState_completed k
    (ended → leads (.entryComplete c n p) s ((d.updEntry c n p fun e => { e with state := .complete }).signalFrom c
      (d.relocated c n e.e.signalCounter) e.e.signalCount)) ∧
    (¬ended → leads (.entryComplete c n p) s s.dev)) ∧
  (∀ (s : State) (c n : Nat), ready (.stepComplete c n) s →
    (s.dev.step? c n = none ∨ (∃ t, s.dev.step? c n = some t ∧ ∃ e ∈ t.entries, e.state ≠ .complete) → leads (.stepComplete c n) s s.dev) ∧
    (∀ x t, s.dev.ctx? c = some x → s.dev.step? c n = some t → (∀ e ∈ t.entries, e.state = .complete) →
      leads (.stepComplete c n) s (s.dev.endStep c n x t)) ∧
    ∀ x t, s.dev.ctx? c = some x → s.dev.step? c n = some t → (∀ e ∈ t.entries, e.state = .complete) → t.frames = [] → x.binding? 0xFFFF = none →
      leads (.stepComplete c n) s (thenAbandon
        (((((s.dev.countTrackerMisses t).clearInstance c x.counters t.instance_ true).updCtx c fun x =>
          { x with steps := x.steps.filter (fun u => u.number != n), completed := x.completed + 1 }).count Reg.yardContextCounters_completed c).stepBoundary c))) ∧
  (∀ (s : State) (k : Nat) (o : Bool), ready (.switchPoint k o) s →
    (s.dev.coreAlive k = false → leads (.switchPoint k o) s s.dev) ∧
    (s.dev.coreAlive k = true → (s.dev.core k).serving = none →
      (s.dev.firstCritical k = none → s.dev.firstOther k true = none → s.dev.firstOther k false = none → leads (.switchPoint k o) s s.dev) ∧
      (∀ y, s.dev.firstCritical k = some y → leads (.switchPoint k o) s (s.dev.takeCounted k y false o)) ∧
      (∀ y, s.dev.firstCritical k = none → s.dev.firstOther k true = some y → leads (.switchPoint k o) s (s.dev.takeCounted k y false o))) ∧
    ∀ c n p e, s.dev.coreAlive k = true → (s.dev.core k).serving = some (c, n, p) → s.dev.entry? c n p = some e →
      (e.atSwitch = false → leads (.switchPoint k o) s s.dev) ∧
      (∀ y, e.atSwitch = true → s.dev.critical c = false → s.dev.firstCritical k = some y →
        leads (.switchPoint k o) s ((s.dev.suspend k c n p).takeCounted k y true o))) ∧
  ∀ (d : Dev) (k c n p : Nat) (x : Context) (e : StepEntry), d.ctx? c = some x → d.entry? c n p = some e → (e.wait.any fun w => !w.met) = false →
    Memory.wf d.memFree d.mem → x.manifest.pressBytes ≤ 4194304 →
    ((d.suspend k c n p).core k).serving = none ∧ ((d.suspend k c n p).entry? c n p).map StepEntry.state = some .suspended ∧
    (∀ i, i < x.manifest.pressBytes → (d.suspend k c n p).getByte (x.saveAddress e.e.cell + i) = (d.core k).byte i) ∧
    ∀ a, a < x.saveAddress e.e.cell ∨ x.saveAddress e.e.cell + 4260352 ≤ a → (d.suspend k c n p).getByte a = d.getByte a

/-- The commands of areas 0x10 and 0x11 (R403, R428, R435). -/
def Obligations.YardCommands : Prop :=
  (∀ (s : State) (q i : Nat) (f : Fetched), ready (.yardRun q i) s → s.dev.takeCommand q i 0x1001 = some f →
    let n := le f.entry 8 4
    (s.dev.rd Reg.yardState ≠ 0 → leads (.yardRun q i) s (s.dev.complete q i 0x81 0x10)) ∧
    (s.dev.rd Reg.yardState = 0 → s.dev.ctx? f.context = none → leads (.yardRun q i) s (s.dev.complete q i 0x80 0x10)) ∧
    ∀ x, s.dev.rd Reg.yardState = 0 → s.dev.ctx? f.context = some x →
      (x.manifest.maxStreams ≠ 0 ∨ 2 ^ 32 ≤ x.credit + n → leads (.yardRun q i) s (s.dev.complete q i 0x80 0x10)) ∧
      (x.manifest.maxStreams = 0 → x.credit + n < 2 ^ 32 →
        leads (.yardRun q i) s ((s.dev.updCtx f.context fun x => { x with credit := x.credit + n }).complete q i 0 0x10 (x.credit + n)))) ∧
  (∀ (s : State) (q i : Nat) (f : Fetched), ready (.quiesce q i) s → s.dev.takeControl q i 0 = some f →
    (s.dev.rd Reg.yardState = 1 → leads (.quiesce q i) s (s.dev.complete q i 0x81 0x10)) ∧
    (s.dev.rd Reg.yardState = 0 → leads (.quiesce q i) s
      (Dev.checkQuiesce { (s.dev.wr Reg.yardState 0 1).startCommand q i with quiescing := s.dev.quiescing ++ [(q, i)] })) ∧
    (s.dev.rd Reg.yardState = 0 → s.dev.contexts = [] → s.dev.quiescing = [] → yields (.quiesce q i) s fun w =>
      w.rd Reg.yardState = 2 ∧ w.quiescing = [] ∧ w.mem = s.dev.mem)) ∧
  (∀ (s : State) (q i : Nat) (f : Fetched), ready (.endQuiesce q i) s → s.dev.takeControl q i 1 = some f →
    leads (.endQuiesce q i) s ((s.dev.wr Reg.yardState 0 0).complete q i 0 0x10)) ∧
  (∀ (s : State) (q i : Nat) (f : Fetched), ready (.resumeHalted q i) s → s.dev.takeControl q i 2 = some f →
    (s.dev.ctx? f.context = none → leads (.resumeHalted q i) s (s.dev.complete q i 0x80 0x10)) ∧
    ∀ x, s.dev.ctx? f.context = some x →
      (x.state ≠ .halted ∨ s.dev.eligible x.manifest x.latency = [] → leads (.resumeHalted q i) s (s.dev.complete q i 0x80 0x10)) ∧
      (x.state = .halted → s.dev.eligible x.manifest x.latency ≠ [] → leads (.resumeHalted q i) s
        ((s.dev.updCtx f.context fun x => { x with state := if x.steps = [] then .idle else .active }).complete q i 0 0x10))) ∧
  ∀ (s : State) (q i : Nat) (f : Fetched),
    let k := 256 * f.context + le f.entry 8 2
    let n := le f.entry 12 2
    let v := s.dev.rd Reg.signalCounterState_count k
    (ready (.signalOpSignal q i) s → s.dev.takeSignalOp q i 0 = some f →
      leads (.signalOpSignal q i) s ((s.dev.applySignal k n false).complete q i 0 0x11 (min 65535 (v + n)))) ∧
    (ready (.signalOpTake q i) s → s.dev.takeSignalOp q i 1 = some f →
      (n ≤ v → leads (.signalOpTake q i) s ((s.dev.wr Reg.signalCounterState_count k (v - n)).complete q i 0 0x11 (v - n))) ∧
      (v < n → leads (.signalOpTake q i) s
        (((s.dev.wr Reg.signalCounterState_misuse k 1).count Reg.signalCounters_misuses).complete q i 0x81 0x11 v))) ∧
    (ready (.signalOpRead q i) s → s.dev.takeSignalOp q i 2 = some f → leads (.signalOpRead q i) s (s.dev.complete q i 0 0x11 v))

/-- Signals (R423, R426, R427) -/
def Obligations.SignalsAdd : Prop :=
  (∀ (d : Dev) (k n : Nat) (h : Bool), d.counterQueue k = [] → d.rd Reg.signalCounterState_count k + n ≤ 65535 →
    (d.applySignal k n h).rd Reg.signalCounterState_count k = d.rd Reg.signalCounterState_count k + n ∧
    (∀ r i, ¬(r = Reg.signalCounterState_count ∧ i = k) → (d.applySignal k n h).rd r i = d.rd r i) ∧
    (d.applySignal k n h).contexts = d.contexts ∧ (d.applySignal k n h).mem = d.mem) ∧
  (∀ (d : Dev) (k : Nat) (h g : Bool), d.counterQueue k = [] → d.rd Reg.signalCounterState_count k + 2 ≤ 65535 →
    ((d.applySignal k 1 h).applySignal k 1 g).rd Reg.signalCounterState_count k = d.rd Reg.signalCounterState_count k + 2) ∧
  ∀ (s : State) (k counter n : Nat), ready (.signal k counter n) s →
    (s.dev.issuing k = none → leads (.signal k counter n) s s.dev) ∧
    ∀ c t p e, s.dev.issuing k = some (c, t, p, e) → counter < 224 →
      let d := s.dev.updEntry c t p id
      leads (.signal k counter n) s (d.signalFrom c (d.relocated c t counter) n)

/-- Waits (R424). -/
def Obligations.WaitsAreServedInOrder : Prop :=
  (∀ (d : Dev) (c t p n need : Nat) (e : StepEntry) (l : Bool), n < 240 → d.entry? c t p = some e → d.counterQueue (256 * c + n) = [] →
    need ≤ d.rd Reg.signalCounterState_count (256 * c + n) →
    (d.armWait c t p n need l).rd Reg.signalCounterState_count (256 * c + n) = d.rd Reg.signalCounterState_count (256 * c + n) - need ∧
    (d.armWait c t p n need l).counterQueue (256 * c + n) = [] ∧
    ((d.armWait c t p n need l).entry? c t p).map StepEntry.wait = some (some { counter := n, need, met := true })) ∧
  (∀ (d : Dev) (c t p n need : Nat) (l : Bool), n < 240 →
    (∀ w ws, d.counterQueue (256 * c + n) = w :: ws → d.rd Reg.signalCounterState_count (256 * c + n) < w.need) →
    (d.counterQueue (256 * c + n) = [] → d.rd Reg.signalCounterState_count (256 * c + n) < need) →
    (∃ w, (d.armWait c t p n need l).counterQueue (256 * c + n) = d.counterQueue (256 * c + n) ++ [w] ∧ w.who = .entry c t p ∧ w.need = need) ∧
    (d.armWait c t p n need l).regs = d.regs) ∧
  (∀ (d : Dev) (k n : Nat) (w : Waiter) (ws : List Waiter) (h : Bool), d.counterQueue k = w :: ws →
    d.rd Reg.signalCounterState_count k + n ≤ 65535 →
    (d.rd Reg.signalCounterState_count k + n < w.need →
      ((d.applySignal k n h).counterQueue k).map Waiter.who = (w :: ws).map Waiter.who ∧
      (d.applySignal k n h).rd Reg.signalCounterState_count k = d.rd Reg.signalCounterState_count k + n ∧
      (d.applySignal k n h).contexts = d.contexts) ∧
    (0 < n → w.need ≤ d.rd Reg.signalCounterState_count k + n →
      (∀ v, ws.head? = some v → d.rd Reg.signalCounterState_count k + n - w.need < v.need) →
      ((d.applySignal k n h).counterQueue k).map Waiter.who = ws.map Waiter.who ∧
      (d.applySignal k n h).rd Reg.signalCounterState_count k = d.rd Reg.signalCounterState_count k + n - w.need ∧
      (∀ c t p e, w.who = .entry c t p → d.entry? c t p = some e →
        ((d.applySignal k n h).entry? c t p).map StepEntry.wait = some (e.wait.map fun a => { a with met := true })))) ∧
  ∀ (s : State) (k counter n : Nat), ready (.wait k counter n) s →
    (s.dev.running k = none ∨ n = 0 → leads (.wait k counter n) s s.dev) ∧
    ∀ c t p e, s.dev.running k = some (c, t, p, e) → n ≠ 0 →
      leads (.wait k counter n) s (s.dev.armWait c t p (s.dev.relocated c t counter) n ((s.dev.ctx? c).any Context.latency))

/-! ### The tracker and Points -/

/-- Slices, engine faults and watch lists (R361, R373, R394). -/
def Obligations.TrackerEngines : Prop :=
  (∀ (s : State) (p : Bool) (e : Nat), s.dev.sliceAlive p e = false →
    (ready (.sliceBoundary p e) s → leads (.sliceBoundary p e) s s.dev) ∧
    (ready (.trackerEngineFault p e) s → leads (.trackerEngineFault p e) s s.dev)) ∧
  (∀ (s : State) (p : Bool) (e : Nat), ready (.sliceBoundary p e) s → s.dev.sliceAlive p e = true →
    s.dev.sliceJobs.find? (if p then 0x0E else 0x0D, e) = none →
    (s.dev.sliceNext p = none → leads (.sliceBoundary p e) s s.dev) ∧
    ∀ y, s.dev.sliceNext p = some y → leads (.sliceBoundary p e) s
      (Dev.updEntry { s.dev with
        sliceJobs := s.dev.sliceJobs.put (if p then 0x0E else 0x0D, e) { context := y.context, step := y.step, pos := y.pos } } y.context y.step y.pos fun f => { f with engine := some e, begun := true })) ∧
  (∀ (d : Dev) (p : Bool) (y : Choice), d.sliceNext p = some y → y.entry.engine = none ∧
    ∀ x ∈ d.poolChoices (if p then 4 else 3), x.entry.engine = none → (d.ctx? x.context).any Context.latency = true →
      (d.ctx? y.context).any Context.latency = true ∧ y.entry.order ≤ x.entry.order) ∧
  (∀ (s : State) (e : Nat), ready (.trackerEngineFault true e) s → s.dev.sliceAlive true e = true →
    ((∀ t, s.dev.faults.find? (0xEF, e) = some t → t + secondTicks ≤ s.dev.now) → leads (.trackerEngineFault true e) s
      (Dev.attend { s.dev with faults := s.dev.faults.put (0xEF, e) s.dev.now } { bit := Bit.fault, code := 0x31, area := 0x0E, detail := e })) ∧
    ∀ t, s.dev.faults.find? (0xEF, e) = some t → s.dev.now < t + secondTicks → yields (.trackerEngineFault true e) s fun w =>
      w.sliceAlive true e = false ∧ w.sliceJobs.find? (0x0E, e) = none ∧ w.attentionBit Bit.fault = true ∧
      w.rd Reg.dictionaryAttentionCause_detail (Bit.fault - 8) = e + 0x8000 ∧ w.mem = s.dev.mem) ∧
  (∀ (s : State) (e : Nat), ready (.trackerEngineFault false e) s → s.dev.sliceAlive false e = true →
    (∀ key t, s.dev.faults.find? key = some t → t + secondTicks ≤ s.dev.now) → yields (.trackerEngineFault false e) s fun w =>
      w.sliceAlive false e = true ∧ w.sliceJobs = s.dev.sliceJobs ∧ w.contexts = s.dev.contexts ∧ w.attentionBit Bit.fault = true ∧
      w.rd Reg.dictionaryAttentionCause_detail (Bit.fault - 8) = e ∧
      bits (w.rd Reg.dictionaryAttentionCause_status (Bit.fault - 8)) 0 8 = 0x31 ∧
      bits (w.rd Reg.dictionaryAttentionCause_status (Bit.fault - 8)) 24 8 = 0x0D ∧ w.mem = s.dev.mem) ∧
  (∀ (s : State) (q i : Nat) (f : Fetched), ready (.watchLoad q i) s → s.dev.takeCommand q i 0x0D10 = some f →
    let l := byteAt f.entry 8
    let n := le f.entry 10 2
    let bad := ∃ k, k < n ∧ ((∃ v ∈ (watchEntry f.data k).2, (f32v v).isFinite = false) ∨ ∀ v ∈ (watchEntry f.data k).2, (f32v v).isZero = true)
    (15 < l ∨ 4096 < n → leads (.watchLoad q i) s (s.dev.complete q i 0x80 0x0D)) ∧
    (l ≤ 15 → n ≤ 4096 → f.data.length < 272 * n → leads (.watchLoad q i) s s.dev) ∧
    (l ≤ 15 → n ≤ 4096 → 272 * n ≤ f.data.length →
      (bad → leads (.watchLoad q i) s (s.dev.complete q i 0x80 0x0D)) ∧
      (¬bad → Memory.wf s.dev.memFree s.dev.mem → yields (.watchLoad q i) s fun w =>
        w.rd Reg.trackerWatchCount l = n ∧
        (∀ k, k < n → w.getNat (s.dev.watchAddress l k) 4 = le f.data (272 * k) 4) ∧
        ∀ a, a < s.dev.watchAddress l 0 ∨ s.dev.watchAddress l n ≤ a → w.getByte a = s.dev.getByte a))) ∧
  ∀ (s : State) (e : Nat) (x : List EccEvent), ready (.embed e x) s →
    (s.dev.sliceAt false e 2 = none → leads (.embed e x) s s.dev) ∧
    ∀ y, s.dev.sliceAt false e 2 = some y →
      let d := s.dev.eccAndSlots x
      let body := y.x.store + y.entry.e.body
      let vecs := y.x.scratch + d.getNat (body + 8) 4
      let tags := y.x.scratch + d.getNat (body + 12) 4
      let n := y.s.dims.getD (d.getNat (body + 16) 1) 0
      (n = 0 → y.entry.olds = [] → d.poisoned vecs 0 = false → d.poisoned tags 0 = false →
        leads (.embed e x) s ((d.commitSlice false e y).count Reg.trackerEngineState_committed e)) ∧
      (d.poisoned vecs (256 * n) = true ∨ d.poisoned tags (16 * n) = true → leads (.embed e x) s
        (Dev.faultCtx { d with sliceJobs := d.sliceJobs.erase (0x0D, e) } y.at_.context 0x82 0x14)) ∧
      (d.poisoned vecs (256 * n) = false → d.poisoned tags (16 * n) = false → leads (.embed e x) s
        ((Dev.commitSlice (d.withSettings y.entry.olds fun d => (List.range n).foldl (fun d i =>
          d.attachEmbedding (d.getNat (tags + 16 * i) 1) (d.getNat (tags + 16 * i + 2) 2) (d.getNat (tags + 16 * i + 4) 4)
            (d.getNat (tags + 16 * i + 8) 4) ((List.range 128).map fun k => h32 (d.getNat (vecs + 256 * i + 2 * k) 2))) d) false e y).count
          Reg.trackerEngineState_committed e))

/-- Tracks and the rules on them (R364, R369, R370, R377, R384). -/
def Obligations.TracksFollow : Prop :=
  (∀ (s : State) (e a : Nat) (x : List EccEvent) (l : List Nat), ready (.detect e a x l) s →
    (s.dev.sliceAt false e 1 = none → leads (.detect e a x l) s s.dev) ∧
    ∀ y i t f, s.dev.sliceAt false e 1 = some y → y.entry.frame = some i →
      let d := s.dev.eccAndSlots x
      let heads := (List.range (parseDetect (d.getNat (y.x.store + y.entry.e.body) 32)).heads).map fun k =>
        parseHead (d.getNat (y.x.store + y.entry.e.body + 32 + 32 * k) 32)
      d.step? y.at_.context y.at_.step = some t → t.frames[i]? = some f →
      let seals := ∀ g ∈ t.entries, g.e.engine ≠ 4
      (seals → y.x.mayLeave f.frame.stream f.frame.number = false → leads (.detect e a x l) s d) ∧
      (¬seals ∨ y.x.mayLeave f.frame.stream f.frame.number = true →
        (∃ h ∈ heads, d.poisoned (a + h.offset) (h.height * h.width * h.cpad * 2) = true) → leads (.detect e a x l) s
          (Dev.faultCtx { d with sliceJobs := d.sliceJobs.erase (0x0D, e) } y.at_.context 0x82 0x14)) ∧
      (¬seals → (∀ h ∈ heads, d.poisoned (a + h.offset) (h.height * h.width * h.cpad * 2) = false) →
        (f.withheld = true → leads (.detect e a x l) s ((d.commitSlice false e y).count Reg.trackerEngineState_committed e)) ∧
        (f.withheld = false → leads (.detect e a x l) s
          (((d.detectFrame y i f.frame a l).commitSlice false e y).count Reg.trackerEngineState_committed e))) ∧
      (seals → y.x.mayLeave f.frame.stream f.frame.number = true →
        (∀ h ∈ heads, d.poisoned (a + h.offset) (h.height * h.width * h.cpad * 2) = false) → f.withheld = false →
        leads (.detect e a x l) s ((((d.detectFrame y i f.frame a l).sealFrame y.at_.context y.at_.step i []).commitSlice false e y).count
          Reg.trackerEngineState_committed e))) ∧
  (∀ (s : State) (e : Nat) (x : List EccEvent), ready (.evaluate e x) s →
    (s.dev.sliceAt true e 1 = none → leads (.evaluate e x) s s.dev) ∧
    ∀ y i t f, s.dev.sliceAt true e 1 = some y → y.entry.frame = some i →
      let d := s.dev.eccAndSlots x
      d.step? y.at_.context y.at_.step = some t → t.frames[i]? = some f →
      (y.x.mayLeave f.frame.stream f.frame.number = false → leads (.evaluate e x) s d) ∧
      (y.x.mayLeave f.frame.stream f.frame.number = true → yields (.evaluate e x) s fun w =>
        w.sliceJobs.find? (0x0E, e) = none ∧
        ((w.step? y.at_.context y.at_.step).bind fun t => t.frames[i]?).map StepFrame.sealed = some true ∧
        (∀ g, d.entry? y.at_.context y.at_.step y.at_.pos = some g →
          (w.entry? y.at_.context y.at_.step y.at_.pos).map StepEntry.state = some .done) ∧ w.queues = d.queues)) ∧
  (∀ (b : DetectBody) (cs : List Candidate), (suppress b cs []).1.length ≤ b.keepMax ∧ (∀ c ∈ (suppress b cs []).1, c ∈ cs) ∧
    (suppress b cs []).1.Pairwise fun x y => (b.agnostic = true ∨ x.cls = y.cls) → flt b.iou (iou y.box x.box) = false) ∧
  (∀ ps : List Pair, (assign ps).Pairwise (fun p q => p.id ≠ q.id ∧ p.det ≠ q.det) ∧ (∀ p ∈ assign ps, p ∈ ps) ∧
    ∀ p ∈ ps, ∃ q ∈ assign ps, q.id = p.id ∨ q.det = p.det) ∧
  (∀ (p : Predicted) (x : Detection) (n : Noise) (confirm maxMiss u ts : Nat),
    (∃ k, Track.step p (some x) n confirm maxMiss u ts = some k ∧ k.id = p.track.id ∧ k.cls = p.track.cls ∧ k.box = x.box ∧ k.lastUnit = u ∧
      (p.track.state = .tentative → k.hits = p.track.hits + 1 ∧ k.state = if confirm ≤ p.track.hits + 1 then .confirmed else .tentative) ∧
      (p.track.state = .confirmed → k.hits = p.track.hits + 1 ∧ k.misses = 0 ∧ k.state = .confirmed) ∧
      (p.track.state = .coasting → k.misses = 0 ∧ k.state = .confirmed)) ∧
    (p.track.state = .tentative → Track.step p none n confirm maxMiss u ts = none) ∧
    (p.track.state = .confirmed → Track.step p none n confirm maxMiss u ts = some { p.track with state := .coasting, misses := 1 }) ∧
    (p.track.state = .coasting → Track.step p none n confirm maxMiss u ts =
      if maxMiss < p.track.misses + 1 then none else some { p.track with misses := p.track.misses + 1 })) ∧
  (∀ (ts : List Track) (i : Nat), 1 ≤ i → i ≤ 0xFFFFFFFF → ts.length ≤ 131072 →
    (∀ t ∈ ts, t.id ≠ freeId (ts.length + 1) ts i) ∧ 1 ≤ freeId (ts.length + 1) ts i ∧ freeId (ts.length + 1) ts i ≤ 0xFFFFFFFF) ∧
  ∀ (r : RuleTrack) (now : Bool) (debounce time : Nat),
    (r.inside = none → (r.next now debounce time).1.inside = some now ∧ (r.next now debounce time).2 = false) ∧
    (r.inside = some now → r.next now debounce time = ({ r with other := 0 }, false)) ∧
    (r.inside = some (!now) →
      (debounce ≤ r.other + 1 → (r.next now debounce time).1.inside = some now ∧ (r.next now debounce time).2 = true) ∧
      (r.other + 1 < debounce → r.next now debounce time = ({ r with other := r.other + 1 }, false)))

/-! ### Egress, lines, CAN FD, PMBus and the test access port -/

/-- What leaves the device (R68, R380, R381, R387, R389, R573 to R581). -/
def Obligations.EgressAndPins : Prop :=
  (∀ (s : State) (k : Nat) (v : ConsumerRead), ready (.batchEgress k v) s →
    ((∀ b ∈ s.dev.held, b.stream ≠ k) → leads (.batchEgress k v) s s.dev) ∧
    ∀ b, (s.dev.held.find? fun b => b.stream == k) = some b →
      (s.dev.poisoned b.pointer b.length = true → leads (.batchEgress k v) s ((s.dev.dropBatch b).batchLost k b.context false)) ∧
      (s.dev.poisoned b.pointer b.length = false → b.udpDone = true → s.dev.droppedBefore = [] → ∀ r, s.dev.ringOf k = some r →
        b.ringDone = false →
        (s.dev.flag Reg.pointsEgressRingEnable r = false → leads (.batchEgress k v) s
          (((s.dev.count Reg.pointsCounters_batchesDiscarded).streamOnce 0x0E k 0x63 0 0x0E b.context).dropBatch b)) ∧
        (s.dev.flag Reg.pointsEgressRingEnable r = true → s.dev.canMaster = true →
          (∀ c w, v = .word c → s.dev.writeRing r c (s.dev.getBytes b.pointer b.length) = some w →
            leads (.batchEgress k v) s (w.dropBatch b)) ∧
          ((∀ c, v = .word c → s.dev.writeRing r c (s.dev.getBytes b.pointer b.length) = none) → yields (.batchEgress k v) s fun w =>
            w.held = s.dev.held.map (fun x => if x = b then { b with udpDone := true, missed := true, parked := false } else x) ∧
            (∀ a b, .hostWrite a b ∈ w.sent → .hostWrite a b ∈ s.dev.sent) ∧ w.pools = s.dev.pools ∧ w.mem = s.dev.mem ∧
            (v = .poisoned ∨ v = .timedOut → w.attentionBit Bit.link = true))))) ∧
  (∀ (d : Dev) (r c : Nat) (bytes : List Byte),
    let size := 2 ^ d.rd Reg.pointsEgressRing_sizeLog2 r
    let base := d.rd Reg.pointsEgressRing_page r * 4096
    let made := d.rd Reg.pointsEgressRingState_produced r
    ∀ w, d.writeRing r c bytes = some w → 4 ≤ bytes.length → bytes.length ≤ size →
      ∃ pad off, (pad = 0 ∨ pad + made % size = size) ∧ (made + pad) % size = off ∧ off + bytes.length ≤ size ∧
        w.rd Reg.pointsEgressRingState_produced r = made + pad + bytes.length ∧ made + pad + bytes.length - c ≤ size ∧
        (∃ before, w.sent = .hostWrite (base + off) (bytes.take 4) :: .hostWrite (base + off + 4) (bytes.drop 4) :: before) ∧
        w.mem = d.mem) ∧
  (∀ (s : State) (k : Nat), ready (.dioPulseEnd k) s →
    ((s.dev.dioLine k).pulseEnd = none → leads (.dioPulseEnd k) s s.dev) ∧
    ∀ t, (s.dev.dioLine k).pulseEnd = some t →
      (s.dev.now < t → leads (.dioPulseEnd k) s s.dev) ∧
      (t ≤ s.dev.now → leads (.dioPulseEnd k) s (s.dev.updDio k fun l => { l with pulseEnd := none }))) ∧
  (∀ (d : Dev) (a : Nat),
    let k := d.rd Reg.pointsAction_line a
    let e := d.now + d.rd Reg.pointsAction_pulseMs a * 3125
    d.rd Reg.pinsDioConfig_owner k = 2 →
    (d.driveLine a).dioAsserted k = true ∧
    (d.flag Reg.pointsAction_latch a = true → ((d.driveLine a).dioLine k).latched = true ∧
      ((d.driveLine a).dioLine k).pulseEnd = (d.dioLine k).pulseEnd) ∧
    (d.flag Reg.pointsAction_latch a = false → ((d.driveLine a).dioLine k).latched = (d.dioLine k).latched ∧
      ((d.driveLine a).dioLine k).pulseEnd = some (match (d.dioLine k).pulseEnd with | none => e | some t => max t e)) ∧
    ∀ j, j ≠ k → (d.driveLine a).dioLine j = d.dioLine j) ∧
  (∀ (s : State) (k : Nat) (level : Bool), ready (.dioInputFiltered k level) s →
    ((s.dev.dioLine k).level = level → leads (.dioInputFiltered k level) s s.dev) ∧
    ((s.dev.dioLine k).level ≠ level →
      leads (.dioInputFiltered k level) s ((s.dev.updDio k fun l => { l with level }).count Reg.pinsDioEdges k))) ∧
  (∀ s : State,
    (ready .canBusOff s →
      (s.dev.flag Reg.pinsCanEnable = false ∨ s.dev.rd Reg.pinsCanState_state = 3 → leads .canBusOff s s.dev) ∧
      (s.dev.flag Reg.pinsCanEnable = true → s.dev.rd Reg.pinsCanState_state ≠ 3 →
        leads .canBusOff s (((s.dev.wr Reg.pinsCanState_state 0 3).count Reg.pinsCanState_busOffs).beginLasting
          { bit := Bit.link, area := 0x1B, detail := 0x100 }))) ∧
    (ready .canBusOffRecovery s →
      (s.dev.rd Reg.pinsCanState_state ≠ 3 → leads .canBusOffRecovery s s.dev) ∧
      (s.dev.rd Reg.pinsCanState_state = 3 → yields .canBusOffRecovery s fun w =>
        w.rd Reg.pinsCanState_state = 1 ∧ w.rd Reg.pinsCanState_txErrors = 0 ∧ w.rd Reg.pinsCanState_rxErrors = 0 ∧
        w.canEvents = s.dev.canEvents ∧ w.mem = s.dev.mem)) ∧
    ∀ ok, ready (.canFrameTransmitted ok) s →
      (s.dev.flag Reg.pinsCanEnable = false ∨ s.dev.rd Reg.pinsCanState_state = 3 ∨ (s.dev.canEvents = [] ∧ s.dev.canSegments = []) →
        leads (.canFrameTransmitted ok) s s.dev) ∧
      ∀ f fs, wireFollows s → s.dev.flag Reg.pinsCanEnable = true → s.dev.rd Reg.pinsCanState_state ≠ 3 →
        (s.dev.canEvents = f :: fs → yields (.canFrameTransmitted ok) s fun w => w.canEvents = fs ∧ w.canSegments = s.dev.canSegments ∧
          w.sent = if ok then .canSegment f.identifier f.data :: s.dev.sent else s.dev.sent) ∧
        (s.dev.canEvents = [] → s.dev.canSegments = f :: fs → yields (.canFrameTransmitted ok) s fun w => w.canSegments = fs ∧
          w.sent = if ok then .canSegment f.identifier f.data :: s.dev.sent else s.dev.sent)) ∧
  (∀ (s : State) (words : List Nat), ready (.pmbAlert words) s →
    ((∀ i, i < 8 → s.dev.flag Reg.powerVrmPage_enable i = false) → leads (.pmbAlert words) s s.dev) ∧
    ∀ i, i < 8 → yields (.pmbAlert words) s fun w => w.rd Reg.pinsPmbusStatus_status i =
      if s.dev.flag Reg.powerVrmPage_enable i then words.getD i 0 else s.dev.rd Reg.pinsPmbusStatus_status i) ∧
  ∀ s : State,
    (ready .extest s → leads .extest s { s.dev with tap := if s.dev.perstLow then 0x00 else 0xFF }) ∧
    (ready .clamp s → leads .clamp s { s.dev with tap := if s.dev.perstLow then 0x04 else 0xFF }) ∧
    (ready .highz s → leads .highz s { s.dev with tap := if s.dev.perstLow then 0x05 else 0xFF }) ∧
    (ready .samplePreload s → leads .samplePreload s { s.dev with tap := 0x01 }) ∧
    (∀ c, ready (.bypass c) s → leads (.bypass c) s { s.dev with tap := 0xFF }) ∧
    (ready .bootstat s → leads .bootstat s { s.dev with tap := 0x20, sent := .bootStatus (s.dev.elemNat .bootState 0) :: s.dev.sent })

/-! ### Pools and LPDDR6 -/

/-- The Sidings and LPDDR6 (R449 to R457, R460, R463, R466, R467). -/
def Obligations.PoolsAndRanks : Prop :=
  (∀ (s : State) (q i : Nat) (x : List EccEvent) (f : Fetched), ready (.poolAlloc q i x) s → (s.dev.eccErrors x).takeCommand q i 0x1401 = some f →
    let d := s.dev.eccErrors x
    let p := byteAt f.entry 8
    let n := le f.entry 12 4
    ((d.pool p).on = false → leads (.poolAlloc q i x) s (d.complete q i 0x81 0x14)) ∧
    ∀ w, (d.pool p).on = true →
      (∀ a, d.alloc p n 0xFFFF = (.ok a, w) → leads (.poolAlloc q i x) s (w.complete q i 0 0x14 (a / 256))) ∧
      (∀ code, d.alloc p n 0xFFFF = (.fail code, w) → leads (.poolAlloc q i x) s (w.complete q i code 0x14))) ∧
  (∀ (d e : Dev) (p n owner a : Nat), d.cellChain p = false → ((d.pool p).allocated.map (·.1)).Pairwise (· < ·) →
    d.alloc p n owner = (.ok a, e) →
    (∃ k b, d.classFor p n = some k ∧ n ≤ d.classSize p k ∧ d.classFirst p k ≤ b ∧ b < d.classFirst p k + d.classCount p k ∧
      a = d.classBase p k + (b - d.classFirst p k) * d.classSize p k ∧ (∀ o, (b, o) ∉ (d.pool p).allocated) ∧
      ∀ x, x ∈ (e.pool p).allocated ↔ x = (b, owner) ∨ x ∈ (d.pool p).allocated) ∧
    ((e.pool p).allocated.map (·.1)).Pairwise (· < ·) ∧ (∀ r, r ≠ p → e.pool r = d.pool r) ∧ e.mem = d.mem) ∧
  (∀ (s : State) (q i : Nat) (x : List EccEvent) (f : Fetched), ready (.poolFree q i x) s → (s.dev.eccErrors x).takeCommand q i 0x1402 = some f →
    let d := s.dev.eccErrors x
    let a := le f.entry 8 8
    (d.poolHolding a = none → leads (.poolFree q i x) s (d.complete q i 0x21 0x14)) ∧
    ∀ p, d.poolHolding a = some p →
      (∀ code n w, d.give p a (le f.entry 16 4) = (some code, n, w) → leads (.poolFree q i x) s (w.complete q i code 0x14 n)) ∧
      (∀ n w, d.give p a (le f.entry 16 4) = (none, n, w) → leads (.poolFree q i x) s (w.complete q i 0 0x14 n))) ∧
  (∀ (d e : Dev) (p a : Nat), d.freeOne p a = (none, e) →
    (∃ b, d.bufferAt p a = some b ∧ (∃ o, (b, o) ∈ (d.pool p).allocated) ∧ ∀ o, (b, o) ∉ (e.pool p).allocated) ∧
    (e.freeOne p a).1 = some 0x22 ∧ ((e.freeOne p a).2.pool p) = e.pool p) ∧
  (∀ (s : State) (p : Nat) (l : List EccEvent), ready (.freeRingRefill p l) s →
    let d := (s.dev.eccErrors l).checkControl p
    let x := d.pool p
    (x.on = false ∨ (64 ≤ x.ring ∧ x.ring ≤ 224) → leads (.freeRingRefill p l) s d) ∧
    (x.on = true → x.ring < 64 →
      leads (.freeRingRefill p l) s (d.setPool p { x with ring := x.ring + min 128 (d.poolFree p - x.ring) })) ∧
    (x.on = true → 224 < x.ring → leads (.freeRingRefill p l) s (d.setPool p { x with ring := x.ring - 128 }))) ∧
  (∀ (d : Dev) (a b : Nat), a < lpddrEnd → b < lpddrEnd →
    (∀ k j, k < 60 → j < 60 → d.rd Reg.lpddr6Remap_channel k = d.rd Reg.lpddr6Remap_channel j →
      d.rd Reg.lpddr6Remap_rank k = d.rd Reg.lpddr6Remap_rank j → k = j) →
    d.dramPlace a = d.dramPlace b → a / 256 = b / 256) ∧
  (∀ (s : State) (e n : Nat) (busy : Bool) (t : Int),
    (ready (.refreshDue e busy) s →
      (busy = false → leads (.refreshDue e busy) s s.dev) ∧
      (busy = true → (s.dev.rank e).postponed < 8 → leads (.refreshDue e busy) s
        ((s.dev.setRank e { s.dev.rank e with postponed := (s.dev.rank e).postponed + 1 }).count Reg.lpddr6RankCounters_postponed e)) ∧
      (busy = true → 8 ≤ (s.dev.rank e).postponed → leads (.refreshDue e busy) s (s.dev.count Reg.lpddr6RankCounters_forced e))) ∧
    (ready (.refreshMakeUp e n) s →
      let k := min n (s.dev.rank e).postponed
      (k = 0 → leads (.refreshMakeUp e n) s s.dev) ∧
      (k ≠ 0 → leads (.refreshMakeUp e n) s
        ((s.dev.setRank e { s.dev.rank e with postponed := (s.dev.rank e).postponed - k }).count Reg.lpddr6RankCounters_makeUp e k))) ∧
    (ready (.rankTemperatureRead e t) s → yields (.rankTemperatureRead e t) s fun w =>
      (w.rank e).interval = (if 85 < t then 1952 else 3904) ∧ (w.rank e).postponed = (s.dev.rank e).postponed ∧
      (∀ j, j ≠ e → w.rank j = s.dev.rank j) ∧ w.regs = s.dev.regs ∧ w.mem = s.dev.mem)) ∧
  (∀ (s : State) (q i : Nat) (f : Fetched), ready (.rankRetire q i) s → s.dev.takeCommand q i 0x1501 = some f →
    let lr := byteAt f.entry 8
    (s.dev.rankBusy lr = true → leads (.rankRetire q i) s (s.dev.complete q i 0x81 0x15)) ∧
    (s.dev.rankBusy lr = false → s.dev.freeSpares = [] → leads (.rankRetire q i) s (s.dev.complete q i 0x80 0x15)) ∧
    ∀ e rest, s.dev.rankBusy lr = false → s.dev.freeSpares = e :: rest → leads (.rankRetire q i) s
      ((Dev.wr { s.dev with lp := { s.dev.lp with queued := s.dev.lp.queued ++ [(lr, e)] } } Reg.lpddr6Remap_state e 4).complete q i 0
        0x15 s.dev.lp.queued.length)) ∧
  (∀ s : State, ready .migrationStart s →
    (s.dev.lp.current ≠ none ∨ s.dev.lp.queued = [] → leads .migrationStart s s.dev) ∧
    ∀ lr e rest, s.dev.lp.current = none → s.dev.lp.queued = (lr, e) :: rest → lr < 60 → 60 ≤ e → yields .migrationStart s fun w =>
      w.lp.current = some { rank := lr, target := e } ∧ w.lp.queued = rest ∧ w.rd Reg.lpddr6Remap_state lr = 2 ∧
      w.rd Reg.lpddr6Remap_state e = 3 ∧ w.attentionBit Bit.memory = true ∧ w.mem = s.dev.mem ∧
      (∀ k, w.rd Reg.lpddr6Remap_channel k = s.dev.rd Reg.lpddr6Remap_channel k ∧ w.rd Reg.lpddr6Remap_rank k = s.dev.rd Reg.lpddr6Remap_rank k)) ∧
  ∀ (s : State) (l : List Nat), ready (.migrationDone l) s →
    (s.dev.lp.current = none → leads (.migrationDone l) s (s.dev.reportLost s.dev)) ∧
    ∀ m, s.dev.lp.current = some m → m.rank < 60 → 60 ≤ m.target → s.dev.contexts = [] → yields (.migrationDone l) s fun w =>
      w.lp.current = none ∧ w.lp.queued = s.dev.lp.queued ∧ w.mem = s.dev.mem ∧ (l = [] → w.poison = s.dev.poison) ∧
      (∀ v ∈ l, v ∉ m.written → poisonUnit ((v * 60 + m.rank) * 256) ∈ w.poison) ∧
      w.rd Reg.lpddr6Remap_channel m.rank = s.dev.rd Reg.lpddr6Remap_channel m.target ∧
      w.rd Reg.lpddr6Remap_rank m.rank = s.dev.rd Reg.lpddr6Remap_rank m.target ∧
      w.rd Reg.lpddr6Remap_channel m.target = s.dev.rd Reg.lpddr6Remap_channel m.rank ∧
      w.rd Reg.lpddr6Remap_rank m.target = s.dev.rd Reg.lpddr6Remap_rank m.rank ∧
      w.rd Reg.lpddr6Remap_state m.rank = 1 ∧ w.rd Reg.lpddr6Remap_state m.target = 5

/-! ### Power, the rail and heat -/

/-- The Gauge, the bubble law, domains, operating points, the rack budget and measured power (R477 to R502). -/
def Obligations.PowerControl : Prop :=
  (∀ (s : State) (es : List Activity) (zs : List ZoneLoad), ready (.gaugeEpoch es zs) s →
    let p := s.dev.watts Reg.powerEstimateGain * s.dev.rawPower es zs + s.dev.watts Reg.powerEstimateOffset
    yields (.gaugeEpoch es zs) s fun w => w.rd Reg.powerEstimate_pEst = f32Of p ∧ w.rd Reg.powerEstimate_pCtl = f32Of (s.dev.controlled p) ∧
      w.pw.hist = (f32Of p :: s.dev.pw.hist).take 4 ∧ w.mem = s.dev.mem) ∧
  (∀ (p cap aBe aLc : Rat) (kBe kLc : Nat), 0 ≤ aBe → 0 ≤ aLc →
    let x := p + removed kBe kLc aBe aLc - cap
    let t := bubbleTargets p cap kBe kLc aBe aLc
    t.1 ≤ 60 ∧ t.2 ≤ 60 ∧ (x ≤ 0 → t = (0, 0)) ∧ (t.2 ≠ 0 → t.1 = 60) ∧
      (t.1 < 60 → x ≤ (t.1 : Rat) / 64 * aBe) ∧ (0 < aLc → t.2 < 60 → x ≤ removed t.1 t.2 aBe aLc) ∧
      (0 < aBe → t.1 ≠ 0 → ((t.1 : Rat) - 1) / 64 * aBe < x)) ∧
  (∀ (s : State) (x : Domain) (g : Bool), ready (.domainReady ⟨x, g⟩) s →
    ((∀ t, (s.dev.domain x).readyAt = some t → s.dev.now < t) → leads (.domainReady ⟨x, g⟩) s s.dev) ∧
    ∀ t, (s.dev.domain x).readyAt = some t → t ≤ s.dev.now →
      let d := s.dev.updDomain x fun _ => { running := true, powered := true }
      (x ≠ .random ∨ (s.dev.domain x).powered = true → leads (.domainReady ⟨x, g⟩) s d) ∧
      (x = .random → (s.dev.domain x).powered = false →
        (g = true → leads (.domainReady ⟨x, g⟩) s (d.setFlag Reg.randomSelftest 0 true)) ∧
        (g = false → leads (.domainReady ⟨x, g⟩) s
          ((d.setFlag Reg.randomSelftest 0 false).attend { bit := Bit.fault, area := 0x0A, detail := 1 })))) ∧
  (∀ (s : State) (x : Domain), ready (.idleClockStop x) s →
    let due := (s.dev.domain x).running = true ∧ s.dev.domainWork x = none ∧ s.dev.standby x = false ∧
      ∃ t, (s.dev.domain x).idleSince = some t ∧ t * 8 + s.dev.rd Reg.powerIdleOffUs * 25 ≤ s.dev.now * 8
    (¬due → leads (.idleClockStop x) s s.dev) ∧
    (due → s.dev.pw.fits (ratOf s.dev.pw.pred - s.dev.wakeStep x) = false → leads (.idleClockStop x) s (s.dev.count Reg.powerCounters_slopeHeld)) ∧
    (due → s.dev.pw.fits (ratOf s.dev.pw.pred - s.dev.wakeStep x) = true → yields (.idleClockStop x) s fun w =>
      (w.domain x).running = false ∧ (∀ y, y ≠ x → w.domain y = s.dev.domain y) ∧ w.regs = s.dev.regs ∧ w.mem = s.dev.mem ∧
      w.contexts = s.dev.contexts)) ∧
  (∀ (s : State) (ok : Bool), ready (.operatingPointChange ok) s →
    (s.dev.pw.changeTo = none → leads (.operatingPointChange ok) s s.dev) ∧
    ∀ q, s.dev.pw.changeTo = some q →
      (q ≤ s.dev.point → ok = true → yields (.operatingPointChange ok) s fun w => w.point = q ∧ w.pw.changeTo = none ∧
        w.pw.rail = s.dev.rd (pointVt q) ∧ w.attentionBit Bit.power = true ∧ w.mem = s.dev.mem) ∧
      (q ≤ s.dev.point → ok = false → yields (.operatingPointChange ok) s fun w => w.point = s.dev.point ∧ w.pw.changeTo = none ∧
        w.pw.rail = s.dev.pw.rail ∧ w.pw.avsFailed = true ∧ (w.lasting.any fun l => l == avsCause.lasting) = true) ∧
      (s.dev.point < q →
        let r := s.dev.pointFactor q / s.dev.pointFactor s.dev.point
        let aBe := s.dev.watts Reg.powerEstimate_aBe
        let aLc := s.dev.watts Reg.powerEstimate_aLc
        let kb := s.dev.rd Reg.powerOpState_kBe
        let kl := s.dev.rd Reg.powerOpState_kLc
        let rest := s.dev.watts Reg.powerEstimate_pEst - issued kb kl aBe aLc
        let other := s.dev.watts Reg.powerEstimate_pCtl - issued kb kl aBe aLc
        let t := bubbleTargets (other + issued kb kl (aBe * r) (aLc * r)) s.dev.capEff kb kl (aBe * r) (aLc * r)
        (s.dev.pw.fits (rest + issued t.1 t.2 (aBe * r) (aLc * r)) = false → leads (.operatingPointChange ok) s s.dev) ∧
        (s.dev.pw.fits (rest + issued t.1 t.2 (aBe * r) (aLc * r)) = true → yields (.operatingPointChange ok) s fun w =>
          w.point = q ∧ w.rd Reg.powerOpState_kBe = t.1 ∧ w.rd Reg.powerOpState_kLc = t.2 ∧ w.pw.changeTo = none ∧
          w.pw.rail = (if ok then s.dev.rd (pointVt q) else s.dev.pw.rail) ∧ w.attentionBit Bit.power = true))) ∧
  (∀ s : State, ready .leaseExpiry s →
    let lapses := s.dev.rd Reg.powerCapLeaseMs ≠ 0 ∧ s.dev.pw.leaseFrom + s.dev.rd Reg.powerCapLeaseMs * 3125 ≤ s.dev.now ∧
      s.dev.flag Reg.powerOpState_leaseLapsed = false
    (¬lapses → leads .leaseExpiry s s.dev) ∧
    (lapses → leads .leaseExpiry s ((s.dev.setFlag Reg.powerOpState_leaseLapsed 0 true).beginLasting
      { bit := Bit.power, area := 0x16, detail := 4 }))) ∧
  (∀ (s : State) (v : Nat), ready (.demandPublish v) s → yields (.demandPublish v) s fun w =>
    w.rd Reg.powerDemand_demand = s.dev.pw.demands.foldl (fun a e => fmax a e.2) fzero ∧
    w.rd Reg.powerDemand_sequence = (s.dev.rd Reg.powerDemand_sequence + 1) % 2 ^ 32 ∧
    (∀ r i, r.obj ≠ .powerDemand → w.rd r i = s.dev.rd r i) ∧ w.pw = s.dev.pw ∧ w.mem = s.dev.mem) ∧
  (∀ (s : State) (pages : List (Nat × Nat)), ready (.vrmRead pages) s →
    (s.dev.summedPages = [] → leads (.vrmRead pages) s (s.dev.updPw fun p => { p with sumEst := 0, countEst := 0 })) ∧
    ((∃ i ∈ s.dev.summedPages, ∀ e ∈ pages, e.1 ≠ i) → yields (.vrmRead pages) s fun w =>
      w.rd Reg.powerEstimate_pMeas = s.dev.rd Reg.powerEstimate_pMeas ∧ w.pw.missing = s.dev.pw.missing + 1 ∧
      w.pw.disagree = s.dev.pw.disagree ∧ w.pw.readings = s.dev.pw.readings) ∧
    (s.dev.summedPages ≠ [] → (∀ i ∈ s.dev.summedPages, ∃ e ∈ pages, e.1 = i) →
      let mean := if s.dev.pw.countEst = 0 then s.dev.watts Reg.powerEstimate_pEst else s.dev.pw.sumEst / (s.dev.pw.countEst : Nat)
      let got := sumRat (s.dev.summedPages.map fun i => ratOf (((pages.find? fun e => e.1 == i).map (·.2)).getD 0))
      yields (.vrmRead pages) s fun w => w.rd Reg.powerEstimate_pMeas = f32Of got ∧ w.rd Reg.powerEstimate_eMean = f32Of mean ∧
        w.pw.missing = 0 ∧ w.pw.readings = ((f32Of got, f32Of mean) :: s.dev.pw.readings).take 64 ∧
        (max got mean < 5 * (got - mean) ∨ max got mean < 5 * (mean - got) → w.pw.disagree = s.dev.pw.disagree + 1) ∧
        (5 * (got - mean) ≤ max got mean → 5 * (mean - got) ≤ max got mean → w.pw.disagree = 0))) ∧
  ∀ (s : State) (q i : Nat) (f : Fetched), s.dev.takeCommand q i 0x1601 = some f →
    let o := s.dev.watts Reg.powerEstimateOffset
    let sp := sumRat (s.dev.pw.readings.map fun e => ratOf e.1) - 64 * o
    let se := sumRat (s.dev.pw.readings.map fun e => ratOf e.2) - 64 * o
    (ready (.powerRecalibrateFit q i) s →
      (byteAt f.entry 8 ≠ 0 → leads (.powerRecalibrateFit q i) s s.dev) ∧
      (byteAt f.entry 8 = 0 → s.dev.pw.readings.length < 64 ∨ se ≤ 0 → leads (.powerRecalibrateFit q i) s (s.dev.complete q i 0x80 0x16)) ∧
      (byteAt f.entry 8 = 0 → 64 ≤ s.dev.pw.readings.length → 0 < se → ∃ g : Rat, 1 / 2 ≤ g ∧ g ≤ 2 ∧
        (1 / 2 ≤ s.dev.watts Reg.powerEstimateGain * sp / se → s.dev.watts Reg.powerEstimateGain * sp / se ≤ 2 →
          g = s.dev.watts Reg.powerEstimateGain * sp / se) ∧
        leads (.powerRecalibrateFit q i) s (((s.dev.wr Reg.powerEstimateGain 0 (f32Of g)).endDisagreement).complete q i 0 0x16 (f32Of g)))) ∧
    (ready (.powerRecalibrateEnd q i) s →
      (byteAt f.entry 8 ≠ 1 → leads (.powerRecalibrateEnd q i) s s.dev) ∧
      (byteAt f.entry 8 = 1 → leads (.powerRecalibrateEnd q i) s (s.dev.endDisagreement.complete q i 0 0x16)))

/-- The rail and heat (R503 to R509). -/
def Obligations.RailAndHeat : Prop :=
  (∀ (s : State) (slacks : List Int) (ok : Bool) (least : Int), ready (.avsTrim slacks ok) s → least ∈ slacks → (∀ x ∈ slacks, least ≤ x) →
    let v := s.dev.rd (pointVt s.dev.point)
    let nom := pointVnom s.dev.point
    let m := s.dev.rd Reg.powerAvsState_margin
    (least < 0 → yields (.avsTrim slacks ok) s fun w => w.rd (pointVt s.dev.point) = nom ∧ w.rd Reg.powerAvsState_margin = min 40 (m + 10) ∧
      w.pw.rail = (if ok then nom else s.dev.pw.rail) ∧ w.attentionBit Bit.power = true) ∧
    (0 ≤ least → least < m → yields (.avsTrim slacks ok) s fun w => w.rd Reg.powerAvsState_margin = m ∧ w.pw.slackOk = 0 ∧
      w.rd (pointVt s.dev.point) = (if ok = true ∧ v + 5 ≤ nom then v + 5 else v) ∧
      w.pw.rail = (if ok = true ∧ v + 5 ≤ nom then v + 5 else s.dev.pw.rail)) ∧
    (m ≤ least → yields (.avsTrim slacks ok) s fun w => w.rd Reg.powerAvsState_margin = m ∧
      w.pw.slackOk = (if m + 15 ≤ least then s.dev.pw.slackOk + 1 else 0) ∧
      w.rd (pointVt s.dev.point) = (if ok = true ∧ m + 15 ≤ least ∧ 100 ≤ s.dev.pw.slackOk + 1 ∧ nom - 100 + 5 ≤ v then v - 5 else v)) ∧
    (nom - 100 ≤ v → v ≤ nom → yields (.avsTrim slacks ok) s fun w =>
      nom - 100 ≤ w.rd (pointVt s.dev.point) ∧ w.rd (pointVt s.dev.point) ≤ nom)) ∧
  (∀ s : State,
    (ready .marginNarrowing s →
      (s.dev.rd Reg.powerAvsState_hours < s.dev.pw.quietFrom + 8760 → leads .marginNarrowing s s.dev) ∧
      (s.dev.pw.quietFrom + 8760 ≤ s.dev.rd Reg.powerAvsState_hours → yields .marginNarrowing s fun w =>
        w.rd Reg.powerAvsState_margin = max 10 (s.dev.rd Reg.powerAvsState_margin - 5) ∧ w.pw.quietFrom = s.dev.pw.quietFrom + 8760 ∧ w.mem = s.dev.mem)) ∧
    (ready .voltageDailyRecord s →
      (s.dev.now < s.dev.pw.lastDaily + 270000000000 → leads .voltageDailyRecord s s.dev) ∧
      (s.dev.pw.lastDaily + 270000000000 ≤ s.dev.now →
        leads .voltageDailyRecord s (Dev.recordVoltages (s.dev.updPw fun w => { w with lastDaily := s.dev.now }))))) ∧
  (∀ (d : Dev) (k : Nat) (v : Int),
    (-640 ≤ v → v ≤ 2400 → (∀ o, d.pw.sensors.find? k = some o → o.1 ≠ v) →
      (d.takeSensor k v).rd Reg.thermalSensor k = ofSigned 16 v ∧ k ∉ (d.takeSensor k v).pw.failed) ∧
    (v < -640 ∨ 2400 < v → (d.takeSensor k v).rd Reg.thermalSensor k = 0x8000 ∧ k ∈ (d.takeSensor k v).pw.failed ∧
      (k ∉ d.pw.failed → ((d.takeSensor k v).lasting.any fun l => l == (sensorCause k).lasting)
        = true)) ∧
    (d.takeSensor k v).mem = d.mem ∧ (∀ j, j ≠ k → (d.takeSensor k v).rd Reg.thermalSensor j = d.rd Reg.thermalSensor j)) ∧
  (∀ (d : Dev) (h : Nat × Int), d.hottestOf (List.range 72) = some h →
    d.judgeHeat.rd Reg.thermalHottest_tHot = ofSigned 16 h.2 ∧ d.judgeHeat.rd Reg.thermalHottest_sensor = h.1 ∧
    (1680 ≤ d.actingHot → d.judgeHeat.pw.throttling = true) ∧ h.1 ∉ d.pw.failed ∧
    ∀ k, k < 72 → k ∉ d.pw.failed → toSigned 16 (d.rd Reg.thermalSensor k) ≤ h.2) ∧
  (∀ (s : State) (vs : List Int), ready (.thermalSample vs) s →
    let d := (((List.range vs.length).zip vs).foldl (fun d e => d.takeSensor e.1 e.2) s.dev).judgeHeat
    (d.pw.failed.length < 72 → leads (.thermalSample vs) s d) ∧ (72 ≤ d.pw.failed.length → leads (.thermalSample vs) s d.trip)) ∧
  ∀ (s : State) (k : Nat), ready (.thermalTrip k) s →
    (k ∈ s.dev.pw.failed ∨ s.dev.pw.tripped = true → leads (.thermalTrip k) s s.dev) ∧
    (k ∉ s.dev.pw.failed → s.dev.pw.tripped = false → yields (.thermalTrip k) s fun w =>
      w.pw.tripped = true ∧ (∀ x, (w.domain x).running = false) ∧ .thermTrip ∈ w.sent ∧ w.mem = s.dev.mem ∧
      ∀ i, i < 8 → s.dev.flag Reg.powerVrmPage_enable i = true → s.dev.flag Reg.powerVrmPage_tripOff i = true → .operationOff i ∈ w.sent)

/-! ### Coupling ports and systems of four -/

/-- Ports, lanes, blocks and credits (R514 to R527). -/
def Obligations.CouplingPorts : Prop :=
  (∀ (s : State) (p : Nat), s.dev.portIsUp p = false →
    (∀ g n ms, ready (.codeBlockReceived p g n ms) s → leads (.codeBlockReceived p g n ms) s s.dev) ∧
    (∀ l, ready (.laneRepair p l) s → leads (.laneRepair p l) s s.dev) ∧
    (ready (.blockLockLoss p) s → leads (.blockLockLoss p) s s.dev) ∧
    (∀ c, ready (.creditReturn p c) s → leads (.creditReturn p c) s s.dev) ∧
    (ready (.resetNotice p) s → leads (.resetNotice p) s s.dev)) ∧
  (∀ (s : State) (p n : Nat) (ms : List CouplingMessage), s.dev.portIsUp p = true →
    (ready (.codeBlockReceived p true n ms) s → (∀ m ∈ ms, isNotice m = false) → leads (.codeBlockReceived p true n ms) s
      ((s.dev.count Reg.couplingPortCounters_symbolErrors p n).updCoup p fun x => { x with badRun := 0, inbox := x.inbox ++ ms })) ∧
    (ready (.codeBlockReceived p false n ms) s →
      let d := ((s.dev.count Reg.couplingPortCounters_symbolErrors p n).updCoup p fun x =>
        { x with badRun := (s.dev.coupPort p).badRun + 1 }).count Reg.couplingPortCounters_replays p
      ((s.dev.coupPort p).badRun < 7 → leads (.codeBlockReceived p false n ms) s d) ∧
      (7 ≤ (s.dev.coupPort p).badRun → leads (.codeBlockReceived p false n ms) s (d.portDown p portIsDown)))) ∧
  (∀ (s : State) (p l : Nat), ready (.laneRepair p l) s →
    ((s.dev.rd Reg.couplingPortState_lanes p).testBit l = false → leads (.laneRepair p l) s s.dev) ∧
    (s.dev.portIsUp p = true → (s.dev.rd Reg.couplingPortState_lanes p).testBit l = true →
      (s.dev.flag Reg.couplingPortState_spareUsed p = true → leads (.laneRepair p l) s
        ((s.dev.updCoup p fun x => { x with badLanes := l :: x.badLanes }).portDown p portIsDown)) ∧
      (s.dev.flag Reg.couplingPortState_spareUsed p = false → yields (.laneRepair p l) s fun w =>
        w.flag Reg.couplingPortState_spareUsed p = true ∧ w.portIsUp p = true ∧ w.attentionBit Bit.link = true ∧
        w.rd Reg.couplingPortState_lanes p = laneMask (goodLanes (l :: (s.dev.coupPort p).badLanes)) ∧
        (w.coupPort p).inbox = (s.dev.coupPort p).inbox ∧ w.waiters = s.dev.waiters ∧ w.mem = s.dev.mem))) ∧
  (∀ (s : State) (p i z n : Nat), ready (.portTrained p i z n) s →
    let trains := s.dev.portState p = 1 ∨ s.dev.portState p = 3 ∨ (s.dev.portState p = 4 ∧ (s.dev.coupPort p).resuming = true)
    let fits := i = s.dev.rd Reg.couplingSystem_identifier ∧ z = s.dev.rd Reg.couplingSystem_size ∧ n = (s.dev.ownNumber + p + 1) % 4
    (¬trains → leads (.portTrained p i z n) s s.dev) ∧
    (trains → ¬fits → leads (.portTrained p i z n) s
      ((s.dev.wr Reg.couplingPortState_state p 3).updCoup p fun x => { x with resuming := false })) ∧
    (trains → fits → yields (.portTrained p i z n) s fun w => w.portIsUp p = true ∧ w.rd Reg.couplingPortState_peer p = n ∧
      (w.coupPort p).control = 32 ∧ (w.coupPort p).signal = 64 ∧ (w.coupPort p).inbox = [] ∧ (w.coupPort p).waiting = [] ∧
      (w.lasting.any (isPortCause p)) = false ∧ w.mem = s.dev.mem)) ∧
  (∀ (s : State) (p : Nat), ready (.portTrainRetry p) s →
    let due := s.dev.portState p = 4 ∧ (s.dev.coupPort p).resuming = false ∧ (s.dev.coupPort p).lastTry + secondTicks ≤ s.dev.now
    (¬due → leads (.portTrainRetry p) s s.dev) ∧
    (due → yields (.portTrainRetry p) s fun w => (w.coupPort p).lastTry = s.dev.now ∧
      w.portState p = (if (goodLanes (s.dev.coupPort p).badLanes).length < 8 then 4 else 1) ∧ w.mem = s.dev.mem)) ∧
  (∀ (s : State) (p : Nat), s.dev.portIsUp p = true →
    (ready (.blockLockLoss p) s → leads (.blockLockLoss p) s (s.dev.portDown p portIsDown) ∧
      (s.dev.waiters = [] → s.dev.remoteWaits = [] → yields (.blockLockLoss p) s fun w => w.portState p = 4 ∧ (w.coupPort p).inbox = [] ∧
        (w.coupPort p).waiting = [] ∧
        (w.lasting.any fun l => l == (Cause.lasting { bit := Bit.link, area := 0x18, detail := p + 64 })) = true ∧
        w.contexts = s.dev.contexts ∧ w.mem = s.dev.mem)) ∧
    (ready (.resetNotice p) s →
      (s.dev.nextMessage p .control ≠ some .resetNotice → leads (.resetNotice p) s s.dev) ∧
      (s.dev.nextMessage p .control = some .resetNotice → leads (.resetNotice p) s ((s.dev.takeMessage p .resetNotice).portDown p portIsDown)))) ∧
  (∀ (d : Dev) (gone : Who → Bool) (k : Nat), ∀ w ∈ (d.withdraw gone).counterQueue k, gone w.who = false) ∧
  (∀ (s : State) (p : Nat) (c : CoupClass), ready (.creditReturn p c) s → s.dev.portIsUp p = true →
    let d := s.dev.updCoup p fun x => match c with
      | .control => { x with control := min 32 (x.control + 1) }
      | .signal => { x with signal := min 64 (x.signal + 1) }
      | .data => x
    ((∀ m ∈ (s.dev.coupPort p).waiting, msgClass m ≠ c) → leads (.creditReturn p c) s d) ∧
    ∀ m rest, (s.dev.coupPort p).waiting = m :: rest → msgClass m = c → c ≠ .data → (s.dev.coupPort p).credit c = 0 →
      yields (.creditReturn p c) s fun w => (w.coupPort p).waiting = rest ∧ (w.coupPort p).credit c = 0 ∧ .coupling p m ∈ w.sent) ∧
  ∀ (d : Dev) (p : Nat) (m : CouplingMessage),
    ((d.coupPort p).credit (msgClass m) = 0 ∨ (∃ w ∈ (d.coupPort p).waiting, msgClass w = msgClass m) →
      (d.coupSend p m).sent = d.sent ∧ ((d.coupSend p m).coupPort p).waiting = (d.coupPort p).waiting ++ [m]) ∧
    ((d.coupPort p).credit (msgClass m) ≠ 0 → (∀ w ∈ (d.coupPort p).waiting, msgClass w ≠ msgClass m) →
      (d.coupSend p m).sent = .coupling p m :: d.sent ∧
      ((d.coupSend p m).coupPort p).credit (msgClass m) + (if msgClass m = .data then 0 else 1) = (d.coupPort p).credit (msgClass m))

/-- Signals, waits, transfers and relayed requests between devices (R414, R418, R422, R520, R522 to R524). -/
def Obligations.CouplingMessages : Prop :=
  (∀ (s : State) (p : Nat), ready (.remoteSignal p) s →
    ((∀ c n k, s.dev.nextMessage p .signal ≠ some (.signal c n k)) → leads (.remoteSignal p) s s.dev) ∧
    ∀ c n k, s.dev.nextMessage p .signal = some (.signal c n k) →
      let d := s.dev.takeMessage p (.signal c n k)
      (s.dev.ctx? c = none → leads (.remoteSignal p) s (d.count Reg.signalCounters_discarded)) ∧
      ((s.dev.ctx? c).isSome = true → leads (.remoteSignal p) s ((d.hear (256 * c + n) (d.peerOf p)).applySignal (256 * c + n) k false))) ∧
  (∀ (s : State) (p : Nat), ready (.remoteWait p) s →
    ((∀ i c n k, s.dev.nextMessage p .signal ≠ some (.wait i c n k)) → leads (.remoteWait p) s s.dev) ∧
    ∀ i c n k, s.dev.nextMessage p .signal = some (.wait i c n k) →
      let d := s.dev.takeMessage p (.wait i c n k)
      let e := s.dev.peerOf p
      let key := 256 * c + n
      (s.dev.ctx? c = none → leads (.remoteWait p) s ((d.count Reg.signalCounters_holderGone).sendTo e (.release i 0x80))) ∧
      ((s.dev.ctx? c).isSome = true → leads (.remoteWait p) s
        (((d.hear key e).setCounterQueue key ((d.hear key e).counterQueue key ++ [{ who := .remote e i, need := k, boosts := false }])).decide_ key))) ∧
  (∀ (s : State) (p : Nat), ready (.grant p) s →
    ((∀ i, s.dev.nextMessage p .signal ≠ some (.grant i)) → (∀ i c, s.dev.nextMessage p .signal ≠ some (.release i c)) →
      leads (.grant p) s s.dev) ∧
    (∀ i, s.dev.nextMessage p .signal = some (.grant i) →
      let d := s.dev.takeMessage p (.grant i)
      ((∀ w ∈ d.remoteWaits, w.id = i → w.device ≠ d.peerOf p) → leads (.grant p) s d) ∧
      ∀ w, (d.remoteWaits.find? fun w => w.id == i && w.device == d.peerOf p) = some w →
        leads (.grant p) s (Dev.updEntry { d with remoteWaits := d.remoteWaits.filter fun v => v.id != i } w.context w.step w.pos fun e =>
          { e with wait := e.wait.map fun a => { a with met := true } })) ∧
    ∀ i code, s.dev.nextMessage p .signal = some (.release i code) →
      let d := s.dev.takeMessage p (.release i code)
      let r : Dev := { d with remoteWaits := d.remoteWaits.filter fun v => v.id != i }
      ((∀ w ∈ d.remoteWaits, w.id = i → w.device ≠ d.peerOf p) → leads (.grant p) s d) ∧
      ∀ w, (d.remoteWaits.find? fun w => w.id == i && w.device == d.peerOf p) = some w →
        (d.waitsRemotely w = false → leads (.grant p) s r) ∧
        (d.waitsRemotely w = true → leads (.grant p) s
          ((if code = 0x80 then r.count Reg.signalCounters_holderGone else r).abandonSteps
            [{ context := w.context, step := w.step, code, area := 0x11 }]))) ∧
  (∀ (s : State) (p : Nat), ready (.cancel p) s →
    ((∀ i, s.dev.nextMessage p .control ≠ some (.cancel i)) → leads (.cancel p) s s.dev) ∧
    ∀ i, s.dev.nextMessage p .control = some (.cancel i) → leads (.cancel p) s
      ((s.dev.takeMessage p (.cancel i)).withdraw fun w => match w with
        | .entry _ _ _ => false
        | .remote e j => e == s.dev.peerOf p && j == i)) ∧
  (∀ (s : State) (p : Nat), ready (.boostRequest p) s →
    ((∀ c n, s.dev.nextMessage p .control ≠ some (.boost c n)) → leads (.boostRequest p) s s.dev) ∧
    ∀ c n, s.dev.nextMessage p .control = some (.boost c n) →
      let d := s.dev.takeMessage p (.boost c n)
      let due := (∃ w ∈ d.counterQueue (256 * c + n), ∃ i, w.who = .remote (d.peerOf p) i) ∧ (∃ x, d.ctx? c = some x ∧ x.latency = false) ∧
        (c, n) ∉ d.boosted
      (¬due → leads (.boostRequest p) s d) ∧ (due → leads (.boostRequest p) s { d with boosted := (c, n) :: d.boosted })) ∧
  (∀ (s : State) (k : Nat) (b : List Byte) (o : TransferOutcome), ready (.transfer k b o) s →
    (s.dev.issuing k = none → leads (.transfer k b o) s s.dev) ∧
    ∀ c n i e, s.dev.issuing k = some (c, n, i, e) →
      let r := transferRecord b
      let d : Dev := { s.dev with free := s.dev.free + 1 }
      (s.dev.linkTo r.device = false → leads (.transfer k b o) s (s.dev.abandonSteps [{ context := c, step := n, code := 0x81, area := 0x18 }])) ∧
      (s.dev.linkTo r.device = true → s.dev.poisoned r.source r.length = false →
        (o = .completed → leads (.transfer k b o) s ((d.sendUnits r (r.length / 256)).transferSignal c r)) ∧
        (o = .denied → leads (.transfer k b o) s
          ((d.sendUnits r (r.length / 256)).abandonSteps [{ context := c, step := n, code := 0x80, area := 0x18 }])) ∧
        ∀ m, o = .linkLost m → leads (.transfer k b o) s
          ((d.sendUnits r (min m (r.length / 256))).abandonSteps [{ context := c, step := n, code := 0x32, area := 0x18 }]))) ∧
  (∀ (s : State) (p : Nat), ready (.transferUnitReceived p) s →
    (s.dev.nextMessage p .data = none → leads (.transferUnitReceived p) s s.dev) ∧
    (∀ start length address data, s.dev.nextMessage p .data = some (.unit start length address data) →
      let d := (s.dev.takeMessage p (.unit start length address data)).count Reg.couplingPortCounters_received p
      (s.dev.windowHolds (s.dev.peerOf p) start length = true → start ≤ address → address + data.length ≤ start + length →
        leads (.transferUnitReceived p) s ((d.updCoup p fun x => { x with denied := false }).storeMapped address data)) ∧
      (s.dev.windowHolds (s.dev.peerOf p) start length = false ∨ address < start ∨ start + length < address + data.length → yields (.transferUnitReceived p) s fun w =>
        w.mem = s.dev.mem ∧ (w.coupPort p).denied = true)) ∧
    ∀ c n k, s.dev.nextMessage p .data = some (.transferSignal c n k) →
      let d := s.dev.takeMessage p (.transferSignal c n k)
      ((s.dev.coupPort p).denied = true → leads (.transferUnitReceived p) s d) ∧
      ((s.dev.coupPort p).denied = false → leads (.transferUnitReceived p) s (d.signalHere (d.peerOf p) c n k))) ∧
  (∀ (s : State) (m : Nat), ready (.relayDoorbell m) s →
    (s.dev.barOpen = false → leads (.relayDoorbell m) s (s.dev.send .unsupportedRequest)) ∧
    (s.dev.barOpen = true → s.dev.mailboxExists m = false → leads (.relayDoorbell m) s s.dev) ∧
    (s.dev.barOpen = true → s.dev.mailboxExists m = true → (s.dev.mailbox m).busy = true →
      leads (.relayDoorbell m) s (s.dev.setMailbox m { s.dev.mailbox m with overrun := true })) ∧
    (s.dev.barOpen = true → s.dev.mailboxExists m = true → (s.dev.mailbox m).busy = false →
      let r := (s.dev.mailbox m).frame
      let d := s.dev.setMailbox m { s.dev.mailbox m with busy := true, queued := some r }
      (s.dev.ep.firmwareReady = false → leads (.relayDoorbell m) s d) ∧
      (s.dev.ep.firmwareReady = true → s.dev.linkTo m = true → leads (.relayDoorbell m) s (d.sendTo m (.relayRequest r))) ∧
      (s.dev.ep.firmwareReady = true → s.dev.linkTo m = false → leads (.relayDoorbell m) s (d.relayLinkDown m)))) ∧
  (∀ (s : State) (p : Nat), ready (.relayReplyReceived p) s →
    ((∀ b, s.dev.nextMessage p .control ≠ some (.relayReply b)) → leads (.relayReplyReceived p) s s.dev) ∧
    ∀ b, s.dev.nextMessage p .control = some (.relayReply b) →
      let m := s.dev.peerOf p
      (m ≠ 0 → (s.dev.mailbox m).busy = true → yields (.relayReplyReceived p) s fun w =>
        (w.mailbox m).busy = false ∧ (w.mailbox m).reply = b ∧ (w.mailbox m).doneTag = le b 2 2 ∧ (w.mailbox m).mirror = mirrorOf (le b 4 4) ∧
        w.ep.mailboxPending = true ∧ w.mem = s.dev.mem) ∧
      (m = 0 ∨ (s.dev.mailbox m).busy = false → leads (.relayReplyReceived p) s (s.dev.takeMessage p (.relayReply b)))) ∧
  ∀ (s : State) (p : Nat), ready (.relayRequestReceived p) s →
    ((∀ r, s.dev.nextMessage p .control ≠ some (.relayRequest r)) → leads (.relayRequestReceived p) s s.dev) ∧
    ∀ r, s.dev.nextMessage p .control = some (.relayRequest r) →
      (s.dev.dictReady = false → leads (.relayRequestReceived p) s s.dev) ∧
      (s.dev.dictReady = true →
        leads (.relayRequestReceived p) s ((s.dev.takeMessage p (.relayRequest r)).byRelay (s.dev.peerOf p) r))

/-! ### Boot, trust and repair -/

/-- Boot stages, slots, staging, the firmware switch, attestation and the export (R533, R543 to R545, R551 to R556). -/
def Obligations.BootAndTrust : Prop :=
  (∀ (s : State) (r : BootReport), ready (.bootStageComplete r) s →
    (s.dev.rd Reg.bootState_failure ≠ 0 ∨ s.dev.rd Reg.bootState_stage + 1 ≠ stageOf r → leads (.bootStageComplete r) s s.dev) ∧
    (s.dev.rd Reg.bootState_failure = 0 → s.dev.rd Reg.bootState_stage + 1 = stageOf r → yields (.bootStageComplete r) s fun w =>
      (w.rd Reg.bootState_stage = stageOf r ∨ w.rd Reg.bootState_failure ≠ 0) ∧
      (r = .firstStage true none → w.rd Reg.bootState_failure =
        (if imageSigned 1 s.dev.boot.first0 = true ∨ imageSigned 1 s.dev.boot.first1 = true then 0 else 2)) ∧
      (r = .firstStage true none → imageSigned 1 s.dev.boot.first0 = false → imageSigned 1 s.dev.boot.first1 = true →
        w.flag Reg.bootState_firstCopy = true) ∧
      (∀ c, r = .firmware → s.dev.bootSlot = some c → w.ep.firmwareReady = true ∧ w.boot.running = c.slot ∧ w.boot.state = c.state) ∧
      (r = .firmware → s.dev.bootSlot = none → w.rd Reg.bootState_failure = 4))) ∧
  (∀ d : Dev,
    (∀ c, d.bootSlot = some c → d.firmwareGood (d.boot.slot c.slot).bytes = true) ∧
    (d.firmwareGood (d.boot.slot d.chooseSlot.slot).bytes = true → d.bootSlot = some d.chooseSlot) ∧
    (d.bootSlot = none → d.firmwareGood d.boot.slotA.bytes = false ∧ d.firmwareGood d.boot.slotB.bytes = false)) ∧
  (∀ (s : State) (q i : Nat) (o : OwnerSection) (v : Bool) (f : Fetched), ready (.configStage q i o v) s →
    s.dev.takeCommand q i 0x1A05 = some f → f.started = false → f.reading = false → s.dev.boot.job = none →
    (v = false → leads (.configStage q i o v) s (s.dev.complete q i 0x11 0x1A)) ∧
    (v = true → (∃ x, s.dev.boot.owner = some x ∧ o.sequence ≤ x.sequence) → leads (.configStage q i o v) s (s.dev.complete q i 0x85 0x1A)) ∧
    (v = true → (∀ x, s.dev.boot.owner = some x → x.sequence < o.sequence) → yields (.configStage q i o v) s fun w =>
      (∃ j, w.boot.job = some j ∧ j.queue = q ∧ j.index = i ∧ j.erases = 4 ∧ j.section_ = some o) ∧ w.ledger.stepping = true ∧
      (if s.dev.rd Reg.bootConfig_copy = 0 then w.boot.copy1.owner = none ∧ w.boot.copy0 = s.dev.boot.copy0
        else w.boot.copy0.owner = none ∧ w.boot.copy1 = s.dev.boot.copy1) ∧ w.boot.owner = s.dev.boot.owner ∧ w.mem = s.dev.mem)) ∧
  (∀ (s : State) (q i : Nat) (f : Fetched), ready (.fwStage q i) s → s.dev.takeCommand q i 0x1A02 = some f →
    let first := (byteAt f.entry 24).testBit 0
    let offset := le f.entry 8 4
    let other := s.dev.boot.slot (1 - s.dev.boot.running)
    (f.started = true ∨ f.reading = true ∨ s.dev.boot.job ≠ none → leads (.fwStage q i) s s.dev) ∧
    (f.started = false → f.reading = false → s.dev.boot.job = none →
      (12582912 < offset + f.data.length ∨ (first = true ∧ offset ≠ 0) ∨
          (first = false ∧ (s.dev.boot.staging = false ∨ offset ≠ other.bytes.length)) →
        leads (.fwStage q i) s (s.dev.complete q i 0x85 0x1A)) ∧
      (first = false → s.dev.boot.staging = true → offset = other.bytes.length → offset + f.data.length ≤ 12582912 →
        leads (.fwStage q i) s ((s.dev.startCommand q i).runJob { queue := q, index := i, erases := 0, programs := ceilDiv f.data.length 65536 })) ∧
      (first = true → offset = 0 → f.data.length ≤ 12582912 → yields (.fwStage q i) s fun w => w.boot.staging = true ∧
        (w.boot.slot (1 - s.dev.boot.running)).bytes = [] ∧ (s.dev.boot.running ≤ 1 →
          w.boot.slot s.dev.boot.running = s.dev.boot.slot s.dev.boot.running) ∧
        ∃ j, w.boot.job = some j ∧ j.queue = q ∧ j.index = i ∧ j.erases = 192 ∧ j.programs = ceilDiv f.data.length 65536))) ∧
  (∀ (s : State) (ok : Bool), ready (.flashStepDone ok) s →
    (s.dev.boot.job = none → leads (.flashStepDone ok) s s.dev) ∧
    ∀ j, s.dev.boot.job = some j →
      (ok = false → leads (.flashStepDone ok) s
        (((s.dev.dropJob.count Reg.bootFlashCounters_failures).beginLasting (bootCause 3)).complete j.queue j.index 0x80 0x1A)) ∧
      (ok = true → j.erases = 0 → leads (.flashStepDone ok) s (s.dev.flushAppends.runJob { j with programs := j.programs - 1 })) ∧
      (ok = true → j.erases ≠ 0 → leads (.flashStepDone ok) s
        ((s.dev.count Reg.bootFlashCounters_erased).flushAppends.runJob { j with erases := j.erases - 1 }))) ∧
  (∀ (s : State) (q i : Nat) (f : Fetched), ready (.fwActivate q i) s → s.dev.takeCommand q i 0x1A03 = some f → f.started = false →
    s.dev.boot.switching = none →
    (s.dev.rd Reg.yardState ≠ 2 → leads (.fwActivate q i) s (s.dev.complete q i 0x81 0x1A)) ∧
    (s.dev.rd Reg.yardState = 2 → s.dev.otherCommand q i = true → leads (.fwActivate q i) s (s.dev.complete q i 0x82 0x1A)) ∧
    (s.dev.rd Reg.yardState = 2 → s.dev.otherCommand q i = false → (s.dev.boot.slot (1 - s.dev.boot.running)).verified = false →
      leads (.fwActivate q i) s (s.dev.complete q i 0x83 0x1A)) ∧
    (s.dev.rd Reg.yardState = 2 → s.dev.otherCommand q i = false → (s.dev.boot.slot (1 - s.dev.boot.running)).verified = true →
      yields (.fwActivate q i) s fun w => w.boot.switching = some (q, i))) ∧
  (∀ (s : State) (v : Bool), ready (.firmwareSwitchDone v) s →
    (s.dev.boot.switching = none → leads (.firmwareSwitchDone v) s s.dev) ∧
    ∀ q i, s.dev.boot.switching = some (q, i) → s.dev.boot.heldReset = none →
      (v = true → yields (.firmwareSwitchDone v) s fun w => w.boot.switching = none ∧ w.boot.running = 1 - s.dev.boot.running ∧
        w.boot.state = .trial ∧ w.boot.trialLeft = s.dev.rd Reg.bootTrialBoots ∧ w.mem = s.dev.mem) ∧
      (v = false → yields (.firmwareSwitchDone v) s fun w => w.boot.switching = none ∧ w.boot.running = s.dev.boot.running ∧
        w.boot.state = s.dev.boot.state ∧ (w.boot.slot (1 - s.dev.boot.running)).verified = false ∧ w.mem = s.dev.mem)) ∧
  (∀ (s : State) (q i : Nat) (f : Fetched), ready (.fwConfirm q i) s → s.dev.takeCommand q i 0x1A04 = some f →
    (s.dev.boot.state = .confirmed → leads (.fwConfirm q i) s (s.dev.complete q i 0x87 0x1A)) ∧
    (s.dev.boot.state = .trial → yields (.fwConfirm q i) s fun w => w.boot.state = .confirmed ∧ w.boot.trialLeft = 0 ∧
      w.boot.confirmed = s.dev.boot.running ∧ w.boot.running = s.dev.boot.running ∧ w.mem = s.dev.mem)) ∧
  (∀ (s : State) (q i : Nat) (f : Fetched), ready (.attest q i) s → s.dev.takeCommand q i 0x1A01 = some f →
    (s.dev.ledger.identity = false → leads (.attest q i) s (s.dev.complete q i 0x84 0x1A)) ∧
    (s.dev.ledger.identity = true → s.dev.canMaster = false → leads (.attest q i) s s.dev) ∧
    (s.dev.ledger.identity = true → s.dev.canMaster = true → ∃ bytes, bytes.length = 7680 ∧
      bytes.drop 1536 = (List.range 64).flatMap s.dev.attestContext ∧
      leads (.attest q i) s ((s.dev.send (.hostWrite (le f.entry 40 8) bytes)).complete q i 0 0x1A 7680))) ∧
  ∀ (s : State) (q i : Nat) (f : Fetched), ready (.ledgerExport q i) s → s.dev.takeCommand q i 0x1A06 = some f →
    (s.dev.canMaster = false → leads (.ledgerExport q i) s s.dev) ∧
    (s.dev.canMaster = true → ∃ bytes, bytes.length = 4194304 ∧
      leads (.ledgerExport q i) s ((s.dev.send (.hostWrite (le f.entry 8 8) bytes)).complete q i 0 0x1A (s.dev.rd Reg.bootLedger_head)))
end

