-- ==== Sys2Proof/Laws/State.lean ====
section
/-! SUPPORT. What each basic update of the device leaves alone: one lemma per field and update, true by unfolding, so that no proof
unfolds a record update; and reading a field back after it was written. -/

namespace Sys2Proof.Machine

/-! ### Tables -/

@[simp] theorem Tbl.find?_nil {κ α : Type} [DecidableEq κ] (k : κ) : Tbl.find? ([] : Tbl κ α) k = none := rfl

@[simp] theorem Tbl.find?_put_same {κ α : Type} [DecidableEq κ] (t : Tbl κ α) (k : κ) (a : α) : (t.put k a).find? k = some a := by
  induction t with
  | nil => simp [Tbl.put, Tbl.find?]
  | cons e t ih => by_cases h : e.1 = k <;> simp_all [Tbl.put, Tbl.find?]

@[simp] theorem Tbl.find?_put_ne {κ α : Type} [DecidableEq κ] (t : Tbl κ α) {k j : κ} (a : α) (h : k ≠ j) :
    (t.put k a).find? j = t.find? j := by
  induction t with
  | nil => simp [Tbl.put, Tbl.find?, h]
  | cons e t ih =>
    by_cases h1 : e.1 = k
    · simp [Tbl.put, Tbl.find?, h1, h]
    · simp [Tbl.put, Tbl.find?, h1, ih]

@[simp] theorem Tbl.getD_put_same {κ α : Type} [DecidableEq κ] (t : Tbl κ α) (k : κ) (a b : α) : (t.put k a).getD k b = a := by
  simp [Tbl.getD]

@[simp] theorem Tbl.getD_put_ne {κ α : Type} [DecidableEq κ] (t : Tbl κ α) {k j : κ} (a b : α) (h : k ≠ j) :
    (t.put k a).getD j b = t.getD j b := by simp [Tbl.getD, h]

/-! ### Reading back -/

@[simp] theorem Dev.rd_wr_same (d : Dev) (r : Reg) (i v : Nat) : (d.wr r i v).rd r i = v := by simp [Dev.rd, Dev.wr]

theorem Dev.rd_wr_ne (d : Dev) (r p : Reg) (i j v : Nat) (h : (⟨r.obj, i, r.off⟩ : RegKey) ≠ ⟨p.obj, j, p.off⟩) :
    (d.wr r i v).rd p j = d.rd p j := by simp [Dev.rd, Dev.wr, h]

@[simp] theorem Dev.queue_setQueue_same (d : Dev) (q : Nat) (x : Queue) : (d.setQueue q x).queue q = x := by
  simp [Dev.queue, Dev.setQueue]

theorem Dev.queue_setQueue_ne (d : Dev) {q p : Nat} (x : Queue) (h : q ≠ p) : (d.setQueue q x).queue p = d.queue p := by
  simp [Dev.queue, Dev.setQueue, h]

/-! ### What updates leave alone -/

@[simp] theorem Dev.wr_now (d : Dev) (r : Reg) (i v : Nat) : (d.wr r i v).now = d.now := rfl
@[simp] theorem Dev.wr_free (d : Dev) (r : Reg) (i v : Nat) : (d.wr r i v).free = d.free := rfl
@[simp] theorem Dev.wr_sent (d : Dev) (r : Reg) (i v : Nat) : (d.wr r i v).sent = d.sent := rfl
@[simp] theorem Dev.wr_mem (d : Dev) (r : Reg) (i v : Nat) : (d.wr r i v).mem = d.mem := rfl
@[simp] theorem Dev.wr_memFree (d : Dev) (r : Reg) (i v : Nat) : (d.wr r i v).memFree = d.memFree := rfl
@[simp] theorem Dev.wr_poison (d : Dev) (r : Reg) (i v : Nat) : (d.wr r i v).poison = d.poison := rfl
@[simp] theorem Dev.wr_attention (d : Dev) (r : Reg) (i v : Nat) : (d.wr r i v).attention = d.attention := rfl
@[simp] theorem Dev.wr_logWrapped (d : Dev) (r : Reg) (i v : Nat) : (d.wr r i v).logWrapped = d.logWrapped := rfl
@[simp] theorem Dev.wr_lasting (d : Dev) (r : Reg) (i v : Nat) : (d.wr r i v).lasting = d.lasting := rfl
@[simp] theorem Dev.wr_kept (d : Dev) (r : Reg) (i v : Nat) : (d.wr r i v).kept = d.kept := rfl
@[simp] theorem Dev.wr_canOpen (d : Dev) (r : Reg) (i v : Nat) : (d.wr r i v).canOpen = d.canOpen := rfl
@[simp] theorem Dev.wr_mailboxes (d : Dev) (r : Reg) (i v : Nat) : (d.wr r i v).mailboxes = d.mailboxes := rfl
@[simp] theorem Dev.wr_queues (d : Dev) (r : Reg) (i v : Nat) : (d.wr r i v).queues = d.queues := rfl
@[simp] theorem Dev.wr_ep (d : Dev) (r : Reg) (i v : Nat) : (d.wr r i v).ep = d.ep := rfl
@[simp] theorem Dev.wr_streams (d : Dev) (r : Reg) (i v : Nat) : (d.wr r i v).streams = d.streams := rfl
@[simp] theorem Dev.wr_ports (d : Dev) (r : Reg) (i v : Nat) : (d.wr r i v).ports = d.ports := rfl
@[simp] theorem Dev.wr_dictWaiting (d : Dev) (r : Reg) (i v : Nat) : (d.wr r i v).dictWaiting = d.dictWaiting := rfl
@[simp] theorem Dev.wr_canWaiting (d : Dev) (r : Reg) (i v : Nat) : (d.wr r i v).canWaiting = d.canWaiting := rfl
@[simp] theorem Dev.wr_dictTurn (d : Dev) (r : Reg) (i v : Nat) : (d.wr r i v).dictTurn = d.dictTurn := rfl
@[simp] theorem Dev.wr_fetchCount (d : Dev) (r : Reg) (i v : Nat) : (d.wr r i v).fetchCount = d.fetchCount := rfl
@[simp] theorem Dev.wr_fetchTurn (d : Dev) (r : Reg) (i v : Nat) : (d.wr r i v).fetchTurn = d.fetchTurn := rfl
@[simp] theorem Dev.wr_fetchRun (d : Dev) (r : Reg) (i v : Nat) : (d.wr r i v).fetchRun = d.fetchRun := rfl
@[simp] theorem Dev.wr_handedUnits (d : Dev) (r : Reg) (i v : Nat) : (d.wr r i v).handedUnits = d.handedUnits := rfl
@[simp] theorem Dev.wr_decoders (d : Dev) (r : Reg) (i v : Nat) : (d.wr r i v).decoders = d.decoders := rfl
@[simp] theorem Dev.wr_decodeJobs (d : Dev) (r : Reg) (i v : Nat) : (d.wr r i v).decodeJobs = d.decodeJobs := rfl
@[simp] theorem Dev.wr_faults (d : Dev) (r : Reg) (i v : Nat) : (d.wr r i v).faults = d.faults := rfl
@[simp] theorem Dev.wr_released (d : Dev) (r : Reg) (i v : Nat) : (d.wr r i v).released = d.released := rfl
@[simp] theorem Dev.wr_held (d : Dev) (r : Reg) (i v : Nat) : (d.wr r i v).held = d.held := rfl
@[simp] theorem Dev.wr_droppedBefore (d : Dev) (r : Reg) (i v : Nat) : (d.wr r i v).droppedBefore = d.droppedBefore := rfl
@[simp] theorem Dev.wr_raisedAt (d : Dev) (r : Reg) (i v : Nat) : (d.wr r i v).raisedAt = d.raisedAt := rfl
@[simp] theorem Dev.wr_clips (d : Dev) (r : Reg) (i v : Nat) : (d.wr r i v).clips = d.clips := rfl
@[simp] theorem Dev.wr_clipCount (d : Dev) (r : Reg) (i v : Nat) : (d.wr r i v).clipCount = d.clipCount := rfl
@[simp] theorem Dev.wr_encodeJobs (d : Dev) (r : Reg) (i v : Nat) : (d.wr r i v).encodeJobs = d.encodeJobs := rfl
@[simp] theorem Dev.wr_calStreams (d : Dev) (r : Reg) (i v : Nat) : (d.wr r i v).calStreams = d.calStreams := rfl
@[simp] theorem Dev.wr_frames (d : Dev) (r : Reg) (i v : Nat) : (d.wr r i v).frames = d.frames := rfl
@[simp] theorem Dev.wr_frameCount (d : Dev) (r : Reg) (i v : Nat) : (d.wr r i v).frameCount = d.frameCount := rfl
@[simp] theorem Dev.wr_signalled (d : Dev) (r : Reg) (i v : Nat) : (d.wr r i v).signalled = d.signalled := rfl
@[simp] theorem Dev.wr_cores (d : Dev) (r : Reg) (i v : Nat) : (d.wr r i v).cores = d.cores := rfl
@[simp] theorem Dev.wr_contexts (d : Dev) (r : Reg) (i v : Nat) : (d.wr r i v).contexts = d.contexts := rfl
@[simp] theorem Dev.wr_heap (d : Dev) (r : Reg) (i v : Nat) : (d.wr r i v).heap = d.heap := rfl
@[simp] theorem Dev.wr_scratch (d : Dev) (r : Reg) (i v : Nat) : (d.wr r i v).scratch = d.scratch := rfl
@[simp] theorem Dev.wr_waiters (d : Dev) (r : Reg) (i v : Nat) : (d.wr r i v).waiters = d.waiters := rfl
@[simp] theorem Dev.wr_remoteWaits (d : Dev) (r : Reg) (i v : Nat) : (d.wr r i v).remoteWaits = d.remoteWaits := rfl
@[simp] theorem Dev.wr_remoteCount (d : Dev) (r : Reg) (i v : Nat) : (d.wr r i v).remoteCount = d.remoteCount := rfl
@[simp] theorem Dev.wr_boosted (d : Dev) (r : Reg) (i v : Nat) : (d.wr r i v).boosted = d.boosted := rfl
@[simp] theorem Dev.wr_heard (d : Dev) (r : Reg) (i v : Nat) : (d.wr r i v).heard = d.heard := rfl
@[simp] theorem Dev.wr_quiescing (d : Dev) (r : Reg) (i v : Nat) : (d.wr r i v).quiescing = d.quiescing := rfl
@[simp] theorem Dev.wr_orderCount (d : Dev) (r : Reg) (i v : Nat) : (d.wr r i v).orderCount = d.orderCount := rfl
@[simp] theorem Dev.wr_trackSets (d : Dev) (r : Reg) (i v : Nat) : (d.wr r i v).trackSets = d.trackSets := rfl
@[simp] theorem Dev.wr_sliceJobs (d : Dev) (r : Reg) (i v : Nat) : (d.wr r i v).sliceJobs = d.sliceJobs := rfl
@[simp] theorem Dev.wr_pointsRetired (d : Dev) (r : Reg) (i v : Nat) : (d.wr r i v).pointsRetired = d.pointsRetired := rfl
@[simp] theorem Dev.wr_dio (d : Dev) (r : Reg) (i v : Nat) : (d.wr r i v).dio = d.dio := rfl
@[simp] theorem Dev.wr_canEvents (d : Dev) (r : Reg) (i v : Nat) : (d.wr r i v).canEvents = d.canEvents := rfl
@[simp] theorem Dev.wr_canSegments (d : Dev) (r : Reg) (i v : Nat) : (d.wr r i v).canSegments = d.canSegments := rfl
@[simp] theorem Dev.wr_pools (d : Dev) (r : Reg) (i v : Nat) : (d.wr r i v).pools = d.pools := rfl
@[simp] theorem Dev.wr_cache (d : Dev) (r : Reg) (i v : Nat) : (d.wr r i v).cache = d.cache := rfl
@[simp] theorem Dev.wr_lp (d : Dev) (r : Reg) (i v : Nat) : (d.wr r i v).lp = d.lp := rfl
@[simp] theorem Dev.wr_pw (d : Dev) (r : Reg) (i v : Nat) : (d.wr r i v).pw = d.pw := rfl
@[simp] theorem Dev.wr_coup (d : Dev) (r : Reg) (i v : Nat) : (d.wr r i v).coup = d.coup := rfl
@[simp] theorem Dev.wr_ledger (d : Dev) (r : Reg) (i v : Nat) : (d.wr r i v).ledger = d.ledger := rfl
@[simp] theorem Dev.wr_boot (d : Dev) (r : Reg) (i v : Nat) : (d.wr r i v).boot = d.boot := rfl
@[simp] theorem Dev.wr_pwrgood (d : Dev) (r : Reg) (i v : Nat) : (d.wr r i v).pwrgood = d.pwrgood := rfl
@[simp] theorem Dev.wr_perstLow (d : Dev) (r : Reg) (i v : Nat) : (d.wr r i v).perstLow = d.perstLow := rfl
@[simp] theorem Dev.wr_tap (d : Dev) (r : Reg) (i v : Nat) : (d.wr r i v).tap = d.tap := rfl

@[simp] theorem Dev.setFlag_now (d : Dev) (r : Reg) (i : Nat) (b : Bool) : (d.setFlag r i b).now = d.now := rfl
@[simp] theorem Dev.setFlag_free (d : Dev) (r : Reg) (i : Nat) (b : Bool) : (d.setFlag r i b).free = d.free := rfl
@[simp] theorem Dev.setFlag_sent (d : Dev) (r : Reg) (i : Nat) (b : Bool) : (d.setFlag r i b).sent = d.sent := rfl
@[simp] theorem Dev.setFlag_mem (d : Dev) (r : Reg) (i : Nat) (b : Bool) : (d.setFlag r i b).mem = d.mem := rfl
@[simp] theorem Dev.setFlag_memFree (d : Dev) (r : Reg) (i : Nat) (b : Bool) : (d.setFlag r i b).memFree = d.memFree := rfl
@[simp] theorem Dev.setFlag_poison (d : Dev) (r : Reg) (i : Nat) (b : Bool) : (d.setFlag r i b).poison = d.poison := rfl
@[simp] theorem Dev.setFlag_attention (d : Dev) (r : Reg) (i : Nat) (b : Bool) : (d.setFlag r i b).attention = d.attention := rfl
@[simp] theorem Dev.setFlag_logWrapped (d : Dev) (r : Reg) (i : Nat) (b : Bool) : (d.setFlag r i b).logWrapped = d.logWrapped := rfl
@[simp] theorem Dev.setFlag_lasting (d : Dev) (r : Reg) (i : Nat) (b : Bool) : (d.setFlag r i b).lasting = d.lasting := rfl
@[simp] theorem Dev.setFlag_kept (d : Dev) (r : Reg) (i : Nat) (b : Bool) : (d.setFlag r i b).kept = d.kept := rfl
@[simp] theorem Dev.setFlag_canOpen (d : Dev) (r : Reg) (i : Nat) (b : Bool) : (d.setFlag r i b).canOpen = d.canOpen := rfl
@[simp] theorem Dev.setFlag_mailboxes (d : Dev) (r : Reg) (i : Nat) (b : Bool) : (d.setFlag r i b).mailboxes = d.mailboxes := rfl
@[simp] theorem Dev.setFlag_queues (d : Dev) (r : Reg) (i : Nat) (b : Bool) : (d.setFlag r i b).queues = d.queues := rfl
@[simp] theorem Dev.setFlag_ep (d : Dev) (r : Reg) (i : Nat) (b : Bool) : (d.setFlag r i b).ep = d.ep := rfl
@[simp] theorem Dev.setFlag_streams (d : Dev) (r : Reg) (i : Nat) (b : Bool) : (d.setFlag r i b).streams = d.streams := rfl
@[simp] theorem Dev.setFlag_ports (d : Dev) (r : Reg) (i : Nat) (b : Bool) : (d.setFlag r i b).ports = d.ports := rfl
@[simp] theorem Dev.setFlag_dictWaiting (d : Dev) (r : Reg) (i : Nat) (b : Bool) : (d.setFlag r i b).dictWaiting = d.dictWaiting := rfl
@[simp] theorem Dev.setFlag_canWaiting (d : Dev) (r : Reg) (i : Nat) (b : Bool) : (d.setFlag r i b).canWaiting = d.canWaiting := rfl
@[simp] theorem Dev.setFlag_dictTurn (d : Dev) (r : Reg) (i : Nat) (b : Bool) : (d.setFlag r i b).dictTurn = d.dictTurn := rfl
@[simp] theorem Dev.setFlag_fetchCount (d : Dev) (r : Reg) (i : Nat) (b : Bool) : (d.setFlag r i b).fetchCount = d.fetchCount := rfl
@[simp] theorem Dev.setFlag_fetchTurn (d : Dev) (r : Reg) (i : Nat) (b : Bool) : (d.setFlag r i b).fetchTurn = d.fetchTurn := rfl
@[simp] theorem Dev.setFlag_fetchRun (d : Dev) (r : Reg) (i : Nat) (b : Bool) : (d.setFlag r i b).fetchRun = d.fetchRun := rfl
@[simp] theorem Dev.setFlag_handedUnits (d : Dev) (r : Reg) (i : Nat) (b : Bool) : (d.setFlag r i b).handedUnits = d.handedUnits := rfl
@[simp] theorem Dev.setFlag_decoders (d : Dev) (r : Reg) (i : Nat) (b : Bool) : (d.setFlag r i b).decoders = d.decoders := rfl
@[simp] theorem Dev.setFlag_decodeJobs (d : Dev) (r : Reg) (i : Nat) (b : Bool) : (d.setFlag r i b).decodeJobs = d.decodeJobs := rfl
@[simp] theorem Dev.setFlag_faults (d : Dev) (r : Reg) (i : Nat) (b : Bool) : (d.setFlag r i b).faults = d.faults := rfl
@[simp] theorem Dev.setFlag_released (d : Dev) (r : Reg) (i : Nat) (b : Bool) : (d.setFlag r i b).released = d.released := rfl
@[simp] theorem Dev.setFlag_held (d : Dev) (r : Reg) (i : Nat) (b : Bool) : (d.setFlag r i b).held = d.held := rfl
@[simp] theorem Dev.setFlag_droppedBefore (d : Dev) (r : Reg) (i : Nat) (b : Bool) : (d.setFlag r i b).droppedBefore = d.droppedBefore := rfl
@[simp] theorem Dev.setFlag_raisedAt (d : Dev) (r : Reg) (i : Nat) (b : Bool) : (d.setFlag r i b).raisedAt = d.raisedAt := rfl
@[simp] theorem Dev.setFlag_clips (d : Dev) (r : Reg) (i : Nat) (b : Bool) : (d.setFlag r i b).clips = d.clips := rfl
@[simp] theorem Dev.setFlag_clipCount (d : Dev) (r : Reg) (i : Nat) (b : Bool) : (d.setFlag r i b).clipCount = d.clipCount := rfl
@[simp] theorem Dev.setFlag_encodeJobs (d : Dev) (r : Reg) (i : Nat) (b : Bool) : (d.setFlag r i b).encodeJobs = d.encodeJobs := rfl
@[simp] theorem Dev.setFlag_calStreams (d : Dev) (r : Reg) (i : Nat) (b : Bool) : (d.setFlag r i b).calStreams = d.calStreams := rfl
@[simp] theorem Dev.setFlag_frames (d : Dev) (r : Reg) (i : Nat) (b : Bool) : (d.setFlag r i b).frames = d.frames := rfl
@[simp] theorem Dev.setFlag_frameCount (d : Dev) (r : Reg) (i : Nat) (b : Bool) : (d.setFlag r i b).frameCount = d.frameCount := rfl
@[simp] theorem Dev.setFlag_signalled (d : Dev) (r : Reg) (i : Nat) (b : Bool) : (d.setFlag r i b).signalled = d.signalled := rfl
@[simp] theorem Dev.setFlag_cores (d : Dev) (r : Reg) (i : Nat) (b : Bool) : (d.setFlag r i b).cores = d.cores := rfl
@[simp] theorem Dev.setFlag_contexts (d : Dev) (r : Reg) (i : Nat) (b : Bool) : (d.setFlag r i b).contexts = d.contexts := rfl
@[simp] theorem Dev.setFlag_heap (d : Dev) (r : Reg) (i : Nat) (b : Bool) : (d.setFlag r i b).heap = d.heap := rfl
@[simp] theorem Dev.setFlag_scratch (d : Dev) (r : Reg) (i : Nat) (b : Bool) : (d.setFlag r i b).scratch = d.scratch := rfl
@[simp] theorem Dev.setFlag_waiters (d : Dev) (r : Reg) (i : Nat) (b : Bool) : (d.setFlag r i b).waiters = d.waiters := rfl
@[simp] theorem Dev.setFlag_remoteWaits (d : Dev) (r : Reg) (i : Nat) (b : Bool) : (d.setFlag r i b).remoteWaits = d.remoteWaits := rfl
@[simp] theorem Dev.setFlag_remoteCount (d : Dev) (r : Reg) (i : Nat) (b : Bool) : (d.setFlag r i b).remoteCount = d.remoteCount := rfl
@[simp] theorem Dev.setFlag_boosted (d : Dev) (r : Reg) (i : Nat) (b : Bool) : (d.setFlag r i b).boosted = d.boosted := rfl
@[simp] theorem Dev.setFlag_heard (d : Dev) (r : Reg) (i : Nat) (b : Bool) : (d.setFlag r i b).heard = d.heard := rfl
@[simp] theorem Dev.setFlag_quiescing (d : Dev) (r : Reg) (i : Nat) (b : Bool) : (d.setFlag r i b).quiescing = d.quiescing := rfl
@[simp] theorem Dev.setFlag_orderCount (d : Dev) (r : Reg) (i : Nat) (b : Bool) : (d.setFlag r i b).orderCount = d.orderCount := rfl
@[simp] theorem Dev.setFlag_trackSets (d : Dev) (r : Reg) (i : Nat) (b : Bool) : (d.setFlag r i b).trackSets = d.trackSets := rfl
@[simp] theorem Dev.setFlag_sliceJobs (d : Dev) (r : Reg) (i : Nat) (b : Bool) : (d.setFlag r i b).sliceJobs = d.sliceJobs := rfl
@[simp] theorem Dev.setFlag_pointsRetired (d : Dev) (r : Reg) (i : Nat) (b : Bool) : (d.setFlag r i b).pointsRetired = d.pointsRetired := rfl
@[simp] theorem Dev.setFlag_dio (d : Dev) (r : Reg) (i : Nat) (b : Bool) : (d.setFlag r i b).dio = d.dio := rfl
@[simp] theorem Dev.setFlag_canEvents (d : Dev) (r : Reg) (i : Nat) (b : Bool) : (d.setFlag r i b).canEvents = d.canEvents := rfl
@[simp] theorem Dev.setFlag_canSegments (d : Dev) (r : Reg) (i : Nat) (b : Bool) : (d.setFlag r i b).canSegments = d.canSegments := rfl
@[simp] theorem Dev.setFlag_pools (d : Dev) (r : Reg) (i : Nat) (b : Bool) : (d.setFlag r i b).pools = d.pools := rfl
@[simp] theorem Dev.setFlag_cache (d : Dev) (r : Reg) (i : Nat) (b : Bool) : (d.setFlag r i b).cache = d.cache := rfl
@[simp] theorem Dev.setFlag_lp (d : Dev) (r : Reg) (i : Nat) (b : Bool) : (d.setFlag r i b).lp = d.lp := rfl
@[simp] theorem Dev.setFlag_pw (d : Dev) (r : Reg) (i : Nat) (b : Bool) : (d.setFlag r i b).pw = d.pw := rfl
@[simp] theorem Dev.setFlag_coup (d : Dev) (r : Reg) (i : Nat) (b : Bool) : (d.setFlag r i b).coup = d.coup := rfl
@[simp] theorem Dev.setFlag_ledger (d : Dev) (r : Reg) (i : Nat) (b : Bool) : (d.setFlag r i b).ledger = d.ledger := rfl
@[simp] theorem Dev.setFlag_boot (d : Dev) (r : Reg) (i : Nat) (b : Bool) : (d.setFlag r i b).boot = d.boot := rfl
@[simp] theorem Dev.setFlag_pwrgood (d : Dev) (r : Reg) (i : Nat) (b : Bool) : (d.setFlag r i b).pwrgood = d.pwrgood := rfl
@[simp] theorem Dev.setFlag_perstLow (d : Dev) (r : Reg) (i : Nat) (b : Bool) : (d.setFlag r i b).perstLow = d.perstLow := rfl
@[simp] theorem Dev.setFlag_tap (d : Dev) (r : Reg) (i : Nat) (b : Bool) : (d.setFlag r i b).tap = d.tap := rfl

@[simp] theorem Dev.send_now (d : Dev) (x : Sent) : (d.send x).now = d.now := rfl
@[simp] theorem Dev.send_free (d : Dev) (x : Sent) : (d.send x).free = d.free := rfl
@[simp] theorem Dev.send_regs (d : Dev) (x : Sent) : (d.send x).regs = d.regs := rfl
@[simp] theorem Dev.send_mem (d : Dev) (x : Sent) : (d.send x).mem = d.mem := rfl
@[simp] theorem Dev.send_memFree (d : Dev) (x : Sent) : (d.send x).memFree = d.memFree := rfl
@[simp] theorem Dev.send_poison (d : Dev) (x : Sent) : (d.send x).poison = d.poison := rfl
@[simp] theorem Dev.send_attention (d : Dev) (x : Sent) : (d.send x).attention = d.attention := rfl
@[simp] theorem Dev.send_logWrapped (d : Dev) (x : Sent) : (d.send x).logWrapped = d.logWrapped := rfl
@[simp] theorem Dev.send_lasting (d : Dev) (x : Sent) : (d.send x).lasting = d.lasting := rfl
@[simp] theorem Dev.send_kept (d : Dev) (x : Sent) : (d.send x).kept = d.kept := rfl
@[simp] theorem Dev.send_canOpen (d : Dev) (x : Sent) : (d.send x).canOpen = d.canOpen := rfl
@[simp] theorem Dev.send_mailboxes (d : Dev) (x : Sent) : (d.send x).mailboxes = d.mailboxes := rfl
@[simp] theorem Dev.send_queues (d : Dev) (x : Sent) : (d.send x).queues = d.queues := rfl
@[simp] theorem Dev.send_ep (d : Dev) (x : Sent) : (d.send x).ep = d.ep := rfl
@[simp] theorem Dev.send_streams (d : Dev) (x : Sent) : (d.send x).streams = d.streams := rfl
@[simp] theorem Dev.send_ports (d : Dev) (x : Sent) : (d.send x).ports = d.ports := rfl
@[simp] theorem Dev.send_dictWaiting (d : Dev) (x : Sent) : (d.send x).dictWaiting = d.dictWaiting := rfl
@[simp] theorem Dev.send_canWaiting (d : Dev) (x : Sent) : (d.send x).canWaiting = d.canWaiting := rfl
@[simp] theorem Dev.send_dictTurn (d : Dev) (x : Sent) : (d.send x).dictTurn = d.dictTurn := rfl
@[simp] theorem Dev.send_fetchCount (d : Dev) (x : Sent) : (d.send x).fetchCount = d.fetchCount := rfl
@[simp] theorem Dev.send_fetchTurn (d : Dev) (x : Sent) : (d.send x).fetchTurn = d.fetchTurn := rfl
@[simp] theorem Dev.send_fetchRun (d : Dev) (x : Sent) : (d.send x).fetchRun = d.fetchRun := rfl
@[simp] theorem Dev.send_handedUnits (d : Dev) (x : Sent) : (d.send x).handedUnits = d.handedUnits := rfl
@[simp] theorem Dev.send_decoders (d : Dev) (x : Sent) : (d.send x).decoders = d.decoders := rfl
@[simp] theorem Dev.send_decodeJobs (d : Dev) (x : Sent) : (d.send x).decodeJobs = d.decodeJobs := rfl
@[simp] theorem Dev.send_faults (d : Dev) (x : Sent) : (d.send x).faults = d.faults := rfl
@[simp] theorem Dev.send_released (d : Dev) (x : Sent) : (d.send x).released = d.released := rfl
@[simp] theorem Dev.send_held (d : Dev) (x : Sent) : (d.send x).held = d.held := rfl
@[simp] theorem Dev.send_droppedBefore (d : Dev) (x : Sent) : (d.send x).droppedBefore = d.droppedBefore := rfl
@[simp] theorem Dev.send_raisedAt (d : Dev) (x : Sent) : (d.send x).raisedAt = d.raisedAt := rfl
@[simp] theorem Dev.send_clips (d : Dev) (x : Sent) : (d.send x).clips = d.clips := rfl
@[simp] theorem Dev.send_clipCount (d : Dev) (x : Sent) : (d.send x).clipCount = d.clipCount := rfl
@[simp] theorem Dev.send_encodeJobs (d : Dev) (x : Sent) : (d.send x).encodeJobs = d.encodeJobs := rfl
@[simp] theorem Dev.send_calStreams (d : Dev) (x : Sent) : (d.send x).calStreams = d.calStreams := rfl
@[simp] theorem Dev.send_frames (d : Dev) (x : Sent) : (d.send x).frames = d.frames := rfl
@[simp] theorem Dev.send_frameCount (d : Dev) (x : Sent) : (d.send x).frameCount = d.frameCount := rfl
@[simp] theorem Dev.send_signalled (d : Dev) (x : Sent) : (d.send x).signalled = d.signalled := rfl
@[simp] theorem Dev.send_cores (d : Dev) (x : Sent) : (d.send x).cores = d.cores := rfl
@[simp] theorem Dev.send_contexts (d : Dev) (x : Sent) : (d.send x).contexts = d.contexts := rfl
@[simp] theorem Dev.send_heap (d : Dev) (x : Sent) : (d.send x).heap = d.heap := rfl
@[simp] theorem Dev.send_scratch (d : Dev) (x : Sent) : (d.send x).scratch = d.scratch := rfl
@[simp] theorem Dev.send_waiters (d : Dev) (x : Sent) : (d.send x).waiters = d.waiters := rfl
@[simp] theorem Dev.send_remoteWaits (d : Dev) (x : Sent) : (d.send x).remoteWaits = d.remoteWaits := rfl
@[simp] theorem Dev.send_remoteCount (d : Dev) (x : Sent) : (d.send x).remoteCount = d.remoteCount := rfl
@[simp] theorem Dev.send_boosted (d : Dev) (x : Sent) : (d.send x).boosted = d.boosted := rfl
@[simp] theorem Dev.send_heard (d : Dev) (x : Sent) : (d.send x).heard = d.heard := rfl
@[simp] theorem Dev.send_quiescing (d : Dev) (x : Sent) : (d.send x).quiescing = d.quiescing := rfl
@[simp] theorem Dev.send_orderCount (d : Dev) (x : Sent) : (d.send x).orderCount = d.orderCount := rfl
@[simp] theorem Dev.send_trackSets (d : Dev) (x : Sent) : (d.send x).trackSets = d.trackSets := rfl
@[simp] theorem Dev.send_sliceJobs (d : Dev) (x : Sent) : (d.send x).sliceJobs = d.sliceJobs := rfl
@[simp] theorem Dev.send_pointsRetired (d : Dev) (x : Sent) : (d.send x).pointsRetired = d.pointsRetired := rfl
@[simp] theorem Dev.send_dio (d : Dev) (x : Sent) : (d.send x).dio = d.dio := rfl
@[simp] theorem Dev.send_canEvents (d : Dev) (x : Sent) : (d.send x).canEvents = d.canEvents := rfl
@[simp] theorem Dev.send_canSegments (d : Dev) (x : Sent) : (d.send x).canSegments = d.canSegments := rfl
@[simp] theorem Dev.send_pools (d : Dev) (x : Sent) : (d.send x).pools = d.pools := rfl
@[simp] theorem Dev.send_cache (d : Dev) (x : Sent) : (d.send x).cache = d.cache := rfl
@[simp] theorem Dev.send_lp (d : Dev) (x : Sent) : (d.send x).lp = d.lp := rfl
@[simp] theorem Dev.send_pw (d : Dev) (x : Sent) : (d.send x).pw = d.pw := rfl
@[simp] theorem Dev.send_coup (d : Dev) (x : Sent) : (d.send x).coup = d.coup := rfl
@[simp] theorem Dev.send_ledger (d : Dev) (x : Sent) : (d.send x).ledger = d.ledger := rfl
@[simp] theorem Dev.send_boot (d : Dev) (x : Sent) : (d.send x).boot = d.boot := rfl
@[simp] theorem Dev.send_pwrgood (d : Dev) (x : Sent) : (d.send x).pwrgood = d.pwrgood := rfl
@[simp] theorem Dev.send_perstLow (d : Dev) (x : Sent) : (d.send x).perstLow = d.perstLow := rfl
@[simp] theorem Dev.send_tap (d : Dev) (x : Sent) : (d.send x).tap = d.tap := rfl

@[simp] theorem Dev.setQueue_now (d : Dev) (q : Nat) (x : Queue) : (d.setQueue q x).now = d.now := rfl
@[simp] theorem Dev.setQueue_free (d : Dev) (q : Nat) (x : Queue) : (d.setQueue q x).free = d.free := rfl
@[simp] theorem Dev.setQueue_regs (d : Dev) (q : Nat) (x : Queue) : (d.setQueue q x).regs = d.regs := rfl
@[simp] theorem Dev.setQueue_sent (d : Dev) (q : Nat) (x : Queue) : (d.setQueue q x).sent = d.sent := rfl
@[simp] theorem Dev.setQueue_mem (d : Dev) (q : Nat) (x : Queue) : (d.setQueue q x).mem = d.mem := rfl
@[simp] theorem Dev.setQueue_memFree (d : Dev) (q : Nat) (x : Queue) : (d.setQueue q x).memFree = d.memFree := rfl
@[simp] theorem Dev.setQueue_poison (d : Dev) (q : Nat) (x : Queue) : (d.setQueue q x).poison = d.poison := rfl
@[simp] theorem Dev.setQueue_attention (d : Dev) (q : Nat) (x : Queue) : (d.setQueue q x).attention = d.attention := rfl
@[simp] theorem Dev.setQueue_logWrapped (d : Dev) (q : Nat) (x : Queue) : (d.setQueue q x).logWrapped = d.logWrapped := rfl
@[simp] theorem Dev.setQueue_lasting (d : Dev) (q : Nat) (x : Queue) : (d.setQueue q x).lasting = d.lasting := rfl
@[simp] theorem Dev.setQueue_kept (d : Dev) (q : Nat) (x : Queue) : (d.setQueue q x).kept = d.kept := rfl
@[simp] theorem Dev.setQueue_canOpen (d : Dev) (q : Nat) (x : Queue) : (d.setQueue q x).canOpen = d.canOpen := rfl
@[simp] theorem Dev.setQueue_mailboxes (d : Dev) (q : Nat) (x : Queue) : (d.setQueue q x).mailboxes = d.mailboxes := rfl
@[simp] theorem Dev.setQueue_ep (d : Dev) (q : Nat) (x : Queue) : (d.setQueue q x).ep = d.ep := rfl
@[simp] theorem Dev.setQueue_streams (d : Dev) (q : Nat) (x : Queue) : (d.setQueue q x).streams = d.streams := rfl
@[simp] theorem Dev.setQueue_ports (d : Dev) (q : Nat) (x : Queue) : (d.setQueue q x).ports = d.ports := rfl
@[simp] theorem Dev.setQueue_dictWaiting (d : Dev) (q : Nat) (x : Queue) : (d.setQueue q x).dictWaiting = d.dictWaiting := rfl
@[simp] theorem Dev.setQueue_canWaiting (d : Dev) (q : Nat) (x : Queue) : (d.setQueue q x).canWaiting = d.canWaiting := rfl
@[simp] theorem Dev.setQueue_dictTurn (d : Dev) (q : Nat) (x : Queue) : (d.setQueue q x).dictTurn = d.dictTurn := rfl
@[simp] theorem Dev.setQueue_fetchCount (d : Dev) (q : Nat) (x : Queue) : (d.setQueue q x).fetchCount = d.fetchCount := rfl
@[simp] theorem Dev.setQueue_fetchTurn (d : Dev) (q : Nat) (x : Queue) : (d.setQueue q x).fetchTurn = d.fetchTurn := rfl
@[simp] theorem Dev.setQueue_fetchRun (d : Dev) (q : Nat) (x : Queue) : (d.setQueue q x).fetchRun = d.fetchRun := rfl
@[simp] theorem Dev.setQueue_handedUnits (d : Dev) (q : Nat) (x : Queue) : (d.setQueue q x).handedUnits = d.handedUnits := rfl
@[simp] theorem Dev.setQueue_decoders (d : Dev) (q : Nat) (x : Queue) : (d.setQueue q x).decoders = d.decoders := rfl
@[simp] theorem Dev.setQueue_decodeJobs (d : Dev) (q : Nat) (x : Queue) : (d.setQueue q x).decodeJobs = d.decodeJobs := rfl
@[simp] theorem Dev.setQueue_faults (d : Dev) (q : Nat) (x : Queue) : (d.setQueue q x).faults = d.faults := rfl
@[simp] theorem Dev.setQueue_released (d : Dev) (q : Nat) (x : Queue) : (d.setQueue q x).released = d.released := rfl
@[simp] theorem Dev.setQueue_held (d : Dev) (q : Nat) (x : Queue) : (d.setQueue q x).held = d.held := rfl
@[simp] theorem Dev.setQueue_droppedBefore (d : Dev) (q : Nat) (x : Queue) : (d.setQueue q x).droppedBefore = d.droppedBefore := rfl
@[simp] theorem Dev.setQueue_raisedAt (d : Dev) (q : Nat) (x : Queue) : (d.setQueue q x).raisedAt = d.raisedAt := rfl
@[simp] theorem Dev.setQueue_clips (d : Dev) (q : Nat) (x : Queue) : (d.setQueue q x).clips = d.clips := rfl
@[simp] theorem Dev.setQueue_clipCount (d : Dev) (q : Nat) (x : Queue) : (d.setQueue q x).clipCount = d.clipCount := rfl
@[simp] theorem Dev.setQueue_encodeJobs (d : Dev) (q : Nat) (x : Queue) : (d.setQueue q x).encodeJobs = d.encodeJobs := rfl
@[simp] theorem Dev.setQueue_calStreams (d : Dev) (q : Nat) (x : Queue) : (d.setQueue q x).calStreams = d.calStreams := rfl
@[simp] theorem Dev.setQueue_frames (d : Dev) (q : Nat) (x : Queue) : (d.setQueue q x).frames = d.frames := rfl
@[simp] theorem Dev.setQueue_frameCount (d : Dev) (q : Nat) (x : Queue) : (d.setQueue q x).frameCount = d.frameCount := rfl
@[simp] theorem Dev.setQueue_signalled (d : Dev) (q : Nat) (x : Queue) : (d.setQueue q x).signalled = d.signalled := rfl
@[simp] theorem Dev.setQueue_cores (d : Dev) (q : Nat) (x : Queue) : (d.setQueue q x).cores = d.cores := rfl
@[simp] theorem Dev.setQueue_contexts (d : Dev) (q : Nat) (x : Queue) : (d.setQueue q x).contexts = d.contexts := rfl
@[simp] theorem Dev.setQueue_heap (d : Dev) (q : Nat) (x : Queue) : (d.setQueue q x).heap = d.heap := rfl
@[simp] theorem Dev.setQueue_scratch (d : Dev) (q : Nat) (x : Queue) : (d.setQueue q x).scratch = d.scratch := rfl
@[simp] theorem Dev.setQueue_waiters (d : Dev) (q : Nat) (x : Queue) : (d.setQueue q x).waiters = d.waiters := rfl
@[simp] theorem Dev.setQueue_remoteWaits (d : Dev) (q : Nat) (x : Queue) : (d.setQueue q x).remoteWaits = d.remoteWaits := rfl
@[simp] theorem Dev.setQueue_remoteCount (d : Dev) (q : Nat) (x : Queue) : (d.setQueue q x).remoteCount = d.remoteCount := rfl
@[simp] theorem Dev.setQueue_boosted (d : Dev) (q : Nat) (x : Queue) : (d.setQueue q x).boosted = d.boosted := rfl
@[simp] theorem Dev.setQueue_heard (d : Dev) (q : Nat) (x : Queue) : (d.setQueue q x).heard = d.heard := rfl
@[simp] theorem Dev.setQueue_quiescing (d : Dev) (q : Nat) (x : Queue) : (d.setQueue q x).quiescing = d.quiescing := rfl
@[simp] theorem Dev.setQueue_orderCount (d : Dev) (q : Nat) (x : Queue) : (d.setQueue q x).orderCount = d.orderCount := rfl
@[simp] theorem Dev.setQueue_trackSets (d : Dev) (q : Nat) (x : Queue) : (d.setQueue q x).trackSets = d.trackSets := rfl
@[simp] theorem Dev.setQueue_sliceJobs (d : Dev) (q : Nat) (x : Queue) : (d.setQueue q x).sliceJobs = d.sliceJobs := rfl
@[simp] theorem Dev.setQueue_pointsRetired (d : Dev) (q : Nat) (x : Queue) : (d.setQueue q x).pointsRetired = d.pointsRetired := rfl
@[simp] theorem Dev.setQueue_dio (d : Dev) (q : Nat) (x : Queue) : (d.setQueue q x).dio = d.dio := rfl
@[simp] theorem Dev.setQueue_canEvents (d : Dev) (q : Nat) (x : Queue) : (d.setQueue q x).canEvents = d.canEvents := rfl
@[simp] theorem Dev.setQueue_canSegments (d : Dev) (q : Nat) (x : Queue) : (d.setQueue q x).canSegments = d.canSegments := rfl
@[simp] theorem Dev.setQueue_pools (d : Dev) (q : Nat) (x : Queue) : (d.setQueue q x).pools = d.pools := rfl
@[simp] theorem Dev.setQueue_cache (d : Dev) (q : Nat) (x : Queue) : (d.setQueue q x).cache = d.cache := rfl
@[simp] theorem Dev.setQueue_lp (d : Dev) (q : Nat) (x : Queue) : (d.setQueue q x).lp = d.lp := rfl
@[simp] theorem Dev.setQueue_pw (d : Dev) (q : Nat) (x : Queue) : (d.setQueue q x).pw = d.pw := rfl
@[simp] theorem Dev.setQueue_coup (d : Dev) (q : Nat) (x : Queue) : (d.setQueue q x).coup = d.coup := rfl
@[simp] theorem Dev.setQueue_ledger (d : Dev) (q : Nat) (x : Queue) : (d.setQueue q x).ledger = d.ledger := rfl
@[simp] theorem Dev.setQueue_boot (d : Dev) (q : Nat) (x : Queue) : (d.setQueue q x).boot = d.boot := rfl
@[simp] theorem Dev.setQueue_pwrgood (d : Dev) (q : Nat) (x : Queue) : (d.setQueue q x).pwrgood = d.pwrgood := rfl
@[simp] theorem Dev.setQueue_perstLow (d : Dev) (q : Nat) (x : Queue) : (d.setQueue q x).perstLow = d.perstLow := rfl
@[simp] theorem Dev.setQueue_tap (d : Dev) (q : Nat) (x : Queue) : (d.setQueue q x).tap = d.tap := rfl

@[simp] theorem Dev.updFetched_now (d : Dev) (q i : Nat) (g : Fetched → Fetched) : (d.updFetched q i g).now = d.now := rfl
@[simp] theorem Dev.updFetched_free (d : Dev) (q i : Nat) (g : Fetched → Fetched) : (d.updFetched q i g).free = d.free := rfl
@[simp] theorem Dev.updFetched_regs (d : Dev) (q i : Nat) (g : Fetched → Fetched) : (d.updFetched q i g).regs = d.regs := rfl
@[simp] theorem Dev.updFetched_sent (d : Dev) (q i : Nat) (g : Fetched → Fetched) : (d.updFetched q i g).sent = d.sent := rfl
@[simp] theorem Dev.updFetched_mem (d : Dev) (q i : Nat) (g : Fetched → Fetched) : (d.updFetched q i g).mem = d.mem := rfl
@[simp] theorem Dev.updFetched_memFree (d : Dev) (q i : Nat) (g : Fetched → Fetched) : (d.updFetched q i g).memFree = d.memFree := rfl
@[simp] theorem Dev.updFetched_poison (d : Dev) (q i : Nat) (g : Fetched → Fetched) : (d.updFetched q i g).poison = d.poison := rfl
@[simp] theorem Dev.updFetched_attention (d : Dev) (q i : Nat) (g : Fetched → Fetched) : (d.updFetched q i g).attention = d.attention := rfl
@[simp] theorem Dev.updFetched_logWrapped (d : Dev) (q i : Nat) (g : Fetched → Fetched) : (d.updFetched q i g).logWrapped = d.logWrapped := rfl
@[simp] theorem Dev.updFetched_lasting (d : Dev) (q i : Nat) (g : Fetched → Fetched) : (d.updFetched q i g).lasting = d.lasting := rfl
@[simp] theorem Dev.updFetched_kept (d : Dev) (q i : Nat) (g : Fetched → Fetched) : (d.updFetched q i g).kept = d.kept := rfl
@[simp] theorem Dev.updFetched_canOpen (d : Dev) (q i : Nat) (g : Fetched → Fetched) : (d.updFetched q i g).canOpen = d.canOpen := rfl
@[simp] theorem Dev.updFetched_mailboxes (d : Dev) (q i : Nat) (g : Fetched → Fetched) : (d.updFetched q i g).mailboxes = d.mailboxes := rfl
@[simp] theorem Dev.updFetched_ep (d : Dev) (q i : Nat) (g : Fetched → Fetched) : (d.updFetched q i g).ep = d.ep := rfl
@[simp] theorem Dev.updFetched_streams (d : Dev) (q i : Nat) (g : Fetched → Fetched) : (d.updFetched q i g).streams = d.streams := rfl
@[simp] theorem Dev.updFetched_ports (d : Dev) (q i : Nat) (g : Fetched → Fetched) : (d.updFetched q i g).ports = d.ports := rfl
@[simp] theorem Dev.updFetched_dictWaiting (d : Dev) (q i : Nat) (g : Fetched → Fetched) : (d.updFetched q i g).dictWaiting = d.dictWaiting := rfl
@[simp] theorem Dev.updFetched_canWaiting (d : Dev) (q i : Nat) (g : Fetched → Fetched) : (d.updFetched q i g).canWaiting = d.canWaiting := rfl
@[simp] theorem Dev.updFetched_dictTurn (d : Dev) (q i : Nat) (g : Fetched → Fetched) : (d.updFetched q i g).dictTurn = d.dictTurn := rfl
@[simp] theorem Dev.updFetched_fetchCount (d : Dev) (q i : Nat) (g : Fetched → Fetched) : (d.updFetched q i g).fetchCount = d.fetchCount := rfl
@[simp] theorem Dev.updFetched_fetchTurn (d : Dev) (q i : Nat) (g : Fetched → Fetched) : (d.updFetched q i g).fetchTurn = d.fetchTurn := rfl
@[simp] theorem Dev.updFetched_fetchRun (d : Dev) (q i : Nat) (g : Fetched → Fetched) : (d.updFetched q i g).fetchRun = d.fetchRun := rfl
@[simp] theorem Dev.updFetched_handedUnits (d : Dev) (q i : Nat) (g : Fetched → Fetched) : (d.updFetched q i g).handedUnits = d.handedUnits := rfl
@[simp] theorem Dev.updFetched_decoders (d : Dev) (q i : Nat) (g : Fetched → Fetched) : (d.updFetched q i g).decoders = d.decoders := rfl
@[simp] theorem Dev.updFetched_decodeJobs (d : Dev) (q i : Nat) (g : Fetched → Fetched) : (d.updFetched q i g).decodeJobs = d.decodeJobs := rfl
@[simp] theorem Dev.updFetched_faults (d : Dev) (q i : Nat) (g : Fetched → Fetched) : (d.updFetched q i g).faults = d.faults := rfl
@[simp] theorem Dev.updFetched_released (d : Dev) (q i : Nat) (g : Fetched → Fetched) : (d.updFetched q i g).released = d.released := rfl
@[simp] theorem Dev.updFetched_held (d : Dev) (q i : Nat) (g : Fetched → Fetched) : (d.updFetched q i g).held = d.held := rfl
@[simp] theorem Dev.updFetched_droppedBefore (d : Dev) (q i : Nat) (g : Fetched → Fetched) : (d.updFetched q i g).droppedBefore = d.droppedBefore := rfl
@[simp] theorem Dev.updFetched_raisedAt (d : Dev) (q i : Nat) (g : Fetched → Fetched) : (d.updFetched q i g).raisedAt = d.raisedAt := rfl
@[simp] theorem Dev.updFetched_clips (d : Dev) (q i : Nat) (g : Fetched → Fetched) : (d.updFetched q i g).clips = d.clips := rfl
@[simp] theorem Dev.updFetched_clipCount (d : Dev) (q i : Nat) (g : Fetched → Fetched) : (d.updFetched q i g).clipCount = d.clipCount := rfl
@[simp] theorem Dev.updFetched_encodeJobs (d : Dev) (q i : Nat) (g : Fetched → Fetched) : (d.updFetched q i g).encodeJobs = d.encodeJobs := rfl
@[simp] theorem Dev.updFetched_calStreams (d : Dev) (q i : Nat) (g : Fetched → Fetched) : (d.updFetched q i g).calStreams = d.calStreams := rfl
@[simp] theorem Dev.updFetched_frames (d : Dev) (q i : Nat) (g : Fetched → Fetched) : (d.updFetched q i g).frames = d.frames := rfl
@[simp] theorem Dev.updFetched_frameCount (d : Dev) (q i : Nat) (g : Fetched → Fetched) : (d.updFetched q i g).frameCount = d.frameCount := rfl
@[simp] theorem Dev.updFetched_signalled (d : Dev) (q i : Nat) (g : Fetched → Fetched) : (d.updFetched q i g).signalled = d.signalled := rfl
@[simp] theorem Dev.updFetched_cores (d : Dev) (q i : Nat) (g : Fetched → Fetched) : (d.updFetched q i g).cores = d.cores := rfl
@[simp] theorem Dev.updFetched_contexts (d : Dev) (q i : Nat) (g : Fetched → Fetched) : (d.updFetched q i g).contexts = d.contexts := rfl
@[simp] theorem Dev.updFetched_heap (d : Dev) (q i : Nat) (g : Fetched → Fetched) : (d.updFetched q i g).heap = d.heap := rfl
@[simp] theorem Dev.updFetched_scratch (d : Dev) (q i : Nat) (g : Fetched → Fetched) : (d.updFetched q i g).scratch = d.scratch := rfl
@[simp] theorem Dev.updFetched_waiters (d : Dev) (q i : Nat) (g : Fetched → Fetched) : (d.updFetched q i g).waiters = d.waiters := rfl
@[simp] theorem Dev.updFetched_remoteWaits (d : Dev) (q i : Nat) (g : Fetched → Fetched) : (d.updFetched q i g).remoteWaits = d.remoteWaits := rfl
@[simp] theorem Dev.updFetched_remoteCount (d : Dev) (q i : Nat) (g : Fetched → Fetched) : (d.updFetched q i g).remoteCount = d.remoteCount := rfl
@[simp] theorem Dev.updFetched_boosted (d : Dev) (q i : Nat) (g : Fetched → Fetched) : (d.updFetched q i g).boosted = d.boosted := rfl
@[simp] theorem Dev.updFetched_heard (d : Dev) (q i : Nat) (g : Fetched → Fetched) : (d.updFetched q i g).heard = d.heard := rfl
@[simp] theorem Dev.updFetched_quiescing (d : Dev) (q i : Nat) (g : Fetched → Fetched) : (d.updFetched q i g).quiescing = d.quiescing := rfl
@[simp] theorem Dev.updFetched_orderCount (d : Dev) (q i : Nat) (g : Fetched → Fetched) : (d.updFetched q i g).orderCount = d.orderCount := rfl
@[simp] theorem Dev.updFetched_trackSets (d : Dev) (q i : Nat) (g : Fetched → Fetched) : (d.updFetched q i g).trackSets = d.trackSets := rfl
@[simp] theorem Dev.updFetched_sliceJobs (d : Dev) (q i : Nat) (g : Fetched → Fetched) : (d.updFetched q i g).sliceJobs = d.sliceJobs := rfl
@[simp] theorem Dev.updFetched_pointsRetired (d : Dev) (q i : Nat) (g : Fetched → Fetched) : (d.updFetched q i g).pointsRetired = d.pointsRetired := rfl
@[simp] theorem Dev.updFetched_dio (d : Dev) (q i : Nat) (g : Fetched → Fetched) : (d.updFetched q i g).dio = d.dio := rfl
@[simp] theorem Dev.updFetched_canEvents (d : Dev) (q i : Nat) (g : Fetched → Fetched) : (d.updFetched q i g).canEvents = d.canEvents := rfl
@[simp] theorem Dev.updFetched_canSegments (d : Dev) (q i : Nat) (g : Fetched → Fetched) : (d.updFetched q i g).canSegments = d.canSegments := rfl
@[simp] theorem Dev.updFetched_pools (d : Dev) (q i : Nat) (g : Fetched → Fetched) : (d.updFetched q i g).pools = d.pools := rfl
@[simp] theorem Dev.updFetched_cache (d : Dev) (q i : Nat) (g : Fetched → Fetched) : (d.updFetched q i g).cache = d.cache := rfl
@[simp] theorem Dev.updFetched_lp (d : Dev) (q i : Nat) (g : Fetched → Fetched) : (d.updFetched q i g).lp = d.lp := rfl
@[simp] theorem Dev.updFetched_pw (d : Dev) (q i : Nat) (g : Fetched → Fetched) : (d.updFetched q i g).pw = d.pw := rfl
@[simp] theorem Dev.updFetched_coup (d : Dev) (q i : Nat) (g : Fetched → Fetched) : (d.updFetched q i g).coup = d.coup := rfl
@[simp] theorem Dev.updFetched_ledger (d : Dev) (q i : Nat) (g : Fetched → Fetched) : (d.updFetched q i g).ledger = d.ledger := rfl
@[simp] theorem Dev.updFetched_boot (d : Dev) (q i : Nat) (g : Fetched → Fetched) : (d.updFetched q i g).boot = d.boot := rfl
@[simp] theorem Dev.updFetched_pwrgood (d : Dev) (q i : Nat) (g : Fetched → Fetched) : (d.updFetched q i g).pwrgood = d.pwrgood := rfl
@[simp] theorem Dev.updFetched_perstLow (d : Dev) (q i : Nat) (g : Fetched → Fetched) : (d.updFetched q i g).perstLow = d.perstLow := rfl
@[simp] theorem Dev.updFetched_tap (d : Dev) (q i : Nat) (g : Fetched → Fetched) : (d.updFetched q i g).tap = d.tap := rfl

@[simp] theorem Dev.setByte_now (d : Dev) (a : Nat) (b : Byte) : (d.setByte a b).now = d.now := rfl
@[simp] theorem Dev.setByte_free (d : Dev) (a : Nat) (b : Byte) : (d.setByte a b).free = d.free := rfl
@[simp] theorem Dev.setByte_regs (d : Dev) (a : Nat) (b : Byte) : (d.setByte a b).regs = d.regs := rfl
@[simp] theorem Dev.setByte_sent (d : Dev) (a : Nat) (b : Byte) : (d.setByte a b).sent = d.sent := rfl
@[simp] theorem Dev.setByte_memFree (d : Dev) (a : Nat) (b : Byte) : (d.setByte a b).memFree = d.memFree := rfl
@[simp] theorem Dev.setByte_poison (d : Dev) (a : Nat) (b : Byte) : (d.setByte a b).poison = d.poison := rfl
@[simp] theorem Dev.setByte_attention (d : Dev) (a : Nat) (b : Byte) : (d.setByte a b).attention = d.attention := rfl
@[simp] theorem Dev.setByte_logWrapped (d : Dev) (a : Nat) (b : Byte) : (d.setByte a b).logWrapped = d.logWrapped := rfl
@[simp] theorem Dev.setByte_lasting (d : Dev) (a : Nat) (b : Byte) : (d.setByte a b).lasting = d.lasting := rfl
@[simp] theorem Dev.setByte_kept (d : Dev) (a : Nat) (b : Byte) : (d.setByte a b).kept = d.kept := rfl
@[simp] theorem Dev.setByte_canOpen (d : Dev) (a : Nat) (b : Byte) : (d.setByte a b).canOpen = d.canOpen := rfl
@[simp] theorem Dev.setByte_mailboxes (d : Dev) (a : Nat) (b : Byte) : (d.setByte a b).mailboxes = d.mailboxes := rfl
@[simp] theorem Dev.setByte_queues (d : Dev) (a : Nat) (b : Byte) : (d.setByte a b).queues = d.queues := rfl
@[simp] theorem Dev.setByte_ep (d : Dev) (a : Nat) (b : Byte) : (d.setByte a b).ep = d.ep := rfl
@[simp] theorem Dev.setByte_streams (d : Dev) (a : Nat) (b : Byte) : (d.setByte a b).streams = d.streams := rfl
@[simp] theorem Dev.setByte_ports (d : Dev) (a : Nat) (b : Byte) : (d.setByte a b).ports = d.ports := rfl
@[simp] theorem Dev.setByte_dictWaiting (d : Dev) (a : Nat) (b : Byte) : (d.setByte a b).dictWaiting = d.dictWaiting := rfl
@[simp] theorem Dev.setByte_canWaiting (d : Dev) (a : Nat) (b : Byte) : (d.setByte a b).canWaiting = d.canWaiting := rfl
@[simp] theorem Dev.setByte_dictTurn (d : Dev) (a : Nat) (b : Byte) : (d.setByte a b).dictTurn = d.dictTurn := rfl
@[simp] theorem Dev.setByte_fetchCount (d : Dev) (a : Nat) (b : Byte) : (d.setByte a b).fetchCount = d.fetchCount := rfl
@[simp] theorem Dev.setByte_fetchTurn (d : Dev) (a : Nat) (b : Byte) : (d.setByte a b).fetchTurn = d.fetchTurn := rfl
@[simp] theorem Dev.setByte_fetchRun (d : Dev) (a : Nat) (b : Byte) : (d.setByte a b).fetchRun = d.fetchRun := rfl
@[simp] theorem Dev.setByte_handedUnits (d : Dev) (a : Nat) (b : Byte) : (d.setByte a b).handedUnits = d.handedUnits := rfl
@[simp] theorem Dev.setByte_decoders (d : Dev) (a : Nat) (b : Byte) : (d.setByte a b).decoders = d.decoders := rfl
@[simp] theorem Dev.setByte_decodeJobs (d : Dev) (a : Nat) (b : Byte) : (d.setByte a b).decodeJobs = d.decodeJobs := rfl
@[simp] theorem Dev.setByte_faults (d : Dev) (a : Nat) (b : Byte) : (d.setByte a b).faults = d.faults := rfl
@[simp] theorem Dev.setByte_released (d : Dev) (a : Nat) (b : Byte) : (d.setByte a b).released = d.released := rfl
@[simp] theorem Dev.setByte_held (d : Dev) (a : Nat) (b : Byte) : (d.setByte a b).held = d.held := rfl
@[simp] theorem Dev.setByte_droppedBefore (d : Dev) (a : Nat) (b : Byte) : (d.setByte a b).droppedBefore = d.droppedBefore := rfl
@[simp] theorem Dev.setByte_raisedAt (d : Dev) (a : Nat) (b : Byte) : (d.setByte a b).raisedAt = d.raisedAt := rfl
@[simp] theorem Dev.setByte_clips (d : Dev) (a : Nat) (b : Byte) : (d.setByte a b).clips = d.clips := rfl
@[simp] theorem Dev.setByte_clipCount (d : Dev) (a : Nat) (b : Byte) : (d.setByte a b).clipCount = d.clipCount := rfl
@[simp] theorem Dev.setByte_encodeJobs (d : Dev) (a : Nat) (b : Byte) : (d.setByte a b).encodeJobs = d.encodeJobs := rfl
@[simp] theorem Dev.setByte_calStreams (d : Dev) (a : Nat) (b : Byte) : (d.setByte a b).calStreams = d.calStreams := rfl
@[simp] theorem Dev.setByte_frames (d : Dev) (a : Nat) (b : Byte) : (d.setByte a b).frames = d.frames := rfl
@[simp] theorem Dev.setByte_frameCount (d : Dev) (a : Nat) (b : Byte) : (d.setByte a b).frameCount = d.frameCount := rfl
@[simp] theorem Dev.setByte_signalled (d : Dev) (a : Nat) (b : Byte) : (d.setByte a b).signalled = d.signalled := rfl
@[simp] theorem Dev.setByte_cores (d : Dev) (a : Nat) (b : Byte) : (d.setByte a b).cores = d.cores := rfl
@[simp] theorem Dev.setByte_contexts (d : Dev) (a : Nat) (b : Byte) : (d.setByte a b).contexts = d.contexts := rfl
@[simp] theorem Dev.setByte_heap (d : Dev) (a : Nat) (b : Byte) : (d.setByte a b).heap = d.heap := rfl
@[simp] theorem Dev.setByte_scratch (d : Dev) (a : Nat) (b : Byte) : (d.setByte a b).scratch = d.scratch := rfl
@[simp] theorem Dev.setByte_waiters (d : Dev) (a : Nat) (b : Byte) : (d.setByte a b).waiters = d.waiters := rfl
@[simp] theorem Dev.setByte_remoteWaits (d : Dev) (a : Nat) (b : Byte) : (d.setByte a b).remoteWaits = d.remoteWaits := rfl
@[simp] theorem Dev.setByte_remoteCount (d : Dev) (a : Nat) (b : Byte) : (d.setByte a b).remoteCount = d.remoteCount := rfl
@[simp] theorem Dev.setByte_boosted (d : Dev) (a : Nat) (b : Byte) : (d.setByte a b).boosted = d.boosted := rfl
@[simp] theorem Dev.setByte_heard (d : Dev) (a : Nat) (b : Byte) : (d.setByte a b).heard = d.heard := rfl
@[simp] theorem Dev.setByte_quiescing (d : Dev) (a : Nat) (b : Byte) : (d.setByte a b).quiescing = d.quiescing := rfl
@[simp] theorem Dev.setByte_orderCount (d : Dev) (a : Nat) (b : Byte) : (d.setByte a b).orderCount = d.orderCount := rfl
@[simp] theorem Dev.setByte_trackSets (d : Dev) (a : Nat) (b : Byte) : (d.setByte a b).trackSets = d.trackSets := rfl
@[simp] theorem Dev.setByte_sliceJobs (d : Dev) (a : Nat) (b : Byte) : (d.setByte a b).sliceJobs = d.sliceJobs := rfl
@[simp] theorem Dev.setByte_pointsRetired (d : Dev) (a : Nat) (b : Byte) : (d.setByte a b).pointsRetired = d.pointsRetired := rfl
@[simp] theorem Dev.setByte_dio (d : Dev) (a : Nat) (b : Byte) : (d.setByte a b).dio = d.dio := rfl
@[simp] theorem Dev.setByte_canEvents (d : Dev) (a : Nat) (b : Byte) : (d.setByte a b).canEvents = d.canEvents := rfl
@[simp] theorem Dev.setByte_canSegments (d : Dev) (a : Nat) (b : Byte) : (d.setByte a b).canSegments = d.canSegments := rfl
@[simp] theorem Dev.setByte_pools (d : Dev) (a : Nat) (b : Byte) : (d.setByte a b).pools = d.pools := rfl
@[simp] theorem Dev.setByte_cache (d : Dev) (a : Nat) (b : Byte) : (d.setByte a b).cache = d.cache := rfl
@[simp] theorem Dev.setByte_lp (d : Dev) (a : Nat) (b : Byte) : (d.setByte a b).lp = d.lp := rfl
@[simp] theorem Dev.setByte_pw (d : Dev) (a : Nat) (b : Byte) : (d.setByte a b).pw = d.pw := rfl
@[simp] theorem Dev.setByte_coup (d : Dev) (a : Nat) (b : Byte) : (d.setByte a b).coup = d.coup := rfl
@[simp] theorem Dev.setByte_ledger (d : Dev) (a : Nat) (b : Byte) : (d.setByte a b).ledger = d.ledger := rfl
@[simp] theorem Dev.setByte_boot (d : Dev) (a : Nat) (b : Byte) : (d.setByte a b).boot = d.boot := rfl
@[simp] theorem Dev.setByte_pwrgood (d : Dev) (a : Nat) (b : Byte) : (d.setByte a b).pwrgood = d.pwrgood := rfl
@[simp] theorem Dev.setByte_perstLow (d : Dev) (a : Nat) (b : Byte) : (d.setByte a b).perstLow = d.perstLow := rfl
@[simp] theorem Dev.setByte_tap (d : Dev) (a : Nat) (b : Byte) : (d.setByte a b).tap = d.tap := rfl

@[simp] theorem Dev.clearElem_now (d : Dev) (o : Obj) (i : Nat) : (d.clearElem o i).now = d.now := rfl
@[simp] theorem Dev.clearElem_free (d : Dev) (o : Obj) (i : Nat) : (d.clearElem o i).free = d.free := rfl
@[simp] theorem Dev.clearElem_sent (d : Dev) (o : Obj) (i : Nat) : (d.clearElem o i).sent = d.sent := rfl
@[simp] theorem Dev.clearElem_mem (d : Dev) (o : Obj) (i : Nat) : (d.clearElem o i).mem = d.mem := rfl
@[simp] theorem Dev.clearElem_memFree (d : Dev) (o : Obj) (i : Nat) : (d.clearElem o i).memFree = d.memFree := rfl
@[simp] theorem Dev.clearElem_poison (d : Dev) (o : Obj) (i : Nat) : (d.clearElem o i).poison = d.poison := rfl
@[simp] theorem Dev.clearElem_attention (d : Dev) (o : Obj) (i : Nat) : (d.clearElem o i).attention = d.attention := rfl
@[simp] theorem Dev.clearElem_logWrapped (d : Dev) (o : Obj) (i : Nat) : (d.clearElem o i).logWrapped = d.logWrapped := rfl
@[simp] theorem Dev.clearElem_lasting (d : Dev) (o : Obj) (i : Nat) : (d.clearElem o i).lasting = d.lasting := rfl
@[simp] theorem Dev.clearElem_kept (d : Dev) (o : Obj) (i : Nat) : (d.clearElem o i).kept = d.kept := rfl
@[simp] theorem Dev.clearElem_canOpen (d : Dev) (o : Obj) (i : Nat) : (d.clearElem o i).canOpen = d.canOpen := rfl
@[simp] theorem Dev.clearElem_mailboxes (d : Dev) (o : Obj) (i : Nat) : (d.clearElem o i).mailboxes = d.mailboxes := rfl
@[simp] theorem Dev.clearElem_queues (d : Dev) (o : Obj) (i : Nat) : (d.clearElem o i).queues = d.queues := rfl
@[simp] theorem Dev.clearElem_ep (d : Dev) (o : Obj) (i : Nat) : (d.clearElem o i).ep = d.ep := rfl
@[simp] theorem Dev.clearElem_streams (d : Dev) (o : Obj) (i : Nat) : (d.clearElem o i).streams = d.streams := rfl
@[simp] theorem Dev.clearElem_ports (d : Dev) (o : Obj) (i : Nat) : (d.clearElem o i).ports = d.ports := rfl
@[simp] theorem Dev.clearElem_dictWaiting (d : Dev) (o : Obj) (i : Nat) : (d.clearElem o i).dictWaiting = d.dictWaiting := rfl
@[simp] theorem Dev.clearElem_canWaiting (d : Dev) (o : Obj) (i : Nat) : (d.clearElem o i).canWaiting = d.canWaiting := rfl
@[simp] theorem Dev.clearElem_dictTurn (d : Dev) (o : Obj) (i : Nat) : (d.clearElem o i).dictTurn = d.dictTurn := rfl
@[simp] theorem Dev.clearElem_fetchCount (d : Dev) (o : Obj) (i : Nat) : (d.clearElem o i).fetchCount = d.fetchCount := rfl
@[simp] theorem Dev.clearElem_fetchTurn (d : Dev) (o : Obj) (i : Nat) : (d.clearElem o i).fetchTurn = d.fetchTurn := rfl
@[simp] theorem Dev.clearElem_fetchRun (d : Dev) (o : Obj) (i : Nat) : (d.clearElem o i).fetchRun = d.fetchRun := rfl
@[simp] theorem Dev.clearElem_handedUnits (d : Dev) (o : Obj) (i : Nat) : (d.clearElem o i).handedUnits = d.handedUnits := rfl
@[simp] theorem Dev.clearElem_decoders (d : Dev) (o : Obj) (i : Nat) : (d.clearElem o i).decoders = d.decoders := rfl
@[simp] theorem Dev.clearElem_decodeJobs (d : Dev) (o : Obj) (i : Nat) : (d.clearElem o i).decodeJobs = d.decodeJobs := rfl
@[simp] theorem Dev.clearElem_faults (d : Dev) (o : Obj) (i : Nat) : (d.clearElem o i).faults = d.faults := rfl
@[simp] theorem Dev.clearElem_released (d : Dev) (o : Obj) (i : Nat) : (d.clearElem o i).released = d.released := rfl
@[simp] theorem Dev.clearElem_held (d : Dev) (o : Obj) (i : Nat) : (d.clearElem o i).held = d.held := rfl
@[simp] theorem Dev.clearElem_droppedBefore (d : Dev) (o : Obj) (i : Nat) : (d.clearElem o i).droppedBefore = d.droppedBefore := rfl
@[simp] theorem Dev.clearElem_raisedAt (d : Dev) (o : Obj) (i : Nat) : (d.clearElem o i).raisedAt = d.raisedAt := rfl
@[simp] theorem Dev.clearElem_clips (d : Dev) (o : Obj) (i : Nat) : (d.clearElem o i).clips = d.clips := rfl
@[simp] theorem Dev.clearElem_clipCount (d : Dev) (o : Obj) (i : Nat) : (d.clearElem o i).clipCount = d.clipCount := rfl
@[simp] theorem Dev.clearElem_encodeJobs (d : Dev) (o : Obj) (i : Nat) : (d.clearElem o i).encodeJobs = d.encodeJobs := rfl
@[simp] theorem Dev.clearElem_calStreams (d : Dev) (o : Obj) (i : Nat) : (d.clearElem o i).calStreams = d.calStreams := rfl
@[simp] theorem Dev.clearElem_frames (d : Dev) (o : Obj) (i : Nat) : (d.clearElem o i).frames = d.frames := rfl
@[simp] theorem Dev.clearElem_frameCount (d : Dev) (o : Obj) (i : Nat) : (d.clearElem o i).frameCount = d.frameCount := rfl
@[simp] theorem Dev.clearElem_signalled (d : Dev) (o : Obj) (i : Nat) : (d.clearElem o i).signalled = d.signalled := rfl
@[simp] theorem Dev.clearElem_cores (d : Dev) (o : Obj) (i : Nat) : (d.clearElem o i).cores = d.cores := rfl
@[simp] theorem Dev.clearElem_contexts (d : Dev) (o : Obj) (i : Nat) : (d.clearElem o i).contexts = d.contexts := rfl
@[simp] theorem Dev.clearElem_heap (d : Dev) (o : Obj) (i : Nat) : (d.clearElem o i).heap = d.heap := rfl
@[simp] theorem Dev.clearElem_scratch (d : Dev) (o : Obj) (i : Nat) : (d.clearElem o i).scratch = d.scratch := rfl
@[simp] theorem Dev.clearElem_waiters (d : Dev) (o : Obj) (i : Nat) : (d.clearElem o i).waiters = d.waiters := rfl
@[simp] theorem Dev.clearElem_remoteWaits (d : Dev) (o : Obj) (i : Nat) : (d.clearElem o i).remoteWaits = d.remoteWaits := rfl
@[simp] theorem Dev.clearElem_remoteCount (d : Dev) (o : Obj) (i : Nat) : (d.clearElem o i).remoteCount = d.remoteCount := rfl
@[simp] theorem Dev.clearElem_boosted (d : Dev) (o : Obj) (i : Nat) : (d.clearElem o i).boosted = d.boosted := rfl
@[simp] theorem Dev.clearElem_heard (d : Dev) (o : Obj) (i : Nat) : (d.clearElem o i).heard = d.heard := rfl
@[simp] theorem Dev.clearElem_quiescing (d : Dev) (o : Obj) (i : Nat) : (d.clearElem o i).quiescing = d.quiescing := rfl
@[simp] theorem Dev.clearElem_orderCount (d : Dev) (o : Obj) (i : Nat) : (d.clearElem o i).orderCount = d.orderCount := rfl
@[simp] theorem Dev.clearElem_trackSets (d : Dev) (o : Obj) (i : Nat) : (d.clearElem o i).trackSets = d.trackSets := rfl
@[simp] theorem Dev.clearElem_sliceJobs (d : Dev) (o : Obj) (i : Nat) : (d.clearElem o i).sliceJobs = d.sliceJobs := rfl
@[simp] theorem Dev.clearElem_pointsRetired (d : Dev) (o : Obj) (i : Nat) : (d.clearElem o i).pointsRetired = d.pointsRetired := rfl
@[simp] theorem Dev.clearElem_dio (d : Dev) (o : Obj) (i : Nat) : (d.clearElem o i).dio = d.dio := rfl
@[simp] theorem Dev.clearElem_canEvents (d : Dev) (o : Obj) (i : Nat) : (d.clearElem o i).canEvents = d.canEvents := rfl
@[simp] theorem Dev.clearElem_canSegments (d : Dev) (o : Obj) (i : Nat) : (d.clearElem o i).canSegments = d.canSegments := rfl
@[simp] theorem Dev.clearElem_pools (d : Dev) (o : Obj) (i : Nat) : (d.clearElem o i).pools = d.pools := rfl
@[simp] theorem Dev.clearElem_cache (d : Dev) (o : Obj) (i : Nat) : (d.clearElem o i).cache = d.cache := rfl
@[simp] theorem Dev.clearElem_lp (d : Dev) (o : Obj) (i : Nat) : (d.clearElem o i).lp = d.lp := rfl
@[simp] theorem Dev.clearElem_pw (d : Dev) (o : Obj) (i : Nat) : (d.clearElem o i).pw = d.pw := rfl
@[simp] theorem Dev.clearElem_coup (d : Dev) (o : Obj) (i : Nat) : (d.clearElem o i).coup = d.coup := rfl
@[simp] theorem Dev.clearElem_ledger (d : Dev) (o : Obj) (i : Nat) : (d.clearElem o i).ledger = d.ledger := rfl
@[simp] theorem Dev.clearElem_boot (d : Dev) (o : Obj) (i : Nat) : (d.clearElem o i).boot = d.boot := rfl
@[simp] theorem Dev.clearElem_pwrgood (d : Dev) (o : Obj) (i : Nat) : (d.clearElem o i).pwrgood = d.pwrgood := rfl
@[simp] theorem Dev.clearElem_perstLow (d : Dev) (o : Obj) (i : Nat) : (d.clearElem o i).perstLow = d.perstLow := rfl
@[simp] theorem Dev.clearElem_tap (d : Dev) (o : Obj) (i : Nat) : (d.clearElem o i).tap = d.tap := rfl

@[simp] theorem Dev.updatePending_now (d : Dev) (q : Nat) : (d.updatePending q).now = d.now := by
  unfold Dev.updatePending; dsimp only; split <;> try split
  all_goals rfl
@[simp] theorem Dev.updatePending_free (d : Dev) (q : Nat) : (d.updatePending q).free = d.free := by
  unfold Dev.updatePending; dsimp only; split <;> try split
  all_goals rfl
@[simp] theorem Dev.updatePending_regs (d : Dev) (q : Nat) : (d.updatePending q).regs = d.regs := by
  unfold Dev.updatePending; dsimp only; split <;> try split
  all_goals rfl
@[simp] theorem Dev.updatePending_sent (d : Dev) (q : Nat) : (d.updatePending q).sent = d.sent := by
  unfold Dev.updatePending; dsimp only; split <;> try split
  all_goals rfl
@[simp] theorem Dev.updatePending_mem (d : Dev) (q : Nat) : (d.updatePending q).mem = d.mem := by
  unfold Dev.updatePending; dsimp only; split <;> try split
  all_goals rfl
@[simp] theorem Dev.updatePending_memFree (d : Dev) (q : Nat) : (d.updatePending q).memFree = d.memFree := by
  unfold Dev.updatePending; dsimp only; split <;> try split
  all_goals rfl
@[simp] theorem Dev.updatePending_poison (d : Dev) (q : Nat) : (d.updatePending q).poison = d.poison := by
  unfold Dev.updatePending; dsimp only; split <;> try split
  all_goals rfl
@[simp] theorem Dev.updatePending_attention (d : Dev) (q : Nat) : (d.updatePending q).attention = d.attention := by
  unfold Dev.updatePending; dsimp only; split <;> try split
  all_goals rfl
@[simp] theorem Dev.updatePending_logWrapped (d : Dev) (q : Nat) : (d.updatePending q).logWrapped = d.logWrapped := by
  unfold Dev.updatePending; dsimp only; split <;> try split
  all_goals rfl
@[simp] theorem Dev.updatePending_lasting (d : Dev) (q : Nat) : (d.updatePending q).lasting = d.lasting := by
  unfold Dev.updatePending; dsimp only; split <;> try split
  all_goals rfl
@[simp] theorem Dev.updatePending_kept (d : Dev) (q : Nat) : (d.updatePending q).kept = d.kept := by
  unfold Dev.updatePending; dsimp only; split <;> try split
  all_goals rfl
@[simp] theorem Dev.updatePending_canOpen (d : Dev) (q : Nat) : (d.updatePending q).canOpen = d.canOpen := by
  unfold Dev.updatePending; dsimp only; split <;> try split
  all_goals rfl
@[simp] theorem Dev.updatePending_mailboxes (d : Dev) (q : Nat) : (d.updatePending q).mailboxes = d.mailboxes := by
  unfold Dev.updatePending; dsimp only; split <;> try split
  all_goals rfl
@[simp] theorem Dev.updatePending_ep (d : Dev) (q : Nat) : (d.updatePending q).ep = d.ep := by
  unfold Dev.updatePending; dsimp only; split <;> try split
  all_goals rfl
@[simp] theorem Dev.updatePending_streams (d : Dev) (q : Nat) : (d.updatePending q).streams = d.streams := by
  unfold Dev.updatePending; dsimp only; split <;> try split
  all_goals rfl
@[simp] theorem Dev.updatePending_ports (d : Dev) (q : Nat) : (d.updatePending q).ports = d.ports := by
  unfold Dev.updatePending; dsimp only; split <;> try split
  all_goals rfl
@[simp] theorem Dev.updatePending_dictWaiting (d : Dev) (q : Nat) : (d.updatePending q).dictWaiting = d.dictWaiting := by
  unfold Dev.updatePending; dsimp only; split <;> try split
  all_goals rfl
@[simp] theorem Dev.updatePending_canWaiting (d : Dev) (q : Nat) : (d.updatePending q).canWaiting = d.canWaiting := by
  unfold Dev.updatePending; dsimp only; split <;> try split
  all_goals rfl
@[simp] theorem Dev.updatePending_dictTurn (d : Dev) (q : Nat) : (d.updatePending q).dictTurn = d.dictTurn := by
  unfold Dev.updatePending; dsimp only; split <;> try split
  all_goals rfl
@[simp] theorem Dev.updatePending_fetchCount (d : Dev) (q : Nat) : (d.updatePending q).fetchCount = d.fetchCount := by
  unfold Dev.updatePending; dsimp only; split <;> try split
  all_goals rfl
@[simp] theorem Dev.updatePending_fetchTurn (d : Dev) (q : Nat) : (d.updatePending q).fetchTurn = d.fetchTurn := by
  unfold Dev.updatePending; dsimp only; split <;> try split
  all_goals rfl
@[simp] theorem Dev.updatePending_fetchRun (d : Dev) (q : Nat) : (d.updatePending q).fetchRun = d.fetchRun := by
  unfold Dev.updatePending; dsimp only; split <;> try split
  all_goals rfl
@[simp] theorem Dev.updatePending_handedUnits (d : Dev) (q : Nat) : (d.updatePending q).handedUnits = d.handedUnits := by
  unfold Dev.updatePending; dsimp only; split <;> try split
  all_goals rfl
@[simp] theorem Dev.updatePending_decoders (d : Dev) (q : Nat) : (d.updatePending q).decoders = d.decoders := by
  unfold Dev.updatePending; dsimp only; split <;> try split
  all_goals rfl
@[simp] theorem Dev.updatePending_decodeJobs (d : Dev) (q : Nat) : (d.updatePending q).decodeJobs = d.decodeJobs := by
  unfold Dev.updatePending; dsimp only; split <;> try split
  all_goals rfl
@[simp] theorem Dev.updatePending_faults (d : Dev) (q : Nat) : (d.updatePending q).faults = d.faults := by
  unfold Dev.updatePending; dsimp only; split <;> try split
  all_goals rfl
@[simp] theorem Dev.updatePending_released (d : Dev) (q : Nat) : (d.updatePending q).released = d.released := by
  unfold Dev.updatePending; dsimp only; split <;> try split
  all_goals rfl
@[simp] theorem Dev.updatePending_held (d : Dev) (q : Nat) : (d.updatePending q).held = d.held := by
  unfold Dev.updatePending; dsimp only; split <;> try split
  all_goals rfl
@[simp] theorem Dev.updatePending_droppedBefore (d : Dev) (q : Nat) : (d.updatePending q).droppedBefore = d.droppedBefore := by
  unfold Dev.updatePending; dsimp only; split <;> try split
  all_goals rfl
@[simp] theorem Dev.updatePending_raisedAt (d : Dev) (q : Nat) : (d.updatePending q).raisedAt = d.raisedAt := by
  unfold Dev.updatePending; dsimp only; split <;> try split
  all_goals rfl
@[simp] theorem Dev.updatePending_clips (d : Dev) (q : Nat) : (d.updatePending q).clips = d.clips := by
  unfold Dev.updatePending; dsimp only; split <;> try split
  all_goals rfl
@[simp] theorem Dev.updatePending_clipCount (d : Dev) (q : Nat) : (d.updatePending q).clipCount = d.clipCount := by
  unfold Dev.updatePending; dsimp only; split <;> try split
  all_goals rfl
@[simp] theorem Dev.updatePending_encodeJobs (d : Dev) (q : Nat) : (d.updatePending q).encodeJobs = d.encodeJobs := by
  unfold Dev.updatePending; dsimp only; split <;> try split
  all_goals rfl
@[simp] theorem Dev.updatePending_calStreams (d : Dev) (q : Nat) : (d.updatePending q).calStreams = d.calStreams := by
  unfold Dev.updatePending; dsimp only; split <;> try split
  all_goals rfl
@[simp] theorem Dev.updatePending_frames (d : Dev) (q : Nat) : (d.updatePending q).frames = d.frames := by
  unfold Dev.updatePending; dsimp only; split <;> try split
  all_goals rfl
@[simp] theorem Dev.updatePending_frameCount (d : Dev) (q : Nat) : (d.updatePending q).frameCount = d.frameCount := by
  unfold Dev.updatePending; dsimp only; split <;> try split
  all_goals rfl
@[simp] theorem Dev.updatePending_signalled (d : Dev) (q : Nat) : (d.updatePending q).signalled = d.signalled := by
  unfold Dev.updatePending; dsimp only; split <;> try split
  all_goals rfl
@[simp] theorem Dev.updatePending_cores (d : Dev) (q : Nat) : (d.updatePending q).cores = d.cores := by
  unfold Dev.updatePending; dsimp only; split <;> try split
  all_goals rfl
@[simp] theorem Dev.updatePending_contexts (d : Dev) (q : Nat) : (d.updatePending q).contexts = d.contexts := by
  unfold Dev.updatePending; dsimp only; split <;> try split
  all_goals rfl
@[simp] theorem Dev.updatePending_heap (d : Dev) (q : Nat) : (d.updatePending q).heap = d.heap := by
  unfold Dev.updatePending; dsimp only; split <;> try split
  all_goals rfl
@[simp] theorem Dev.updatePending_scratch (d : Dev) (q : Nat) : (d.updatePending q).scratch = d.scratch := by
  unfold Dev.updatePending; dsimp only; split <;> try split
  all_goals rfl
@[simp] theorem Dev.updatePending_waiters (d : Dev) (q : Nat) : (d.updatePending q).waiters = d.waiters := by
  unfold Dev.updatePending; dsimp only; split <;> try split
  all_goals rfl
@[simp] theorem Dev.updatePending_remoteWaits (d : Dev) (q : Nat) : (d.updatePending q).remoteWaits = d.remoteWaits := by
  unfold Dev.updatePending; dsimp only; split <;> try split
  all_goals rfl
@[simp] theorem Dev.updatePending_remoteCount (d : Dev) (q : Nat) : (d.updatePending q).remoteCount = d.remoteCount := by
  unfold Dev.updatePending; dsimp only; split <;> try split
  all_goals rfl
@[simp] theorem Dev.updatePending_boosted (d : Dev) (q : Nat) : (d.updatePending q).boosted = d.boosted := by
  unfold Dev.updatePending; dsimp only; split <;> try split
  all_goals rfl
@[simp] theorem Dev.updatePending_heard (d : Dev) (q : Nat) : (d.updatePending q).heard = d.heard := by
  unfold Dev.updatePending; dsimp only; split <;> try split
  all_goals rfl
@[simp] theorem Dev.updatePending_quiescing (d : Dev) (q : Nat) : (d.updatePending q).quiescing = d.quiescing := by
  unfold Dev.updatePending; dsimp only; split <;> try split
  all_goals rfl
@[simp] theorem Dev.updatePending_orderCount (d : Dev) (q : Nat) : (d.updatePending q).orderCount = d.orderCount := by
  unfold Dev.updatePending; dsimp only; split <;> try split
  all_goals rfl
@[simp] theorem Dev.updatePending_trackSets (d : Dev) (q : Nat) : (d.updatePending q).trackSets = d.trackSets := by
  unfold Dev.updatePending; dsimp only; split <;> try split
  all_goals rfl
@[simp] theorem Dev.updatePending_sliceJobs (d : Dev) (q : Nat) : (d.updatePending q).sliceJobs = d.sliceJobs := by
  unfold Dev.updatePending; dsimp only; split <;> try split
  all_goals rfl
@[simp] theorem Dev.updatePending_pointsRetired (d : Dev) (q : Nat) : (d.updatePending q).pointsRetired = d.pointsRetired := by
  unfold Dev.updatePending; dsimp only; split <;> try split
  all_goals rfl
@[simp] theorem Dev.updatePending_dio (d : Dev) (q : Nat) : (d.updatePending q).dio = d.dio := by
  unfold Dev.updatePending; dsimp only; split <;> try split
  all_goals rfl
@[simp] theorem Dev.updatePending_canEvents (d : Dev) (q : Nat) : (d.updatePending q).canEvents = d.canEvents := by
  unfold Dev.updatePending; dsimp only; split <;> try split
  all_goals rfl
@[simp] theorem Dev.updatePending_canSegments (d : Dev) (q : Nat) : (d.updatePending q).canSegments = d.canSegments := by
  unfold Dev.updatePending; dsimp only; split <;> try split
  all_goals rfl
@[simp] theorem Dev.updatePending_pools (d : Dev) (q : Nat) : (d.updatePending q).pools = d.pools := by
  unfold Dev.updatePending; dsimp only; split <;> try split
  all_goals rfl
@[simp] theorem Dev.updatePending_cache (d : Dev) (q : Nat) : (d.updatePending q).cache = d.cache := by
  unfold Dev.updatePending; dsimp only; split <;> try split
  all_goals rfl
@[simp] theorem Dev.updatePending_lp (d : Dev) (q : Nat) : (d.updatePending q).lp = d.lp := by
  unfold Dev.updatePending; dsimp only; split <;> try split
  all_goals rfl
@[simp] theorem Dev.updatePending_pw (d : Dev) (q : Nat) : (d.updatePending q).pw = d.pw := by
  unfold Dev.updatePending; dsimp only; split <;> try split
  all_goals rfl
@[simp] theorem Dev.updatePending_coup (d : Dev) (q : Nat) : (d.updatePending q).coup = d.coup := by
  unfold Dev.updatePending; dsimp only; split <;> try split
  all_goals rfl
@[simp] theorem Dev.updatePending_ledger (d : Dev) (q : Nat) : (d.updatePending q).ledger = d.ledger := by
  unfold Dev.updatePending; dsimp only; split <;> try split
  all_goals rfl
@[simp] theorem Dev.updatePending_boot (d : Dev) (q : Nat) : (d.updatePending q).boot = d.boot := by
  unfold Dev.updatePending; dsimp only; split <;> try split
  all_goals rfl
@[simp] theorem Dev.updatePending_pwrgood (d : Dev) (q : Nat) : (d.updatePending q).pwrgood = d.pwrgood := by
  unfold Dev.updatePending; dsimp only; split <;> try split
  all_goals rfl
@[simp] theorem Dev.updatePending_perstLow (d : Dev) (q : Nat) : (d.updatePending q).perstLow = d.perstLow := by
  unfold Dev.updatePending; dsimp only; split <;> try split
  all_goals rfl
@[simp] theorem Dev.updatePending_tap (d : Dev) (q : Nat) : (d.updatePending q).tap = d.tap := by
  unfold Dev.updatePending; dsimp only; split <;> try split
  all_goals rfl

end Sys2Proof.Machine
end

