-- ==== Sys2Proof/Laws/Act.lean ====
section
/-! SUPPORT. What every meaning has in common: `act` and `settle`, once for all commands. -/

namespace Sys2Proof.Machine

/-- Settling changes the wire and what was sent, nothing else. -/
theorem settle_eq (d : Dev) : settle d = d ∨
    (settle d = Dev.send { d with ep := { d.ep with intaWire := d.wireLevel } } (if d.wireLevel then .assertInta else .deassertInta)) := by
  unfold settle; split
  · exact .inl rfl
  · exact .inr rfl

/-- The level the wire should have does not depend on where it stands. -/
@[simp] theorem settle_wireLevel (d : Dev) : (settle d).wireLevel = d.wireLevel := by
  unfold settle; split <;> rfl

/-- After settling, the wire stands at its level (R92). -/
@[simp] theorem settle_intaWire (d : Dev) : (settle d).ep.intaWire = d.wireLevel := by
  unfold settle; split
  · next h => exact h.symm
  · rfl

@[simp] theorem settle_regs (d : Dev) : (settle d).regs = d.regs := by unfold settle; split <;> rfl
@[simp] theorem settle_mem (d : Dev) : (settle d).mem = d.mem := by unfold settle; split <;> rfl
@[simp] theorem settle_memFree (d : Dev) : (settle d).memFree = d.memFree := by unfold settle; split <;> rfl
@[simp] theorem settle_queues (d : Dev) : (settle d).queues = d.queues := by unfold settle; split <;> rfl
@[simp] theorem settle_poison (d : Dev) : (settle d).poison = d.poison := by unfold settle; split <;> rfl
@[simp] theorem settle_attention (d : Dev) : (settle d).attention = d.attention := by unfold settle; split <;> rfl
@[simp] theorem settle_contexts (d : Dev) : (settle d).contexts = d.contexts := by unfold settle; split <;> rfl
@[simp] theorem settle_streams (d : Dev) : (settle d).streams = d.streams := by unfold settle; split <;> rfl
@[simp] theorem settle_pools (d : Dev) : (settle d).pools = d.pools := by unfold settle; split <;> rfl
@[simp] theorem settle_boot (d : Dev) : (settle d).boot = d.boot := by unfold settle; split <;> rfl
@[simp] theorem settle_ledger (d : Dev) : (settle d).ledger = d.ledger := by unfold settle; split <;> rfl
@[simp] theorem settle_now (d : Dev) : (settle d).now = d.now := by unfold settle; split <;> rfl
@[simp] theorem settle_rd (d : Dev) (r : Reg) (i : Nat) : (settle d).rd r i = d.rd r i := by simp [Dev.rd]
@[simp] theorem settle_getByte (d : Dev) (a : Nat) : (settle d).getByte a = d.getByte a := by simp [Dev.getByte]

/-- A well-formed command for a block that runs has its effect. -/
theorem act_runs {c : Instr} {f : Dev → Dev} {s : State} (w : c.wf = true) (r : s.dev.runs c = true) :
    act c f s = .next { s with dev := settle (f s.dev) } := by simp [act, w, r]

/-- A well-formed command for a block that does not run has none. -/
theorem act_held {c : Instr} {f : Dev → Dev} {s : State} (w : c.wf = true) (r : s.dev.runs c = false) :
    act c f s = .next s := by simp [act, w, r]

/-- A command that is not well formed is refused. -/
theorem act_illFormed {c : Instr} {f : Dev → Dev} {s : State} (w : c.wf = false) : act c f s = .refused .illFormed := by simp [act, w]

/-- Everything a meaning can do: refuse an ill-formed command, do nothing, or have its effect and settle the wire. -/
theorem act_cases (c : Instr) (f : Dev → Dev) (s : State) :
    (c.wf = false ∧ act c f s = .refused .illFormed) ∨ (c.wf = true ∧ s.dev.runs c = false ∧ act c f s = .next s) ∨
      (c.wf = true ∧ s.dev.runs c = true ∧ act c f s = .next { s with dev := settle (f s.dev) }) := by
  cases w : c.wf
  · exact .inl ⟨rfl, act_illFormed w⟩
  · cases r : s.dev.runs c
    · exact .inr (.inl ⟨rfl, rfl, act_held w r⟩)
    · exact .inr (.inr ⟨rfl, rfl, act_runs w r⟩)

/-- Every meaning has the shape of `act`, with an effect of its own. -/
theorem exec_is_act (c : Instr) : ∃ f : Dev → Dev, ∀ s, exec c s = act c f s := by
  cases c <;> exact ⟨_, fun _ => rfl⟩

open Sys2Proof.Safety in
/-- A ready command leads where its effect leads: the way to every statement about one command. -/
theorem leads_of {c : Instr} {f : Dev → Dev} {s : State} {d : Dev} (x : exec c s = act c f s) (h : ready c s) (e : f s.dev = d) :
    leads c s d := by subst e; rw [leads, x, act_runs h.1 h.2]

open Sys2Proof.Safety in
theorem yields_of {c : Instr} {f : Dev → Dev} {s : State} {P : Dev → Prop} (x : exec c s = act c f s) (h : ready c s)
    (e : P (settle (f s.dev))) : yields c s P :=
  ⟨{ s with dev := settle (f s.dev) }, by rw [x, act_runs h.1 h.2], rfl, e⟩

end Sys2Proof.Machine
end

