-- ==== Sys2Proof/Laws/Memory.lean ====
section
/-! SUPPORT. Device memory: the canonical form is kept by every memory operation, a byte reads back as it was written, and a write
leaves every other byte alone. -/

namespace Sys2Proof.Machine

namespace Memory

/-- A list whose keys rise from above `a` lists nothing at `a`. -/
theorem find?_none_of_lt (m : List Host.Cell) (a : Nat) (h : ∀ x ∈ m, a < x.1) : find? m a = none := by
  cases m with
  | nil => rfl
  | cons e m =>
    have h1 := h e (by simp)
    have h2 : ¬e.1 = a := by omega
    simp [find?, h2, h1]

theorem find?_insert_same (m : List Host.Cell) (a : Nat) (b : Byte) : find? (insert m a b) a = some b := by
  induction m with
  | nil => simp [insert, find?]
  | cons e m ih =>
    simp only [insert]
    split
    · simp [find?]
    · split
      · simp [find?]
      · simp only [find?, ih]; simp [*]

theorem find?_insert_ne (m : List Host.Cell) {a c : Nat} (b : Byte) (h : c ≠ a) : find? (insert m a b) c = find? m c := by
  induction m with
  | nil => simp only [insert, find?]; split <;> first | omega | (split <;> rfl)
  | cons e m ih =>
    simp only [insert]
    split
    · next h1 => simp only [find?, h1, if_neg (Ne.symm h)]
    · split
      · next h1 h2 =>
        simp only [find?]
        split
        · omega
        · split
          · split
            · omega
            · split
              · rfl
              · omega
          · rfl
      · simp only [find?, ih]

theorem find?_remove_same (m : List Host.Cell) (a : Nat) (s : m.Pairwise fun x y => x.1 < y.1) : find? (remove m a) a = none := by
  induction m with
  | nil => rfl
  | cons e m ih =>
    simp only [List.pairwise_cons] at s
    simp only [remove]
    split
    · next h => exact find?_none_of_lt m a (fun x hx => h ▸ s.1 x hx)
    · split
      · simp [find?, *]
      · simp [find?, *]

theorem find?_remove_ne (m : List Host.Cell) {a c : Nat} (h : c ≠ a) (s : m.Pairwise fun x y => x.1 < y.1) :
    find? (remove m a) c = find? m c := by
  induction m with
  | nil => rfl
  | cons e m ih =>
    simp only [List.pairwise_cons] at s
    simp only [remove]
    split
    · next h1 =>
      simp only [find?]
      split
      · omega
      · split
        · exact find?_none_of_lt m c (fun x hx => by have := s.1 x hx; omega)
        · rfl
    · split
      · rfl
      · simp only [find?, ih s.2]

theorem mem_insert {m : List Host.Cell} {a : Nat} {b : Byte} {x : Host.Cell} (h : x ∈ insert m a b) : x = (a, b) ∨ x ∈ m := by
  induction m with
  | nil => simpa [insert] using h
  | cons e m ih =>
    simp only [insert] at h
    split at h
    · simp only [List.mem_cons] at h ⊢; rcases h with h | h <;> simp [h]
    · split at h
      · simp only [List.mem_cons] at h ⊢; rcases h with h | h | h <;> simp [h]
      · simp only [List.mem_cons] at h ⊢
        rcases h with h | h
        · simp [h]
        · rcases ih h with h | h <;> simp [h]

theorem mem_remove {m : List Host.Cell} {a : Nat} {x : Host.Cell} (h : x ∈ remove m a) : x ∈ m := by
  induction m with
  | nil => simp [remove] at h
  | cons e m ih =>
    simp only [remove] at h
    split at h
    · simp [h]
    · split at h
      · exact h
      · simp only [List.mem_cons] at h ⊢
        rcases h with h | h
        · exact .inl h
        · exact .inr (ih h)

theorem insert_rises (m : List Host.Cell) (a : Nat) (b : Byte) (s : m.Pairwise fun x y => x.1 < y.1) :
    (insert m a b).Pairwise fun x y => x.1 < y.1 := by
  induction m with
  | nil => simp [insert]
  | cons e m ih =>
    simp only [List.pairwise_cons] at s
    simp only [insert]
    split
    · next h => exact List.pairwise_cons.2 ⟨fun y hy => h ▸ s.1 y hy, s.2⟩
    · split
      · next h1 h2 =>
        refine List.pairwise_cons.2 ⟨fun y hy => ?_, List.pairwise_cons.2 s⟩
        rcases List.mem_cons.1 hy with rfl | hy
        · exact h2
        · exact Nat.lt_trans h2 (s.1 y hy)
      · refine List.pairwise_cons.2 ⟨fun y hy => ?_, ih s.2⟩
        rcases mem_insert hy with rfl | hy
        · show e.1 < a; omega
        · exact s.1 y hy

theorem remove_rises (m : List Host.Cell) (a : Nat) (s : m.Pairwise fun x y => x.1 < y.1) :
    (remove m a).Pairwise fun x y => x.1 < y.1 := by
  induction m with
  | nil => simp [remove]
  | cons e m ih =>
    simp only [List.pairwise_cons] at s
    simp only [remove]
    split
    · exact s.2
    · split
      · exact List.pairwise_cons.2 s
      · exact List.pairwise_cons.2 ⟨fun y hy => s.1 y (mem_remove hy), ih s.2⟩

/-- One byte changed keeps the canonical form. -/
theorem set_wf (k : Option Nat) (m : List Host.Cell) (a : Nat) (b : Byte) (h : wf k m) : wf k (set k m a b) := by
  unfold set
  split
  · exact ⟨remove_rises m a h.1, fun x hx => h.2 x (mem_remove hx)⟩
  · next hb =>
    refine ⟨insert_rises m a b h.1, fun x hx => ?_⟩
    rcases mem_insert hx with rfl | hx
    · exact hb
    · exact h.2 x hx

/-- Part of a canonical list is canonical. -/
theorem filter_wf (k : Option Nat) (m : List Host.Cell) (p : Host.Cell → Bool) (h : wf k m) : wf k (m.filter p) :=
  ⟨h.1.sublist List.filter_sublist, fun x hx => h.2 x (List.mem_filter.1 hx).1⟩

end Memory

/-! ### The device's memory -/

theorem Dev.getByte_setByte_same (d : Dev) (a : Nat) (b : Byte) (h : Memory.wf d.memFree d.mem) : (d.setByte a b).getByte a = b := by
  simp only [Dev.getByte, Dev.setByte, Memory.set]
  split
  · next hb => rw [Memory.find?_remove_same _ _ h.1]; simp [hb]
  · rw [Memory.find?_insert_same]; rfl

theorem Dev.getByte_setByte_ne (d : Dev) {a c : Nat} (b : Byte) (n : c ≠ a) (h : Memory.wf d.memFree d.mem) :
    (d.setByte a b).getByte c = d.getByte c := by
  simp only [Dev.getByte, Dev.setByte, Memory.set]
  split
  · rw [Memory.find?_remove_ne _ n h.1]
  · rw [Memory.find?_insert_ne _ _ n]

theorem Dev.setByte_wf (d : Dev) (a : Nat) (b : Byte) (h : Memory.wf d.memFree d.mem) :
    Memory.wf (d.setByte a b).memFree (d.setByte a b).mem := Memory.set_wf d.memFree d.mem a b h

/-- Writing bytes changes memory alone. -/
theorem Dev.putBytes_frame (bs : List Byte) : ∀ (d : Dev) (a : Nat),
    (d.putBytes a bs).memFree = d.memFree ∧ (d.putBytes a bs).lp = d.lp ∧ (d.putBytes a bs).regs = d.regs := by
  induction bs with
  | nil => intro d a; exact ⟨rfl, rfl, rfl⟩
  | cons b bs ih =>
    intro d a
    simp only [Dev.putBytes]
    obtain ⟨h1, h2, h3⟩ := ih (if deadAt d.lp.dead a then d else d.setByte a b) (a + 1)
    rw [h1, h2, h3]
    split <;> exact ⟨rfl, rfl, rfl⟩

theorem Dev.putBytes_wf (bs : List Byte) : ∀ (d : Dev) (a : Nat), Memory.wf d.memFree d.mem →
    Memory.wf (d.putBytes a bs).memFree (d.putBytes a bs).mem := by
  induction bs with
  | nil => intro d a h; exact h
  | cons b bs ih =>
    intro d a h
    simp only [Dev.putBytes]
    apply ih
    split
    · exact h
    · exact Dev.setByte_wf d a b h

/-- A byte outside those written reads as before. -/
theorem Dev.getByte_putBytes_ne (bs : List Byte) : ∀ (d : Dev) (a c : Nat), Memory.wf d.memFree d.mem →
    (c < a ∨ a + bs.length ≤ c) → (d.putBytes a bs).getByte c = d.getByte c := by
  induction bs with
  | nil => intro d a c h n; rfl
  | cons b bs ih =>
    intro d a c h n
    simp only [Dev.putBytes]
    simp only [List.length_cons] at n
    rw [ih _ (a + 1) c (by split; exact h; exact Dev.setByte_wf d a b h) (by omega)]
    split
    · rfl
    · exact Dev.getByte_setByte_ne d b (by omega) h

/-- What a store does beside its bytes leaves memory alone. -/
@[simp] theorem Dev.afterStore_mem (d : Dev) (a n : Nat) : (d.afterStore a n).mem = d.mem := by
  unfold Dev.afterStore; dsimp only; split
  · rfl
  · unfold Dev.count; dsimp only; split <;> rfl

@[simp] theorem Dev.afterStore_memFree (d : Dev) (a n : Nat) : (d.afterStore a n).memFree = d.memFree := by
  unfold Dev.afterStore; dsimp only; split
  · rfl
  · unfold Dev.count; dsimp only; split <;> rfl

/-- A store keeps the canonical form, and leaves every byte outside it as it was. -/
theorem Dev.store_wf (d : Dev) (a : Nat) (bs : List Byte) (h : Memory.wf d.memFree d.mem) :
    Memory.wf (d.store a bs).memFree (d.store a bs).mem := by
  simp only [Dev.store, Dev.afterStore_mem, Dev.afterStore_memFree]
  exact Dev.putBytes_wf bs d a h

theorem Dev.getByte_store_ne (d : Dev) (a c : Nat) (bs : List Byte) (h : Memory.wf d.memFree d.mem) (n : c < a ∨ a + bs.length ≤ c) :
    (d.store a bs).getByte c = d.getByte c := by
  have : (d.store a bs).getByte c = (d.putBytes a bs).getByte c := by simp [Dev.store, Dev.getByte]
  rw [this, Dev.getByte_putBytes_ne bs d a c h n]

/-- Bytes of the Vat that follow their bank keep the canonical form, and LPDDR6 is as it was (R441). -/
theorem Dev.moveVat_wf (d : Dev) (plan pool : Nat) (h : Memory.wf d.memFree d.mem) :
    Memory.wf (d.moveVat plan pool).memFree (d.moveVat plan pool).mem := by
  have fold : ∀ (f : Nat → Option Nat) (l m : List Host.Cell), Memory.wf d.memFree m →
      Memory.wf d.memFree (l.foldl (fun m e => match f e.1 with
        | some a => Memory.set d.memFree m a e.2
        | none => m) m) := by
    intro f l
    induction l with
    | nil => intro m hm; exact hm
    | cons e l ih =>
      intro m hm
      rw [List.foldl_cons]
      refine ih _ ?_
      split
      · exact Memory.set_wf _ _ _ _ hm
      · exact hm
  unfold Dev.moveVat
  dsimp only
  split
  · exact h
  · exact fold (fun a => (vatMoved plan pool (d.rd Reg.vatLayout_planBanks) (d.rd Reg.vatLayout_poolBanks) (a - vatBase)).map (vatBase + ·))
      _ _ (Memory.filter_wf _ _ _ h)

end Sys2Proof.Machine
end

