-- ==== Sys2Proof/Laws/Kept.lean ====
section
/-! SUPPORT. Device memory is kept by the shared operations that store nothing: counting, attention, logs, completions. -/

namespace Sys2Proof.Machine

/-- Device memory, and what its unlisted bytes read as, is the same. -/
abbrev Dev.sameMemory (d e : Dev) : Prop := e.mem = d.mem ∧ e.memFree = d.memFree

theorem Dev.sameMemory.trans {a b c : Dev} (h : a.sameMemory b) (k : b.sameMemory c) : a.sameMemory c :=
  ⟨k.1.trans h.1, k.2.trans h.2⟩

theorem Dev.sameMemory.getByte {a b : Dev} (h : a.sameMemory b) (x : Nat) : b.getByte x = a.getByte x := by
  simp [Dev.getByte, h.1, h.2]

theorem Dev.count_sameMemory (d : Dev) (r : Reg) (i n : Nat) : d.sameMemory (d.count r i n) := by
  unfold Dev.count; dsimp only; split <;> exact ⟨rfl, rfl⟩

/-- Changing fields other than memory first makes no difference. -/
theorem Dev.sameMemory.of {a b c : Dev} (h : b.sameMemory c) (x : b.mem = a.mem) (y : b.memFree = a.memFree) : a.sameMemory c :=
  ⟨h.1.trans x, h.2.trans y⟩

theorem Dev.logEntry_sameMemory (d : Dev) (k : Nat) (c : Cause) : d.sameMemory (d.logEntry k c) := by
  unfold Dev.logEntry; dsimp only; split <;> simp [Dev.sameMemory]

theorem Dev.record_sameMemory (d : Dev) (c : Cause) : d.sameMemory (d.record c) := by
  unfold Dev.record; exact (Dev.logEntry_sameMemory _ _ _).of rfl rfl

theorem Dev.attend_sameMemory (d : Dev) (c : Cause) : d.sameMemory (d.attend c) := by
  unfold Dev.attend; dsimp only; split
  · exact (Dev.record_sameMemory d c).trans (Dev.record_sameMemory _ _)
  · exact Dev.record_sameMemory d c

theorem Dev.beginLasting_sameMemory (d : Dev) (c : Cause) : d.sameMemory (d.beginLasting c) := by
  unfold Dev.beginLasting; split
  · exact ⟨rfl, rfl⟩
  · exact (Dev.attend_sameMemory _ _).of rfl rfl

theorem Dev.updatePending_sameMemory (d : Dev) (q : Nat) : d.sameMemory (d.updatePending q) := by
  unfold Dev.updatePending; dsimp only; split
  · simp [Dev.sameMemory]
  · split <;> simp [Dev.sameMemory]

theorem Dev.flushRecords_sameMemory (n q : Nat) : ∀ d : Dev, d.sameMemory (d.flushRecords n q) := by
  induction n with
  | zero => intro d; exact ⟨rfl, rfl⟩
  | succ n ih =>
    intro d; simp only [Dev.flushRecords]; split
    · split
      · refine (ih _).of ?_ ?_ <;> simp [Dev.writeRecord]
      · simp [Dev.sameMemory]
    · simp [Dev.sameMemory]

theorem Dev.flushQueue_sameMemory (d : Dev) (q : Nat) : d.sameMemory (d.flushQueue q) := by
  unfold Dev.flushQueue; split
  · dsimp only
    have h := Dev.flushRecords_sameMemory (d.queue q).inflight.length q d
    refine (Dev.updatePending_sameMemory _ q).of ?_ ?_ <;> split <;> simp [h.1, h.2]
  · simp [Dev.sameMemory]

/-- Completing a command stores nothing in device memory. -/
theorem Dev.complete_sameMemory (d : Dev) (q i code area detail : Nat) : d.sameMemory (d.complete q i code area detail) := by
  unfold Dev.complete; exact (Dev.flushQueue_sameMemory _ q).of (by simp) (by simp)

theorem Dev.lpddrLog_sameMemory (d : Dev) (k lr a u : Nat) : d.sameMemory (d.lpddrLog k lr a u) := by
  unfold Dev.lpddrLog; dsimp only; split
  · split
    · exact (Dev.count_sameMemory d _ _ _).trans ((Dev.attend_sameMemory _ _).of rfl rfl)
    · exact Dev.count_sameMemory d _ _ _
  · simp [Dev.sameMemory]

theorem Dev.poisonAt_sameMemory (d : Dev) (a : Nat) : d.sameMemory (d.poisonAt a) := by
  unfold Dev.poisonAt; dsimp only; split
  · exact ⟨rfl, rfl⟩
  · split
    · exact (Dev.lpddrLog_sameMemory _ _ _ _ _).of rfl rfl
    · exact ⟨rfl, rfl⟩

theorem Dev.logUncorrectable_sameMemory (d : Dev) (e c : Nat) : d.sameMemory (d.logUncorrectable e c) := by
  unfold Dev.logUncorrectable; dsimp only; refine (Dev.attend_sameMemory _ _).of ?_ ?_ <;> (repeat' split) <;> rfl

/-- What holds of one step of a fold that keeps memory holds of all of it. -/
theorem Dev.foldl_sameMemory {α : Type} (f : Dev → α → Dev) (h : ∀ (d : Dev) (x : α), d.sameMemory (f d x)) (l : List α) :
    ∀ d : Dev, d.sameMemory (l.foldl f d) := by
  induction l with
  | nil => intro d; exact ⟨rfl, rfl⟩
  | cons x l ih => intro d; exact (h d x).trans (ih _)

end Sys2Proof.Machine
end

