-- ==== Sys2Proof/Tests/Slice0.lean ====
section
/-! SUPPORT. Tests of the model: ill-formed commands, worked examples of the spec, and a concrete state that meets the hypotheses of
each statement. -/

namespace Sys2Proof.Tests

open Sys2Proof.Machine Sys2Proof.Safety

-- One evaluation at a time: the threads of all of them together would not fit the memory.
set_option Elab.async false
/-! ### Ill-formed commands: a term for every check of WellFormed.lean, each refused -/

/-- A request with every field 0. -/
def req0 : Request := { opcode := 0, flags := 0, tag := 0, object := 0, reserved := 0, sub := 0, count := 0, length := 0, payload := [] }

/-- A WRITE of one element. -/
def wreq (object sub : Nat) (payload : List Byte) : Request :=
  { req0 with opcode := 2, tag := 7, object := object, sub := sub, count := 1, length := payload.length, payload := payload }

/-- A READ, and a DESCRIBE of the definition. -/
def rreq (object sub count : Nat) : Request := { req0 with opcode := 1, tag := 7, object := object, sub := sub, count := count }
def dreq (object : Nat) : Request := { req0 with opcode := 3, tag := 7, object := object, count := 1 }

def zeros (n : Nat) : List Byte := List.replicate n 0#8

theorem test_illformed_requests : ∀ r ∈ [{ req0 with opcode := 256 }, { req0 with flags := 256 }, { req0 with tag := 65536 },
    { req0 with object := 2 ^ 24 }, { req0 with reserved := 256 }, { req0 with sub := 65536 }, { req0 with count := 65536 },
    { req0 with length := 2 ^ 32 }], r.wf = false ∧ ∀ s, Machine.exec (.read .mailbox r) s = .refused .illFormed := by
  intro r h
  have w : r.wf = false := by revert r; decide
  exact ⟨w, fun s => act_illFormed (by simp [Instr.wf, Via.wf, w])⟩

theorem test_illformed_transports : ∀ v ∈ [Via.udp 2 4 0 0 0, .udp 0 5 0 0 0, .udp 0 4 (2 ^ 128) 0 0, .udp 0 4 0 65536 0, .udp 0 4 0 0 8,
    .relay 4], v.wf = false := by decide

theorem test_illformed_messages : ∀ m ∈ [CouplingMessage.relayRequest { req0 with tag := 65536 }, .relayReply (zeros 23),
    .relayReply (zeros 4097), .boost 64 0, .boost 0 240, .contextClosed 64, .signal 64 0 1, .signal 0 240 1, .signal 0 0 65536,
    .wait 0 64 0 1, .wait 0 0 240 1, .wait 0 0 0 65536, .release 0 256, .unit (2 ^ 64) 1 0 (zeros 256), .unit 0 (2 ^ 26 + 1) 0 (zeros 256),
    .unit 0 1 (2 ^ 64) (zeros 256), .unit 0 1 0 (zeros 255), .unit 256 256 0 (zeros 256), .transferSignal 64 0 1, .transferSignal 0 240 1, .transferSignal 0 0 65536],
    m.wf = false ∧ (Instr.codeBlockReceived 0 true 0 [m]).wf = false := by decide +kernel

/-- A TRANSFER record that is well formed, to alias 240, of 256 bytes. -/
def xferRecord : List Byte := [0x0C, 0, 240, 0] ++ zeros 20 ++ [0, 1, 0, 0] ++ zeros 4

theorem test_illformed_transfers : transferRecordWf xferRecord = true ∧ transferRecordWf (zeros 31) = false ∧
    ∀ e ∈ [(0, 0x0D#8), (1, 4#8), (2, 239#8), (3, 1#8), (6, 1#8), (8, 1#8), (16, 1#8), (24, 1#8), (25, 0#8), (27, 5#8), (28, 1#8)],
      transferRecordWf (xferRecord.set e.1 e.2) = false ∧ (Instr.transfer 0 (xferRecord.set e.1 e.2) .completed).wf = false := by decide

def vref : VecRef := { address := 0, fmt := .f16, tensor := none, channels := [], frame := 0 }

theorem test_illformed_vectors : ∀ o ∈ [VecOp.load 32 vref 1 1, .load 0 vref 1 513, .store 32 vref 1 1 none, .store 0 vref 1 513 none,
    .store 0 { vref with fmt := .i8 } 1 1 none, .bin .add 32 0 0 1, .bin .add 0 32 0 1, .bin .add 0 0 32 1, .bin .add 0 0 0 513,
    .fma 32 0 0 0 1, .fma 0 32 0 0 1, .fma 0 0 32 0 1, .fma 0 0 0 32 1, .fma 0 0 0 0 513, .un .exp 32 0 1, .un .exp 0 32 1, .un .exp 0 0 513,
    .fold .sum 32 0 0 1, .fold .sum 0 512 0 1, .fold .sum 0 0 32 1, .fold .sum 0 0 0 513, .scan .sum 32 0 1, .scan .sum 0 32 1, .scan .sum 0 0 513, .pool (zeros 63) vref vref 0 1 none,
    .pool (zeros 64) vref { vref with fmt := .i8 } 0 1 none, .globalPool .sum vref { vref with fmt := .i4 } 1 1 1 1 none, .product 32 0 1 0 0,
    .product 0 32 1 0 0, .product 0 0 513 0 0, .product 0 0 1 32 0, .product 0 0 1 0 512, .attention 32 vref vref 0 1 1 0 none 0,
    .attention 0 vref vref (2 ^ 32) 1 1 0 none 0, .attention 0 vref vref 0 513 1 0 none 0, .attention 0 vref vref 0 1 16 0 none 0,
    .attention 0 vref vref 0 1 1 0 none 32, .gather vref 1 257 0 2 0, .gather vref 1 1 0 1 32,
    .depthwise (zeros 63) [] false vref vref 0 1 1 1 none, .depthwise (zeros 64) [] false vref { vref with fmt := .f32 } 0 1 1 1 none,
    .depthwise (zeros 64) [] false { vref with fmt := .i8 } vref 0 1 1 1 none, .clear { vref with fmt := .i8 } 1 1,
    .logits vref vref vref vref 2 2, .logits { vref with fmt := .bf16 } { vref with fmt := .bf16 } vref { vref with fmt := .f32 } 8000 1000,
    .loss vref 0 1 0 0, .loss { vref with fmt := .f32 } 1 1 0 0, .softmaxGradient vref vref 0 1, .gradient vref none 1 1 1 0 1 0,
    .gradient { vref with fmt := .f32 } none 0 1 1 0 1 0, .gradient { vref with fmt := .f32 } none 1 1 1 0 2 0,
    .initialise 0 (2 ^ 32) 0 1 0, .initialise 0 0 0 513 0, .initialise 0 0 0 1 32, .initialise 0 0 8000000 1 0, .update 32 0 0 0 0 0 0 1, .update 0 32 0 0 0 0 0 1,
    .update 0 0 32 0 0 0 0 1, .update 0 0 0 (2 ^ 32) 0 0 0 1, .update 0 0 0 0 (2 ^ 32) 0 0 1, .update 0 0 0 0 0 0 0 513,
    .setScalar 255 (zeros 2)], o.wf = false ∧ (Instr.vectorOperation 0 o).wf = false := by decide +kernel

def header0 : PictureHeader :=
  { width := 64, height := 48, bitDepth := 8, profile := .high, chroma := .c420, tools := [], decBuffering := some 0, numRefFrames := 0,
    setsReceived := true, key := true, intra := true, order := 0, reorder := 0, id := 0, refs := [], keep := [], kept := false,
    showExisting := none, shown := true, last := true }
/-- One slice whose blocks are all coded, for a picture of so many. -/
def sliceOf (n : Nat) : SliceResult := { parsed := true, blocks := (List.range n).map fun b => (b, .coded), error := none }
def picture0 : PictureResult := { luma := [], cb := [], cr := [], slices := [] }
def timing0 : PassTiming := { load := 0, pause := 0, start := 0, gaps := [], origin := 0 }
def pass0 : PassRef := { array := 0, offset := 0, input := none, channel := 0, loader := 0, kprev := 0 }
def move0 : MoverOp := { toPress := true, press := 0, device := 0, bytes := 64, rows := 1, pressPitch := 0, devicePitch := 0, cacheable := false }
def fill0 : FillOp := { tensor := 0, purpose := 0, step := 0, stream := 0, first := 0, count := 1, address := 0 }

/-- Requests of the dictionary: an opcode of another row, an object of another row, a payload of another row. -/
theorem test_illformed_dictionary : ∀ c ∈ [Instr.read .mailbox (wreq 0 0 []), .read .mailbox (dreq 0), .write .mailbox (rreq 0 0 1),
    .describe .mailbox (rreq 0 0 1), .attentionAck .mailbox (wreq 0x010010 0 []), .queueEnable .mailbox (wreq 0x020010 0 [0#8]),
    .queueEnable .mailbox (wreq 0x020011 0 [1#8]), .queueDisable .mailbox (wreq 0x020010 0 [1#8]), .portEnable .mailbox (wreq 0 0 [1#8]),
    .streamEnable .mailbox (wreq 0x040100 0 [0#8]), .streamDisable .mailbox (wreq 0x040100 0 [1#8]), .dioRelease .mailbox (wreq 0 0 []),
    .ringEnable .mailbox (wreq 0 0 []), .pointsRuleWrite .mailbox (wreq 0 0 []), .cacheSizeChange .mailbox (wreq 0 0 []),
    .poolEnable .mailbox (wreq 0x140010 0 [0#8]), .poolDisable .mailbox (wreq 0x140010 0 [1#8]), .capWrite .mailbox (wreq 0 0 []),
    .estimateRecalibrationWrite .mailbox (wreq 0x160010 0 []), .couplingPortEnable .mailbox (wreq 0 0 []), .dioOut .mailbox (wreq 0 0 []),
    .dioConfigWrite .mailbox (wreq 0 0 []), .canEnable .mailbox (wreq 0 0 []), .canEnable (.relay 4) (wreq 0x1B0011 0 [1#8]),
    .dictUdpDatagram 2 4 0 0 [], .dictUdpDatagram 0 5 0 0 [], .dictUdpDatagram 0 4 (2 ^ 128) 0 [], .dictUdpDatagram 0 4 0 65536 [],
    .canRequestSegment (2 ^ 29) (zeros 2), .canRequestSegment 0 (zeros 1), .canRequestSegment 0 (zeros 65)], c.wf = false := by decide +kernel

/-- Commands of the other blocks, each one past a bound. -/
theorem test_illformed_host : ∀ c ∈ [Instr.bar0BadAccess true (2 ^ 24) 1, .bar0RegisterWrite (2 ^ 24 - 1) (zeros 2) false,
    .bar0RegisterWrite 0 [] false, .mailboxClear (2 ^ 32), .bar2Read (2 ^ 36) 1 [], .bar2Write (2 ^ 36) [0#8] false, .sqTail 64 0,
    .sqTail 0 (2 ^ 32), .cqHead 64 0, .cqHead 0 (2 ^ 32), .commandFetch 64 (zeros 64), .commandFetch 0 (zeros 63), .cqDelayExpiry 64,
    .completionTimeout 64 0, .completionTimeout 0 4096, .hostReadCompletion 64 0 .aborted, .hostReadCompletion 0 4096 .aborted,
    .linkRateChange 256 0 true, .linkRateChange 0 256 true, .pcieLinkTrained 256 0 true, .pcieLinkTrained 0 256 true, .mailboxStateRead 4],
    c.wf = false := by decide +kernel

theorem test_illformed_streams : ∀ c ∈ [Instr.ethFrameReceived 2 true false (zeros 14), .ethFrameReceived 0 true false (zeros 13),
    .gapTimerExpiry 1024 0, .auHandOff 1024, .portLinkChange 2 true, .junctionPush 64 0, .junctionPush 0 4096, .streamBecomesStopped 1024,
    .decodeStart 24 header0, .decodeStart 0 { header0 with width := 65536 }, .decodeStart 0 { header0 with height := 65536 },
    .decodeStart 0 { header0 with bitDepth := 16 }, .decodeFinish 24 picture0 [], .budgetAbort 24 picture0, .pictureRelease 1024,
    .decodeEngineFault 24 picture0, .encodeClip 64 0, .encodeClip 0 4096, .encodeStop 64 0, .encodeStop 0 4096, .encodeKey 64 0,
    .encodeKey 0 4096, .encodePictureStart 4, .encodePictureDone 4 0, .encodeEngineFault 4, .calenderStart 4,
    .calenderHandOn 4 [], .calenderFault 4 false, .deckleEntry 2, .deckleFault 2, .clipCopyDone 64 0], c.wf = false := by decide +kernel

theorem test_illformed_press : ∀ c ∈ [Instr.passEntry 32 pass0 timing0, .passEntry 0 { pass0 with array := 2 } timing0,
    .passEntry 0 pass0 { timing0 with gaps := List.replicate 256 0 }, .passEntry 0 pass0 { timing0 with origin := 64 }, .drain 32 0, .drain 0 2, .tileBoundary 32 0, .tileBoundary 0 2,
    .vectorOperation 32 (.setScalar 0 []), .dataMoverTransfer 32 move0 [] [], .dataMoverTransfer 0 { move0 with press := 2 ^ 22 } [] [],
    .dataMoverTransfer 0 { move0 with device := 2 ^ 36 } [] [], .randomFill 32 fill0, .randomFill 0 { fill0 with purpose := 2 },
    .randomFill 0 { fill0 with tensor := 65536 }, .randomFill 0 { fill0 with stream := 65536 }, .randomFill 0 { fill0 with step := 2 ^ 32 },
    .randomFill 0 { fill0 with first := 2 ^ 51 }, .randomFill 0 { fill0 with count := 0 }, .randomFill 0 { fill0 with address := 2 ^ 22 },
    .watchdogTrip 32, .pressCoreFault 32 .buffer, .pressCoreFault 0 (.column 2 0), .pressCoreFault 0 (.column 0 260),
    .pressCoreFault 0 (.half 2 0), .pressCoreFault 0 (.half 0 2)], c.wf = false := by decide +kernel

theorem test_illformed_plans : ∀ c ∈ [Instr.planLoad 64 0 ⟨[], []⟩, .planLoad 0 4096 ⟨[], []⟩, .planBind 64 0, .planBind 0 4096,
    .planUnbind 64 0, .planUnbind 0 4096, .planUnload 64 0, .planUnload 0 4096, .batchEgress 1024 .refused, .batchEgress 0 (.word (2 ^ 64)),
    .sliceBoundary true 2, .sliceBoundary false 3, .watchLoad 64 0, .watchLoad 0 4096, .trackerEngineFault true 2, .trackerEngineFault false 3,
    .dioPulseEnd 16, .stepDispatch 64, .gatherTimeout 64, .yardRun 64 0, .yardRun 0 4096, .entryIssue 64 0 0 none, .entryComplete 64 0 0,
    .stepComplete 64 0, .switchPoint 32 false, .teardownEnd 64, .quiesce 64 0, .quiesce 0 4096, .endQuiesce 64 0, .endQuiesce 0 4096,
    .resumeHalted 64 0, .resumeHalted 0 4096, .signal 32 0 0, .signal 0 256 0, .signal 0 0 65536, .wait 32 0 0, .wait 0 256 0,
    .wait 0 0 65536, .signalOpSignal 64 0, .signalOpSignal 0 4096, .signalOpTake 64 0, .signalOpTake 0 4096, .signalOpRead 64 0,
    .signalOpRead 0 4096], c.wf = false := by decide +kernel

theorem test_illformed_memory_and_power : ∀ c ∈ [Instr.poolAlloc 64 0 [], .poolAlloc 0 4096 [], .poolFree 64 0 [], .poolFree 0 4096 [],
    .freeRingRefill 32 [], .refreshDue 64 true, .refreshMakeUp 64 1, .rankTemperatureRead 64 0, .rankRetire 64 0, .rankRetire 0 4096,
    .migrationDone [2 ^ 22], .gaugeEpoch [⟨1900, 0, false, none⟩] [], .gaugeEpoch [] [⟨0, [72], 0, 0, 0⟩], .gaugeEpoch [] [⟨0, [], 0, 1, 0⟩],
    .demandPublish 0x7F800000, .vrmRead [(8, 0)], .vrmRead [(0, 0x7F800000)], .powerRecalibrateFit 64 0, .powerRecalibrateFit 0 4096,
    .powerRecalibrateEnd 64 0, .powerRecalibrateEnd 0 4096, .avsTrim (List.replicate 95 0) true, .thermalSample (List.replicate 71 0),
    .thermalSample (-32768 :: List.replicate 71 0), .thermalSample (32768 :: List.replicate 71 0), .thermalTrip 72], c.wf = false := by
  decide +kernel

theorem test_illformed_ports_and_boot : ∀ c ∈ [Instr.codeBlockReceived 3 true 0 [], .codeBlockReceived 0 true (2 ^ 32) [], .laneRepair 3 0,
    .laneRepair 0 9, .blockLockLoss 3, .resetNotice 3, .portTrained 3 0 0 0, .portTrained 0 (2 ^ 32) 0 0, .portTrained 0 0 8 0,
    .portTrained 0 0 0 4, .portTrainRetry 3, .transfer 32 xferRecord .completed, .transferUnitReceived 3, .remoteSignal 3, .remoteWait 3,
    .grant 3, .cancel 3, .boostRequest 3, .creditReturn 3 .data, .relayDoorbell 0, .relayDoorbell 4, .relayRequestReceived 3,
    .relayReplyReceived 3, .configStage 64 0 default true, .configStage 0 4096 default true, .attest 64 0, .attest 0 4096, .fwStage 64 0,
    .fwStage 0 4096, .fwActivate 64 0, .fwActivate 0 4096, .fwConfirm 64 0, .fwConfirm 0 4096, .ledgerExport 64 0, .ledgerExport 0 4096,
    .dioInputFiltered 16 true, .pmbAlert (List.replicate 7 0), .pmbAlert (65536 :: List.replicate 7 0), .bypass 256, .bypass 0x00,
    .bypass 0x01, .bypass 0x04, .bypass 0x05, .bypass 0x20], c.wf = false := by decide +kernel

/-! ### States to start from -/

/-- A state with no command waiting. -/
def on (d : Dev) : State := { dev := d, pending := [] }

/-- The device a command leaves, when it answers a next state. -/
def ran (c : Instr) (d : Dev) : Option Dev :=
  match Machine.exec c (on d) with
  | .next t => some t.dev
  | _ => none

/-- Power is good, PERST_N is high, boot is done, the host has enumerated the device and masters through it. -/
def live : Dev :=
  Dev.wr { pwrgood := true, perstLow := false,
           ep := { firmwareReady := true, selftestDone := true, memoryReady := true, memorySpace := true, busMaster := true, answered := true,
                   linkTrained := true, trainedBefore := true },
           pw := { domains := allDomains.map fun x => (x, { running := true, powered := true }) } } Reg.bootState_stage 0 6

/-- The same device before memory space, firmware and mastering are enabled. -/
def dark : Dev := { pwrgood := true, perstLow := false }

/-- An entry of a submission queue: opcode, context, and body bytes from byte 8. -/
def entry (opcode context : Nat) (body : List Byte) : List Byte :=
  leBytes 2 opcode ++ [0#8, 0#8] ++ leBytes 2 7 ++ leBytes 2 context ++ body ++ zeros (56 - body.length)

/-- A fetched command at index 0 of queue 3. -/
def fetched (opcode context : Nat) (body : List Byte) (data : List Byte := []) : Fetched :=
  { index := 0, entry := entry opcode context body, data := data }

/-- Queue 3 is enabled, and holds one command that has been fetched. -/
def withCommand (d : Dev) (f : Fetched) : Dev :=
  (d.wr Reg.hostQueueEnable 3 1).setQueue 3 { sqHead := 1, sqTail := 1, inflight := [f] }

/-- The code and the detail of the record a command completed with: the last record written to the host. -/
def record (d : Dev) : Option (Nat × Nat) :=
  match d.sent.find? fun x => match x with | .hostWrite _ _ => true | _ => false with
  | some (.hostWrite _ b) => some (le b 0 1, le b 8 4)
  | _ => none

/-! ### The machine as a whole -/

theorem witness_StepsContinue : wellFormedQueue { dev := live, pending := [.hotReset, .mailboxDoorbell] } ∧
    (Instr.mailboxClear (2 ^ 32)).wf = false ∧ (ran .hotReset live).isSome = true := by decide +kernel

theorem witness_WireInvariant : wireFollows (on live) ∧ (ran .interruptDisableSet live).isSome = true ∧
    wireFollows (on { live with ep := { live.ep with intDisable := true } }) ∧
    wireFollows (on { live with ep := { live.ep with power := .d3hot } }) := by decide +kernel

theorem witness_HeldInReset : State.reset.dev.pwrgood = false ∧ (Instr.mailboxDoorbell).wf = true ∧ atPower .mailboxDoorbell = false ∧
    ({ live with perstLow := true } : Dev).perstLow = true ∧ (live.updPw fun p => { p with tripped := true }).pw.tripped = true ∧
    live.pwrgood = true ∧ alwaysOn .mailboxDoorbell = false := by decide

/-- A command of the always-on island acts under PERST_N; one of the rails acts without power. -/
theorem test_island : ({ dark with perstLow := true } : Dev).runs .extest = true ∧ ({} : Dev).runs (.pwrgoodRise true false) = true ∧
    ({} : Dev).runs .extest = false := by decide

/-! ### The object dictionary and its transports -/

/-- A write of one element of an object, its payload the given byte and zeros up to the element's size. -/
def objWrite (o : Obj) (b : Byte) : Request := wreq o.info.number 0 ((zeros o.info.size).set 0 b)

/-- For every row that writes an object: a request that is the row's (R40). -/
def storeRequests : List (StoreRow × Request) :=
  (storeRows.zip [1#8, 1#8, 0#8, 1#8, 1#8, 0#8, 4#8, 1#8, 0#8, 1#8, 1#8, 0#8, 10#8, 0#8, 0#8, 1#8, 0#8, 0#8, 1#8]).map fun e => (e.1, objWrite e.1.obj e.2)

/-- Every row that writes one object completes: its request is well formed and passes the checks, in a device with an idle mailbox. -/
theorem witness_ObjectWrite : storeRequests.length = 19 ∧ mailboxIdle live ∧ ∀ e ∈ storeRequests,
    ready (e.1.row .mailbox e.2) (on live) ∧ mailboxRequest e.2 = e.2 ∧ e.2.opcode = 2 ∧ e.2.flags = 0 ∧ e.2.count = 1 ∧
      (rung live e.2).checkRequest .mailbox e.2 = .inr e.1.obj := by decide +kernel

/-- The requests of the three general rows, and one that each check of R39 turns away. -/
theorem witness_MailboxRequest : (∀ e ∈ [(Instr.read, rreq 0x000001 0 1, Obj.identityPart), (.write, objWrite .dictionaryUdpEnable 1#8, .dictionaryUdpEnable),
      (.describe, dreq 0x010033, .dictionaryUdpSources)],
    ready (e.1 .mailbox e.2.1) (on live) ∧ mailboxRequest e.2.1 = e.2.1 ∧ (rung live e.2.1).checkRequest .mailbox e.2.1 = .inr e.2.2) ∧
    ∀ e ∈ [({ req0 with opcode := 4 }, 0x68), ({ rreq 0x000001 0 1 with reserved := 1 }, 0x68), ({ rreq 0x000001 0 1 with flags := 1 }, 0x68),
        (rreq 0x0000FF 0 1, 0x60), (rreq 0x010033 7 2, 0x61), (rreq 0x010033 0 0, 0x61),
        (rreq 0x010011 0 1, 0x63), ({ rreq 0x000001 0 1 with length := 1, payload := [0#8] }, 0x65), (rreq 0x010012 0 8, 0x00)],
      let r := e.1
      ready (.read .mailbox r) (on live) ∧ mailboxRequest r = r ∧
        ((rung live r).checkRequest .mailbox r = .inl e.2 ∨ (e.2 = 0 ∧ (rung live r).checkRequest .mailbox r = .inr .dictionaryAttentionCause)) := by decide +kernel

/-- Each check of R39 has a request that it is the first to turn away. -/
theorem witness_ChecksInOrder :
    badOpcode (wreq 0 0 []) = false ∧ Obj.ofNumber 0x0000FF = none ∧ Obj.ofNumber 0x000001 = some .identityPart ∧
    live.checkRequest .mailbox (wreq 0x000001 0 (zeros 4)) = .inl 0x62 ∧
    live.checkRequest .can (wreq 0x010030 0 [1#8]) = .inl 0x67 ∧
    (live.wr Reg.hostQueueEnable 3 1).checkRequest .mailbox (wreq 0x020011 3 (zeros 24)) = .inl 0x64 ∧
    live.checkRequest .mailbox (wreq 0x010030 0 [1#8, 0#8]) = .inl 0x65 ∧
    live.checkRequest .mailbox { dreq 0x010033 with sub := 5 } = .inl 0x61 ∧ live.checkRequest .mailbox { dreq 0x010033 with sub := 4 } = .inr .dictionaryUdpSources ∧
    live.checkRequest .mailbox (rreq 0x010012 0 8) = .inr .dictionaryAttentionCause := by decide +kernel

/-- The worked example of 02 (R41 to R43, R54): a source list entry with prefix 140 and a stray reserved field. -/
theorem test_clamped_write :
    let d := live.wr Reg.dictionaryAttentionLogHead 0 0x2A
    let r := wreq 0x010033 0 ([4#8, 140#8, 3#8, 0#8] ++ zeros 10 ++ [0xFF#8, 0xFF#8, 10#8, 40#8, 7#8, 21#8])
    (ran (.write .mailbox r) d).map (fun e => ((e.mailbox 0).reply.take 24, ((e.mailbox 0).reply.drop 24).length)) =
      some ([0x82#8, 0x01#8, 7#8, 0#8, 0x01#8, 0x40#8, 0x2B#8, 0x01#8, 0x33#8, 0#8, 1#8, 0#8, 0#8, 0#8, 1#8, 0#8, 0#8, 0#8, 0#8, 0#8,
        2#8, 0#8, 0#8, 0#8], 48) ∧
    (ran (.write .mailbox r) d).map (fun e => (e.rd Reg.dictionaryUdpSources_prefix, e.rd Reg.dictionaryUdpSources_address)) =
      some (128, form4 0x1507280A) := by decide +kernel

theorem witness_StatusWord :
    live.flag Reg.powerOpState_unreachable = false ∧ live.flag Reg.powerOpState_disagreement = false ∧
    (live.wr Reg.powerOpState_disagreement 0 1).flag Reg.powerOpState_disagreement = true ∧
    (live.wr Reg.powerOpState_unreachable 0 1).flag Reg.powerOpState_unreachable = true ∧
    ((live.wr Reg.powerOpState_disagreement 0 1).wr Reg.powerOpState_unreachable 0 1).standing 0 1 = (0x50, 0x16) := by decide +kernel

/-- Causes at both ends of the attention bits; a bit that is acknowledged, one that is acknowledged for an earlier entry, one that lasts,
and LOG while the log is full (R53 to R57). -/
theorem witness_AttentionEvent :
    let d := live.record { bit := Bit.fault, code := 0x31, area := 0x05 }
    d.attentionBit Bit.fault = true ∧ d.rd Reg.dictionaryAttentionCause_sequence (Bit.fault - 8) ≤ 0 ∧
    (d.lasting.any fun l => l.bit == Bit.fault) = false ∧ (d.ackBit 0 Bit.fault).attentionBit Bit.fault = false ∧
    ((d.record { bit := Bit.log, area := 0x01 }).attentionBit Bit.log = true) ∧ d.logFull = false ∧
    live.attentionBit Bit.log = false ∧
    0 < (d.record { bit := Bit.log, area := 0x01 }).rd Reg.dictionaryAttentionCause_sequence (Bit.log - 8) ∧
    ((d.beginLasting { bit := Bit.power, area := 0x16, detail := 4 }).lasting.any fun l => l.bit == Bit.power) = true := by decide +kernel

theorem witness_MailboxDoorbell :
    let busy := live.setMailbox 0 { live.mailbox 0 with busy := true }
    live.runs .mailboxDoorbell = true ∧ live.barOpen = true ∧ (live.mailbox 0).busy = false ∧ (busy.mailbox 0).busy = true ∧
    busy.barOpen = true ∧ ready (.mailboxStateRead 0) (on busy) ∧ live.mailboxExists 0 = true ∧
    ready (.mailboxStateRead 3) (on dark) ∧ dark.barOpen = false ∧ dark.runs .mailboxDoorbell = true ∧
    (ran .mailboxDoorbell busy).map (fun e => (e.mailbox 0).overrun) = some true := by decide +kernel

def udpSource : Nat := form4 0x1507280A
/-- A device whose dictionary answers UDP on port 0 for 10.40.7.0/24, and which knows its neighbour 10.40.7.21. -/
def udpHost : Dev :=
  { ((((((live.wr Reg.dictionaryUdpEnable 0 1).wr Reg.junctionPortEnable 0 1).wr Reg.dictionaryUdpSources_family 0 4).wr
      Reg.dictionaryUdpSources_prefix 0 120).wr Reg.dictionaryUdpSources_address 0 (form4 0x0007280A)).wr
      Reg.junctionPortConfig_ipv4Address 0 0x0107280A).wr Reg.junctionPortConfig_ipv4Prefix 0 24 with
    ports := [(0, { neighbours := [(udpSource, 0x66)] })] }
def udpRead : List Byte := [1#8, 0#8, 7#8, 0#8, 1#8, 0#8, 0#8, 0#8, 0#8, 0#8, 1#8, 0#8] ++ zeros 4

theorem witness_UdpDatagram :
    let c := Instr.dictUdpDatagram 0 4 udpSource 5000 udpRead
    ready c (on udpHost) ∧ udpHost.flag Reg.dictionaryUdpEnable = true ∧ udpHost.portOn 0 = true ∧
    udpHost.sourceElement 4 udpSource = some 0 ∧ udpHost.dictReady = true ∧ udpRead.length = 16 ∧
    udpHost.sourceElement 4 (form4 0x1508280A) = none ∧ (udpRead.take 15).length < 16 ∧
    (udpHost.serve (.udp 0 4 udpSource 5000 0) (parseRequest udpRead)).performed = true ∧
    (udpHost.serve (.udp 0 4 udpSource 5000 0) (parseRequest (udpRead.set 10 0#8))).performed = false ∧
    (ran c udpHost).map (fun e => (e.kept.getD 0 []).map Kept.sourcePort) = some [5000] := by decide +kernel

/-- The reply that was kept is sent again for the same port and tag (R65). -/
theorem test_udp_repeat :
    let c := Instr.dictUdpDatagram 0 4 udpSource 5000 udpRead
    ((ran c udpHost).bind fun d => (ran c d).map fun e => (e.sent.length, e.sent.head? == d.sent.head?, (e.kept.getD 0 []).length)) =
      some (2, true, 1) := by decide +kernel

/-- A datagram waits while the mailbox's request comes before it, and one whose next hop is not known while that is asked for (R44, R106). -/
theorem witness_UdpDatagram_waits :
    let c := Instr.dictUdpDatagram 0 4 udpSource 5000 udpRead
    let behind := udpHost.setMailbox 0 { udpHost.mailbox 0 with queued := some req0 }
    let unknown : Dev := { udpHost with ports := [] }
    udpHost.inTurn 1 = true ∧ behind.inTurn 1 = false ∧ behind.dictReady = true ∧ unknown.nextHop 0 udpSource = some udpSource ∧
    (ran c behind).map (fun e => (e.dictWaiting.length, e.sent.length)) = some (1, 0) ∧
    (ran c unknown).map (fun e => (e.sent.head?, ((e.ports.getD 0 {}).waiting.map WaitingDatagram.hop))) =
      some (some (.neighborRequest { port := 0, vlan := 0, mac := 0xFFFFFFFFFFFF } udpSource), [udpSource]) := by decide +kernel

/-- A device that answers CAN FD requests as node 0. -/
def canHost : Dev := { ((live.wr Reg.dictionaryCanEnable 0 1).wr Reg.pinsCanEnable 0 1) with now := 400000 }
def canRead : List Byte := [0xC0#8, 9#8] ++ udpRead

theorem witness_CanTransfers :
    let i := canHost.canIdentifier 1
    let open_ (next tick : Nat) : Dev := { canHost with canOpen := some { transfer := 9, next := next, data := [], tick := tick } }
    canHost.inTurn 2 = true ∧ ({ canHost with dictWaiting := [{ port := 0, family := 4, source := 1, sourcePort := 2, data := [] }] } : Dev).inTurn 2 = false ∧
    ready (.canRequestSegment i canRead) (on canHost) ∧ canHost.canReady = true ∧ canHost.canOpen = none ∧
    byteAt canRead 0 / 64 = 3 ∧ byteAt canRead 0 % 64 = 0 ∧ 16 ≤ (trimFrame 0 (canRead.drop 2)).length ∧
    ready (.canRequestSegment i (canRead.set 0 0x00#8)) (on canHost) ∧ byteAt (canRead.set 0 0x00#8) 0 / 64 = 0 ∧
    ready (.canRequestSegment i (canRead.set 0 0x41#8)) (on (open_ 65 400000)) ∧ byteAt (canRead.set 0 0x41#8) 0 / 64 = 1 ∧
    (65 % 64 = byteAt (canRead.set 0 0x41#8) 0 % 64) ∧ 9 = byteAt canRead 1 ∧
    ready (.canRequestSegment i (canRead.set 0 0x82#8)) (on (open_ 1 400000)) ∧ byteAt (canRead.set 0 0x82#8) 0 / 64 = 2 ∧
    1 % 64 ≠ byteAt (canRead.set 0 0x82#8) 0 % 64 ∧
    (ran (.canRequestSegment i (canRead.set 0 0x41#8)) (open_ 65 87499)).map (fun e => e.canOpen) = some none ∧
    (open_ 1 87499).runs .canSegmentTimeout = true ∧ 87499 + 312500 < (open_ 1 87499).now ∧
    (ran .canSegmentTimeout (open_ 1 87499)).map (fun e => (e.canOpen, e.canSegments.length)) = some (none, 1) ∧
    (ran .canSegmentTimeout (open_ 1 87500)).map (fun e => e.canSegments.length) = some 0 := by decide +kernel

/-! ### The host endpoint -/

/-- Queue 3 with 64 entries each way, empty and enabled. -/
def queued : Dev :=
  ((live.wr Reg.hostQueueConfig_sqLog2 3 6).wr Reg.hostQueueConfig_cqLog2 3 6).wr Reg.hostQueueEnable 3 1

/-- Doorbells at both ends of the range of R81, for a queue that is enabled and one that is not. -/
theorem witness_QueueDoorbells :
    ready (.sqTail 3 63) (on queued) ∧ ready (.cqHead 3 64) (on queued) ∧ queued.barOpen = true ∧ queued.ep.firmwareReady = true ∧
    queued.flag Reg.hostQueueEnable 3 = true ∧ 63 % 65536 < queued.sqSize 3 ∧ queued.cqSize 3 ≤ 64 % 65536 ∧
    queued.flag Reg.hostQueueEnable 4 = false ∧ ready (.sqTail 3 0) (on dark) ∧ dark.barOpen = false ∧
    ready (.cqHead 3 0) (on { live with ep := { live.ep with firmwareReady := false } }) ∧
    (ran (.sqTail 3 63) queued).map (fun e => (e.queue 3).sqTail) = some 63 ∧
    (ran (.sqTail 3 64) queued).map (fun e => ((e.queue 3).sqTail, (e.queue 3).badDoorbell)) = some (0, true) := by decide +kernel

/-- A command that is whole, one that R79 calls bad, and a queue out of its turn (R83, R84). -/
theorem witness_CommandFetch :
    let d := queued.setQueue 3 { sqTail := 2 }
    let good := entry 0x1101 1 [0#8, 0#8, 2#8, 0#8]
    ready (.commandFetch 3 good) (on d) ∧ d.nextFetch = some 3 ∧ badCommand good = false ∧ badCommand (zeros 64) = true ∧
    ready (.commandFetch 4 good) (on d) ∧ d.nextFetch ≠ some 4 ∧
    (ran (.commandFetch 3 good) d).map (fun e => ((e.queue 3).sqHead, (e.queue 3).inflight.length)) = some (1, 1) ∧
    (ran (.commandFetch 3 (zeros 64)) d).map record = some (some (0x83, 0)) := by decide +kernel

theorem witness_CompletionRecord :
    let f := fetched 0x1101 1 []
    let d := withCommand queued f
    let late := (d.setQueue 3 { waits := [10], cqTail := 1 }).wr Reg.hostQueueConfig_cqDelay 3 40
    f.done = none ∧ (d.queue 3).inflight = [f] ∧ d.canMaster = true ∧ ({ d with ep := { d.ep with busMaster := false } } : Dev).canMaster = false ∧
    ({ f with index := 1 } : Fetched).index ≠ f.index ∧ ready (.cqDelayExpiry 3) (on { late with now := 50 }) ∧
    (late.queue 3).waits = [10] ∧ late.rd Reg.hostQueueConfig_cqDelay 3 = 40 ∧
    (ran (.cqDelayExpiry 3) { late with now := 50 }).map (fun e => (e.queue 3).pending) = some true ∧
    (ran (.cqDelayExpiry 3) { late with now := 49 }).map (fun e => (e.queue 3).pending) = some false ∧
    late.rd Reg.hostQueueConfig_cqThreshold 3 ≤ (late.queue 3).waits.length ∧ (queued.queue 3).waits = [] ∧
    (queued.queue 3).cqHead = (queued.queue 3).cqTail ∧ (d.complete 3 0 0x80 0x04 5).sent.length = 1 ∧
    record (d.complete 3 0 0x80 0x04 5) = some (0x80, 5) := by decide +kernel

theorem witness_BarRegisters :
    ready (.bar0BadAccess true 0x10004 2) (on live) ∧ live.bar0Known 0x10004 = true ∧ live.accepted true 0x10004 2 = false ∧
    ready (.bar0BadAccess false 0x10004 2) (on dark) ∧ dark.barOpen = false ∧
    ready (.bar0RegisterWrite 0x10004 [7#8, 0#8, 0#8, 0#8] false) (on live) ∧ ready (.bar0RegisterWrite 0x10008 [7#8, 0#8, 0#8, 0#8] false) (on live) ∧
    (live.inRequest 0 4).isSome = true ∧ ready (.bar0RegisterWrite 0 (zeros 4) false) (on live) ∧
    ready (.bar0RegisterWrite 0 (zeros 4) true) (on live) ∧ ready (.mailboxClear 4) (on live) ∧ ready (.mailboxClear 3) (on live) ∧
    live.barOpen = true ∧ (4 : Nat).testBit 2 = true ∧ (3 : Nat).testBit 2 = false ∧
    (ran (.bar0RegisterWrite 0x10004 [15#8, 0#8, 0#8, 0#8] false) live).map (fun e => e.ep.intEnable) = some 7 := by decide +kernel

theorem witness_BarMemory :
    ready (.bar2Read 0x1000 4 []) (on live) ∧ ready (.bar2Write 0x1000 [1#8, 2#8] false) (on live) ∧ live.barOpen = true ∧
    live.ep.memoryReady = true ∧ live.mapped 0x1003 = true ∧ live.poisoned 0x1000 1 = false ∧
    (live.wr Reg.hostBar2WriteEnable 0 0).flag Reg.hostBar2WriteEnable = false ∧ live.flag Reg.hostBar2WriteEnable = true ∧
    0x1000 + 2 ≤ lpddrEnd ∧ memoryCanonical (on live) ∧ ({ live with ep := { live.ep with memoryReady := false } } : Dev).barOpen = true ∧
    ((ran (.bar2Write 0x1000 [1#8, 2#8] false) live).bind fun d => (ran (.bar2Read 0xFFF 4 []) d).map fun e => e.sent.head?) =
      some (some (.readCompletion [0#8, 1#8, 2#8, 0#8] false)) := by decide +kernel

theorem witness_MasteringEnds :
    ready .busMasterEnableClear (on live) ∧ live.cfgServed = true ∧ live.ep.busMaster = true ∧ live.queues = [] ∧
    ready .d3hotEntry (on live) ∧ live.ep.power = .d0 ∧
    ({ live with ep := { live.ep with busMaster := false } } : Dev).served.ep.busMaster = false ∧
    (fetched 0x0401 0xFFFF [0#8, 0#8, 0#8, 0#8, 8#8]).reading = true ∧
    (ran .busMasterEnableClear (withCommand queued (fetched 0x0401 0xFFFF [0#8, 0#8, 0#8, 0#8, 8#8]))).map
      (fun e => (e.ep.busMaster, (e.queue 3).inflight.map fun g => (g.done.map fun r => bits r.1 0 8))) = some (false, [some 0x33]) := by
  decide +kernel

theorem witness_MasteringResumes :
    ready .busMasterEnableSet (on live) ∧ live.cfgServed = true ∧ live.ep.busMaster = true ∧ ready .interruptDisableSet (on live) ∧
    dark.cfgServed = false ∧ dark.runs .d3hotToD0 = true ∧ dark.runs .functionLevelReset = true ∧
    ((ran .busMasterEnableClear (withCommand queued (fetched 0x0401 0xFFFF [0#8, 0#8, 0#8, 0#8, 8#8]))).bind fun d =>
      ran .busMasterEnableSet d).map (fun e => (record e, (e.queue 3).inflight)) = some (some (0x33, 0), []) := by decide +kernel

theorem witness_HostReads :
    let f : Fetched := { fetched 0x0401 0xFFFF [0#8, 0#8, 0#8, 0#8, 8#8] with issued := 8 }
    let d := withCommand queued f
    d.reader 3 0 = some f ∧ queued.reader 3 0 = none ∧ f.unissued = false ∧ f.reading = true ∧
    (fetched 0x0401 0xFFFF [0#8, 0#8, 0#8, 0#8, 8#8]).unissued = true ∧
    ready (.hostReadCompletion 3 0 (.data (zeros 9))) (on d) ∧ ready (.hostReadCompletion 3 0 .aborted) (on d) ∧
    ready (.hostReadCompletion 3 0 .poisoned) (on d) ∧ ready (.completionTimeout 3 0) (on d) ∧
    (live.cfgReg .aerUncorrectableMask 0x00400000).testBit 22 = true ∧
    (ran (.hostReadCompletion 3 0 (.data (zeros 9))) d).map (fun e => (e.queue 3).inflight.map fun g => g.data.length) = some [8] ∧
    (ran (.completionTimeout 3 0) d).map record = some (some (0x80, 0)) ∧
    (ran (.hostReadCompletion 3 0 .poisoned) d).map record = some (some (0x81, 0)) := by decide +kernel

theorem witness_LinkAndConfiguration :
    ready (.pcieLinkTrained 6 16 true) (on live) ∧ live.ep.trainedBefore = true ∧ live.rd Reg.hostLinkState_rate ≠ 6 ∧
    ready (.linkRateChange 5 16 false) (on live) ∧ live.ep.linkTrained = true ∧ dark.ep.linkTrained = false ∧
    ready (.configurationRequest (.read .deviceId)) (on live) ∧ live.cfgServed = true ∧ dark.cfgServed = false ∧
    ready (.configurationRequest (.write .vendorId 5)) (on live) ∧
    (ran (.configurationRequest (.read .deviceId)) live).map (fun e => e.sent.head?) = some (some (.configCompletion 0x9640)) ∧
    (ran (.configurationRequest (.read .deviceId)) dark).map (fun e => e.sent.head?) = some (some .configRetry) := by decide +kernel

theorem witness_ResetTearsDown :
    ready .hotReset (on live) ∧ ready .dlDown (on live) ∧ ready .functionLevelReset (on live) ∧ live.cfgServed = true ∧
    ready .d3hotToD0 (on { live with ep := { live.ep with power := .d3hot } }) ∧ live.boot.switching = none ∧ live.boot.job = none ∧
    live.valueList = [] ∧ live.rd Reg.hostLinkDowns + 1 < 2 ^ Reg.hostLinkDowns.width ∧
    ({ live with ep := { live.ep with busMaster := false } } : Dev).ep.busMaster = false ∧
    (ran .functionLevelReset (live.wr Reg.hostLinkDowns 0 0)).map (fun e => (e.ep.lastReset, e.ep.resetSequence, e.ep.firmwareReady, e.memFree)) =
      some (3, 1, true, some 0) := by decide +kernel

/-- The first entry of the log after the link went down, and after it trained again, is LINK_DOWN (R96). -/
theorem test_link_down_first :
    [ran .dlDown live, (ran .dlDown live).bind (ran (.pcieLinkTrained 5 16 true))].map (fun d => d.map fun e =>
      (e.attentionBit Bit.link, e.rd Reg.dictionaryAttentionLog_bit 0, e.rd Reg.dictionaryAttentionLogHead)) =
      [some (true, Bit.link, 1), some (true, Bit.link, 2)] := by decide +kernel

/-- The worked example of 03: commands 4 to 9 are fetched, command 5 has ended behind 4, and a function-level reset reports them. -/
theorem test_reset_report :
    let cmd (k : Nat) : Fetched := { index := k, entry := entry 0x0B03 7 [], done := if k = 5 then some (0, 0) else none }
    let d := queued.setQueue 3 { sqHead := 10, sqTail := 10, cqTail := 4, inflight := [4, 5, 6, 7, 8, 9].map cmd, waits := [0, 0, 0, 0] }
    (ran .functionLevelReset d).map (fun e => (e.rd Reg.hostQueueResetReport_first 3, e.rd Reg.hostQueueResetReport_count 3,
      bits (e.rd Reg.hostQueueResetReport_status 3) 0 8, e.rd Reg.hostQueueResetReport_kind 3)) = some (4, 6, 0x82, 3) := by decide +kernel

theorem witness_ResetReport :
    let d := withCommand queued (fetched 0x0401 0xFFFF [])
    let sw : Dev := { d with boot := { d.boot with switching := some (3, 0) } }
    ready .hotReset (on d) ∧ ready .functionLevelReset (on d) ∧ d.cfgServed = true ∧ d.boot.switching = none ∧ d.boot.job = none ∧ d.valueList = [] ∧
    (d.queue 3).inflight = [fetched 0x0401 0xFFFF []] ∧ (d.queue 4).inflight = [] ∧ sw.boot.switching.isSome = true ∧ ready .hotReset (on sw) ∧
    (ran .hotReset sw).map (fun e => (e.boot.heldReset.isSome, e.cfgServed, (e.queue 3).inflight.length)) = some (true, false, 1) := by decide +kernel

theorem witness_FundamentalReset :
    ready .fundamentalReset (on live) ∧ live.boot.job = none ∧ ready (.pwrgoodRise true false) (on {}) ∧ ({} : Dev).pwrgood = false ∧
    ready (.pwrgoodRise true false) (on live) ∧ ready .pwrgoodFall (on live) ∧ live.pwrgood = true ∧ ready .vddAonRemoval (on live) ∧
    (ran (.pwrgoodRise true false) {}).map (fun e => (e.rd Reg.pinsStraps, e.perstLow)) = some (1, true) ∧
    (ran .fundamentalReset live).map (fun e => (e.perstLow, e.rd Reg.bootState_stage, e.ep.firmwareReady)) = some (false, 0, false) := by
  decide +kernel

/-! ### The Junction -/

/-- Pool `p` enabled with one buffer of `size` bytes at `base`, its control region after it. -/
def withPool (d : Dev) (p base size : Nat) : Dev :=
  ((((d.wr Reg.sidingsPoolConfig_base p base).wr (Reg.sidingsPoolConfig_size 0) p size).wr (Reg.sidingsPoolConfig_count 0) p 1).wr
    Reg.sidingsPoolConfig_control p (base + size)).setPool p { on := true, fewest := 1, ring := 1 }

/-- Stream 117 takes H.264 by RTP on port 0, at UDP port 5004. -/
def camera : Dev :=
  (((((((live.wr Reg.junctionPortEnable 0 1).wr Reg.junctionPortConfig_mac 0 0x112233445566).wr Reg.junctionPortConfig_ipv4Address 0 0x0107280A).wr
    Reg.junctionStreamEnable 117 1).wr Reg.junctionStreamConfig_source 117 1).wr Reg.junctionStreamConfig_udpPort 117 5004).wr Reg.junctionStreamConfig_gapTicks 117 625).setStream 117
      { phase := .running, window := { started := true, next := 4012, highest := 4013, gaps := [(4012, 0)] } }

def rtpBytes (sequence : Nat) (payload : List Byte) : List Byte :=
  [0x80#8, 96#8] ++ (leBytes 2 sequence).reverse ++ zeros 4 ++ zeros 4 ++ payload
def udpBytes (port : Nat) (data : List Byte) : List Byte :=
  [0x13#8, 0x88#8] ++ (leBytes 2 port).reverse ++ (leBytes 2 (data.length + 8)).reverse ++ [0#8, 0#8] ++ data
def ipBytes (proto fragment : Byte) (payload : List Byte) : List Byte :=
  [0x45#8, 0#8] ++ (leBytes 2 (payload.length + 20)).reverse ++ [0#8, 0#8, 0#8, fragment, 64#8, proto, 0#8, 0#8, 10#8, 40#8, 7#8, 21#8,
    10#8, 40#8, 7#8, 1#8] ++ payload
def ethBytes (hi lo : Byte) (payload : List Byte) : List Byte :=
  [0x66#8, 0x55#8, 0x44#8, 0x33#8, 0x22#8, 0x11#8] ++ zeros 6 ++ [hi, lo] ++ payload
def videoFrame : List Byte := ethBytes 8#8 0#8 (ipBytes 17#8 0#8 (udpBytes 5004 (rtpBytes 4012 [0x65#8, 0x80#8])))

/-- Every branch of a received frame is met. -/
theorem witness_FrameReceived :
    let h := parseEth videoFrame
    ready (.ethFrameReceived 0 true false videoFrame) (on camera) ∧ camera.portOn 0 = true ∧ camera.portOn 1 = false ∧
    ready (.ethFrameReceived 1 true false videoFrame) (on camera) ∧ ready (.ethFrameReceived 0 true true videoFrame) (on camera) ∧
    ready (.ethFrameReceived 0 false false videoFrame) (on camera) ∧
    camera.acceptsMac 0 h.dst = true ∧ h.vlan.getD 0 = camera.rd Reg.junctionPortConfig_vlan 0 ∧ h.type = 0x0800 ∧
    camera.acceptsMac 0 5 = false ∧ (parseEth (ethBytes 0x88#8 8#8 [])).type = 0x8808 ∧ (parseEth (ethBytes 8#8 6#8 [])).type = 0x0806 ∧
    (parseIp 0x0800 [0x60#8]).isNone = true ∧
    (parseIp h.type h.payload).any (fun k => !k.fragment && k.proto == 17 && !udpChecksumBad k) = true ∧
    (parseIp 0x0800 (ipBytes 17#8 1#8 [])).any (fun k => k.fragment) = true ∧
    (parseIp 0x0800 (ipBytes 6#8 0#8 [])).any (fun k => !k.fragment && k.proto == 6) = true ∧
    (parseIp 0x0800 (ipBytes 17#8 0#8 [0#8, 0#8, 0#8, 0#8, 0#8, 8#8, 1#8, 0#8])).any (fun k => udpChecksumBad k) = true ∧
    (parseIp 0x0800 (ipBytes 1#8 0#8 [])).any (fun k => k.proto != 17 && k.proto != 6) = true := by decide +kernel

/-- The reorder of 04: packet 4,012 arrives before its gap timer runs out, and the gap is closed. -/
theorem test_reorder : (ran (.ethFrameReceived 0 true false videoFrame) camera).map
    (fun e => ((e.stream 117).window.gaps, e.rd Reg.junctionPortCounters_received 0)) = some ([], 1) := by decide +kernel

theorem witness_PacketsOfAStream :
    let k (port : Nat) (data : List Byte) : IpPacket :=
      { family := 4, src := form4 0x1507280A, dst := form4 0x0107280A, proto := 17, fragment := false, payload := udpBytes port data }
    let video := k 5004 (rtpBytes 4012 [0x65#8])
    let other := camera.wr Reg.junctionStreamConfig_ssrcFixed 117 1 |>.wr Reg.junctionStreamConfig_ssrc 117 9
    (camera.flag Reg.dictionaryUdpEnable = false ∧ (camera.wr Reg.dictionaryUdpEnable 0 1).flag Reg.dictionaryUdpEnable = true ∧
      ((camera.portAddresses 0).any fun a => a.2 == video.dst) = true) ∧
    be (k (camera.rd Reg.dictionaryUdpPort) []).payload 2 2 = camera.rd Reg.dictionaryUdpPort ∧
    camera.datagramFits 0 video 117 = true ∧ camera.datagramFits 0 (k 5005 []) 117 = false ∧ isRtcp [0x80#8, 200#8] = true ∧
    (parseRtp (rtpBytes 4012 [0x65#8])).any (fun r => camera.ssrcFits 117 r && camera.payloadFits 117 r && !other.ssrcFits 117 r) = true ∧
    (parseRtp (rtpBytes 4012 [])).any (fun r => !((camera.wr Reg.junctionStreamConfig_ptAny 117 0).wr Reg.junctionStreamConfig_payloadType 117 97).payloadFits 117 r) = true ∧
    (let w := (camera.stream 117).window
     ¬((w.highest : Int) + 3000 < w.extend 4013) ∧ ¬(w.extend 4013 + 100 < (w.highest : Int) ∧ w.extend 4013 < (w.next : Int)) ∧
      (w.extend 4011).toNat < w.next) ∧
    ready (.gapTimerExpiry 117 4012) (on { camera with now := 625 }) ∧
    (∃ e ∈ (camera.stream 117).window.gaps, e.1 = 4012 ∧ e.2 + camera.rd Reg.junctionStreamConfig_gapTicks 117 ≤ 625) ∧
    camera.rd Reg.junctionStreamConfig_gapTicks 117 = 625 := by decide +kernel

def auUnit : AuUnit := { parts := [[0#8, 0#8, 0#8, 1#8, 0x65#8]], timestamp := some 90000, kind := 1, damaged := false, key := true }
/-- Stream 117 has a unit to hand on, and the AU pool one buffer for it. -/
def handing : Dev :=
  withPool ((camera.wr Reg.junctionStreamConfig_maxAuKib 117 1).setStream 117 { phase := .running, ready := [auUnit], claimed := true })
    (camera.rd Reg.junctionAuPool) 0x100000 4096

theorem witness_UnitHandedOn :
    ready (.auHandOff 117) (on handing) ∧ (handing.stream 117).ready = [auUnit] ∧ (handing.stream 117).taking = true ∧
    ready (.auHandOff 118) (on handing) ∧ (handing.stream 118).ready = [] ∧ handing.rd Reg.junctionStreamConfig_ringMib 117 = 0 ∧
    memoryCanonical (on handing) ∧
    (handing.alloc (handing.rd Reg.junctionAuPool) 1024 117).1 = .ok 0x100000 ∧
    (let full := (handing.alloc (handing.rd Reg.junctionAuPool) 1024 118).2
     (full.alloc (handing.rd Reg.junctionAuPool) 1024 117).1 = .fail 0x20 ∧ (full.pool (handing.rd Reg.junctionAuPool)).on = true) ∧
    (ran (.auHandOff 117) handing).map (fun e => (e.handedUnits.map fun u => (u.pointer, u.length, u.flags), e.getNat 0x100004 1)) =
      some ([(0x100000, 5, 24)], 0x65) := by decide +kernel

theorem witness_LinkAndStop :
    ready (.portLinkChange 0 true) (on camera) ∧ camera.portOn 0 = true ∧ (camera.ports.getD 0 {}).up = false ∧ camera.portOn 1 = false ∧
    ready (.portLinkChange 0 false) (on camera) ∧
    ready (.streamBecomesStopped 117) (on camera) ∧ camera.drained 117 = false ∧
    (let d := camera.setStream 117 { phase := .draining }
     d.drained 117 = true ∧ (d.stream 117).restart = false ∧ (camera.setStream 117 { phase := .draining, restart := true }).drained 117 = true ∧
      (ran (.streamBecomesStopped 117) d).map (fun e => (e.stream 117).phase) = some .stopped) ∧
    camera.rd Reg.junctionPortState_linkChanges 0 + 1 < 2 ^ Reg.junctionPortState_linkChanges.width ∧
    ((ran (.portLinkChange 0 true) camera).bind fun d => (ran (.portLinkChange 0 false) d).map fun e =>
      (d.attentionBit Bit.link, e.rd Reg.junctionPortState_linkChanges 0, e.lasting.length)) = some (true, 2, 1) := by decide +kernel

/-- A push of `n` bytes to stream 5 by queue 3. -/
def pushed (source : Nat) (phase : StreamPhase) (data : List Byte) : Dev :=
  (withCommand (live.wr Reg.junctionStreamConfig_source 5 source)
    (fetched 0x0401 0xFFFF ([5#8, 0#8, 1#8, 0#8] ++ leBytes 4 data.length) data)).setStream 5 { phase := phase }

theorem witness_Pushes :
    (∀ e ∈ [(2, StreamPhase.waiting), (3, .waiting), (4, .waiting), (1, .waiting), (2, .error), (2, .stopped)],
      ready (.junctionPush 3 0) (on (pushed e.1 e.2 (zeros 4))) ∧ ((pushed e.1 e.2 (zeros 4)).takeCommand 3 0 0x0401).isSome = true) ∧
    ((pushed 2 .waiting []).stream 5).taking = true ∧ (pushed 2 .waiting []).earlierPush 5 0 = false ∧
    (pushed 2 .waiting []).earlierPush 5 1 = true ∧
    (ran (.junctionPush 3 0) (pushed 2 .waiting ([13#8, 0#8] ++ rtpBytes 1 [0x65#8]))).map record = some (some (0, 15)) ∧
    (ran (.junctionPush 3 0) (pushed 2 .waiting [9#8, 0#8, 0#8])).map record = some (some (0x82, 0)) ∧
    (ran (.junctionPush 3 0) (pushed 1 .waiting (zeros 4))).map record = some (some (0x81, 0)) ∧
    (ran (.junctionPush 3 0) (pushed 2 .stopped (zeros 4))).map record = some (some (0x80, 0)) := by decide +kernel

/-- A file's fragment: the sample lies where its run's data offset says, not at the start of mdat (R115). -/
theorem test_data_offset :
    let box_ (t : Nat) (b : List Byte) : List Byte := (leBytes 4 (8 + b.length)).reverse ++ (leBytes 4 t).reverse ++ b
    let run := zeros 2 ++ [0x02#8, 0x01#8] ++ (leBytes 4 1).reverse ++ (leBytes 4 83).reverse ++ (leBytes 4 2).reverse
    let moof := box_ boxMoof (box_ boxTraf (box_ boxTfhd (zeros 7 ++ [1#8]) ++ box_ boxTfdt (zeros 7 ++ [9#8]) ++ box_ boxTrun run))
    let r := Stream.fileBoxes 200 { (default : Stream) with file := { ready := true } } 1 1 (moof ++ box_ boxMdat [5#8, 6#8, 7#8, 8#8]) false
    moof.length = 72 ∧ r.2 = false ∧ r.1.ready.map AuUnit.parts = [] ∧
    (Stream.fileBoxes 200 { (default : Stream) with file := { ready := true } } 1 1
      (moof ++ box_ boxMdat (zeros 3 ++ [5#8, 6#8, 7#8, 8#8])) false).1.ready.map (fun u => (u.parts, u.timestamp, u.key)) =
        [([[5#8, 6#8]], some 9, true)] := by decide +kernel

/-! ### Decode and encode -/

def unit117 : AccessUnit :=
  { stream := 117, flags := 8, sequence := 0, pointer := 0x100000, pool := 0, length := 5, timestamp := 90000, wraps := 0, kind := 1, codec := 1,
    maxWidth := 64, maxHeight := 64, maxFps := 30 }
def header16 : PictureHeader := { header0 with width := 16, height := 16, kept := true }

/-- Stream 117 decodes pictures of 64 × 64 with one buffer of its frame pool, and has a unit waiting. -/
def decoding : Dev :=
  { (withPool ((((camera.wr Reg.junctionStreamConfig_maxWidth 117 64).wr Reg.junctionStreamConfig_maxHeight 117 64).setDec 117
      { claimed := true, freshOutput := false }).wr Reg.decodeFramePool 0 9) 9 0x200000 65536) with handedUnits := [unit117] }

/-- The general engines follow the latency engines, so the highest-numbered engine takes any picture. -/
def engine : Nat := 23

/-- A clip whose ring part has a unit to decode. -/
def clip0 : Clip :=
  { stream := 117, codec := 1, endless := false, rtp := false, postMs := 0, profile := 0, target := 0, eventTime := 0, eventWraps := 0, kind := 1,
    liveFrom := 0, accepted := 0, tenBit := false, units := [{ cell := 0, cells := 1, unit := unit117 }] }

theorem witness_DecodeStarts :
    let c := Instr.decodeStart engine header16
    ready c (on decoding) ∧ decoding.decoderBusy engine = false ∧ decoding.liveDecoders.contains engine = true ∧ decoding.ep.firmwareReady = true ∧
    decoding.latencyEngines.contains engine = false ∧ decoding.unitFor engine = some unit117 ∧ (decoding.dec 117).claimed = true ∧
    (decoding.dec 117).noBuffers = false ∧ (decoding.dec 117).rejected = none ∧ (decoding.dec 117).switching = false ∧
    (decoding.dec 117).rejects unit117 header16 = none ∧ rejectCode unit117 { header16 with width := 65 } = some 0x41 ∧
    rejectCode unit117 { header16 with tools := [.mbaff] } = some 0x80 ∧ rejectCode unit117 { header16 with bitDepth := 10 } = some 0x41 ∧
    header16.showExisting = none ∧ header16.last = true ∧
    (decoding.alloc (decoding.rd Reg.decodeFramePool) unit117.form.bytes 117).1 = .ok 0x200000 ∧
    ({ decoding with handedUnits := [] } : Dev).unitFor engine = none ∧ decoding.headroom = true ∧
    (decoding.setClip 0 clip0).clipToDecode = some 0 ∧
    (ran c decoding).map (fun e => (e.rd Reg.decodeEngineState_busy engine, e.rd Reg.decodeEngineState_stream engine, e.handedUnits,
      (e.decodeJobs.find? engine).map DecodeJob.pointer)) = some (1, 117, [], some 0x200000) ∧
    (ran (.decodeStart engine { header16 with key := false, intra := false }) (decoding.setDec 117 {})).map (fun e => e.handedUnits) = some [] := by
  decide +kernel

/-- An engine at work on a picture, after its budget of 16,384 video cycles. -/
def atWork : Dev :=
  ({ decoding with
      now := 68
      handedUnits := []
      decodeJobs := [(engine, { unit := unit117, header := header16, pointer := 0x200000, clip := none })] } : Dev).wr Reg.decodeEngineState_busy engine 1

theorem witness_PictureEnds :
    ready (.decodeFinish engine picture0 []) (on atWork) ∧ ready (.budgetAbort engine picture0) (on atWork) ∧
    (atWork.decodeJobs.find? engine).any (fun j => j.clip == none) = true ∧ (atWork.decodeJobs.filter fun k => k.1 == engine).length = 1 ∧
    decoding.decodeJobs.find? engine = none ∧ ready (.decodeEngineFault engine picture0) (on atWork) ∧ atWork.liveDecoders.contains engine = true ∧
    (atWork.wr (Reg.decodeEngineState_retired) engine 1).liveDecoders.contains engine = false ∧
    atWork.rd Reg.decodeEngineState_finished engine + 1 < 2 ^ Reg.decodeEngineState_finished.width ∧
    (ran (.budgetAbort engine picture0) atWork).map (fun e => (e.rd Reg.decodeEngineState_busy engine, e.decodeJobs)) = some (0, []) ∧
    (ran (.decodeEngineFault engine picture0) atWork).map (fun e => (e.rd Reg.dictionaryAttentionCause_detail (Bit.fault - 8), e.decodeJobs)) =
      some (engine, []) := by decide +kernel

/-- A plane of 4 × 2 samples of two bytes, and the chroma of the formats other than 4:2:0 (R138, R141). -/
theorem witness_PlanesStored :
    Memory.wf live.memFree live.mem ∧ 4 * 2 ≤ 16 ∧ (live.putPlane 0x1000 16 2 4 2 fun x y => 100 * y + x + 256).sample 0x1000 16 2 3 1 = 359 ∧
    (live.putPlane 0x1000 16 2 4 2 fun _ _ => 1).getByte 0x1008 = 0#8 ∧
    chroma420 .c422 8 4 2 [10, 20, 13, 30] 0 0 = 12 ∧ chroma420 .c422 8 4 1 [10, 20] 0 0 = 10 ∧ chroma420 .c400 10 4 2 [] 0 0 = 512 ∧
    (let r : PictureResult := { picture0 with slices := [{ parsed := true, blocks := [(1, .coded), (2, .zeroCopy)], error := some 1 },
                                                         { parsed := true, blocks := [(3, .zeroCopy)], error := none }] }
     blockOutcome r 32 0 0 = none ∧ blockOutcome r 32 16 0 = some .coded ∧ blockOutcome r 32 0 16 = none ∧
      blockOutcome r 32 16 16 = some .zeroCopy ∧ hasConcealed r 32 32 = true) ∧ hasConcealed { picture0 with slices := [sliceOf 4] } 32 32 = false := by
  decide +kernel

/-- A running stream and an ENCODE_CLIP of it; clip 0 open; every slot taken. -/
def clipping (d : Dev) (opcode : Nat) (body : List Byte) : Dev := withCommand (d.updStream 117 fun x => { x with phase := .running }) (fetched opcode 0xFFFF body)
def clipBody : List Byte := [117#8, 0#8, 1#8, 0#8] ++ zeros 18 ++ [1#8]

theorem witness_ClipCommands :
    let d := clipping camera 0x0601 clipBody
    let full : Dev := { d with clips := (List.range 64).map fun c => (c, clip0) }
    let k (op : Nat) : Dev := clipping (camera.setClip 0 clip0) op []
    ready (.encodeClip 3 0) (on d) ∧ (d.takeCommand 3 0 0x0601).isSome = true ∧ d.clipRefusal (entry 0x0601 0xFFFF clipBody) = none ∧
    (∀ c ∈ List.range 64, (full.clip? c).isSome = true) ∧ (full.takeCommand 3 0 0x0601).isSome = true ∧
    ((d.updStream 117 fun x => { x with phase := .waiting }).stream 117).phase ≠ .running ∧ d.clip? 0 = none ∧
    ready (.encodeStop 3 0) (on (k 0x0602)) ∧ ((k 0x0602).takeCommand 3 0 0x0602).isSome = true ∧ ((k 0x0602).clip? 0) = some clip0 ∧
    clip0.inService = none ∧ ready (.encodeKey 3 0) (on (k 0x0603)) ∧ ((k 0x0603).takeCommand 3 0 0x0603).isSome = true ∧
    (ran (.encodeClip 3 0) d).map (fun e => (record e, (e.clip? 0).map Clip.stream)) = some (some (0, 0), some 117) ∧
    (ran (.encodeClip 3 0) full).map record = some (some (0x80, 0)) ∧
    (ran (.encodeKey 3 0) (k 0x0603)).map (fun e => (record e, (e.clip? 0).map fun x => x.rc.keyRequested)) = some (some (0, 0), some true) ∧
    (ran (.encodeStop 3 0) (k 0x0602)).map (fun e => (record e, e.clip? 0)) = some (some (0, 0), none) := by decide +kernel

def clipPicture : ClipPicture :=
  { pointer := 0x200000, sequence := 5, wraps := 0, timestamp := 90000, kind := 1, width := 16, height := 16, concealed := false, fromRing := false,
    order := 0, ready := true, source := 0x300000, form := unit117.form }
def encoding : Dev := camera.setClip 0 { clip0 with units := [], pictures := [clipPicture], liveFrom := 5 }

theorem witness_EncodePictures :
    let job : EncodeJob := { clip := 0, picture := clipPicture, key := true, qp := 30, limit := none, columns := (0, 0), mask := 0, capped := true, size := 8000000, drain := 266666 }
    let inHand : Clip := { clip0 with units := [], inService := some clipPicture, liveFrom := 5 }
    let busy : Dev := { camera.setClip 0 inHand with encodeJobs := [(0, job)] }
    ready (.encodePictureStart 0) (on encoding) ∧ encoding.encodeJobs.find? 0 = none ∧ encoding.flag Reg.encodeEngineState_retired 0 = false ∧
    0 < encoding.rd Reg.encodeEnginesPresented ∧ encoding.headroom = true ∧ encoding.encodeChoice = some (0, clipPicture) ∧
    camera.encodeChoice = none ∧ encoding.poisoned clipPicture.pointer clipPicture.form.hintOffset = false ∧ (busy.encodeChoice = none) ∧
    (camera.setClip 0 { inHand with stopping := true }).encodeChoice = some (0, clipPicture) ∧ ready (.encodePictureDone 0 clipPicture.sequence) (on busy) ∧ busy.encodeJobs.find? 0 = some job ∧
    ({ busy with clips := [] } : Dev).clip? 0 = none ∧ ready (.encodeEngineFault 0) (on busy) ∧ (busy.clip? 0).isSome = true ∧
    (let d := encoding.setClip 0 { clip0 with units := [], pictures := [{ clipPicture with ready := false }] }
     ready (.clipCopyDone 0 5) (on d) ∧ (d.clip? 0).any (fun x => (x.pictures.find? fun y => y.sequence == 5 && !y.ready).isSome) = true) ∧
    encoding.rd Reg.encodeProfile_qpMin 0 ≤ encoding.rd Reg.encodeProfile_qpMax 0 ∧ clip0.rc.encoded = 0 ∧
    (ran (.encodePictureStart 0) encoding).map (fun e => (e.rd Reg.encodeEngineState_busy 0, (e.encodeJobs.find? 0).map EncodeJob.key)) =
      some (1, some true) ∧
    (ran (.encodeEngineFault 0) busy).map (fun e => (e.attentionBit Bit.fault, e.encodeChoice, (e.clip? 0).map fun x => x.rc.keyRequested)) =
      some (true, some (0, clipPicture), some true) := by
  decide +kernel

/-- Pictures of clips that go on, that end, and that go by RTP, each in encode. -/
theorem witness_EncodePictures_ends :
    let job : EncodeJob := { clip := 0, picture := clipPicture, key := true, qp := 30, limit := none, columns := (0, 0), mask := 0, capped := true, size := 8000000, drain := 266666 }
    let busy (f : Clip → Clip) : Dev := { camera.setClip 0 (f { clip0 with units := [], inService := some clipPicture }) with encodeJobs := [(0, job)] }
    (∀ d ∈ [busy fun x => { x with endless := true }, busy fun x => { x with endless := true, rtp := true }, busy fun x => { x with stopping := true }],
      ready (.encodePictureDone 0 clipPicture.sequence) (on d) ∧ d.encodeJobs.find? 0 = some job ∧ (d.clip? 0).isSome = true) ∧
    (let bad : Dev := { encoding with poison := [0x200000] }
     bad.poisoned clipPicture.pointer clipPicture.form.hintOffset = true ∧ bad.encodeChoice = some (0, clipPicture) ∧
      ready (.encodePictureStart 0) (on bad) ∧ (ran (.encodePictureStart 0) bad).map (fun e => (e.attentionBit Bit.stream, e.clip? 0)) = some (true, some { clip0 with units := [], pictures := [], liveFrom := 5, gap := true, dropped := 1 })) := by
  decide +kernel

/-- The window and strip of an 8-bit and a 10-bit H.265 picture (R178), and vectors at the ends of the search (R177). -/
theorem test_search_window :
    let w := windowAt 32 0 0
    (w.bytes 8, (w.strip 32).bytes 8, w.bytes 10) = (74592, 8064, 149184) ∧ w.slide (w.strip 32) = windowAt 32 1 0 ∧
    inSearchRange 512 (-256) = true ∧ inSearchRange 513 0 = false ∧ inSearchRange 0 257 = false := by decide

/-- A NAL unit longer than the room is cut into fragments that carry all of it (R189). -/
theorem test_rtp_fragments : rtpPayloads 1 6 [0x65#8, 1#8, 2#8, 3#8, 4#8, 5#8, 6#8] =
    [[0x7C#8, 0x85#8, 1#8, 2#8, 3#8, 4#8], [0x7C#8, 0x45#8, 5#8, 6#8]] := by decide +kernel

/-! ### The Calender and the Deckle -/

def frame16 : Frame :=
  { pointer := 0x200000, unit := unit117, width := 16, height := 16, bitDepth := 8, key := true, order := 3, id := 3, awaiting := true }
def picture16 : Picture :=
  { stream := 117, flags := 0, sequence := 0, pointer := 0x200000, width := 16, height := 16, timestamp := 90000, wraps := 0, kind := 1 }

/-- A context that runs no plan of its own making, and a step of entries. -/
def context1 (steps : List Step) : Context :=
  { latency := false, variant := 0, coreOffset := 0, manifest := { (default : Manifest) with storeBytes := 65536, grid := 1 }, seed := 0, planId := 0, digest := 0, sections := [], store := 0x400000,
    block := 0x400000, save := 0x500000, scratch := 0x600000, counters := 4, steps := steps, facts := default }
def step7 (entries : List StepEntry) : Step := { number := 7, instance_ := 0, reduced := false, frames := [], entries := entries }
def listEntry (engine : Nat) : ListEntry :=
  { engine := engine, frameLoop := false, stepEnd := false, cell := 0, waitCounter := 0xFF, signalCounter := 3, waitCount := 0, signalCount := 1,
    boundsUsed := 0, body := 0, bodyBytes := 4096 }
/-- Context 1 has step 7 with one entry for an engine. -/
def withEntry (d : Dev) (engine : Nat) (f : StepEntry → StepEntry) : Dev :=
  { d with contexts := [(1, context1 [step7 [f { (default : StepEntry) with e := listEntry engine }]])] }

theorem witness_PictureReleased :
    let d := camera.setDec 117 { claimed := true, frames := [{ frame16 with order := 5 }, frame16] }
    ready (.pictureRelease 117) (on d) ∧ (d.dec 117).nextOut = some frame16 ∧ (camera.dec 117).nextOut = none ∧
    d.rd Reg.decodeStreamCounters_released 117 + 1 < 2 ^ Reg.decodeStreamCounters_released.width ∧
    (ran (.pictureRelease 117) (d.wr Reg.calenderStreamConfig_produce 117 1)).map (fun e => e.released.map Picture.pointer) = some [0x200000] := by
  decide +kernel

/-- A picture that waits for Calender 3, with a buffer of the Vat pool free for it. -/
def pressing : Dev :=
  { (withPool ((camera.wr Reg.junctionStreamConfig_maxWidth 117 16).wr Reg.junctionStreamConfig_maxHeight 117 16)
      (camera.rd Reg.calenderVatPool) vatBase 65536) with released := [picture16] }

theorem witness_CalenderWork :
    let held : Dev := { pressing with released := [{ picture16 with engine := some 3, buffer := some vatBase }] }
    let pool := pressing.rd Reg.calenderVatPool
    ready .calenderBufferGrant (on pressing) ∧ ready (.calenderStart 3) (on pressing) ∧
    (∀ p ∈ pressing.released, p.waited = true → p.buffer ≠ none) ∧ pressing.calJob 3 = none ∧ pressing.liveCalenders.contains 3 = true ∧
    pressing.pictureFor 3 = some picture16 ∧ picture16.flags.testBit 0 = false ∧ picture16.buffer = none ∧ camera.pictureFor 3 = none ∧
    (pressing.alloc pool (pressing.outBytes 117) 117).1 = .ok vatBase ∧
    ((pressing.alloc pool (pressing.outBytes 117) 118).2.alloc pool (pressing.outBytes 117) 117).1 = .fail 0x20 ∧
    ready (.calenderHandOn 3 []) (on held) ∧ (held.calJob 3).any (fun p => p.buffer == some vatBase) = true ∧
    ready (.calenderFault 3 true) (on held) ∧ held.liveCalenders.contains 3 = true ∧
    (held.wr Reg.calenderEngineState_retired 3 1).liveCalenders.contains 3 = false ∧
    (ran (.calenderStart 3) pressing).map (fun e => (e.rd Reg.calenderEngineState_busy 3, (e.calJob 3).map Picture.buffer)) = some (1, some (some vatBase)) ∧
    (ran (.calenderFault 3 true) held).map (fun e => (e.attentionBit Bit.fault, (e.calStream 117).stale, e.calJob 3)) = some (true, true, none) := by
  decide +kernel

/-- A picture that waits in its slot gets the buffer that is free, and no buffer is free for it (R200). -/
theorem witness_CalenderWork_grant :
    let waiting : Dev := { pressing with released := [{ picture16 with waited := true, engine := some 3 }] }
    let pool := waiting.rd Reg.calenderVatPool
    ready .calenderBufferGrant (on waiting) ∧ (waiting.released.filter fun x => x.waited && x.buffer.isNone).length = 1 ∧
    (waiting.alloc pool (waiting.outBytes 117) 117).1 = .ok vatBase ∧
    (ran .calenderBufferGrant waiting).map (fun e => e.released.map Picture.buffer) = some [some vatBase] := by decide +kernel

theorem witness_DifferenceMap :
    outDim 1920 256 = 1920 ∧ outDim 1 100 = 1 ∧ 256 ≤ 1920 * 128 ∧
    ((layLevels 3 [(100, 50), (50, 25)] 256).1.map fun l => (l.pitch, l.offset)) = [(224, 4096), (128, 40960)] ∧
    (camera.mapEntry picture16 [] none false 0 0) = (0x7C00, 3) := by decide +kernel

theorem witness_DeckleWork :
    let d := withEntry camera 2 fun f => { f with state := .queued, crops := some { list := 0x600000, count := 1, results := 0x601000 } }
    ready (.deckleEntry 1) (on d) ∧ d.liveDeckles.contains 1 = true ∧ (d.poolNext 2).any (fun y => y.entry.crops.any fun w => w.cut < w.count) = true ∧
    camera.poolNext 2 = none ∧ (d.wr Reg.deckleEngineState_retired 1 1).liveDeckles.contains 1 = false ∧ ready (.deckleFault 1) (on d) ∧
    camera.isOutput 0 = false ∧ d.cropCode (parseCrop (d.getNat 0x600000 64)) ≠ 0 ∧
    (let o : Dev := (pressing.alloc (pressing.rd Reg.calenderVatPool) 65536 117).2
     o.isOutput vatBase = true ∧ o.cropCode { (parseCrop 0) with source := vatBase, output := vatBase, width := 513, height := 512 } = 0x80) ∧
    (ran (.deckleEntry 1) d).map (fun e => (e.getNat 0x601000 4, (e.entry? 1 7 0).map StepEntry.state)) = some (0x21, some .done) ∧
    (ran (.deckleFault 1) d).map (fun e => e.rd Reg.dictionaryAttentionCause_context (Bit.fault - 8)) = some 0xFFFF := by decide +kernel

/-! ### Press cores -/

/-- A window of a map of 8 × 8 with one channel and one tap, 64 bytes. -/
def window1 : Nat := 8 + 8 * 2 ^ 16 + 1 * 2 ^ 32 + 8 * 2 ^ 240 + 1 * 2 ^ 256 + 8 * 2 ^ 416 + 2 * 2 ^ 432 + 2 * 2 ^ 448 + 16 * 2 ^ 480
/-- A gang pass of one vector, one row and one column that writes half A, and one that also drains it at a tile boundary. -/
def passRecord (mode : Nat) : List Byte := leBytes 64 mode ++ leBytes 64 window1

/-- Core 2 has the entry of context 1 in service, with a pass record of a mode at the start of its body. -/
def serving (mode : Nat) (f : StepEntry → StepEntry := id) : Dev :=
  let d := withEntry ((camera.wr Reg.pressCoreState_width 2 256).wr Reg.pressArrayState_halves 4 3) 1 fun e => f { e with state := .service, core := 2 }
  (d.store 0x400000 (passRecord mode)).updCore 2 fun y => { y with serving := some (1, 7, 0) }

theorem witness_PassEnters :
    let c := Instr.passEntry 2 pass0 { timing0 with start := 256 }
    ready c (on (serving 0)) ∧ camera.issuing 2 = none ∧
    ((serving 0).issuing 2).any (fun r => r.1 == 1 && r.2.1 == 7 && r.2.2.1 == 0) = true ∧ ((serving 0).ctx? 1).isSome = true ∧
    ((serving 0).step? 1 7).isSome = true ∧ (serving 0).poisoned 0x400000 128 = false ∧
    ({ serving 0 with poison := [0x400040] } : Dev).poisoned 0x400000 128 = true ∧
    ((serving 0).ctx? 1).any (fun x => !(serving 0).skipped x (step7 []) default 0) = true ∧
    passValid {} 256 2 0 true [parseWindow window1] = true ∧ passValid {} 252 2 0 true [parseWindow window1] = false ∧
    (({} : PressArray).mayEnter 0 0 true { timing0 with start := 256 } = true) ∧ ({} : PressArray).mayEnter 0 0 true { timing0 with start := 255 } = false ∧
    ({} : PressArray).mayEnter 64 0 true { timing0 with start := 256 } = false ∧ ((serving 0).core 2).origin = none ∧ bubble 32 0 0 = false ∧ bubble 32 0 1 = true ∧
    (serving 0).rd Reg.pressArrayState_passes 4 + 1 < 2 ^ Reg.pressArrayState_passes.width ∧
    (ran c (serving 0)).map (fun e => (e.rd Reg.pressArrayState_passes 4, ((e.core 2).array 0).idle, (e.entry? 1 7 0).map StepEntry.passed)) =
      some (1, false, some [(0, 0)]) ∧
    (ran c (serving (1 * 2 ^ 20))).map (fun e => (e.core 2).serving) = some none := by decide +kernel

/-- The pass boundary worked in 08 (R222): each pass may enter at the cycle of the table and not before it. -/
theorem test_pass_boundary :
    let p0 : PressArray := { idle := false, tag := false, ended := 256 }
    let write := 255 * 2 ^ 24
    let late := 99 * 2 ^ 24
    let p1 : PressArray := { idle := false, tag := true, ended := 512, used0 := 256, used1 := 512, loadEnd := 256 }
    let p2 : PressArray := { idle := false, tag := false, ended := 612, used0 := 612, used1 := 512, loadEnd := 512 }
    p0.mayEnter 0 write true { timing0 with start := 256 } = true ∧ p0.mayEnter 0 write true { timing0 with start := 255 } = false ∧
    p1.mayEnter 0 (late + 2 ^ 8) true { timing0 with load := 256, start := 512 } = true ∧
    p1.mayEnter 0 (late + 2 ^ 8) true { timing0 with load := 255, start := 512 } = false ∧
    p2.mayEnter 0 (late + 2 ^ 8) true { timing0 with load := 512, start := 768 } = true ∧
    p2.mayEnter 0 (late + 2 ^ 8) true { timing0 with load := 512, start := 767 } = false := by decide +kernel

/-- Rounding to nearest (the table of 09) and stochastic rounding (its example). -/
theorem test_rounding :
    [0x3F801000, 0x3F803000, 0x3F801001, 0x477FEF00, 0x477FF000, 0x33000000, 0x33C00000].map (fun v => (Fmt.f16.saturate (f32v v)).1) =
      [0x3C00, 0x3C02, 0x3C01, 0x7BFF, 0x7BFF, 0x0000, 0x0002] ∧
    [0x3F808000, 0x3F818000].map (fun v => (Fmt.bf16.saturate (f32v v)).1) = [0x3F80, 0x3F82] ∧
    [0, 32767, 32768, 65535].map (fun t => (Fmt.f16.stochastic (f32v 0x3F801000) t).1) = [0x3C01, 0x3C01, 0x3C00, 0x3C00] := by decide +kernel

theorem witness_PressArithmetic :
    (Fmt.f16.decode 0x7BFF).isFinite = true ∧ (Fmt.bf16.decode 0x0001).isFinite = true ∧ (f32v 0x7F7FFFFF).isFinite = true ∧
    (f32v 0x7FC00000).isNan = true ∧ 1 < ({ parseWindow window1 with gpack := 2 } : WinDesc).gpack ∧
    0 / (parseWindow window1).kg ≠ 1 / (parseWindow window1).og ∧ fadd 0x3F800000 0x40000000 = 0x40400000 := by decide +kernel

/-- An array with a drain of no destination to come, at a tile boundary afterwards. -/
def draining (boundary : Bool) : Dev :=
  (serving 0).updCore 2 fun y => y.updArray 0 fun r => { r with
    idle := false
    boundary := if boundary then some 30 else none
    drains := if boundary then [] else
      [{ mode := 2 ^ 10 + 2 ^ 13, constants := 0, pitch := 0, tensor := 0, channel := 0, tgt := [], half0 := {}, half1 := {}, reads := [17] }] }

theorem witness_DrainsAndFills :
    ready (.drain 2 0) (on (draining false)) ∧ ready (.tileBoundary 2 0) (on (draining true)) ∧ ready (.randomFill 2 fill0) (on (serving 0)) ∧
    camera.running 2 = none ∧ ((draining false).running 2).isSome = true ∧ (((draining false).core 2).array 0).drains ≠ [] ∧
    (((draining true).core 2).array 0).boundary ≠ none ∧ ((((draining true).core 2).array 1).quiet && (((draining true).core 2).array 1).boundary == none) = true ∧
    (((draining true).updCore 2 fun y => y.updArray 1 fun r => { r with boundary := some 5 }).core 2).array1.boundary = some 5 ∧
    ((serving 0).wr Reg.randomSelftest 0 1).flag Reg.randomSelftest = true ∧ ((serving 0).wr Reg.randomSelftest 0 0).flag Reg.randomSelftest = false ∧
    (ran (.drain 2 0) (draining false)).map (fun e => (((e.core 2).array 0).drains.length, ((e.core 2).array 0).boundary)) = some (0, some 30) ∧
    (ran (.tileBoundary 2 0) (draining true)).map (fun e => ((e.core 2).array0 == {}, (e.entry? 1 7 0).map fun f => (f.atSwitch, f.boundaries))) =
      some (true, some (true, 1)) := by decide +kernel

theorem witness_DataMover :
    let out : MoverOp := { move0 with toPress := false, device := 0x700000, bytes := 2, press := 16 }
    let d := (serving 0).updCore 2 fun y => y.put 16 [7#8, 8#8]
    ready (.dataMoverTransfer 2 out [] []) (on d) ∧ (d.issuing 2).isSome = true ∧ out.rows = 1 ∧ (∀ i ∈ List.range 2, d.mapped (0x700000 + i) = true) ∧
    memoryCanonical (on d) ∧ ready (.dataMoverTransfer 2 move0 [] []) (on d) ∧ move0.cacheable = false ∧ d.poisoned 0 64 = false ∧
    ({ d with poison := [0x400000] } : Dev).poisoned 0x400000 64 = true ∧ (d.ctx? 1).any (fun x => x.faultsAt 0x400000 64) = true ∧
    ready (.dataMoverTransfer 2 { move0 with rows := 0 } [⟨.corrected, 0⟩] [5]) (on d) ∧
    (ran (.dataMoverTransfer 2 out [] []) d).map (fun e => e.getNat 0x700000 2) = some 0x0807 := by decide +kernel

theorem witness_VectorOperations :
    let d := (serving 0).updCore 2 fun y => (y.setReg 1 0 0x3F800000).setReg 2 0 0x40000000
    let op := VecOp.bin .add 3 1 2 1
    ready (.vectorOperation 2 op) (on d) ∧ camera.issuing 2 = none ∧ (d.issuing 2).isSome = true ∧ (d.ctx? 1).isSome = true ∧ (d.step? 1 7).isSome = true ∧
    (1 : Nat) ≤ 512 ∧ ((0 : Nat) : Int) ≤ toSigned 32 (leNat ((d.core 2).bytes 0 4)) ∧
    (ran (.vectorOperation 2 op) d).map (fun e => (e.core 2).reg 3 0) = some 0x40400000 := by decide +kernel

theorem witness_CoreFaults :
    ready (.pressCoreFault 2 (.column 1 259)) (on (serving 0)) ∧ (serving 0).liveCores.contains 2 = true ∧
    ((serving 0).wr Reg.pressCoreState_retired 2 1).liveCores.contains 2 = false ∧ ready (.watchdogTrip 2) (on (serving 0)) ∧
    (serving 0).running 2 ≠ none ∧ camera.running 2 = none ∧ (camera.core 2).serving = none ∧ camera.faults.find? (8, 2) = none ∧
    (ran (.pressCoreFault 2 (.column 1 259)) (camera)).map (fun e => (e.rd Reg.pressArrayState_suspect 5, e.rd Reg.dictionaryAttentionCause_detail (Bit.fault - 8))) =
      some (259, 2) := by decide +kernel

/-! ### Plans, the Yard and the Signal box -/

/-- A package of one variant: a manifest, a command list of one entry for a Press core, deadlines and a signature, each on its page. -/
def packageTable : List Byte :=
  let sec (kind at_ length : Nat) (v : Byte) : List Byte := leBytes 2 kind ++ [v] ++ zeros 5 ++ leBytes 8 at_ ++ leBytes 8 length ++ zeros 8
  sec 1 4096 128 0#8 ++ sec 2 8192 64 0#8 ++ sec 9 12288 32 0#8 ++ sec 15 16384 1600 0xFF#8
def packageBytes : List Byte :=
  leBytes 4 0x4B504E46 ++ leBytes 2 0x0100 ++ leBytes 2 0x1BD0 ++ [0#8, 0#8, 1#8, 0#8] ++ leBytes 2 4 ++ zeros 2 ++ leBytes 8 17984 ++ zeros 232 ++
    packageTable ++ zeros 3712 ++
    leBytes 128 (1 * 2 ^ 16 + 1 * 2 ^ 24 + 256 * 2 ^ 32 + 65536 * 2 ^ 256) ++ zeros 3968 ++
    leBytes 64 (1 + 2 ^ 9) ++ zeros 4032 ++ zeros 4096 ++ zeros 1600

set_option maxRecDepth 100000 in
theorem test_package_form : formValid packageBytes 17984 = true := by decide +kernel

/-- Nothing of a context, and a context that waits for one. -/
def idleContext : Context := { context1 [] with placement := [2] }
def contextHost (x : Context) : Dev := { camera with contexts := [(1, x)] }
def loadCommand (flags : Byte) (n : Nat) (data : List Byte) : Dev :=
  withCommand camera (fetched 0x0B01 1 ([flags, 0#8, 0#8] ++ zeros 5 ++ zeros 8 ++ leBytes 8 n) data)

set_option maxRecDepth 100000 in
theorem witness_PlanCommands :
    let d := loadCommand 0#8 17984 packageBytes
    let facts : PlanFacts := { bodies := [{ valid := true, maxCounter := none, signals := [] }], tensors := [] }
    ready (.planLoad 3 0 facts) (on d) ∧ (d.takeCommand 3 0 0x0B01).isSome = true ∧ d.earlierLoad 0 = false ∧ d.earlierLoad 1 = true ∧
    d.ctx? 1 = none ∧ ({ d with contexts := [(1, idleContext)] } : Dev).ctx? 1 = some idleContext ∧ (0#8 : Byte).toNat.testBit 2 = false ∧
    formValid packageBytes 17984 = true ∧ formValid packageBytes 17983 = false ∧ d.packageSigned packageBytes = false ∧
    d.targetFits packageBytes = true ∧ d.targetFits (packageBytes.set 6 0#8) = false ∧ variantOrder packageBytes 0 = [0] := by decide +kernel

/-- With the heap of plans at a place, the variant of the package is admitted once its signature verifies; no test can show that last
step, since the signature scheme is opaque (log entry 7). -/
theorem witness_PlanCommands_admitted :
    let facts : PlanFacts := { bodies := [{ valid := true, maxCounter := none, signals := [] }], tensors := [] }
    ((camera.wr Reg.plansHeap_start 0 0x10000000).wr Reg.plansHeap_end 0 0x20000000).tryVariants packageBytes false facts [0] |>.2.isSome = true := by
  decide +kernel

theorem test_plan_unsigned :
    (ran (.planLoad 3 0 { bodies := [], tensors := [] }) (loadCommand 0#8 17984 packageBytes)).map record = some (some (0x11, 0)) := by decide +kernel

theorem witness_PlanBindings :
    let bind (x : Context) (op stream : Nat) : Dev := withCommand (contextHost x) (fetched op 1 (leBytes 2 stream))
    let bound : Context := { idleContext with bindings := [{ stream := 0xFFFF, slot := 0, seed := 0 }] }
    ready (.planBind 3 0) (on (bind idleContext 0x0B03 0xFFFF)) ∧ ((bind idleContext 0x0B03 0xFFFF).takeCommand 3 0 0x0B03).isSome = true ∧
    (bind idleContext 0x0B03 0xFFFF).bindFails 1 0xFFFF = none ∧ (bind idleContext 0x0B03 0xFFFF).holdsDetect idleContext = false ∧
    (bind idleContext 0x0B03 5).bindFails 1 5 = some 0x84 ∧
    ready (.planUnbind 3 0) (on (bind bound 0x0B04 0xFFFF)) ∧ ((bind bound 0x0B04 0xFFFF).takeCommand 3 0 0x0B04).isSome = true ∧
    (bound.binding? 0xFFFF).isSome = true ∧ bound.binding? 5 = none ∧
    ready (.planUnload 3 0) (on (bind idleContext 0x0B02 0)) ∧ ((bind idleContext 0x0B02 0).takeCommand 3 0 0x0B02).isSome = true ∧
    (ran (.planBind 3 0) (bind idleContext 0x0B03 0xFFFF)).map (fun e => (record e, (e.ctx? 1).map fun x => x.bindings.map Binding.stream)) =
      some (some (0, 0), some [0xFFFF]) ∧
    (ran (.planUnbind 3 0) (bind bound 0x0B04 5)).map record = some (some (0x86, 0)) ∧
    (ran (.planUnload 3 0) (bind idleContext 0x0B02 0)).map (fun e => (record e, e.contexts.length)) = some (some (0, 0), 0) := by decide +kernel

/-- A stream bound to a plan that works on frames. -/
theorem witness_PlanCommands_bind :
    let x : Context := { idleContext with manifest := { idleContext.manifest with maxStreams := 4, inPlanes := camera.calPlanes 117 } }
    let d : Dev := withCommand ((contextHost x).wr Reg.calenderStreamConfig_produce 117 1) (fetched 0x0B03 1 (leBytes 2 117))
    ready (.planBind 3 0) (on d) ∧ (d.takeCommand 3 0 0x0B03).isSome = true ∧ d.bindFails 1 117 = none ∧ d.ctx? 1 = some x ∧
    d.rd (Reg.plansStreamContexts_context 0) 117 = 0 ∧
    (ran (.planBind 3 0) d).map (fun e => (record e, e.rd (Reg.plansStreamContexts_context 0) 117)) = some (some (0, 0), 1) := by decide +kernel

def calFrame : CalFrame :=
  { stream := 117, flags := 0, sequence := 0, pointer := vatBase, width := 16, height := 16, levels := 1, planes := 3, timestamp := 90000, wraps := 0,
    kind := 1, number := 4, pictureWidth := 16, pictureHeight := 16, hasMap := false }

theorem witness_YardFrames :
    let framed : Dev := { contextHost { idleContext with manifest := { idleContext.manifest with maxStreams := 4, batchMax := 4, inWidth := 16, inHeight := 16 }, bindings := [{ stream := 117, slot := 0, seed := 0 }] } with frames := [calFrame], signalled := [4] }
    let batch : Context := { idleContext with
      manifest := { idleContext.manifest with maxStreams := 4, batchMax := 4 }, ready := [{ number := 4, stream := 117, since := 0 }],
      bindings := [{ stream := 117, slot := 0, seed := 0 }] }
    let run : Context := { idleContext with credit := 1 }
    let late : Dev := { contextHost batch with now := (contextHost batch).rd Reg.yardContextConfig_gatherTicks 1 }
    ready .frameReady (on framed) ∧ framed.signalled = [4] ∧ (framed.frames.find? fun f => f.number == 4) = some calFrame ∧ camera.signalled = [] ∧
    ready (.gatherTimeout 1) (on late) ∧ late.gatherOver 1 batch = true ∧
    ((contextHost batch).wr Reg.yardContextConfig_gatherTicks 1 1).gatherOver 1 batch = false ∧
    ready (.stepDispatch 1) (on (contextHost run)) ∧ (contextHost run).ctx? 1 = some run ∧ (contextHost run).mayDispatch 1 = true ∧
    (contextHost run).stepDue 1 run = true ∧ run.manifest.maxStreams = 0 ∧ run.latency = false ∧ (contextHost run).commandList run false = [] ∧
    (contextHost run).commandList run run.manifest.reduced = [] ∧
    (contextHost idleContext).stepDue 1 idleContext = false ∧ ready (.teardownEnd 1) (on (contextHost { run with state := .faulting })) ∧
    camera.ctx? 1 = none ∧
    (ran (.stepDispatch 1) (contextHost run)).map (fun e => (e.ctx? 1).map fun x => (x.state, x.credit, x.steps.length)) = some (some (.active, 0, 1)) ∧
    (ran (.teardownEnd 1) (contextHost { run with state := .faulting })).map (fun e => (e.ctx? 1).map Context.state) = some (some .idle) ∧
    (ran .frameReady framed).map (fun e => ((e.ctx? 1).map fun x => x.ready.length, e.frames.map CalFrame.holds)) = some (some 1, [[1]]) := by decide +kernel

/-- Entries of context 1 that have not begun, or are done. -/
def entryHost (engine : Nat) (f : StepEntry → StepEntry) : Dev := withEntry camera engine f

theorem witness_YardEntries :
    let placed := entryHost 1 id
    let queued (c : Nat) : Dev := { entryHost 1 (fun e => { e with state := .queued, core := 2 }) with
      contexts := [(c, { (context1 [step7 [{ (default : StepEntry) with e := listEntry 1, state := .queued, core := 2 }]]) with latency := c == 2 })] }
    let done := entryHost 1 fun e => { e with state := .done }
    let finished := entryHost 1 fun e => { e with state := .complete }
    let atSwitch : Dev := serving 0 fun e => { e with atSwitch := true }
    let x := context1 [step7 [{ (default : StepEntry) with e := listEntry 1 }]]
    ready (.entryIssue 1 7 0 none) (on placed) ∧ placed.ctx? 1 = some x ∧ (placed.entry? 1 7 0).isSome = true ∧ camera.ctx? 1 = none ∧
    ((placed.entry? 1 7 0).any fun e => e.state == .placed && e.wait == none && !(x.behind e fun f => f.state != .placed) && dimsUsed e.e == [] &&
      placed.knownOp x e.e) = true ∧ placed.knownOp x (listEntry 3) = false ∧
    ready (.entryComplete 1 7 0) (on done) ∧ (done.entry? 1 7 0).any (fun e => e.state == .done) = true ∧ done.coreOf 1 7 0 = none ∧
    ready (.stepComplete 1 7) (on finished) ∧ (finished.step? 1 7).any (fun t => t.frames == [] && t.entries.all fun e => e.state == .complete) = true ∧
    x.binding? 0xFFFF = none ∧ ready (.switchPoint 2 false) (on (queued 2)) ∧ (queued 2).coreAlive 2 = true ∧ ((queued 2).core 2).serving = none ∧
    ((queued 2).firstCritical 2).isSome = true ∧ (queued 1).firstCritical 2 = none ∧ ((queued 1).firstOther 2 true).isSome = true ∧
    (atSwitch.core 2).serving = some (1, 7, 0) ∧ (atSwitch.entry? 1 7 0).any (fun e => e.atSwitch) = true ∧ atSwitch.critical 1 = false ∧
    memoryCanonical (on atSwitch) ∧ x.manifest.pressBytes ≤ 4194304 ∧
    (ran (.entryIssue 1 7 0 none) placed).map (fun e => (e.entry? 1 7 0).map StepEntry.state) = some (some .queued) ∧
    (ran (.entryComplete 1 7 0) done).map (fun e => ((e.entry? 1 7 0).map StepEntry.state, e.rd Reg.signalCounterState_count 259)) = some (some .complete, 1) ∧
    (ran (.stepComplete 1 7) finished).map (fun e => (e.ctx? 1).map fun y => (y.steps.length, y.completed)) = some (some (0, 1)) ∧
    (ran (.switchPoint 2 false) (queued 1)).map (fun e => ((e.core 2).serving, (e.entry? 1 7 0).map StepEntry.state)) = some (some (1, 7, 0), some .service) := by
  decide +kernel

/-- A Deckle entry with its crops, an entry idle for a dimension of 0, and a Press core command at its end. -/
theorem witness_YardEntries_forms :
    let held (n : Nat) (f : StepEntry → StepEntry) : Dev := { camera with
      contexts := [(1, context1 [{ step7 [f { (default : StepEntry) with e := { listEntry 2 with boundsUsed := 8 } }] with dims := [(3, n)] }])] }
    let body : DeckleBody := { list := 0x600000, dimension := 3, results := 0x601000 }
    let ending : Dev := serving 0
    ready (.entryIssue 1 7 0 (some body)) (on (held 5 id)) ∧ dimsUsed { listEntry 2 with boundsUsed := 8 } = [3] ∧
    ((held 5 id).entry? 1 7 0).any (fun e => e.state == .placed && e.e.engine == 2) = true ∧ ((held 5 id).readDim 1 7 3).knownOp (context1 []) (listEntry 2) = true ∧
    ready (.entryComplete 1 7 0) (on ending) ∧ ending.coreOf 1 7 0 = some 2 ∧ (ending.core 2).drained = true ∧
    (ran (.entryIssue 1 7 0 (some body)) (held 5 id)).map (fun e => ((e.entry? 1 7 0).bind StepEntry.crops).map CropWork.count) = some (some 5) ∧
    (ran (.entryIssue 1 7 0 (some body)) (held 0 id)).map (fun e => (e.entry? 1 7 0).map fun x => (x.idle, x.state)) = some (some (true, .done)) ∧
    (ran (.entryComplete 1 7 0) ending).map (fun e => ((e.core 2).serving, (e.entry? 1 7 0).map StepEntry.state)) = some (none, some .complete) := by
  decide +kernel

theorem witness_YardCommands :
    let cmd (d : Dev) (op : Nat) (body : List Byte) : Dev := withCommand d (fetched op 1 body)
    let halted := contextHost { idleContext with state := .halted }
    ((cmd (contextHost idleContext) 0x1001 [3#8]).takeCommand 3 0 0x1001).isSome = true ∧ ready (.yardRun 3 0) (on (cmd camera 0x1001 [3#8])) ∧
    (camera.wr Reg.yardState 0 1).rd Reg.yardState ≠ 0 ∧ idleContext.manifest.maxStreams = 0 ∧
    ((cmd camera 0x1002 [0#8]).takeControl 3 0 0).isSome = true ∧ ((cmd camera 0x1002 [1#8]).takeControl 3 0 1).isSome = true ∧
    ((cmd halted 0x1002 [2#8]).takeControl 3 0 2).isSome = true ∧ halted.eligible idleContext.manifest false ≠ [] ∧
    ready (.quiesce 3 0) (on camera) ∧ ready (.endQuiesce 3 0) (on camera) ∧ ready (.resumeHalted 3 0) (on camera) ∧
    (ran (.yardRun 3 0) (cmd (contextHost idleContext) 0x1001 [3#8])).map record = some (some (0, 3)) ∧
    (ran (.yardRun 3 0) (cmd (contextHost { idleContext with credit := 2 ^ 32 - 3 }) 0x1001 [3#8])).map record = some (some (0x80, 0)) ∧
    (ran (.quiesce 3 0) (cmd camera 0x1002 [0#8])).map (fun e => (record e, e.rd Reg.yardState)) = some (some (0, 0), 2) ∧
    (ran (.resumeHalted 3 0) (cmd halted 0x1002 [2#8])).map (fun e => (record e, (e.ctx? 1).map Context.state)) = some (some (0, 0), some .idle) := by
  decide +kernel

/-- SIGNAL_OP at a count that just serves a take, and one short of it. -/
theorem witness_YardCommands_signals :
    let sig (op n count : Nat) : Dev :=
      (withCommand camera (fetched 0x1101 1 (leBytes 2 5 ++ leBytes 2 op ++ leBytes 2 n))).wr Reg.signalCounterState_count 261 count
    ((sig 0 2 3).takeSignalOp 3 0 0).isSome = true ∧ ((sig 1 2 3).takeSignalOp 3 0 1).isSome = true ∧ ((sig 2 0 3).takeSignalOp 3 0 2).isSome = true ∧
    ready (.signalOpSignal 3 0) (on camera) ∧ ready (.signalOpTake 3 0) (on camera) ∧ ready (.signalOpRead 3 0) (on camera) ∧
    (ran (.signalOpSignal 3 0) (sig 0 2 3)).map record = some (some (0, 5)) ∧ (ran (.signalOpTake 3 0) (sig 1 3 3)).map record = some (some (0, 0)) ∧
    (ran (.signalOpTake 3 0) (sig 1 4 3)).map record = some (some (0x81, 3)) ∧ (ran (.signalOpRead 3 0) (sig 2 0 3)).map record = some (some (0, 3)) := by
  decide +kernel

/-- A counter at both ends of R423, and a waiter that a signal serves, or leaves waiting for one unit more. -/
theorem witness_SignalsAdd :
    let d := (serving 0).wr Reg.signalCounterState_count 261 65533
    camera.counterQueue 261 = [] ∧ d.rd Reg.signalCounterState_count 261 + 2 ≤ 65535 ∧ ready (.signal 2 223 1) (on d) ∧ (d.issuing 2).isSome = true ∧
    (camera.issuing 2) = none ∧ (223 : Nat) < 224 ∧
    (ran (.signal 2 5 2) d).map (fun e => e.rd Reg.signalCounterState_count 261) = some 65535 := by decide +kernel

theorem witness_WaitsAreServedInOrder :
    let d := (serving 0).wr Reg.signalCounterState_count 261 3
    let w : Waiter := { who := .entry 1 7 0, need := 4, boosts := false }
    let q : Dev := d.setCounterQueue 261 [w, { w with need := 1 }]
    (5 : Nat) < 240 ∧ (d.entry? 1 7 0).isSome = true ∧ d.counterQueue (256 * 1 + 5) = [] ∧ 3 ≤ d.rd Reg.signalCounterState_count (256 * 1 + 5) ∧
    d.rd Reg.signalCounterState_count 261 < 4 ∧ q.counterQueue 261 = [w, { w with need := 1 }] ∧ q.rd Reg.signalCounterState_count 261 + 0 < w.need ∧
    w.need ≤ q.rd Reg.signalCounterState_count 261 + 1 ∧ q.rd Reg.signalCounterState_count 261 + 1 - w.need < 1 ∧
    ready (.wait 2 5 3) (on d) ∧ (d.running 2).isSome = true ∧ camera.running 2 = none ∧
    (ran (.wait 2 5 3) d).map (fun e => (e.rd Reg.signalCounterState_count 261, (e.entry? 1 7 0).bind StepEntry.wait |>.map Armed.met)) = some (0, some true) ∧
    (ran (.wait 2 5 4) d).map (fun e => (e.rd Reg.signalCounterState_count 261, (e.counterQueue 261).length)) = some (3, 1) := by decide +kernel

/-! ### The tracker and Points -/

/-- A frame entry of context 1 for an engine, its operation the first byte of its body, in service on engine 1 if `j`. -/
def slicing (points : Bool) (op : Byte) (j : Bool) : Dev :=
  let d := camera.store 0x400000 [op]
  let e : StepEntry := { (default : StepEntry) with e := listEntry (if points then 4 else 3), state := .queued, frame := some 0 }
  let s : Step := { step7 [{ e with engine := if j then some (if points then 0 else 1) else none }] with frames := [{ frame := calFrame, slot := 0 }] }
  { d with
    contexts := [(1, { context1 [s] with bindings := [{ stream := 117, slot := 0, seed := 0 }] })]
    sliceJobs := if j then [((if points then 0x0E else 0x0D, if points then 0 else 1), { context := 1, step := 7, pos := 0 })] else [] }

def watchData (w : Byte) : List Byte := leBytes 4 9 ++ zeros 12 ++ [0#8, 0#8, w, 0x3F#8] ++ zeros 252
def watching (n : Byte) (data : List Byte) : Dev := withCommand camera (fetched 0x0D10 0xFFFF [2#8, 0#8, n, 0#8] data)

theorem witness_TrackerEngines :
    let waiting := slicing false 2#8 false
    let embed := slicing false 2#8 true
    ready (.sliceBoundary false 1) (on waiting) ∧ waiting.sliceAlive false 1 = true ∧ waiting.sliceAlive false 2 = false ∧
    (camera.wr Reg.trackerEngineState_retired 1 1).sliceAlive false 1 = false ∧ ready (.trackerEngineFault true 0) (on camera) ∧
    camera.sliceAlive true 0 = true ∧ ({ camera with pointsRetired := [0] } : Dev).sliceAlive true 0 = false ∧
    waiting.sliceJobs.find? (0x0D, 1) = none ∧ (waiting.sliceNext false).isSome = true ∧ (waiting.sliceNext true).isNone = true ∧
    ready (.watchLoad 3 0) (on (watching 1#8 (watchData 0x80#8))) ∧ ((watching 1#8 (watchData 0x80#8)).takeCommand 3 0 0x0D10).isSome = true ∧
    ((watchEntry (zeros 272) 0).2.all fun v => (f32v v).isZero) = true ∧ Memory.wf camera.memFree camera.mem ∧
    ready (.embed 1 []) (on embed) ∧ (embed.sliceAt false 1 2).isSome = true ∧ (waiting.sliceAt false 1 2).isNone = true ∧
    (ran (.sliceBoundary false 1) waiting).map (fun e => (e.sliceJobs.find? (0x0D, 1)).map SliceJob.step) = some (some 7) ∧
    (ran (.watchLoad 3 0) (watching 1#8 (watchData 0x80#8))).map (fun e => (record e, e.rd Reg.trackerWatchCount 2)) = some (some (0, 0), 1) := by
  decide +kernel

/-- Two faults within a second retire a Points engine; one a second later does not (R394). -/
theorem witness_TrackerEngines_faults :
    let once : Dev := { camera with faults := [((0xEF, 0), 5)], now := 5 + 3124999 }
    once.faults.find? (0xEF, 0) = some 5 ∧ once.now < 5 + secondTicks ∧ camera.faults = [] ∧
    (ran (.trackerEngineFault true 0) once).map (fun e => (e.sliceAlive true 0, e.rd Reg.dictionaryAttentionCause_detail (Bit.fault - 8))) =
      some (false, 0x8000) ∧
    (ran (.trackerEngineFault true 0) { once with now := 5 + 3125000 }).map (fun e => e.sliceAlive true 0) = some true := by decide +kernel

/-- A rule written while an EVALUATE is under way: it goes on with the rule as it was (R375), and the rule as written stands after it. -/
theorem test_rule_write_begun :
    let d := slicing true 1#8 true
    let d := d.updEntry 1 7 0 fun f => { f with begun := true }
    let w := d.applyPointsRule 9 1
    (w.entry? 1 7 0).map StepEntry.olds = some [.elem .pointsRule 9 (d.elemNat .pointsRule 9)] ∧ w.flag Reg.pointsRule_enable 9 = true ∧
    ((w.applyPointsRule 9 3).entry? 1 7 0).map (fun f => f.olds.length) = some 1 ∧
    (w.swapSettings [.elem .pointsRule 9 (d.elemNat .pointsRule 9)]).1.flag Reg.pointsRule_enable 9 = false ∧
    ((ran (.evaluate 0 []) w).map fun e => e.flag Reg.pointsRule_enable 9) = some true := by decide +kernel

theorem witness_TracksFollow :
    let detect := slicing false 1#8 true
    let evaluate := slicing true 1#8 true
    let t : Track := { (default : Track) with id := 3, state := .tentative, hits := 2, filter := List.replicate 4 default }
    let p : Predicted := { track := t, height := fone }
    let hit : Detection := { cls := 1, p := fone, box := [0, 0, 4, 4] }
    ready (.detect 1 0x600000 [] []) (on detect) ∧ (detect.sliceAt false 1 1).any (fun y => y.entry.frame == some 0 &&
      y.x.mayLeave 117 4 && y.s.entries.all fun g => g.e.engine != 4) = true ∧ (detect.step? 1 7).any (fun t => t.frames[0]?.isSome) = true ∧
    (camera.sliceAt false 1 1).isNone = true ∧ ready (.evaluate 0 []) (on evaluate) ∧ (evaluate.sliceAt true 0 1).isSome = true ∧
    (Track.step p (some hit) { pos := 0, vel := 0, meas := 0 } 3 5 7 90000).map Track.state = some .confirmed ∧
    (Track.step p (some hit) { pos := 0, vel := 0, meas := 0 } 4 5 7 90000).map Track.state = some .tentative ∧
    Track.step { p with track := { t with state := .coasting, misses := 5 } } none { pos := 0, vel := 0, meas := 0 } 3 5 7 0 = none ∧
    (assign [{ distance := 1, id := 1, det := 0 }, { distance := 2, id := 1, det := 1 }, { distance := 2, id := 2, det := 0 },
      { distance := 3, id := 2, det := 1 }]).map (fun q => (q.id, q.det)) = [(1, 0), (2, 1)] ∧
    freeId 3 [{ t with id := 0xFFFFFFFF }, { t with id := 1 }] 0xFFFFFFFF = 2 ∧
    (({ inside := some false, other := 1 } : RuleTrack).next true 2 5).2 = true ∧ (({ inside := some false, other := 0 } : RuleTrack).next true 2 5).2 = false := by
  decide +kernel

/-! ### Egress, lines, CAN FD, PMBus and the test access port -/

/-- A batch of 128 bytes of stream 117 waits for ring 2, of 4,096 bytes. -/
def batching (produced : Nat) : Dev :=
  let d := ((((camera.wr Reg.pointsStreamEgress_ring 117 2).wr Reg.pointsEgressRingEnable 2 1).wr Reg.pointsEgressRing_sizeLog2 2 12).wr
    Reg.pointsEgressRingState_produced 2 produced).wr Reg.pointsEgressPool 0 11
  { withPool d 11 0x800000 256 with
    held := [{ stream := 117, context := 1, sequence := 0, pointer := 0x800000, length := 128, ringDone := false, udpDone := true }] }

theorem witness_EgressAndPins_batches :
    let d := batching 0
    ready (.batchEgress 117 (.word 0)) (on d) ∧ (d.held.find? fun b => b.stream == 117).isSome = true ∧ (∀ b ∈ camera.held, b.stream ≠ 117) ∧
    d.poisoned 0x800000 128 = false ∧ ({ d with poison := [0x800060] } : Dev).poisoned 0x800000 128 = true ∧ d.droppedBefore = [] ∧ d.ringOf 117 = some 2 ∧
    d.flag Reg.pointsEgressRingEnable 2 = true ∧ d.canMaster = true ∧
    ((batching 3968).writeRing 2 0 (zeros 128)).isSome = true ∧ ((batching 3969).writeRing 2 0 (zeros 128)).isNone = true ∧
    ((batching 4032).writeRing 2 192 (zeros 128)).map (fun e => (e.rd Reg.pointsEgressRingState_produced 2, e.sent.length)) = some (4224, 3) ∧
    (ran (.batchEgress 117 (.word 0)) d).map (fun e => (e.held, e.rd Reg.pointsEgressRingState_produced 2)) = some ([], 128) := by decide +kernel

theorem witness_EgressAndPins_lines :
    let d := (camera.wr Reg.pinsDioConfig_owner 4 2).wr Reg.pointsAction_line 6 4
    let pulse := d.updDio 4 fun l => { l with pulseEnd := some 10 }
    d.rd Reg.pinsDioConfig_owner (d.rd Reg.pointsAction_line 6) = 2 ∧ (d.wr Reg.pointsAction_latch 6 1).flag Reg.pointsAction_latch 6 = true ∧
    d.flag Reg.pointsAction_latch 6 = false ∧ ready (.dioPulseEnd 4) (on { pulse with now := 10 }) ∧ (pulse.dioLine 4).pulseEnd = some 10 ∧
    (d.dioLine 4).pulseEnd = none ∧ ready (.dioInputFiltered 3 true) (on camera) ∧ (camera.dioLine 3).level = false ∧
    (ran (.dioPulseEnd 4) { pulse with now := 10 }).map (fun e => (e.dioLine 4).pulseEnd) = some none ∧
    (ran (.dioPulseEnd 4) { pulse with now := 9 }).map (fun e => (e.dioLine 4).pulseEnd) = some (some 10) ∧
    (ran (.dioInputFiltered 3 true) camera).map (fun e => e.rd Reg.pinsDioEdges 3) = some 1 := by decide +kernel

theorem witness_EgressAndPins_buses :
    let can := camera.wr Reg.pinsCanEnable 0 1
    let off := can.wr Reg.pinsCanState_state 0 3
    let frame : CanFrame := { identifier := 5, extended := false, data := [1#8] }
    let words := 0x0800 :: List.replicate 7 0
    ready .canBusOff (on can) ∧ can.flag Reg.pinsCanEnable = true ∧ can.rd Reg.pinsCanState_state ≠ 3 ∧ camera.flag Reg.pinsCanEnable = false ∧
    off.rd Reg.pinsCanState_state = 3 ∧ ready .canBusOffRecovery (on off) ∧ ready (.canFrameTransmitted true) (on can) ∧ wireFollows (on can) ∧
    ({ can with canEvents := [frame] } : Dev).canEvents = [frame] ∧ ready (.pmbAlert words) (on camera) ∧
    (camera.wr Reg.powerVrmPage_enable 0 1).flag Reg.powerVrmPage_enable 0 = true ∧ (∀ i ∈ List.range 8, (camera.flag Reg.powerVrmPage_enable i) = false) ∧
    ready .extest (on { camera with perstLow := true }) ∧ ready .clamp (on camera) ∧ ready .highz (on camera) ∧ ready .samplePreload (on camera) ∧
    ready (.bypass 0x02) (on camera) ∧ ready .bootstat (on camera) ∧
    (ran .canBusOff can).map (fun e => (e.rd Reg.pinsCanState_state, e.lasting.length)) = some (3, 1) ∧
    (ran (.canFrameTransmitted true) { can with canSegments := [frame] }).map (fun e => e.sent) = some [.canSegment 5 [1#8]] ∧
    (ran (.pmbAlert words) (camera.wr Reg.powerVrmPage_enable 0 1)).map (fun e => e.rd Reg.pinsPmbusStatus_status 0) = some 0x0800 ∧
    (ran .extest { camera with perstLow := true }).map (fun e => e.tap) = some 0 ∧ (ran .extest camera).map (fun e => e.tap) = some 0xFF := by decide +kernel

/-! ### Pools and LPDDR6 -/

/-- Every entry of the remap names a physical rank of its own. -/
def mapped : Dev :=
  (List.range 64).foldl (fun d k => (d.wr Reg.lpddr6Remap_channel k (k / 2)).wr Reg.lpddr6Remap_rank k (k % 2)) (withPool camera 5 0x200000 4096)

theorem witness_PoolsAndRanks_pools :
    let take := withCommand mapped (fetched 0x1401 0xFFFF ([5#8, 0#8, 0#8, 0#8] ++ leBytes 4 4096))
    let give := withCommand (mapped.alloc 5 4096 0xFFFF).2 (fetched 0x1402 0xFFFF (leBytes 8 0x200000))
    let ring (n : Nat) : Dev := (mapped.wr (Reg.sidingsPoolConfig_count 0) 5 1000).setPool 5 { on := true, ring := n }
    ready (.poolAlloc 3 0 []) (on take) ∧ (take.takeCommand 3 0 0x1401).isSome = true ∧ (take.pool 5).on = true ∧ (take.pool 6).on = false ∧
    (take.alloc 5 4096 0xFFFF).1 = .ok 0x200000 ∧ (take.alloc 5 4097 0xFFFF).1 = .fail 0x80 ∧ take.cellChain 5 = false ∧
    ready (.poolFree 3 0 []) (on give) ∧ (give.takeCommand 3 0 0x1402).isSome = true ∧ give.poolHolding 0x200000 = some 5 ∧ give.poolHolding 0x201000 = none ∧
    (give.freeOne 5 0x200000).1 = none ∧ ready (.freeRingRefill 5 []) (on (ring 63)) ∧ ((ring 63).checkControl 5).pool 5 = (ring 63).pool 5 ∧
    (ran (.poolAlloc 3 0 []) take).map record = some (some (0, 0x2000)) ∧ (ran (.poolFree 3 0 []) give).map record = some (some (0, 1)) ∧
    [63, 64, 224, 225].map (fun n => (ran (.freeRingRefill 5 []) (ring n)).map fun e => (e.pool 5).ring) = [some 191, some 64, some 224, some 97] := by
  decide +kernel

theorem witness_PoolsAndRanks_map :
    (∀ k ∈ List.range 60, ∀ j ∈ List.range 60, mapped.rd Reg.lpddr6Remap_channel k = mapped.rd Reg.lpddr6Remap_channel j →
      mapped.rd Reg.lpddr6Remap_rank k = mapped.rd Reg.lpddr6Remap_rank j → k = j) ∧ 0xFF < lpddrEnd ∧
    mapped.dramPlace 0 = mapped.dramPlace 0xFF ∧ mapped.dramPlace 0 ≠ mapped.dramPlace 0x100 := by decide +kernel

theorem witness_PoolsAndRanks_ranks :
    let r (n : Nat) : Dev := mapped.setRank 7 { postponed := n }
    let retire := withCommand mapped (fetched 0x1501 0xFFFF [59#8])
    let queued : Dev := { mapped with lp := { mapped.lp with queued := [(59, 63)] } }
    let moving : Dev := { mapped with lp := { mapped.lp with current := some { rank := 59, target := 63, written := [5] } } }
    ready (.refreshDue 7 true) (on (r 7)) ∧ ready (.refreshMakeUp 7 9) (on (r 8)) ∧ ready (.rankTemperatureRead 7 86) (on (r 0)) ∧
    ready (.rankRetire 3 0) (on retire) ∧ (retire.takeCommand 3 0 0x1501).isSome = true ∧ retire.rankBusy 59 = false ∧ retire.freeSpares = [60, 61, 62, 63] ∧
    queued.rankBusy 59 = true ∧ ((List.range 64).foldl (fun d k => d.wr Reg.lpddr6Remap_state k 1) retire).freeSpares = [] ∧
    ready .migrationStart (on queued) ∧ queued.lp.current = none ∧ ready (.migrationDone [6]) (on moving) ∧ moving.contexts = [] ∧ 6 ∉ [5] ∧
    [7, 8].map (fun n => (ran (.refreshDue 7 true) (r n)).map fun e => (e.rank 7).postponed) = [some 8, some 8] ∧
    (ran (.refreshMakeUp 7 9) (r 8)).map (fun e => (e.rank 7).postponed) = some 0 ∧
    [85, 86].map (fun t => (ran (.rankTemperatureRead 7 t) (r 0)).map fun e => (e.rank 7).interval) = [some 3904, some 1952] ∧
    (ran (.rankRetire 3 0) retire).map (fun e => (record e, e.lp.queued)) = some (some (0, 0), [(59, 60)]) ∧
    (ran .migrationStart queued).map (fun e => e.rd Reg.lpddr6Remap_state 59) = some 2 ∧
    (ran (.migrationDone [5, 6]) moving).map (fun e => (e.rd Reg.lpddr6Remap_channel 59, e.rd Reg.lpddr6Remap_channel 63, e.poison.length)) =
      some (31, 29, 1) := by decide +kernel

/-! ### Power, the rail and heat -/

/-- The cap cut worked in 16: at P1, at P3, and once best-effort steps have drained (R482, R484). -/
theorem test_cap_cut :
    bubbleTargets (16150 / 100) 100 0 0 (5250 / 100) 14 = (60, 57) ∧ bubbleTargets (11723 / 100) 100 0 0 (1755 / 100) (468 / 100) = (60, 11) ∧
    bubbleTargets (10368 / 100) 100 0 0 4 (468 / 100) = (59, 0) ∧ bubbleTargets 100 100 0 0 4 4 = (0, 0) := by decide +kernel

theorem witness_PowerControl :
    let x := Domain.engine .decode 3
    let wake : Dev := { camera.updDomain x (fun _ => { readyAt := some 40 }) with now := 40 }
    let idle : Dev := { camera.updDomain x (fun _ => { running := true, powered := true, idleSince := some 0 }) with now := 100000 }
    let change (q : Nat) : Dev := camera.updPw fun p => { p with changeTo := some q }
    let lapsing : Dev := { camera.wr Reg.powerCapLeaseMs 0 100 with now := 312500 }
    ready (.gaugeEpoch [] []) (on camera) ∧ (0 : Rat) ≤ 4 ∧ ready (.domainReady ⟨x, true⟩) (on wake) ∧ (wake.domain x).readyAt = some 40 ∧
    ready (.idleClockStop x) (on idle) ∧ (idle.domain x).running = true ∧ idle.domainWork x = none ∧ idle.standby x = false ∧
    ((idle.domain x).idleSince.any fun t => t * 8 + idle.rd Reg.powerIdleOffUs * 25 ≤ idle.now * 8) = true ∧
    idle.pw.fits (ratOf idle.pw.pred - idle.wakeStep x) = true ∧
    (idle.updPw fun p => { p with hist := [0x42C80000] }).pw.fits (ratOf idle.pw.pred - idle.wakeStep x) = false ∧
    ready (.operatingPointChange true) (on (change 0)) ∧ (change 0).pw.changeTo = some 0 ∧ (change 0).point = 0 ∧ (change 3).point < 3 ∧
    ready .leaseExpiry (on lapsing) ∧ lapsing.pw.leaseFrom + lapsing.rd Reg.powerCapLeaseMs * 3125 ≤ lapsing.now ∧
    lapsing.flag Reg.powerOpState_leaseLapsed = false ∧ ready (.demandPublish 0x3F800000) (on camera) ∧
    (ran (.domainReady ⟨x, true⟩) wake).map (fun e => (e.domain x).running) = some true ∧
    (ran (.domainReady ⟨x, true⟩) { wake with now := 39 }).map (fun e => (e.domain x).running) = some false ∧
    (ran .leaseExpiry lapsing).map (fun e => (e.flag Reg.powerOpState_leaseLapsed, e.lasting.length)) = some (true, 1) ∧
    (ran .leaseExpiry { lapsing with now := 312499 }).map (fun e => e.flag Reg.powerOpState_leaseLapsed) = some false ∧
    (ran (.operatingPointChange true) (change 3)).map (fun e => e.point) = some 3 := by decide +kernel

/-- The random engine's health as its domain switches on (R275). -/
theorem witness_PowerControl_random :
    let off : Dev := { camera.updDomain .random (fun _ => { readyAt := some 40 }) with now := 40 }
    ready (.domainReady ⟨.random, false⟩) (on off) ∧ (off.domain .random).powered = false ∧
    [true, false].map (fun g => (ran (.domainReady ⟨.random, g⟩) off).map fun e => (e.flag Reg.randomSelftest, e.attentionBit Bit.fault)) =
      [some (true, false), some (false, true)] := by decide +kernel

theorem witness_PowerControl_measured :
    let pages := (camera.wr Reg.powerVrmPage_enable 2 1).wr Reg.powerVrmPage_sum 2 1
    let fit (op : Byte) (n : Nat) : Dev :=
      withCommand (camera.updPw fun p => { p with readings := List.replicate n (0x42C80000, 0x42960000) }) (fetched 0x1601 0xFFFF [op])
    ready (.vrmRead [(2, 0x42C80000)]) (on pages) ∧ pages.summedPages = [2] ∧ camera.summedPages = [] ∧ (∀ e ∈ [(3, 0)], e.1 ≠ 2) ∧
    ready (.powerRecalibrateFit 3 0) (on (fit 0#8 64)) ∧ ((fit 0#8 64).takeCommand 3 0 0x1601).isSome = true ∧ (fit 0#8 64).pw.readings.length = 64 ∧
    (fit 0#8 63).pw.readings.length < 64 ∧ 0 < sumRat ((fit 0#8 64).pw.readings.map fun e => ratOf e.2) - 64 * camera.watts Reg.powerEstimateOffset ∧
    ready (.powerRecalibrateEnd 3 0) (on (fit 1#8 0)) ∧
    (ran (.vrmRead [(2, 0x42C80000)]) pages).map (fun e => (e.rd Reg.powerEstimate_pMeas, e.pw.disagree)) = some (0x42C80000, 1) ∧
    (ran (.powerRecalibrateFit 3 0) (fit 0#8 64)).map (fun e => ((record e).map Prod.fst, e.rd Reg.powerEstimateGain)) = some (some 0, 0x3FAAAAAB) ∧
    (ran (.powerRecalibrateFit 3 0) (fit 0#8 63)).map record = some (some (0x80, 0)) ∧
    (ran (.powerRecalibrateEnd 3 0) (fit 1#8 0)).map record = some (some (0, 0)) := by decide +kernel

/-- A device whose rails have their trimmed voltages at nominal, with a margin of 25 mV. -/
def railed : Dev := ((camera.wr Reg.powerAvsState_v0 0 600).wr Reg.powerAvsState_margin 0 25).updPw fun p => { p with rail := 600, slackOk := 99 }
def slacks (n : Int) : List Int := n :: List.replicate 95 100

theorem witness_RailAndHeat :
    let cold : List Int := List.replicate 72 480
    let aged := railed.wr Reg.powerAvsState_hours 0 8760
    ready (.avsTrim (slacks (-1)) true) (on railed) ∧ (-1 : Int) ∈ slacks (-1) ∧ (∀ x ∈ slacks (-1), (-1 : Int) ≤ x) ∧ railed.rd (pointVt railed.point) = 600 ∧
    railed.rd Reg.powerAvsState_margin = 25 ∧ ready .marginNarrowing (on aged) ∧ aged.pw.quietFrom + 8760 ≤ aged.rd Reg.powerAvsState_hours ∧
    ready .voltageDailyRecord (on { railed with now := 270000000000 }) ∧ ready (.thermalSample cold) (on railed) ∧
    ready (.thermalTrip 3) (on railed) ∧ 3 ∉ railed.pw.failed ∧ railed.pw.tripped = false ∧
    [(-1), 0, 24, 25, 39, 40].map (fun n => (ran (.avsTrim (slacks n) true) railed).map fun e => (e.rd Reg.powerAvsState_v0, e.pw.slackOk)) =
      [some (600, 0), some (600, 0), some (600, 0), some (600, 0), some (600, 0), some (595, 100)] ∧
    (ran (.avsTrim (slacks (-1)) true) railed).map (fun e => e.rd Reg.powerAvsState_margin) = some 35 ∧
    (ran .marginNarrowing aged).map (fun e => e.rd Reg.powerAvsState_margin) = some 20 ∧
    (ran (.thermalTrip 3) railed).map (fun e => (e.pw.tripped, e.sent.contains .thermTrip)) = some (true, true) := by decide +kernel

/-- A sensor at both ends of its range (R506), and the hottest one. -/
theorem witness_RailAndHeat_sensors :
    [(-641), (-640), 2400, 2401].map (fun v => (railed.takeSensor 5 v).rd Reg.thermalSensor 5) = [0x8000, 0xFD80, 2400, 0x8000] ∧
    (railed.takeSensor 5 2401).pw.failed = [5] ∧ railed.pw.sensors.find? 5 = none ∧
    (((railed.takeSensor 5 800).takeSensor 6 900).hottestOf (List.range 72)).map (·.1) = some 6 := by decide +kernel

/-! ### Coupling ports, boot and trust -/

/-- Device 0, with its port to device 1 up. -/
def coupled : Dev := camera.wr Reg.couplingPortState_state 0 2
/-- A message stands next on that port. -/
def hearing (m : CouplingMessage) : Dev := coupled.updCoup 0 fun x => { x with inbox := [m] }

theorem witness_CouplingPorts :
    let lanes := (coupled.wr Reg.couplingPortState_lanes 0 0xFF)
    let bad := coupled.updCoup 0 fun x => { x with badRun := 7 }
    ready (.codeBlockReceived 0 true 3 [.cancel 5]) (on coupled) ∧ ready (.codeBlockReceived 0 false 3 []) (on coupled) ∧ coupled.portIsUp 0 = true ∧
    camera.portIsUp 0 = false ∧ isNotice (.cancel 5) = false ∧ (coupled.coupPort 0).badRun < 7 ∧ 7 ≤ (bad.coupPort 0).badRun ∧
    ready (.laneRepair 0 7) (on lanes) ∧ (lanes.rd Reg.couplingPortState_lanes 0).testBit 7 = true ∧ (lanes.rd Reg.couplingPortState_lanes 0).testBit 8 = false ∧
    lanes.flag Reg.couplingPortState_spareUsed 0 = false ∧ (lanes.setFlag Reg.couplingPortState_spareUsed 0 true).flag Reg.couplingPortState_spareUsed 0 = true ∧
    ready (.blockLockLoss 0) (on coupled) ∧ coupled.waiters = [] ∧ coupled.remoteWaits = [] ∧ ready (.resetNotice 0) (on coupled) ∧
    (hearing .resetNotice).nextMessage 0 .control = some .resetNotice ∧ coupled.nextMessage 0 .control ≠ some .resetNotice ∧
    (ran (.codeBlockReceived 0 true 3 [.cancel 5]) coupled).map (fun e => (e.coupPort 0).inbox) = some [.cancel 5] ∧
    [coupled, bad].map (fun d => (ran (.codeBlockReceived 0 false 3 []) d).map fun e => e.portState 0) = [some 2, some 4] ∧
    (ran (.laneRepair 0 7) lanes).map (fun e => e.rd Reg.couplingPortState_lanes 0) = some 0x17F := by decide +kernel

theorem witness_CouplingPorts_training :
    let training := camera.wr Reg.couplingPortState_state 0 1
    let down (bad : List Nat) : Dev := { (camera.wr Reg.couplingPortState_state 0 4).updCoup 0 fun x => { x with badLanes := bad } with now := 312500000 }
    let i := camera.rd Reg.couplingSystem_identifier
    let z := camera.rd Reg.couplingSystem_size
    ready (.portTrained 0 i z 1) (on training) ∧ training.portState 0 = 1 ∧ 1 = (training.ownNumber + 0 + 1) % 4 ∧ 2 ≠ (training.ownNumber + 0 + 1) % 4 ∧
    ¬(camera.portState 0 = 1 ∨ camera.portState 0 = 3 ∨ camera.portState 0 = 4) ∧ ready (.portTrainRetry 0) (on (down [])) ∧
    (down []).portState 0 = 4 ∧ ((down []).coupPort 0).resuming = false ∧ ((down []).coupPort 0).lastTry + secondTicks ≤ (down []).now ∧
    [1, 2].map (fun n => (ran (.portTrained 0 i z n) training).map fun e => e.portState 0) = [some 2, some 3] ∧
    [[], [3], [3, 5]].map (fun b => (ran (.portTrainRetry 0) (down b)).map fun e => (e.portState 0, e.flag Reg.couplingPortState_spareUsed 0)) =
      [some (1, false), some (1, true), some (4, false)] := by decide +kernel

theorem witness_CouplingPorts_credits :
    let d := coupled.updCoup 0 fun x => { x with control := 0, waiting := [.cancel 5] }
    let w : Waiter := { who := .remote 1 9, need := 4, boosts := false }
    ready (.creditReturn 0 .control) (on d) ∧ d.portIsUp 0 = true ∧ (d.coupPort 0).waiting = [.cancel 5] ∧ msgClass (.cancel 5) = .control ∧
    (d.coupPort 0).credit .control = 0 ∧ (coupled.coupPort 0).credit .control ≠ 0 ∧ (coupled.coupPort 0).waiting = [] ∧
    ((coupled.setCounterQueue 261 [w]).withdraw fun _ => false).counterQueue 261 = [w] ∧
    (ran (.creditReturn 0 .control) d).map (fun e => ((e.coupPort 0).waiting, e.sent.contains (.coupling 0 (.cancel 5)))) = some ([], true) := by
  decide +kernel

theorem witness_CouplingMessages :
    let holder (m : CouplingMessage) : Dev := { hearing m with contexts := [(1, idleContext)] }
    let w : Waiter := { who := .remote 1 9, need := 4, boosts := false }
    let boosting := (holder (.boost 1 5)).setCounterQueue 261 [w]
    ready (.remoteSignal 0) (on (holder (.signal 1 5 2))) ∧ (holder (.signal 1 5 2)).nextMessage 0 .signal = some (.signal 1 5 2) ∧
    (hearing (.signal 1 5 2)).ctx? 1 = none ∧ ((holder (.signal 1 5 2)).ctx? 1).isSome = true ∧ coupled.nextMessage 0 .signal = none ∧
    ready (.remoteWait 0) (on (holder (.wait 9 1 5 4))) ∧ (holder (.wait 9 1 5 4)).nextMessage 0 .signal = some (.wait 9 1 5 4) ∧
    ready (.cancel 0) (on (holder (.cancel 9))) ∧ (holder (.cancel 9)).nextMessage 0 .control = some (.cancel 9) ∧
    ready (.boostRequest 0) (on boosting) ∧ boosting.nextMessage 0 .control = some (.boost 1 5) ∧
    ((boosting.takeMessage 0 (.boost 1 5)).counterQueue 261) = [w] ∧ (boosting.ctx? 1).map Context.latency = some false ∧ (1, 5) ∉ boosting.boosted ∧
    (ran (.remoteSignal 0) (holder (.signal 1 5 2))).map (fun e => e.rd Reg.signalCounterState_count 261) = some 2 ∧
    (ran (.remoteWait 0) (holder (.wait 9 1 5 4))).map (fun e => e.counterQueue 261) = some [w] ∧
    (ran (.remoteWait 0) (hearing (.wait 9 1 5 4))).map (fun e => e.sent.contains (.coupling 0 (.release 9 0x80))) = some true ∧
    (ran (.cancel 0) ((holder (.cancel 9)).setCounterQueue 261 [w])).map (fun e => e.counterQueue 261) = some [] ∧
    (ran (.boostRequest 0) boosting).map Dev.boosted = some [(1, 5)] := by decide +kernel

/-- The entry of context 1 waits for a counter of device 1 under number 9. -/
theorem witness_CouplingMessages_grant :
    let rw : RemoteWait := { id := 9, device := 1, context := 1, step := 7, pos := 0 }
    let waits (m : CouplingMessage) (ws : List RemoteWait) : Dev :=
      { withEntry (hearing m) 1 (fun f => { f with state := .placed, wait := some { counter := 240, need := 4, remote := some 9 } }) with remoteWaits := ws }
    ready (.grant 0) (on (waits (.grant 9) [rw])) ∧ (waits (.grant 9) [rw]).nextMessage 0 .signal = some (.grant 9) ∧
    (((waits (.grant 9) [rw]).takeMessage 0 (.grant 9)).remoteWaits.find? fun w => w.id == 9 && w.device == 1) = some rw ∧
    (waits (.release 9 0x32) [rw]).nextMessage 0 .signal = some (.release 9 0x32) ∧ (waits (.release 9 0x32) [rw]).waitsRemotely rw = true ∧
    (hearing (.release 9 0x32)).waitsRemotely rw = false ∧
    (ran (.grant 0) (waits (.grant 9) [rw])).map (fun e => (e.entry? 1 7 0).map fun x => x.wait.map Armed.met) = some (some (some true)) ∧
    (ran (.grant 0) (waits (.grant 9) [])).map (fun e => (e.entry? 1 7 0).map fun x => x.wait.map Armed.met) = some (some (some false)) ∧
    (ran (.grant 0) (waits (.release 9 0x32) [rw])).map (fun e => (e.remoteWaits, (e.ctx? 1).map fun x => x.steps.length)) = some ([], some 0) := by decide +kernel

/-- A transfer of one unit to device 1, naming no counter. -/
def unitRecord (device : Nat) : List Byte :=
  leBytes 1 12 ++ leBytes 1 device ++ leBytes 1 0 ++ zeros 1 ++ leBytes 2 0 ++ zeros 2 ++ leBytes 8 0x600000 ++ leBytes 8 0x700000 ++ leBytes 4 256 ++ zeros 4

theorem witness_CouplingMessages_transfer :
    let d := (serving 0).wr Reg.couplingPortState_state 0 2
    let unit : CouplingMessage := .unit 0x700000 256 0x700000 (zeros 256)
    let open_ := ((hearing unit).wr Reg.couplingPeerWindow_start 1 0x700000).wr Reg.couplingPeerWindow_end 1 0x700100
    ready (.transfer 2 (unitRecord 1) .completed) (on d) ∧ (d.issuing 2).isSome = true ∧ coupled.issuing 2 = none ∧
    (transferRecord (unitRecord 1)).device = 1 ∧ d.linkTo 1 = true ∧ d.linkTo 2 = false ∧ d.poisoned 0x600000 256 = false ∧
    ready (.transferUnitReceived 0) (on open_) ∧ open_.nextMessage 0 .data = some unit ∧ open_.windowHolds (open_.peerOf 0) 0x700000 256 = true ∧
    (open_.wr Reg.couplingPeerWindow_end 1 0x7000FF).windowHolds 1 0x700000 256 = false ∧ coupled.nextMessage 0 .data = none ∧
    (hearing (.transferSignal 1 5 2)).nextMessage 0 .data = some (.transferSignal 1 5 2) ∧ ((hearing unit).coupPort 0).denied = false ∧
    (ran (.transfer 2 (unitRecord 1) .completed) d).map (fun e => e.sent.contains (.coupling 0 unit)) = some true ∧
    (ran (.transfer 2 (unitRecord 2) .completed) d).map (fun e => (e.ctx? 1).map fun x => x.steps.length) = some (some 0) ∧
    ((open_.wr Reg.couplingPeerWindow_end 1 0x700200).windowHolds 1 0x700000 256 = true) ∧
    (ran (.transferUnitReceived 0) (hearing unit)).map (fun e => (e.coupPort 0).denied) = some true := by decide +kernel

theorem witness_CouplingMessages_relay :
    let r := (coupled.mailbox 1).frame
    let busy := (hearing (.relayReply (zeros 16))).setMailbox 1 { coupled.mailbox 1 with busy := true }
    let served := hearing (.relayRequest (rreq 0x000001 0 1))
    ready (.relayDoorbell 1) (on coupled) ∧ coupled.barOpen = true ∧ coupled.mailboxExists 1 = true ∧ coupled.mailboxExists 0 = true ∧
    (coupled.wr Reg.couplingDevice 0 1).mailboxExists 1 = false ∧ (coupled.mailbox 1).busy = false ∧ (busy.mailbox 1).busy = true ∧
    coupled.ep.firmwareReady = true ∧ coupled.linkTo 1 = true ∧ camera.linkTo 1 = false ∧ dark.barOpen = false ∧
    ready (.relayReplyReceived 0) (on busy) ∧ busy.nextMessage 0 .control = some (.relayReply (zeros 16)) ∧ busy.peerOf 0 ≠ 0 ∧
    ready (.relayRequestReceived 0) (on served) ∧ served.dictReady = true ∧ dark.dictReady = false ∧
    served.nextMessage 0 .control = some (.relayRequest (rreq 0x000001 0 1)) ∧
    (ran (.relayDoorbell 1) coupled).map (fun e => e.sent.contains (.coupling 0 (.relayRequest r))) = some true ∧
    (ran (.relayReplyReceived 0) busy).map (fun e => (e.mailbox 1).busy) = some false := by decide +kernel

theorem witness_BootAndTrust :
    let at_ (n : Nat) : Dev := { camera.wr Reg.bootState_stage 0 n with boot := {} }
    let job : FlashJob := { queue := 3, index := 0, erases := 1, programs := 1 }
    let working : Dev := { camera with boot := { camera.boot with job := some job } }
    ready (.bootStageComplete (.firstStage true none)) (on (at_ 0)) ∧ (at_ 0).rd Reg.bootState_failure = 0 ∧ (at_ 0).rd Reg.bootState_stage + 1 = stageOf (.firstStage true none) ∧
    (at_ 1).rd Reg.bootState_stage + 1 ≠ stageOf (.firstStage true none) ∧ (at_ 5).rd Reg.bootState_stage + 1 = stageOf .firmware ∧
    imageSigned 1 (at_ 0).boot.first0 = false ∧ imageSigned 1 (at_ 0).boot.first1 = false ∧ (at_ 5).bootSlot = none ∧
    ready (.flashStepDone true) (on working) ∧ working.boot.job = some job ∧ camera.boot.job = none ∧ job.erases ≠ 0 ∧
    (ran (.bootStageComplete (.firstStage true none)) (at_ 0)).map (fun e => (e.rd Reg.bootState_stage, e.rd Reg.bootState_failure)) = some (0, 2) ∧
    (ran (.bootStageComplete .configuration) (at_ 1)).map (fun e => e.rd Reg.bootState_stage) = some 2 ∧
    (ran (.bootStageComplete .firmware) (at_ 5)).map (fun e => e.rd Reg.bootState_failure) = some 4 ∧
    (ran (.flashStepDone true) working).map (fun e => (e.boot.job.map FlashJob.erases, e.boot.job.map FlashJob.programs)) = some (some 0, some 1) ∧
    (ran (.flashStepDone false) (withCommand working (fetched 0x1A02 0xFFFF []))).map record = some (some (0x80, 0)) := by decide +kernel

/-- That an image of the other copy or slot takes over, no test can show: the signature scheme is opaque (log entry 7). -/
theorem witness_BootAndTrust_commands :
    let d (op : Nat) (body : List Byte) : Dev := withCommand camera (fetched op 0xFFFF body [1#8, 2#8])
    let o (n : Nat) : OwnerSection := { sequence := n, minSecurity := 0, owners := [], revoked := [], values := [], bytes := [] }
    let owned : Dev := { d 0x1A05 [] with boot := { camera.boot with owner := some (o 4) } }
    let staged := d 0x1A02 (zeros 16 ++ [1#8])
    ready (.configStage 3 0 (o 5) true) (on owned) ∧ (owned.takeCommand 3 0 0x1A05).map Fetched.started = some false ∧
    (owned.takeCommand 3 0 0x1A05).map Fetched.reading = some false ∧ owned.boot.job = none ∧ owned.boot.owner.map OwnerSection.sequence = some 4 ∧
    ready (.fwStage 3 0) (on staged) ∧ (staged.takeCommand 3 0 0x1A02).map Fetched.started = some false ∧
    (staged.takeCommand 3 0 0x1A02).map (fun f => (le f.entry 8 4, (byteAt f.entry 24).testBit 0, f.data.length)) = some (0, true, 2) ∧
    (let later : Dev := { d 0x1A02 (zeros 17) with boot := { camera.boot with staging := true } }
     ready (.fwStage 3 0) (on later) ∧ (later.boot.slot (1 - later.boot.running)).bytes.length = 0 ∧
      (ran (.fwStage 3 0) later).map (fun e => e.boot.job.map fun j => (j.erases, j.programs)) = some (some (0, 1))) ∧
    (ran (.configStage 3 0 (o 4) true) owned).map record = some (some (0x85, 0)) ∧ (ran (.configStage 3 0 (o 5) false) owned).map record = some (some (0x11, 0)) ∧
    (ran (.configStage 3 0 (o 5) true) owned).map (fun e => e.boot.job.map FlashJob.erases) = some (some 4) ∧
    (ran (.fwStage 3 0) staged).map (fun e => e.boot.job.map fun j => (j.erases, j.programs)) = some (some (192, 1)) ∧
    (ran (.fwStage 3 0) (d 0x1A02 (leBytes 4 4096 ++ zeros 12 ++ [1#8]))).map record = some (some (0x85, 0)) := by decide +kernel

theorem witness_BootAndTrust_switch :
    let d (op : Nat) : Dev := withCommand camera (fetched op 0xFFFF (zeros 40))
    let drained (v : Bool) : Dev := { (d 0x1A03).wr Reg.yardState 0 2 with boot := { camera.boot with slotB := { verified := v } } }
    let switching : Dev := { d 0x1A03 with boot := { camera.boot with switching := some (3, 0) } }
    let trial : Dev := { d 0x1A04 with boot := { camera.boot with state := .trial, running := 1, trialLeft := 2 } }
    ready (.fwActivate 3 0) (on (drained true)) ∧ ((drained true).takeCommand 3 0 0x1A03).map Fetched.started = some false ∧
    (drained true).boot.switching = none ∧ (drained true).rd Reg.yardState = 2 ∧ camera.rd Reg.yardState ≠ 2 ∧ (drained true).otherCommand 3 0 = false ∧
    ((drained true).boot.slot (1 - (drained true).boot.running)).verified = true ∧ ready (.firmwareSwitchDone true) (on switching) ∧
    switching.boot.switching = some (3, 0) ∧ switching.boot.heldReset = none ∧ camera.boot.switching = none ∧ ready (.fwConfirm 3 0) (on trial) ∧
    (trial.takeCommand 3 0 0x1A04).isSome = true ∧ trial.boot.state = .trial ∧ camera.boot.state = .confirmed ∧ ready (.attest 3 0) (on (d 0x1A01)) ∧
    ((d 0x1A01).takeCommand 3 0 0x1A01).isSome = true ∧ (d 0x1A01).canMaster = true ∧ ready (.ledgerExport 3 0) (on (d 0x1A06)) ∧
    ((d 0x1A06).takeCommand 3 0 0x1A06).isSome = true ∧ dark.canMaster = false ∧ (d 0x1A01).ledger.identity = false ∧
    (ran (.fwActivate 3 0) (d 0x1A03)).map record = some (some (0x81, 0)) ∧ (ran (.fwActivate 3 0) (drained false)).map record = some (some (0x83, 0)) ∧
    (ran (.fwConfirm 3 0) trial).map (fun e => e.boot.confirmed) = some 1 ∧ (ran (.attest 3 0) (d 0x1A01)).map record = some (some (0x84, 0)) ∧
    (ran (.firmwareSwitchDone true) switching).map (fun e => (e.boot.running, e.boot.state)) = some (1, .trial) ∧
    (ran (.firmwareSwitchDone false) switching).map (fun e => (e.boot.running, e.boot.state)) = some (0, .confirmed) := by decide +kernel

end Sys2Proof.Tests
end

section
/-! SUPPORT. The object dictionary: the status word, the doorbell, requests by the mailbox and by UDP, and one element written (R39 to R47, R62 to R65). -/

namespace Sys2Proof.Machine
open Sys2Proof.Safety

/-! ### The status word (R47, R52) -/

/-- The four bytes of a status word, from the lowest. -/
theorem bits_of_four_bytes {a b c e : Nat} (ha : a < 256) (hb : b < 256) (hc : c < 256) (he : e < 256) :
    bits (a + 256 * b + 65536 * c + 16777216 * e) 0 8 = a ∧ bits (a + 256 * b + 65536 * c + 16777216 * e) 8 8 = b ∧
      bits (a + 256 * b + 65536 * c + 16777216 * e) 16 8 = c ∧ bits (a + 256 * b + 65536 * c + 16777216 * e) 24 8 = e := by
  simp only [bits, Nat.shiftRight_eq_div_pow]
  refine ⟨?_, ?_, ?_, ?_⟩ <;> omega

/-! ### The doorbell and the state word (R62, R63) -/

theorem Dev.hostDoorbell_idle {d : Dev} {m : Nat} (o : d.barOpen = true) (i : (d.mailbox m).busy = false) :
    d.hostDoorbell m = d.setMailbox m { d.mailbox m with busy := true, queued := some (d.mailbox m).frame } := by
  simp [Dev.hostDoorbell, Dev.ringDoorbell, o, i]

theorem Dev.hostDoorbell_busy {d : Dev} {m : Nat} (o : d.barOpen = true) (b : (d.mailbox m).busy = true) :
    d.hostDoorbell m = d.setMailbox m { d.mailbox m with overrun := true } := by
  simp [Dev.hostDoorbell, Dev.ringDoorbell, o, b]

theorem Dev.hostDoorbell_closed {d : Dev} {m : Nat} (o : d.barOpen = false) : d.hostDoorbell m = d.send .unsupportedRequest := by
  simp [Dev.hostDoorbell, o]

/-- The location of a mailbox's state word reads its state word. -/
theorem Dev.bar0Register_stateWord {d : Dev} {m : Nat} (w : m < 4) (x : d.mailboxExists m = true) :
    d.bar0Register (m * 0x4000 + 0x2004) = (d.mailbox m).stateWord := by
  have hq : (m * 0x4000 + 0x2004) / 0x4000 = m := by omega
  have hr : (m * 0x4000 + 0x2004) % 0x4000 = 0x2004 := by omega
  have hl : m * 0x4000 + 0x2004 < 0x10000 := by omega
  have at_ : d.mailboxAt (m * 0x4000 + 0x2004) = some (m, 0x2004) := by
    simp only [Dev.mailboxAt, hq, hr, hl, x]; rfl
  simp [Dev.bar0Register, at_]

theorem mailboxStateReadEffect_open {d : Dev} {m : Nat} (w : m < 4) (o : d.barOpen = true) (x : d.mailboxExists m = true) :
    mailboxStateReadEffect m d = (d.send (.readCompletion (leBytes 4 (d.mailbox m).stateWord) false)).setMailbox m
      { d.mailbox m with overrun := false } := by
  have same (y : Sent) : (d.send y).mailbox m = d.mailbox m := rfl
  simp [mailboxStateReadEffect, o, Dev.bar0Register_stateWord w x, x, same]

theorem mailboxStateReadEffect_closed {d : Dev} {m : Nat} (o : d.barOpen = false) :
    mailboxStateReadEffect m d = d.send .unsupportedRequest := by
  simp [mailboxStateReadEffect, o]

/-! ### Requests served (R39, R44) -/

theorem Dev.serve_refused {d : Dev} {via : Via} {r : Request} {code : Nat} (h : d.checkRequest via r = .inl code) :
    d.serve via r = { dev := d, reply := replyBytes r (d.statusWord code 0x01) [] [], performed := false } := by
  simp [Dev.serve, h]

/-- A request that passes its checks is performed as its opcode says. -/
def Dev.perform (d : Dev) (via : Via) (r : Request) (o : Obj) : Dev × List Byte :=
  if r.opcode = 1 then d.performRead r o else if r.opcode = 2 then d.performWrite via r o else d.performDescribe r o

theorem Dev.serve_passed {d : Dev} {via : Via} {r : Request} {o : Obj} (h : d.checkRequest via r = .inr o) :
    d.serve via r = { dev := (d.perform via r o).1, reply := (d.perform via r o).2, performed := true } := by
  simp [Dev.serve, Dev.perform, h]

/-- The rotation asks transport `t` last, so what waits by `t` itself does not count. -/
theorem inTurn_order_ne {t turn k : Nat} (hk : k < (t + 3 - turn) % 3) : (turn + k) % 3 ≠ t := by omega

/-- What the dictionary mailbox holds does not change whether the mailbox's turn has come. -/
theorem Dev.inTurn_setMailbox (d : Dev) (x : Mailbox) : (d.setMailbox 0 x).inTurn 0 = d.inTurn 0 := by
  have w (t : Nat) (h : t ≠ 0) : (d.setMailbox 0 x).requestWaits t = d.requestWaits t := by
    match t, h with
    | 1, _ => rfl
    | _ + 2, _ => rfl
  have e : ∀ k ∈ List.range ((0 + 3 - d.dictTurn) % 3),
      (d.setMailbox 0 x).requestWaits ((d.dictTurn + k) % 3) = d.requestWaits ((d.dictTurn + k) % 3) :=
    fun k hk => w _ (inTurn_order_ne (List.mem_range.1 hk))
  have turn : (d.setMailbox 0 x).dictTurn = d.dictTurn := rfl
  rw [Bool.eq_iff_iff, Dev.inTurn, Dev.inTurn, turn, List.all_eq_true, List.all_eq_true]
  exact forall₂_congr fun k hk => by rw [e k hk]

@[simp] theorem Dev.mailbox_setMailbox_same (d : Dev) (m : Nat) (x : Mailbox) : (d.setMailbox m x).mailbox m = x := by
  simp [Dev.mailbox, Dev.setMailbox]

/-- An idle mailbox serves its request on the device as the doorbell left it (R63). -/
theorem Dev.byMailbox_idle {d : Dev} {r : Request} (h : mailboxIdle d) (e : mailboxRequest r = r) :
    d.byMailbox r = ((rung d r).serve .mailbox r).dev.completeMailbox 0 ((rung d r).serve .mailbox r).reply := by
  obtain ⟨o, ready, idle, turn⟩ := h
  have ready' (x : Mailbox) : (d.setMailbox 0 x).dictReady = true := ready
  simp [Dev.byMailbox, e, idle, o, ready', Dev.inTurn_setMailbox, turn, rung]

/-- Every row that is a dictionary request has the effect of the request. -/
theorem exec_requestRow {row : Via → Request → Instr} (h : row ∈ requestRows) (v : Via) (r : Request) (s : State) :
    exec (row v r) s = act (row v r) (requestEffect v r) s := by
  simp only [requestRows, List.mem_cons, List.not_mem_nil, or_false] at h
  rcases h with rfl | rfl | rfl | rfl | rfl | rfl | rfl | rfl | rfl | rfl | rfl | rfl | rfl | rfl | rfl | rfl | rfl | rfl | rfl | rfl | rfl <;>
    rfl

/-- A request row by an idle mailbox leads where serving the request does. -/
theorem leads_requestRow {row : Via → Request → Instr} (h : row ∈ requestRows) {s : State} {r : Request}
    (w : ready (row .mailbox r) s) (i : mailboxIdle s.dev) (e : mailboxRequest r = r) :
    leads (row .mailbox r) s (((rung s.dev r).serve .mailbox r).dev.completeMailbox 0 ((rung s.dev r).serve .mailbox r).reply) :=
  leads_of (exec_requestRow h .mailbox r s) w (Dev.byMailbox_idle i e)

/-! ### One element written (R40 to R43) -/

theorem writeOrder_one (o : Obj) (value : Nat → Nat) : writeOrder o 1 value = [0] := by
  unfold writeOrder
  by_cases h : value 0 = 0 <;> simp [List.range_succ, h]

/-- One element written: it is clamped, and its block takes what was stored. -/
theorem Dev.writeElems_one (d : Dev) (o : Obj) (sub : Nat) (payload : List Byte) :
    let c := d.clampElem o sub 0 (leNat (payload.take o.info.size))
    d.writeElems 1 o sub payload = (d.storeElem o sub c.1 c.2.1, c.2.2) := by
  simp [Dev.writeElems, writeOrder_one, Dev.writeEach, List.range_succ, Tbl.getD, Tbl.find?]

/-- A write of one element without CHECK_ONLY: the element stored, and CLAMPED raised with the clamp object filled when a field was
clamped. -/
theorem Dev.performWrite_one {d : Dev} {via : Via} {r : Request} {o : Obj} (hf : r.flags = 0) (hn : r.count = 1) :
    let c := d.clampElem o r.sub 0 (leNat (r.payload.take o.info.size))
    let e := d.storeElem o r.sub c.1 c.2.1
    let f := if c.2.2 = [] then e else (e.attend { bit := Bit.clamped, code := 1, area := o.area }).keepClamps via r c.2.2
    d.performWrite via r o = (f, replyBytes r (f.resultWord (if c.2.2 = [] then 0 else 1) o.area) [] c.2.2) := by
  intro c e f
  have w : d.writeElems r.count o r.sub r.payload = (e, c.2.2) := by rw [hn]; exact Dev.writeElems_one d o r.sub r.payload
  by_cases h : c.2.2 = [] <;> simp [Dev.performWrite, w, hf, h, f, b2n]

/-- A row that writes an object is a dictionary request, and what it says of its block is what storing an element of its object does. -/
theorem storeRow_spec {row : StoreRow} (h : row ∈ storeRows) :
    row.row ∈ requestRows ∧ ∀ d i asked v, d.storeElem row.obj i asked v = row.op d i asked v := by
  simp only [storeRows, List.mem_cons, List.not_mem_nil, or_false] at h
  rcases h with rfl | rfl | rfl | rfl | rfl | rfl | rfl | rfl | rfl | rfl | rfl | rfl | rfl | rfl | rfl | rfl | rfl | rfl | rfl
  all_goals
    dsimp only
    exact ⟨by simp [requestRows], fun _ _ _ _ => rfl⟩

/-! ### Datagrams (R44, R64, R65) -/

/-- A kept reply is sent again, and nothing is performed (R65). -/
theorem Dev.byUdp_kept {d : Dev} {port family source sourcePort e : Nat} {r : Request} {k : Kept}
    (h : ((d.kept.getD e []).find? fun k => k.sourcePort == sourcePort && k.tag == r.tag) = some k) :
    d.byUdp port family source sourcePort e r = d.sendUdp port source sourcePort (d.rd Reg.dictionaryUdpPort) k.reply := by
  simp [Dev.byUdp, h]

/-- A request that matches no kept reply is served; a performed one joins the element's last four (R65). -/
theorem Dev.byUdp_served {d : Dev} {port family source sourcePort e : Nat} {r : Request}
    (h : ((d.kept.getD e []).find? fun k => k.sourcePort == sourcePort && k.tag == r.tag) = none) :
    let x := d.serve (.udp port family source sourcePort e) r
    d.byUdp port family source sourcePort e r = Dev.sendUdp
      (if x.performed then
        { x.dev with kept := x.dev.kept.put e (({ sourcePort, tag := r.tag, reply := x.reply } :: d.kept.getD e []).take 4) }
      else x.dev) port source sourcePort (d.rd Reg.dictionaryUdpPort) x.reply := by
  simp [Dev.byUdp, h]

theorem Dev.takeDictDatagram_dropped {d : Dev} {x : Datagram}
    (h : d.sourceElement x.family x.source = none ∨ d.dictReady = false ∨ x.data.length < 16) :
    d.takeDictDatagram x = d.count Reg.dictionaryUdpDropped := by
  unfold Dev.takeDictDatagram
  split
  · next e he =>
    rcases h with h | h | h
    · simp [h] at he
    · simp [h]
    · simp [Nat.not_le.2 h]
  · rfl

theorem Dev.takeDictDatagram_admitted {d : Dev} {x : Datagram} {e : Nat} (hs : d.sourceElement x.family x.source = some e)
    (hr : d.dictReady = true) (hl : 16 ≤ x.data.length) :
    d.takeDictDatagram x =
      if d.inTurn 1 then (d.turned 1).byUdp x.port x.family x.source x.sourcePort e (parseRequest x.data)
      else { d with dictWaiting := d.dictWaiting ++ [x] } := by
  simp [Dev.takeDictDatagram, hs, hr, hl]

/-- Where the dictionary answers UDP on a port that is on, a datagram is taken with its waiting copy, if any, gone. -/
theorem dictUdpDatagramEffect_on {d : Dev} {port family source sourcePort : Nat} {data : List Byte}
    (hu : d.flag Reg.dictionaryUdpEnable = true) (hp : d.portOn port = true) :
    dictUdpDatagramEffect port family source sourcePort data d =
      Dev.takeDictDatagram { d with dictWaiting := d.dictWaiting.erase { port, family, source, sourcePort, data } }
        { port, family, source, sourcePort, data } := by
  have hu' (l : List Datagram) : ({ d with dictWaiting := l } : Dev).flag Reg.dictionaryUdpEnable = true := hu
  have hp' (l : List Datagram) : ({ d with dictWaiting := l } : Dev).portOn port = true := hp
  simp [dictUdpDatagramEffect, hu', hp']

end Sys2Proof.Machine
end

section
/-! SUPPORT. Fields written, and the attention log: what one event and one acknowledgement record (R53 to R56), and what they leave alone. -/

namespace Sys2Proof.Machine

/-! ### Reading after a write -/

/-- A field reads what was last written to it, and as before where another field or element was written. -/
theorem Dev.rd_wr (d : Dev) (r p : Reg) (i j v : Nat) : (d.wr r i v).rd p j = if r = p ∧ i = j then v else d.rd p j := by
  obtain ⟨o, off⟩ := r
  obtain ⟨o', off'⟩ := p
  by_cases h : (⟨o, off⟩ : Reg) = ⟨o', off'⟩ ∧ i = j
  · obtain ⟨hr, rfl⟩ := h
    rw [hr]; simp
  · rw [if_neg h]
    refine d.rd_wr_ne _ _ i j v fun k => h ?_
    simp only [RegKey.mk.injEq] at k
    simp [k]

/-- Writing a field leaves the fields of other objects alone. -/
theorem Dev.rd_wr_obj_ne (d : Dev) (r : Reg) (i v : Nat) {o : Obj} (h : r.obj ≠ o) (off j : Nat) :
    (d.wr r i v).rd ⟨o, off⟩ j = d.rd ⟨o, off⟩ j :=
  d.rd_wr_ne r _ i j v fun k => h (congrArg RegKey.obj k)

/-- What a field reads depends on the objects' fields alone. -/
theorem Dev.rd_of_regs {d e : Dev} (h : e.regs = d.regs) (r : Reg) (i : Nat) : e.rd r i = d.rd r i := by simp only [Dev.rd, h]

/-- A status word depends on the attention bits and the log's head alone. -/
theorem Dev.statusWord_congr {d e : Dev} (ha : e.attention = d.attention)
    (hh : e.rd Reg.dictionaryAttentionLogHead = d.rd Reg.dictionaryAttentionLogHead) (code area : Nat) :
    e.statusWord code area = d.statusWord code area := by simp only [Dev.statusWord, ha, hh]

/-! ### Attention bits -/

/-- The attention bits with one more set. -/
theorem getLsbD_set_bit (a : BitVec 8) {b c : Nat} (hb : 8 ≤ b) (hc : 8 ≤ c) (hc' : c ≤ 15) :
    (a ||| (1#8 <<< (b - 8))).getLsbD (c - 8) = (a.getLsbD (c - 8) || decide (c = b)) := by
  have : c - 8 < 8 := by omega
  simp only [BitVec.getLsbD_or, BitVec.getLsbD_shiftLeft, BitVec.getLsbD_one, this]
  congr 1
  by_cases h : c = b
  · simp [h]
  · simp [h]; omega

/-- A bit taken out of the attention bits. -/
theorem getLsbD_clear_bit (a : BitVec 8) {b : Nat} (hb : 8 ≤ b) (hb' : b ≤ 15) :
    (a &&& ~~~(1#8 <<< (b - 8))).getLsbD (b - 8) = false := by
  have : b - 8 < 8 := by omega
  simp [this]

/-! ### Entries of the attention log -/

/-- The seven fields of a log entry, or of a bit's latest cause, written at element `i` of an object (R53). -/
def Dev.putEntry (d : Dev) (o : Obj) (i h kind : Nat) (c : Cause) : Dev :=
  ((((((d.wr ⟨o, 0⟩ i h).wr ⟨o, 32⟩ i (d.statusWord c.code c.area)).wr ⟨o, 64⟩ i c.bit).wr ⟨o, 72⟩ i kind).wr
    ⟨o, 80⟩ i c.context).wr ⟨o, 96⟩ i c.stream).wr ⟨o, 112⟩ i (c.detail % 65536)

@[simp] theorem Dev.putEntry_attention (d : Dev) (o : Obj) (i h kind : Nat) (c : Cause) :
    (d.putEntry o i h kind c).attention = d.attention := by simp [Dev.putEntry]

theorem Dev.rd_putEntry_same (d : Dev) (o : Obj) (i h kind : Nat) (c : Cause) :
    (d.putEntry o i h kind c).rd ⟨o, 0⟩ i = h ∧ (d.putEntry o i h kind c).rd ⟨o, 32⟩ i = d.statusWord c.code c.area ∧
    (d.putEntry o i h kind c).rd ⟨o, 64⟩ i = c.bit ∧ (d.putEntry o i h kind c).rd ⟨o, 72⟩ i = kind ∧
    (d.putEntry o i h kind c).rd ⟨o, 80⟩ i = c.context ∧ (d.putEntry o i h kind c).rd ⟨o, 96⟩ i = c.stream ∧
    (d.putEntry o i h kind c).rd ⟨o, 112⟩ i = c.detail % 65536 := by
  simp [Dev.putEntry, Dev.rd_wr]

theorem Dev.rd_putEntry_ne (d : Dev) {o p : Obj} {i j : Nat} (h kind : Nat) (c : Cause) (off : Nat) (n : o ≠ p ∨ i ≠ j) :
    (d.putEntry o i h kind c).rd ⟨p, off⟩ j = d.rd ⟨p, off⟩ j := by
  have miss (a : Nat) : ¬((⟨o, a⟩ : Reg) = ⟨p, off⟩ ∧ i = j) := by
    rintro ⟨hr, hi⟩
    injection hr with ho _
    exact n.elim (fun k => k ho) (fun k => k hi)
  simp only [Dev.putEntry, Dev.rd_wr, miss, if_false]

/-- The device with the log's head moved on by one entry (R53, R58). -/
def Dev.advanceLog (d : Dev) : Dev :=
  Dev.wr { d with logWrapped := d.logWrapped || d.rd Reg.dictionaryAttentionLogHead + 1 == 2 ^ 32 } Reg.dictionaryAttentionLogHead 0
    ((d.rd Reg.dictionaryAttentionLogHead + 1) % 2 ^ 32)

@[simp] theorem Dev.advanceLog_attention (d : Dev) : d.advanceLog.attention = d.attention := rfl

theorem Dev.rd_advanceLog_head (d : Dev) :
    d.advanceLog.rd Reg.dictionaryAttentionLogHead = (d.rd Reg.dictionaryAttentionLogHead + 1) % 2 ^ 32 := Dev.rd_wr_same _ _ _ _

theorem Dev.rd_advanceLog_ne (d : Dev) {o : Obj} (n : o ≠ .dictionaryAttentionLogHead) (off i : Nat) :
    d.advanceLog.rd ⟨o, off⟩ i = d.rd ⟨o, off⟩ i := by
  rw [Dev.advanceLog, Dev.rd_wr_obj_ne _ _ _ _ (Ne.symm n)]; exact Dev.rd_of_regs rfl _ _

/-- One entry written: the head moves on, the log takes the entry, and kinds 1 and 2 are also the bit's latest cause (R53, R54). -/
theorem Dev.logEntry_eq (d : Dev) (kind : Nat) (c : Cause) : d.logEntry kind c =
    (let h := d.rd Reg.dictionaryAttentionLogHead
    let e := d.advanceLog.putEntry .dictionaryAttentionLog (h % 256) h kind c
    if kind = 0 then e else e.putEntry .dictionaryAttentionCause (c.bit - 8) h kind c) := rfl

/-- An entry leaves the attention bits alone. -/
theorem Dev.logEntry_attention (d : Dev) (kind : Nat) (c : Cause) : (d.logEntry kind c).attention = d.attention := by
  rw [Dev.logEntry_eq]; dsimp only; split <;> simp

/-! ### One event -/

/-- 1 for a bit that was clear, 2 for one that was set (R53). -/
def Dev.eventKind (d : Dev) (c : Cause) : Nat := if d.attentionBit c.bit then 2 else 1

/-- The device with an attention bit set. -/
def Dev.setBit (d : Dev) (b : Nat) : Dev := { d with attention := d.attention ||| (1#8 <<< (b - 8)) }

theorem Dev.rd_setBit (d : Dev) (b : Nat) (r : Reg) (i : Nat) : (d.setBit b).rd r i = d.rd r i := rfl

/-- One event as two entries on the device with the bit set. -/
theorem Dev.record_eq (d : Dev) (c : Cause) : d.record c =
    (let h := d.rd Reg.dictionaryAttentionLogHead
    ((d.setBit c.bit).advanceLog.putEntry .dictionaryAttentionLog (h % 256) h (d.eventKind c) c).putEntry
      .dictionaryAttentionCause (c.bit - 8) h (d.eventKind c) c) := by
  have k : d.eventKind c ≠ 0 := by unfold Dev.eventKind; split <;> decide
  exact (Dev.logEntry_eq _ (d.eventKind c) c).trans (if_neg k)

theorem Dev.record_attention (d : Dev) (c : Cause) : (d.record c).attention = d.attention ||| (1#8 <<< (c.bit - 8)) :=
  Dev.logEntry_attention _ _ _

/-- An event sets its bit and leaves the others as they are. -/
theorem Dev.attentionBit_record (d : Dev) {c : Cause} {b : Nat} (hc : 8 ≤ c.bit) (hb : 8 ≤ b) (hb' : b ≤ 15) :
    (d.record c).attentionBit b = (d.attentionBit b || decide (b = c.bit)) := by
  simp only [Dev.attentionBit, Dev.record_attention, getLsbD_set_bit _ hc hb hb']

/-- A field of another object, of another entry of the log or of another bit's cause is as it was. -/
theorem Dev.rd_record_ne (d : Dev) (c : Cause) {o : Obj} {i : Nat} (off : Nat) (nh : o ≠ .dictionaryAttentionLogHead)
    (nl : o ≠ .dictionaryAttentionLog ∨ i ≠ d.rd Reg.dictionaryAttentionLogHead % 256)
    (nc : o ≠ .dictionaryAttentionCause ∨ i ≠ c.bit - 8) : (d.record c).rd ⟨o, off⟩ i = d.rd ⟨o, off⟩ i := by
  rw [Dev.record_eq]
  dsimp only
  rw [Dev.rd_putEntry_ne _ _ _ _ _ (nc.imp Ne.symm Ne.symm), Dev.rd_putEntry_ne _ _ _ _ _ (nl.imp Ne.symm Ne.symm),
    Dev.rd_advanceLog_ne _ nh, Dev.rd_setBit]

theorem Dev.rd_record_head (d : Dev) (c : Cause) :
    (d.record c).rd Reg.dictionaryAttentionLogHead = (d.rd Reg.dictionaryAttentionLogHead + 1) % 2 ^ 32 := by
  rw [Dev.record_eq]
  dsimp only
  rw [Dev.rd_putEntry_ne _ _ _ _ _ (.inl (by decide)), Dev.rd_putEntry_ne _ _ _ _ _ (.inl (by decide)), Dev.rd_advanceLog_head,
    Dev.rd_setBit]

/-- The status word of an entry of the event is the one that stands after it. -/
theorem Dev.statusWord_record (d : Dev) (c : Cause) (code area : Nat) :
    (d.record c).statusWord code area = (d.setBit c.bit).advanceLog.statusWord code area :=
  Dev.statusWord_congr (Dev.record_attention d c) ((Dev.rd_record_head d c).trans (d.setBit c.bit).rd_advanceLog_head.symm) code area

/-- The entry of the log that an event writes (R53). -/
theorem Dev.rd_record_log (d : Dev) (c : Cause) :
    let h := d.rd Reg.dictionaryAttentionLogHead
    let e := d.record c
    e.rd Reg.dictionaryAttentionLog_sequence (h % 256) = h ∧
      e.rd Reg.dictionaryAttentionLog_status (h % 256) = e.statusWord c.code c.area ∧
      e.rd Reg.dictionaryAttentionLog_bit (h % 256) = c.bit ∧ e.rd Reg.dictionaryAttentionLog_kind (h % 256) = d.eventKind c ∧
      e.rd Reg.dictionaryAttentionLog_context (h % 256) = c.context ∧ e.rd Reg.dictionaryAttentionLog_stream (h % 256) = c.stream ∧
      e.rd Reg.dictionaryAttentionLog_detail (h % 256) = c.detail % 65536 := by
  intro h e
  have r (off : Nat) : e.rd ⟨.dictionaryAttentionLog, off⟩ (h % 256) =
      ((d.setBit c.bit).advanceLog.putEntry .dictionaryAttentionLog (h % 256) h (d.eventKind c) c).rd ⟨.dictionaryAttentionLog, off⟩ (h % 256) := by
    rw [show e = _ from Dev.record_eq d c]; exact Dev.rd_putEntry_ne _ _ _ _ _ (.inl (by decide))
  simp only [r, show e.statusWord c.code c.area = _ from Dev.statusWord_record d c _ _]
  exact Dev.rd_putEntry_same _ _ _ _ _ _

/-- The latest cause of the bit is that entry (R54). -/
theorem Dev.rd_record_cause (d : Dev) (c : Cause) :
    (d.record c).rd Reg.dictionaryAttentionCause_sequence (c.bit - 8) = d.rd Reg.dictionaryAttentionLogHead ∧
      (d.record c).rd Reg.dictionaryAttentionCause_kind (c.bit - 8) = d.eventKind c := by
  rw [Dev.record_eq]
  obtain ⟨hs, _, _, hk, _⟩ := Dev.rd_putEntry_same
    ((d.setBit c.bit).advanceLog.putEntry .dictionaryAttentionLog
      (d.rd Reg.dictionaryAttentionLogHead % 256) (d.rd Reg.dictionaryAttentionLogHead) (d.eventKind c) c)
    .dictionaryAttentionCause (c.bit - 8) (d.rd Reg.dictionaryAttentionLogHead) (d.eventKind c) c
  exact ⟨hs, hk⟩

/-! ### Acknowledgement (R55) -/

/-- An acknowledgement may clear a bit: it is set, its latest cause is no later than the sequence named, and no lasting cause holds it. -/
def Dev.ackable (d : Dev) (n b : Nat) : Bool :=
  d.attentionBit b && d.rd Reg.dictionaryAttentionCause_sequence (b - 8) ≤ n && !(d.lasting.any fun l => l.bit == b)

theorem Dev.ackBit_refused {d : Dev} {n b : Nat} (h : d.ackable n b = false) : d.ackBit n b = d :=
  if_neg (ne_true_of_eq_false h)

/-- The device with a bit cleared and the clearing recorded, before a log that overflowed raises LOG. -/
def Dev.clearBit (d : Dev) (b : Nat) : Dev :=
  Dev.logEntry { d with attention := d.attention &&& ~~~(1#8 <<< (b - 8)) } 0 { bit := b, area := 0x01 }

theorem Dev.ackBit_cleared {d : Dev} {n b : Nat} (h : d.ackable n b = true) : d.ackBit n b =
    if d.logFull && !(d.clearBit b).logOverflowStands then (d.clearBit b).record { bit := Bit.log, area := 0x01 } else d.clearBit b :=
  if_pos h

theorem Dev.attentionBit_clearBit (d : Dev) {b : Nat} (hb : 8 ≤ b) (hb' : b ≤ 15) : (d.clearBit b).attentionBit b = false := by
  rw [Dev.attentionBit, Dev.clearBit, Dev.logEntry_attention]
  exact getLsbD_clear_bit _ hb hb'

/-- A bit acknowledged is clear, unless it is LOG and its clearing overflowed the log anew (R55, R56). -/
theorem Dev.attentionBit_ackBit {d : Dev} {n b : Nat} (hb : 8 ≤ b) (hb' : b ≤ 15) (h : d.ackable n b = true)
    (hl : b ≠ Bit.log ∨ d.logFull = false) : (d.ackBit n b).attentionBit b = false := by
  have clear := d.attentionBit_clearBit hb hb'
  rw [Dev.ackBit_cleared h]
  split
  · next full =>
    have nl : b ≠ Bit.log := hl.resolve_right fun k => by simp [k] at full
    rw [Dev.attentionBit_record _ (show 8 ≤ Bit.log by decide) hb hb', clear]
    simpa using nl
  · exact clear

end Sys2Proof.Machine
end

section
/-! SUPPORT. What leaves the device: batches to rings, discrete lines, CAN FD frames, PMBus alerts and the test access port (R68, R380,
R381, R387, R389, R573 to R581), and what notes and a settled wire leave alone. -/

namespace Sys2Proof.Machine

/-! ### What counting and attention events leave alone -/

/-- `e` is `d` but for fields of objects, the attention bits, the wrap of their log and free values drawn: all that counting and attention
events change. -/
def Dev.Noted (d e : Dev) : Prop := ∃ f r a w, e = { d with free := f, regs := r, attention := a, logWrapped := w }

theorem Dev.Noted.refl (d : Dev) : d.Noted d := ⟨_, _, _, _, rfl⟩

theorem Dev.Noted.trans {a b c : Dev} (h : a.Noted b) (k : b.Noted c) : a.Noted c := by
  obtain ⟨f, r, x, w, rfl⟩ := h
  obtain ⟨f', r', x', w', rfl⟩ := k
  exact ⟨f', r', x', w', rfl⟩

theorem Dev.wr_noted (d : Dev) (r : Reg) (i v : Nat) : d.Noted (d.wr r i v) := ⟨_, _, _, _, rfl⟩

theorem Dev.count_noted (d : Dev) (r : Reg) (i n : Nat) : d.Noted (d.count r i n) := by
  unfold Dev.count; dsimp only; split
  · exact d.wr_noted _ _ _
  · exact ⟨_, _, _, _, rfl⟩

theorem Dev.putEntry_noted (d : Dev) (o : Obj) (i h kind : Nat) (c : Cause) : d.Noted (d.putEntry o i h kind c) :=
  ((((((d.wr_noted _ _ _).trans (Dev.wr_noted _ _ _ _)).trans (Dev.wr_noted _ _ _ _)).trans (Dev.wr_noted _ _ _ _)).trans
    (Dev.wr_noted _ _ _ _)).trans (Dev.wr_noted _ _ _ _)).trans (Dev.wr_noted _ _ _ _)

theorem Dev.record_noted (d : Dev) (c : Cause) : d.Noted (d.record c) := by
  have start : d.Noted (d.setBit c.bit).advanceLog := ⟨_, _, _, _, rfl⟩
  rw [Dev.record_eq]
  exact (start.trans (Dev.putEntry_noted _ _ _ _ _ _)).trans (Dev.putEntry_noted _ _ _ _ _ _)

/-- A cause is one event, and perhaps LOG after it (R54, R56). -/
theorem Dev.attend_cases (d : Dev) (c : Cause) :
    d.attend c = d.record c ∨ d.attend c = (d.record c).record { bit := Bit.log, area := 0x01 } := by
  unfold Dev.attend; dsimp only; split
  · exact .inr rfl
  · exact .inl rfl

theorem Dev.attend_noted (d : Dev) (c : Cause) : d.Noted (d.attend c) := by
  rcases d.attend_cases c with h | h <;> rw [h]
  · exact d.record_noted c
  · exact (d.record_noted c).trans (Dev.record_noted _ _)

/-- A cause sets its bit. -/
theorem Dev.attentionBit_attend (d : Dev) {c : Cause} (hc : 8 ≤ c.bit) (hc' : c.bit ≤ 15) : (d.attend c).attentionBit c.bit = true := by
  have one : (d.record c).attentionBit c.bit = true := by simp [d.attentionBit_record hc hc hc']
  rcases d.attend_cases c with h | h <;> rw [h]
  · exact one
  · rw [Dev.attentionBit_record _ (show 8 ≤ Bit.log by decide) hc hc', one, Bool.true_or]

/-- Objects that the attention log consists of (R53, R54). -/
def Obj.ofAttention (o : Obj) : Bool :=
  o == .dictionaryAttentionLog || o == .dictionaryAttentionCause || o == .dictionaryAttentionLogHead

/-- A cause leaves every field outside the attention log alone. -/
theorem Dev.rd_attend_ne (d : Dev) (c : Cause) {o : Obj} (n : o.ofAttention = false) (off i : Nat) :
    (d.attend c).rd ⟨o, off⟩ i = d.rd ⟨o, off⟩ i := by
  simp only [Obj.ofAttention, Bool.or_eq_false_iff, beq_eq_false_iff_ne] at n
  obtain ⟨⟨nl, nc⟩, nh⟩ := n
  have one (d : Dev) (c : Cause) : (d.record c).rd ⟨o, off⟩ i = d.rd ⟨o, off⟩ i := d.rd_record_ne c off nh (.inl nl) (.inl nc)
  rcases d.attend_cases c with h | h <;> rw [h]
  · exact one d c
  · rw [one, one]

/-- Counting a field leaves the fields of other objects alone. -/
theorem Dev.rd_count_ne (d : Dev) (r : Reg) (i n : Nat) {o : Obj} (h : r.obj ≠ o) (off j : Nat) :
    (d.count r i n).rd ⟨o, off⟩ j = d.rd ⟨o, off⟩ j := by
  unfold Dev.count; dsimp only; split
  · exact d.rd_wr_obj_ne r i _ h off j
  · exact (Dev.rd_of_regs rfl _ _).trans (d.rd_wr_obj_ne r i _ h off j)

/-! ### The wire -/

/-- Where the wire stands at its level, settling does nothing. -/
theorem settle_of_level {d : Dev} (h : d.wireLevel = d.ep.intaWire) : settle d = d := if_pos h

/-- The level of the wire depends on the queues, the endpoint, the queues' interrupt flags and the log's head (R92). -/
theorem Dev.wireLevel_congr {d e : Dev} (hq : e.queues = d.queues) (he : e.ep = d.ep)
    (hi : ∀ i, e.rd Reg.hostQueueConfig_irq i = d.rd Reg.hostQueueConfig_irq i)
    (hh : e.rd Reg.dictionaryAttentionLogHead = d.rd Reg.dictionaryAttentionLogHead) : e.wireLevel = d.wireLevel := by
  simp only [Dev.wireLevel, Dev.irqPending, Dev.flag, hq, he, hi, hh]

@[simp] theorem settle_held (d : Dev) : (settle d).held = d.held := by
  rcases settle_eq d with h | h
  · rw [h]
  · rw [h]; rfl
@[simp] theorem settle_canEvents (d : Dev) : (settle d).canEvents = d.canEvents := by
  rcases settle_eq d with h | h
  · rw [h]
  · rw [h]; rfl

/-- Settling writes nothing to the host. -/
theorem hostWrite_mem_settle {d : Dev} {a : Nat} {b : List Byte} (h : .hostWrite a b ∈ (settle d).sent) : .hostWrite a b ∈ d.sent := by
  rcases settle_eq d with e | e <;> rw [e] at h
  · exact h
  · rcases List.mem_cons.1 h with k | k
    · split at k <;> cases k
    · exact k

/-! ### Batches to rings (R387, R389) -/

/-- The bytes left unused at a ring's end so that a batch of `n` bytes lies in one piece (R387). -/
def Dev.ringPad (d : Dev) (r n : Nat) : Nat :=
  let size := 2 ^ d.rd Reg.pointsEgressRing_sizeLog2 r
  let off := d.rd Reg.pointsEgressRingState_produced r % size
  if off + n ≤ size then 0 else size - off

/-- Where in its ring a batch of `n` bytes begins. -/
def Dev.ringStart (d : Dev) (r n : Nat) : Nat :=
  if d.ringPad r n = 0 then d.rd Reg.pointsEgressRingState_produced r % 2 ^ d.rd Reg.pointsEgressRing_sizeLog2 r else 0

/-- The device once the pad header before a batch, if it needs one, has been written. -/
def Dev.sendPad (d : Dev) (r n : Nat) : Dev :=
  if d.ringPad r n = 0 then d
  else d.send (.hostWrite (d.rd Reg.pointsEgressRing_page r * 4096 +
      d.rd Reg.pointsEgressRingState_produced r % 2 ^ d.rd Reg.pointsEgressRing_sizeLog2 r)
    (batchHeader 0 0 0 0 0 0 0 0 0 0 0 0 (d.ringPad r n)))

/-- The device once a batch has been written behind its pad, its first four bytes last (R387). -/
def Dev.putRing (d : Dev) (r : Nat) (bytes : List Byte) : Dev :=
  let at_ := d.rd Reg.pointsEgressRing_page r * 4096 + d.ringStart r bytes.length
  (((d.sendPad r bytes.length).send (.hostWrite (at_ + 4) (bytes.drop 4))).send (.hostWrite at_ (bytes.take 4))).wr
    Reg.pointsEgressRingState_produced r (d.rd Reg.pointsEgressRingState_produced r + d.ringPad r bytes.length + bytes.length)

theorem Dev.writeRing_eq (d : Dev) (r consumed : Nat) (bytes : List Byte) : d.writeRing r consumed bytes =
    if d.ringFree r consumed < d.ringPad r bytes.length + bytes.length then none else some (d.putRing r bytes) := rfl

/-- A batch that a ring takes fits its free space. -/
theorem Dev.writeRing_some {d w : Dev} {r consumed : Nat} {bytes : List Byte} (h : d.writeRing r consumed bytes = some w) :
    d.ringPad r bytes.length + bytes.length ≤ d.ringFree r consumed ∧ w = d.putRing r bytes := by
  rw [Dev.writeRing_eq] at h
  split at h
  · cases h
  · next room => exact ⟨Nat.not_lt.1 room, (Option.some.inj h).symm⟩

theorem Dev.sendPad_cases (d : Dev) (r n : Nat) : d.sendPad r n = d ∨ ∃ x, d.sendPad r n = d.send x := by
  unfold Dev.sendPad; split
  · exact .inl rfl
  · exact .inr ⟨_, rfl⟩

/-- A pad of `pad` bytes at the end of a ring, where `n` bytes do not fit before it, lets them lie in one piece. -/
theorem ring_place {size n made pad : Nat} (pos : 0 < size) (h : n ≤ size)
    (hp : pad = if made % size + n ≤ size then 0 else size - made % size) :
    (pad = 0 ∨ pad + made % size = size) ∧ (made + pad) % size = (if pad = 0 then made % size else 0) ∧
      (if pad = 0 then made % size else 0) + n ≤ size := by
  have lt := Nat.mod_lt made pos
  by_cases fits : made % size + n ≤ size
  · simp [hp, fits]
  · rw [if_neg fits] at hp
    have pad_pos : pad ≠ 0 := by omega
    have turns : made + pad = size * (made / size) + size := by have := Nat.div_add_mod made size; omega
    have wrap : (made + pad) % size = 0 := by rw [turns]; simp
    rw [if_neg pad_pos, wrap]
    omega

/-- The place of a batch in its ring: behind the pad, in one piece. -/
theorem Dev.ringStart_spec (d : Dev) {r n : Nat} (h : n ≤ 2 ^ d.rd Reg.pointsEgressRing_sizeLog2 r) :
    (d.ringPad r n = 0 ∨ d.ringPad r n + d.rd Reg.pointsEgressRingState_produced r % 2 ^ d.rd Reg.pointsEgressRing_sizeLog2 r =
      2 ^ d.rd Reg.pointsEgressRing_sizeLog2 r) ∧
    (d.rd Reg.pointsEgressRingState_produced r + d.ringPad r n) % 2 ^ d.rd Reg.pointsEgressRing_sizeLog2 r = d.ringStart r n ∧
    d.ringStart r n + n ≤ 2 ^ d.rd Reg.pointsEgressRing_sizeLog2 r :=
  ring_place (Nat.two_pow_pos _) h rfl

/-- What a ring holds after a batch was put into its free space is no more than its size. -/
theorem Dev.ringFree_bound {d : Dev} {r consumed n : Nat} (hn : 0 < n) (h : n ≤ d.ringFree r consumed) :
    d.rd Reg.pointsEgressRingState_produced r + n - consumed ≤ 2 ^ d.rd Reg.pointsEgressRing_sizeLog2 r := by
  unfold Dev.ringFree at h; omega

/-- A ring that takes a batch changes nothing but what was sent and the produced count. -/
theorem Dev.writeRing_frame {d w : Dev} {r consumed : Nat} {bytes : List Byte} (h : d.writeRing r consumed bytes = some w) :
    w.mem = d.mem ∧ w.droppedBefore = d.droppedBefore := by
  obtain ⟨_, rfl⟩ := Dev.writeRing_some h
  simp only [Dev.putRing, Dev.wr_mem, Dev.wr_droppedBefore, Dev.send_mem, Dev.send_droppedBefore]
  rcases d.sendPad_cases r bytes.length with e | ⟨x, e⟩ <;> rw [e]
  · exact ⟨rfl, rfl⟩
  · exact ⟨rfl, rfl⟩

/-! ### BATCH_EGRESS (R386 to R389) -/

theorem batchEgressEffect_none {d : Dev} {k : Nat} (v : ConsumerRead) (h : ∀ b ∈ d.held, b.stream ≠ k) : batchEgressEffect k v d = d := by
  have none_ : (d.held.find? fun b => b.stream == k) = none := List.find?_eq_none.2 fun b hb => by simpa using h b hb
  simp [batchEgressEffect, none_]

theorem batchEgressEffect_poisoned {d : Dev} {k : Nat} {b : HeldBatch} (v : ConsumerRead)
    (h : (d.held.find? fun b => b.stream == k) = some b) (p : d.poisoned b.pointer b.length = true) :
    batchEgressEffect k v d = (d.dropBatch b).batchLost k b.context false := by
  simp [batchEgressEffect, h, p]

/-- The oldest batch of stream `k` waits for its ring alone: its buffer is sound, its target has it, and none was dropped before it. -/
structure Dev.AwaitsRing (d : Dev) (k : Nat) (b : HeldBatch) (r : Nat) : Prop where
  oldest : (d.held.find? fun b => b.stream == k) = some b
  sound : d.poisoned b.pointer b.length = false
  udpDone : b.udpDone = true
  ringDone : b.ringDone = false
  none_dropped : d.droppedBefore = []
  ring : d.ringOf k = some r

section
variable {d : Dev} {k r : Nat} {b : HeldBatch} (h : d.AwaitsRing k b r)
include h

theorem Dev.AwaitsRing.stream_eq : b.stream = k := by simpa using List.find?_some h.oldest

theorem Dev.AwaitsRing.ringDead_eq : d.ringDead b = !d.flag Reg.pointsEgressRingEnable r := by
  simp [Dev.ringDead, h.ringDone, h.stream_eq, h.ring]

/-- A disabled ring takes the batch by discarding it (R389). -/
theorem Dev.AwaitsRing.egress_disabled (v : ConsumerRead) (off : d.flag Reg.pointsEgressRingEnable r = false) :
    batchEgressEffect k v d = (d.batchDead b).dropBatch b := by
  simp [batchEgressEffect, h.oldest, h.sound, h.udpDone, h.ringDone, h.none_dropped, h.ring, h.ringDead_eq, off]

/-- An enabled ring with space takes the batch. -/
theorem Dev.AwaitsRing.egress_written {c : Nat} {w : Dev} (on : d.flag Reg.pointsEgressRingEnable r = true) (master : d.canMaster = true)
    (hw : d.writeRing r c (d.getBytes b.pointer b.length) = some w) : batchEgressEffect k (.word c) d = w.dropBatch b := by
  have none_dropped : w.droppedBefore = [] := (Dev.writeRing_frame hw).2.trans h.none_dropped
  have keep : ({ w with droppedBefore := [] } : Dev) = w := by rw [← none_dropped]
  simp [batchEgressEffect, h.oldest, h.sound, h.udpDone, h.ringDone, h.none_dropped, h.ring, h.ringDead_eq, on, master, hw, none_dropped]
  exact congrArg (Dev.dropBatch · b) keep

/-- What a failed read of the consumer word logs (R101, log entry 152). -/
def Dev.logFailedRead (d : Dev) (v : ConsumerRead) : Dev :=
  match v with
  | .word _ => d
  | .refused => d
  | .poisoned => d.logUncorrectable aerPoisoned 0x81
  | .timedOut => d.logUncorrectable aerTimeout 0x80

/-- Where no consumer word gives space, the batch stays held, and no longer holds back fetching (R91). -/
theorem Dev.AwaitsRing.egress_waits {v : ConsumerRead} (on : d.flag Reg.pointsEgressRingEnable r = true) (master : d.canMaster = true)
    (full : ∀ c, v = .word c → d.writeRing r c (d.getBytes b.pointer b.length) = none) :
    batchEgressEffect k v d = (let e := (d.logFailedRead v).missEgress b
      { e with held := e.held.map fun x => if x = b then { b with udpDone := true, missed := true, parked := false } else x }) := by
  have not_dropped : k ∉ d.droppedBefore := by simp [h.none_dropped]
  cases v
  all_goals
    simp [-Dev.mk.injEq, batchEgressEffect, h.oldest, h.sound, h.udpDone, h.ringDone, not_dropped, h.ring, on, master, full,
      Dev.logFailedRead]

end

/-- A step from `d` to `e` that writes nothing to the host and leaves batches, pools and memory alone. -/
structure Dev.KeepsBatches (d e : Dev) : Prop where
  held : e.held = d.held
  pools : e.pools = d.pools
  mem : e.mem = d.mem
  writes : ∀ a b, .hostWrite a b ∈ e.sent → .hostWrite a b ∈ d.sent

theorem Dev.KeepsBatches.trans {a b c : Dev} (h : a.KeepsBatches b) (k : b.KeepsBatches c) : a.KeepsBatches c :=
  ⟨k.held.trans h.held, k.pools.trans h.pools, k.mem.trans h.mem, fun x y m => h.writes x y (k.writes x y m)⟩

theorem Dev.Noted.keepsBatches {d e : Dev} (h : d.Noted e) : d.KeepsBatches e := by
  obtain ⟨f, r, a, w, rfl⟩ := h
  exact ⟨rfl, rfl, rfl, fun _ _ m => m⟩

/-- A further step taken under a condition. -/
theorem Dev.KeepsBatches.step_if {d a b : Dev} (h : d.KeepsBatches a) (k : a.KeepsBatches b) (p : Prop) [Decidable p] :
    d.KeepsBatches (if p then b else a) := by
  split
  · exact h.trans k
  · exact h

theorem Dev.setEp_keepsBatches (d : Dev) (x : Endpoint) : d.KeepsBatches { d with ep := x } := ⟨rfl, rfl, rfl, fun _ _ m => m⟩

theorem Dev.setCfg_keepsBatches (d : Dev) (r : CfgReg) (v : Nat) : d.KeepsBatches (d.setCfg r v) := d.setEp_keepsBatches _

theorem Dev.sendAer_keepsBatches (d : Dev) (fatal : Bool) (error : Nat) : d.KeepsBatches (d.send (.aerMessage fatal error)) :=
  ⟨rfl, rfl, rfl, fun _ _ m => by simpa [Dev.send] using m⟩

/-- An uncorrectable error is logged at the endpoint, and raises LINK (R101). -/
theorem Dev.logUncorrectable_raises (d : Dev) (error code : Nat) :
    ∃ e, d.logUncorrectable error code = Dev.attend e { bit := Bit.link, code, area := 0x02 } ∧ d.KeepsBatches e :=
  ⟨_, rfl, ((((d.setEp_keepsBatches _).trans (Dev.setCfg_keepsBatches _ _ _)).step_if (Dev.setCfg_keepsBatches _ _ _) _).step_if
    (Dev.setCfg_keepsBatches _ _ _) _).step_if (Dev.sendAer_keepsBatches _ _ _) _⟩

theorem Dev.logUncorrectable_keepsBatches (d : Dev) (error code : Nat) : d.KeepsBatches (d.logUncorrectable error code) := by
  obtain ⟨e, he, k⟩ := d.logUncorrectable_raises error code
  rw [he]
  exact k.trans (e.attend_noted _).keepsBatches

theorem Dev.attentionBit_logUncorrectable (d : Dev) (error code : Nat) : (d.logUncorrectable error code).attentionBit Bit.link = true := by
  obtain ⟨e, he, _⟩ := d.logUncorrectable_raises error code
  rw [he]
  exact e.attentionBit_attend (c := { bit := Bit.link, code, area := 0x02 }) (show 8 ≤ Bit.link by decide) (show Bit.link ≤ 15 by decide)

theorem Dev.logFailedRead_keepsBatches (d : Dev) (v : ConsumerRead) : d.KeepsBatches (d.logFailedRead v) := by
  cases v with
  | word c => exact (Dev.Noted.refl d).keepsBatches
  | refused => exact (Dev.Noted.refl d).keepsBatches
  | poisoned => exact d.logUncorrectable_keepsBatches _ _
  | timedOut => exact d.logUncorrectable_keepsBatches _ _

theorem Dev.attentionBit_logFailedRead (d : Dev) {v : ConsumerRead} (h : v = .poisoned ∨ v = .timedOut) :
    (d.logFailedRead v).attentionBit Bit.link = true := by
  rcases h with rfl | rfl
  · exact d.attentionBit_logUncorrectable _ _
  · exact d.attentionBit_logUncorrectable _ _

theorem Dev.missEgress_noted (d : Dev) (b : HeldBatch) : d.Noted (d.missEgress b) := by
  unfold Dev.missEgress; split
  · exact d.count_noted _ _ _
  · exact Dev.Noted.refl d

@[simp] theorem Dev.count_attention (d : Dev) (r : Reg) (i n : Nat) : (d.count r i n).attention = d.attention := by
  unfold Dev.count; dsimp only; split <;> rfl

@[simp] theorem Dev.missEgress_attention (d : Dev) (b : HeldBatch) : (d.missEgress b).attention = d.attention := by
  unfold Dev.missEgress; split <;> simp

theorem settle_keepsBatches (d : Dev) : d.KeepsBatches (settle d) :=
  ⟨settle_held d, settle_pools d, settle_mem d, fun _ _ m => hostWrite_mem_settle m⟩

/-- A batch that waits stays held, marked as taken by its target, with nothing written to the host; a failed read raises LINK. -/
theorem Dev.AwaitsRing.egress_waits_spec {d : Dev} {k r : Nat} {b : HeldBatch} (h : d.AwaitsRing k b r) {v : ConsumerRead}
    (on : d.flag Reg.pointsEgressRingEnable r = true) (master : d.canMaster = true)
    (full : ∀ c, v = .word c → d.writeRing r c (d.getBytes b.pointer b.length) = none) :
    let w := settle (batchEgressEffect k v d)
    w.held = d.held.map (fun x => if x = b then { b with udpDone := true, missed := true, parked := false } else x) ∧
      (∀ a b, .hostWrite a b ∈ w.sent → .hostWrite a b ∈ d.sent) ∧ w.pools = d.pools ∧ w.mem = d.mem ∧
      (v = .poisoned ∨ v = .timedOut → w.attentionBit Bit.link = true) := by
  intro w
  have keeps := (d.logFailedRead_keepsBatches v).trans ((d.logFailedRead v).missEgress_noted b).keepsBatches
  have eff := h.egress_waits on master full
  have keeps' := settle_keepsBatches (batchEgressEffect k v d)
  refine ⟨keeps'.held.trans ?_, fun x y m => keeps.writes x y ?_, keeps'.pools.trans ?_, keeps'.mem.trans ?_, fun failed => ?_⟩
  · rw [eff]; dsimp only; rw [keeps.held]
  · have m' := keeps'.writes x y m
    rw [eff] at m'; exact m'
  · rw [eff]; exact keeps.pools
  · rw [eff]; exact keeps.mem
  · have bit := d.attentionBit_logFailedRead failed
    have same : w.attention = (d.logFailedRead v).attention := by
      rw [show w.attention = _ from settle_attention _, eff]; exact Dev.missEgress_attention _ _
    rw [Dev.attentionBit, same]; exact bit

end Sys2Proof.Machine
end

section
/-! SUPPORT. Discrete lines, the CAN FD port, PMBus alerts and the test access port (R68, R380, R381, R573 to R581). -/

namespace Sys2Proof.Machine
open Sys2Proof.Safety

/-! ### Discrete lines (R380, R573 to R576) -/

@[simp] theorem Dev.dioLine_updDio_same (d : Dev) (k : Nat) (f : DioLine → DioLine) : (d.updDio k f).dioLine k = f (d.dioLine k) := by
  simp [Dev.dioLine, Dev.updDio]

theorem Dev.dioLine_updDio_ne (d : Dev) {k j : Nat} (f : DioLine → DioLine) (h : j ≠ k) : (d.updDio k f).dioLine j = d.dioLine j := by
  simp [Dev.dioLine, Dev.updDio, h.symm]

@[simp] theorem Dev.rd_updDio (d : Dev) (k : Nat) (f : DioLine → DioLine) (r : Reg) (i : Nat) : (d.updDio k f).rd r i = d.rd r i := rfl

@[simp] theorem Dev.dioLine_count (d : Dev) (r : Reg) (i n k : Nat) : (d.count r i n).dioLine k = d.dioLine k := by
  unfold Dev.count; dsimp only; split <;> rfl

/-- A line given to Points is asserted while a pulse or a latch of it stands (R380). -/
theorem Dev.dioAsserted_points {d : Dev} {k : Nat} (h : d.rd Reg.pinsDioConfig_owner k = 2) :
    d.dioAsserted k = ((d.dioLine k).pulseEnd.isSome || (d.dioLine k).latched) := by
  simp [Dev.dioAsserted, h]

theorem dioPulseEndEffect_none {d : Dev} {k : Nat} (h : (d.dioLine k).pulseEnd = none) : dioPulseEndEffect k d = d := by
  simp [dioPulseEndEffect, h]

theorem dioPulseEndEffect_some {d : Dev} {k t : Nat} (h : (d.dioLine k).pulseEnd = some t) :
    dioPulseEndEffect k d = if t ≤ d.now then d.updDio k fun l => { l with pulseEnd := none } else d := by
  simp [dioPulseEndEffect, h]

/-- The tick at which the pulse of an action ends, were it to begin now (R379). -/
def Dev.pulseEndOf (d : Dev) (a : Nat) : Nat := d.now + d.rd Reg.pointsAction_pulseMs a * 3125

section
variable {d : Dev} {a : Nat} (given : d.rd Reg.pinsDioConfig_owner (d.rd Reg.pointsAction_line a) = 2)
include given

theorem Dev.driveLine_latch (latch : d.flag Reg.pointsAction_latch a = true) :
    d.driveLine a = d.updDio (d.rd Reg.pointsAction_line a) fun l => { l with latched := true, taken := true } := by
  simp [Dev.driveLine, given, latch]

theorem Dev.driveLine_start (pulse : d.flag Reg.pointsAction_latch a = false)
    (h : (d.dioLine (d.rd Reg.pointsAction_line a)).pulseEnd = none) :
    d.driveLine a = d.updDio (d.rd Reg.pointsAction_line a) fun l => { l with pulseEnd := some (d.pulseEndOf a), taken := true } := by
  simp [Dev.driveLine, given, pulse, h, Dev.pulseEndOf]

theorem Dev.driveLine_extend {t : Nat} (pulse : d.flag Reg.pointsAction_latch a = false)
    (h : (d.dioLine (d.rd Reg.pointsAction_line a)).pulseEnd = some t) :
    d.driveLine a = if t < d.pulseEndOf a then
        (d.updDio (d.rd Reg.pointsAction_line a) fun l => { l with pulseEnd := some (d.pulseEndOf a) }).count Reg.pointsCounters_pulsesExtended
      else d := by
  simp [Dev.driveLine, given, pulse, h, Dev.pulseEndOf]
  rfl

/-- A pulse asked for ends at the later of its own end and that of the pulse that runs (R380). -/
theorem Dev.driveLine_pulse (pulse : d.flag Reg.pointsAction_latch a = false) :
    ((d.driveLine a).dioLine (d.rd Reg.pointsAction_line a)).latched = (d.dioLine (d.rd Reg.pointsAction_line a)).latched ∧
    ((d.driveLine a).dioLine (d.rd Reg.pointsAction_line a)).pulseEnd =
      some (match (d.dioLine (d.rd Reg.pointsAction_line a)).pulseEnd with
        | none => d.pulseEndOf a
        | some t => max t (d.pulseEndOf a)) := by
  cases h : (d.dioLine (d.rd Reg.pointsAction_line a)).pulseEnd with
  | none => rw [Dev.driveLine_start given pulse h]; simp
  | some t =>
    rw [Dev.driveLine_extend given pulse h]
    split
    · next later => simp [Nat.max_eq_right (Nat.le_of_lt later)]
    · next later => simp [h, Nat.max_eq_left (Nat.not_lt.1 later)]

/-- An action leaves every other line alone, and the line with its owner. -/
theorem Dev.driveLine_frame :
    (∀ j, j ≠ d.rd Reg.pointsAction_line a → (d.driveLine a).dioLine j = d.dioLine j) ∧
    ∀ i, (d.driveLine a).rd Reg.pinsDioConfig_owner i = d.rd Reg.pinsDioConfig_owner i := by
  cases latch : d.flag Reg.pointsAction_latch a with
  | true =>
    rw [Dev.driveLine_latch given latch]
    exact ⟨fun j n => d.dioLine_updDio_ne _ n, fun i => rfl⟩
  | false =>
    cases h : (d.dioLine (d.rd Reg.pointsAction_line a)).pulseEnd with
    | none =>
      rw [Dev.driveLine_start given latch h]
      exact ⟨fun j n => d.dioLine_updDio_ne _ n, fun i => rfl⟩
    | some t =>
      rw [Dev.driveLine_extend given latch h]
      split
      · exact ⟨fun j n => by rw [Dev.dioLine_count]; exact d.dioLine_updDio_ne _ n, fun i => Dev.rd_count_ne _ _ _ _ (by decide) _ _⟩
      · exact ⟨fun j _ => rfl, fun i => rfl⟩

/-- A line that an action drives is asserted (R380). -/
theorem Dev.driveLine_asserted : (d.driveLine a).dioAsserted (d.rd Reg.pointsAction_line a) = true := by
  rw [Dev.dioAsserted_points ((Dev.driveLine_frame given).2 _ |>.trans given)]
  cases latch : d.flag Reg.pointsAction_latch a with
  | true => rw [Dev.driveLine_latch given latch]; simp
  | false => rw [(Dev.driveLine_pulse given latch).2]; simp

end

/-! ### The CAN FD port (R68, R577, R578) -/

theorem canBusOffEffect_off {d : Dev} (h : d.flag Reg.pinsCanEnable = false ∨ d.rd Reg.pinsCanState_state = 3) : canBusOffEffect d = d := by
  rcases h with h | h <;> simp [canBusOffEffect, h]

theorem canBusOffEffect_on {d : Dev} (on : d.flag Reg.pinsCanEnable = true) (h : d.rd Reg.pinsCanState_state ≠ 3) :
    canBusOffEffect d = ((d.wr Reg.pinsCanState_state 0 3).count Reg.pinsCanState_busOffs).beginLasting busOffCause := by
  simp [canBusOffEffect, on, h]

/-- The port back on the bus: state 1, both error counts 0, and what waits as it was (R578). -/
theorem Dev.canOnBus_spec (d : Dev) :
    d.canOnBus.rd Reg.pinsCanState_state = 1 ∧ d.canOnBus.rd Reg.pinsCanState_txErrors = 0 ∧ d.canOnBus.rd Reg.pinsCanState_rxErrors = 0 ∧
    d.canOnBus.canEvents = d.canEvents ∧ d.canOnBus.mem = d.mem := by
  have regs : d.canOnBus.regs =
      (((d.wr Reg.pinsCanState_txErrors 0 0).wr Reg.pinsCanState_rxErrors 0 0).wr Reg.pinsCanState_state 0 1).regs := rfl
  simp only [Dev.rd_of_regs regs, Dev.rd_wr]
  exact ⟨rfl, rfl, rfl, rfl, rfl⟩

/-- The frame that goes next is the oldest event frame, or the oldest segment where no event waits (R68). -/
theorem Dev.canHead_event {d : Dev} {f : CanFrame} {fs : List CanFrame} (h : d.canEvents = f :: fs) :
    d.canHead = some (f, { d with canEvents := fs }) := by simp [Dev.canHead, h]

theorem Dev.canHead_segment {d : Dev} {f : CanFrame} {fs : List CanFrame} (h : d.canEvents = []) (h' : d.canSegments = f :: fs) :
    d.canHead = some (f, { d with canSegments := fs }) := by simp [Dev.canHead, h, h']

theorem Dev.canHead_none {d : Dev} (h : d.canEvents = []) (h' : d.canSegments = []) : d.canHead = none := by simp [Dev.canHead, h, h']

theorem canFrameTransmittedEffect_idle {d : Dev} (ok : Bool)
    (h : d.flag Reg.pinsCanEnable = false ∨ d.rd Reg.pinsCanState_state = 3 ∨ (d.canEvents = [] ∧ d.canSegments = [])) :
    canFrameTransmittedEffect ok d = d := by
  rcases h with h | h | ⟨h, h'⟩
  · simp [canFrameTransmittedEffect, h]
  · simp [canFrameTransmittedEffect, h]
  · simp [canFrameTransmittedEffect, Dev.canHead_none h h']

/-- A frame is sent when the bus took it, and beside that only the error count and the state of the port change. -/
theorem canFrameTransmittedEffect_head {d e : Dev} {f : CanFrame} (ok : Bool) (on : d.flag Reg.pinsCanEnable = true)
    (h : d.rd Reg.pinsCanState_state ≠ 3) (head : d.canHead = some (f, e)) :
    ∃ errors state, canFrameTransmittedEffect ok d =
      ((if ok then e.send (.canSegment f.identifier f.data) else e).wr Reg.pinsCanState_txErrors 0 errors).wr Reg.pinsCanState_state 0 state := by
  cases ok
  · exact ⟨min 255 (e.rd Reg.pinsCanState_txErrors + 8), _, by simp [-Dev.mk.injEq, canFrameTransmittedEffect, on, h, head]; rfl⟩
  · exact ⟨e.rd Reg.pinsCanState_txErrors - 1, _, by simp [-Dev.mk.injEq, canFrameTransmittedEffect, on, h, head]; rfl⟩

/-- Neither the frame sent nor the port's state moves the interrupt wire, so nothing but the frame leaves the device. -/
theorem settle_canFrameTransmittedEffect {d e : Dev} {f : CanFrame} (ok : Bool) (on : d.flag Reg.pinsCanEnable = true)
    (h : d.rd Reg.pinsCanState_state ≠ 3) (head : d.canHead = some (f, e)) (wire : d.ep.intaWire = d.wireLevel)
    (same : e.regs = d.regs ∧ e.ep = d.ep ∧ e.queues = d.queues ∧ e.sent = d.sent) :
    (settle (canFrameTransmittedEffect ok d)).canEvents = e.canEvents ∧ (settle (canFrameTransmittedEffect ok d)).canSegments = e.canSegments ∧
    (settle (canFrameTransmittedEffect ok d)).sent = if ok then .canSegment f.identifier f.data :: d.sent else d.sent := by
  obtain ⟨regs, ep, queues, sent⟩ := same
  obtain ⟨errors, state, eq⟩ := canFrameTransmittedEffect_head ok on h head
  have rd {o : Obj} (n : Obj.pinsCanState ≠ o) (off i : Nat) : (canFrameTransmittedEffect ok d).rd ⟨o, off⟩ i = d.rd ⟨o, off⟩ i := by
    rw [eq, Dev.rd_wr_obj_ne _ _ _ _ n, Dev.rd_wr_obj_ne _ _ _ _ n]
    cases ok <;> exact Dev.rd_of_regs regs _ _
  have ep' : (canFrameTransmittedEffect ok d).ep = d.ep := by rw [eq]; cases ok <;> exact ep
  have queues' : (canFrameTransmittedEffect ok d).queues = d.queues := by rw [eq]; cases ok <;> exact queues
  have level : (canFrameTransmittedEffect ok d).wireLevel = d.wireLevel :=
    Dev.wireLevel_congr queues' ep' (rd (by decide) _) (rd (by decide) _ _)
  rw [settle_of_level (by rw [level, ep', wire]), eq]
  cases ok
  · exact ⟨rfl, rfl, sent⟩
  · exact ⟨rfl, rfl, congrArg _ sent⟩

/-! ### PMBus alerts (R579) -/

/-- The pages that are enabled. -/
def Dev.enabledPages (d : Dev) : List Nat := (List.range 8).filter fun i => d.flag Reg.powerVrmPage_enable i

/-- The word of one page stored and its cause raised. -/
def Dev.alertPage (words : List Nat) (d : Dev) (i : Nat) : Dev :=
  (d.wr Reg.pinsPmbusStatus_status i (words.getD i 0)).attend { bit := Bit.power, area := 0x1B, detail := 0x20 + i }

theorem pmbAlertEffect_eq (words : List Nat) (d : Dev) : pmbAlertEffect words d = d.enabledPages.foldl (Dev.alertPage words) d := rfl

theorem Dev.rd_alertPage (words : List Nat) (d : Dev) (i j : Nat) :
    (d.alertPage words i).rd Reg.pinsPmbusStatus_status j = if j = i then words.getD i 0 else d.rd Reg.pinsPmbusStatus_status j := by
  rw [Dev.alertPage, Dev.rd_attend_ne _ _ (by decide), Dev.rd_wr]
  simp [eq_comm]

/-- Each page named stores its own word. -/
theorem Dev.rd_foldl_alertPage (words : List Nat) (j : Nat) : ∀ (l : List Nat) (d : Dev),
    (l.foldl (Dev.alertPage words) d).rd Reg.pinsPmbusStatus_status j =
      if j ∈ l then words.getD j 0 else d.rd Reg.pinsPmbusStatus_status j
  | [], d => by simp
  | i :: l, d => by
    rw [List.foldl_cons, Dev.rd_foldl_alertPage words j l, Dev.rd_alertPage]
    by_cases h : j = i <;> simp [h]

theorem Dev.mem_enabledPages (d : Dev) {i : Nat} (h : i < 8) : i ∈ d.enabledPages ↔ d.flag Reg.powerVrmPage_enable i = true := by
  simp [Dev.enabledPages, h]

theorem Dev.enabledPages_nil {d : Dev} (h : ∀ i, i < 8 → d.flag Reg.powerVrmPage_enable i = false) : d.enabledPages = [] := by
  simpa [Dev.enabledPages, List.filter_eq_nil_iff] using h

/-! ### The test access port (R581) -/

/-- An instruction that selects its code under PERST_N alone. -/
theorem Dev.selectTap_perst (d : Dev) (code : Nat) : d.selectTap code true = { d with tap := if d.perstLow then code else 0xFF } := by
  unfold Dev.selectTap
  cases d.perstLow <;> rfl

end Sys2Proof.Machine
end

section
/-! The statements on the object dictionary, settled. -/

namespace Sys2Proof.ObjectDictionary
open Sys2Proof.Machine Sys2Proof.Safety

/-- Settles O9: the status word is four bytes side by side, and `standing` is a cascade of two tests. -/
theorem statusWord : Obligations.StatusWord := by
  intro d code area hcode harea
  obtain ⟨h0, h8, h16, h24⟩ := bits_of_four_bytes (a := code % 256) (b := d.attention.toNat)
    (c := d.rd Reg.dictionaryAttentionLogHead % 256) (e := area % 256) (by omega) d.attention.isLt (by omega) (by omega)
  refine ⟨h0.trans (Nat.mod_eq_of_lt hcode), h8, h16, h24.trans (Nat.mod_eq_of_lt harea), ?_, ?_, ?_, ?_⟩
  · intro h; simp [Dev.standing, h]
  · intro h; simp [Dev.standing, h]
  · intro h1 h2; simp [Dev.standing, h1, h2]
  · intro h1 h2; simp [Dev.standing, h1, h2]

/-- Settles O10: an event is two entries on the device with the bit set, each read back by its own rule; an acknowledgement clears the bit
unless LOG is raised again. -/
theorem attentionEvent : Obligations.AttentionEvent := by
  refine ⟨?_, fun d n b hb hb' => ⟨fun hset hseq hlast hl => ?_, fun k => ?_⟩⟩
  · intro d c hc hc' h e
    obtain ⟨lseq, lstatus, lbit, lkind, lcontext, lstream, ldetail⟩ := d.rd_record_log c
    obtain ⟨cseq, ckind⟩ := d.rd_record_cause c
    refine ⟨?_, ?_, d.rd_record_head c, lseq, lstatus, lbit, lkind, lcontext, lstream, ldetail, cseq, ckind, ?_, ?_, ?_⟩
    · simp [e, d.attentionBit_record hc hc hc']
    · intro b hb hb' hne
      simp [e, d.attentionBit_record hc hb hb', hne]
    · exact fun i off n => d.rd_record_ne c off (by decide) (.inr n) (.inl (by decide))
    · exact fun i off n => d.rd_record_ne c off (by decide) (.inl (by decide)) (.inr n)
    · exact fun o i off nl nc nh => d.rd_record_ne c off nh (.inl nl) (.inl nc)
  · exact Dev.attentionBit_ackBit hb hb' (by simp [Dev.ackable, hset, hseq, hlast]) hl
  · refine Dev.ackBit_refused ?_
    rcases k with k | k | k
    · simp [Dev.ackable, k]
    · simp [Dev.ackable, Nat.not_le.2 k]
    · simp only [Dev.ackable, k]; simp

/-- Settles O11: the doorbell has one equation per state of the mailbox, and the state word stands at its own offset. -/
theorem mailboxDoorbell : Obligations.MailboxDoorbell := by
  refine ⟨fun s r o => ⟨fun i => ?_, fun b => ?_⟩, fun s m h o x => ?_, fun s m o => ⟨fun r => ?_, fun h => ?_⟩⟩
  · exact leads_of (f := mailboxDoorbellEffect) rfl ⟨rfl, r⟩ (Dev.hostDoorbell_idle o i)
  · exact leads_of (f := mailboxDoorbellEffect) rfl ⟨rfl, r⟩ (Dev.hostDoorbell_busy o b)
  · exact leads_of rfl h (mailboxStateReadEffect_open (by simpa [Instr.wf] using h.1) o x)
  · exact leads_of (f := mailboxDoorbellEffect) rfl ⟨rfl, r⟩ (Dev.hostDoorbell_closed o)
  · exact leads_of rfl h (mailboxStateReadEffect_closed o)

/-- Settles O6: serving a request is one lookup of its checks, whatever its row. -/
theorem mailboxRequest : Obligations.MailboxRequest := by
  intro row hrow s r w i e
  have l := leads_requestRow hrow w i e
  refine ⟨fun o pass => ?_, fun code fail => ?_⟩
  · rwa [Dev.serve_passed pass] at l
  · rwa [Dev.serve_refused fail] at l

/-- Settles O8: the request passes, so its reply is that of `performWrite_one`, and storing is the row's operation. -/
theorem objectWrite : Obligations.ObjectWrite := by
  intro row hrow s r w i e hop hf hn d pass
  obtain ⟨request, store⟩ := storeRow_spec hrow
  have l := leads_requestRow request w i e
  have p : d.perform .mailbox r row.obj = d.performWrite .mailbox r row.obj := by simp [Dev.perform, hop]
  rw [Dev.serve_passed pass, p, Dev.performWrite_one hf hn] at l
  simpa only [store] using l

/-- Settles O12: which of the four things happens to a datagram is decided by the tests of `takeDictDatagram` and `byUdp` in order. -/
theorem udpDatagram : Obligations.UdpDatagram := by
  intro s port family source sourcePort data w hu hp d own
  have l (f : Dev) (h : d.takeDictDatagram { port, family, source, sourcePort, data } = f) :
      leads (.dictUdpDatagram port family source sourcePort data) s f :=
    leads_of rfl w ((dictUdpDatagramEffect_on hu hp).trans h)
  refine ⟨fun h => l _ (Dev.takeDictDatagram_dropped h), ?_⟩
  intro e hs hr hl r kept
  have a : d.takeDictDatagram { port, family, source, sourcePort, data } = _ := Dev.takeDictDatagram_admitted hs hr hl
  refine ⟨fun t => l _ ?_, fun t k hk => l _ ?_, ?_⟩
  · rw [a, t]; rfl
  · rw [a, if_pos t]; exact Dev.byUdp_kept hk
  · intro t hk x
    rw [a, if_pos t] at l
    have u := Dev.byUdp_served (d := d.turned 1) (port := port) (family := family) (source := source) hk
    refine ⟨fun hx => l _ ?_, fun hx => l _ ?_⟩
    · rw [u, if_pos hx]; rfl
    · rw [u, if_neg (ne_true_of_eq_false hx)]; rfl

/-- Settles O54, one clause of each source of traffic at a time: rings, pulses, lines, filtered inputs, CAN FD, PMBus, test access port. -/
theorem egressAndPins : Obligations.EgressAndPins := by
  refine ⟨?batches, ?rings, ?pulses, ?lines, ?inputs, ?can, ?alerts, ?tap⟩
  case batches =>
    intro s k v w
    refine ⟨fun n => leads_of rfl w (batchEgressEffect_none v n), fun b oldest => ⟨fun p => ?_, ?_⟩⟩
    · exact leads_of rfl w (batchEgressEffect_poisoned v oldest p)
    · intro sound udpDone none_dropped r ring ringDone
      have h : s.dev.AwaitsRing k b r := ⟨oldest, sound, udpDone, ringDone, none_dropped, ring⟩
      refine ⟨fun off => leads_of rfl w ?_, fun on master => ⟨?_, fun full => ?_⟩⟩
      · rw [h.egress_disabled v off, Dev.batchDead, h.stream_eq]
      · rintro c x rfl hx
        exact leads_of rfl w (h.egress_written on master hx)
      · exact yields_of rfl w (h.egress_waits_spec on master full)
  case rings =>
    intro d r c bytes size base made w hw hlen hsize
    obtain ⟨room, rfl⟩ := Dev.writeRing_some hw
    obtain ⟨hpad, hstart, hfit⟩ := d.ringStart_spec hsize
    refine ⟨d.ringPad r bytes.length, d.ringStart r bytes.length, hpad, hstart, hfit, Dev.rd_wr_same _ _ _ _, ?_, ⟨_, rfl⟩, (Dev.writeRing_frame hw).1⟩
    have bound := Dev.ringFree_bound (by omega) room
    rwa [← Nat.add_assoc] at bound
  case pulses =>
    intro s k w
    refine ⟨fun h => leads_of rfl w (dioPulseEndEffect_none h), fun t h => ⟨fun early => ?_, fun due => ?_⟩⟩
    · exact leads_of rfl w ((dioPulseEndEffect_some h).trans (if_neg (Nat.not_le.2 early)))
    · exact leads_of rfl w ((dioPulseEndEffect_some h).trans (if_pos due))
  case lines =>
    intro d a k e given
    refine ⟨Dev.driveLine_asserted given, fun latch => ?_, fun pulse => Dev.driveLine_pulse given pulse, (Dev.driveLine_frame given).1⟩
    rw [Dev.driveLine_latch given latch, Dev.dioLine_updDio_same]
    exact ⟨rfl, rfl⟩
  case inputs =>
    exact fun s k level w => ⟨fun h => leads_of rfl w (if_pos h), fun h => leads_of rfl w (if_neg h)⟩
  case can =>
    intro s
    refine ⟨fun w => ⟨fun h => ?_, fun on h => ?_⟩, fun w => ⟨fun h => ?_, fun h => ?_⟩, fun ok w => ⟨fun h => ?_, ?_⟩⟩
    · exact leads_of rfl w (canBusOffEffect_off h)
    · exact leads_of rfl w (canBusOffEffect_on on h)
    · exact leads_of rfl w (if_neg h)
    · refine yields_of rfl w ?_
      rw [canBusOffRecoveryEffect, if_pos h]
      simpa using s.dev.canOnBus_spec
    · exact leads_of rfl w (canFrameTransmittedEffect_idle ok h)
    · intro f fs wire on h
      refine ⟨fun events => yields_of rfl w ?_, fun events segments => yields_of rfl w ?_⟩
      · exact settle_canFrameTransmittedEffect ok on h (Dev.canHead_event events) wire ⟨rfl, rfl, rfl, rfl⟩
      · exact (settle_canFrameTransmittedEffect ok on h (Dev.canHead_segment events segments) wire ⟨rfl, rfl, rfl, rfl⟩).2
  case alerts =>
    intro s words w
    refine ⟨fun off => leads_of rfl w ?_, fun i hi => yields_of rfl w ?_⟩
    · rw [pmbAlertEffect_eq, Dev.enabledPages_nil off]; rfl
    · rw [settle_rd, pmbAlertEffect_eq, Dev.rd_foldl_alertPage]
      simp only [s.dev.mem_enabledPages hi]
  case tap =>
    intro s
    refine ⟨fun w => leads_of rfl w ?_, fun w => leads_of rfl w ?_, fun w => leads_of rfl w ?_, fun w => leads_of rfl w rfl,
      fun c w => leads_of rfl w rfl, fun w => leads_of rfl w rfl⟩
    · exact Dev.selectTap_perst _ _
    · exact Dev.selectTap_perst _ _
    · exact Dev.selectTap_perst _ _

end Sys2Proof.ObjectDictionary
end

section
/-! SUPPORT. What a port receives: what a frame, a packet and a datagram can change, and where each goes (R104 to R112, R121 to R125). -/

namespace Sys2Proof.Machine
open Sys2Proof.Safety

/-! ### What settling leaves alone -/

@[simp] theorem settle_handedUnits (d : Dev) : (settle d).handedUnits = d.handedUnits := by
  rcases settle_eq d with h | h
  · rw [h]
  · rw [h]; rfl

theorem settle_ports (d : Dev) : (settle d).ports = d.ports := by
  rcases settle_eq d with h | h <;> rw [h]
  rfl

theorem settle_lasting (d : Dev) : (settle d).lasting = d.lasting := by
  rcases settle_eq d with h | h <;> rw [h]
  rfl

/-! ### What receiving data leaves alone -/

/-- `e` is `d` but for fields of objects, the attention log, free values drawn, what was sent, ports, streams and when each last raised a
cause, and datagrams that wait for the dictionary: all that a received frame changes. -/
def Dev.Received (d e : Dev) : Prop :=
  ∃ f r a w n p s c q, e = { d with free := f, regs := r, attention := a, logWrapped := w, sent := n, ports := p, streams := s,
                                    raisedAt := c, dictWaiting := q }

theorem Dev.Received.refl (d : Dev) : d.Received d := ⟨_, _, _, _, _, _, _, _, _, rfl⟩

theorem Dev.Received.trans {a b c : Dev} (h : a.Received b) (k : b.Received c) : a.Received c := by
  obtain ⟨f, r, x, w, n, p, s, t, q, rfl⟩ := h
  obtain ⟨f', r', x', w', n', p', s', t', q', rfl⟩ := k
  exact ⟨f', r', x', w', n', p', s', t', q', rfl⟩

theorem Dev.Noted.received {d e : Dev} (h : d.Noted e) : d.Received e := by
  obtain ⟨f, r, a, w, rfl⟩ := h
  exact ⟨f, r, a, w, _, _, _, _, _, rfl⟩

theorem Dev.count_received (d : Dev) (r : Reg) (i n : Nat) : d.Received (d.count r i n) := (d.count_noted r i n).received

/-- A further step taken under a condition. -/
theorem Dev.Received.step_if {d a b : Dev} (h : d.Received a) (k : a.Received b) (p : Prop) [Decidable p] :
    d.Received (if p then b else a) := by
  split
  · exact h.trans k
  · exact h

theorem Dev.foldl_received {α : Type} (f : Dev → α → Dev) (h : ∀ (d : Dev) (x : α), d.Received (f d x)) (l : List α) :
    ∀ d : Dev, d.Received (l.foldl f d) := by
  induction l with
  | nil => exact Dev.Received.refl
  | cons x l ih => exact fun d => (h d x).trans (ih _)

theorem Dev.setStream_received (d : Dev) (s : Nat) (x : Stream) : d.Received (d.setStream s x) := ⟨_, _, _, _, _, _, _, _, _, rfl⟩

theorem Dev.updStream_received (d : Dev) (s : Nat) (f : Stream → Stream) : d.Received (d.updStream s f) := d.setStream_received s _

theorem Dev.setPorts_received (d : Dev) (p : Tbl Nat EthPort) : d.Received { d with ports := p } := ⟨_, _, _, _, _, _, _, _, _, rfl⟩

/-! ### What a port answers (R105, R106, R108) -/

theorem Dev.sendPort_received (d : Dev) (p : Nat) (x : Sent) : d.Received (d.sendPort p x) :=
  Dev.Received.trans (b := d.send x) ⟨_, _, _, _, _, _, _, _, _, rfl⟩ (Dev.count_received _ _ _ _)

theorem Dev.learn_received (d : Dev) (p address mac : Nat) : d.Received (d.learn p address mac) :=
  (d.setPorts_received _).trans (Dev.foldl_received _ (fun d _ => d.sendPort_received p _) _ _)

theorem Dev.arp_received (d : Dev) (p : Nat) (b : List Byte) : d.Received (d.arp p b) := by
  unfold Dev.arp; dsimp only; split
  · exact (d.learn_received _ _ _).step_if (Dev.sendPort_received _ _ _) _
  · exact Dev.Received.refl d

theorem Dev.answerQuery_received (d : Dev) (p : Nat) : d.Received (d.answerQuery p) :=
  Dev.foldl_received _ (fun d _ => d.sendPort_received p _) _ _

theorem Dev.control_received (d : Dev) (p mac : Nat) (k : IpPacket) : d.Received (d.control p mac k) := by
  unfold Dev.control; dsimp only
  split
  · exact (Dev.Received.refl d).step_if (d.sendPort_received _ _) _
  split
  · exact (Dev.Received.refl d).step_if ((d.learn_received _ _ _).trans (Dev.sendPort_received _ _ _)) _
  split
  · exact d.learn_received _ _ _
  · exact (Dev.Received.refl d).step_if (d.answerQuery_received p) _

/-! ### What a packet does to its stream (R121 to R125, R136) -/

theorem Dev.streamOnce_received (d : Dev) (area stream detail code codeArea context : Nat) :
    d.Received (d.streamOnce area stream detail code codeArea context) :=
  (Dev.Received.refl d).step_if
    (Dev.Received.trans (b := { d with raisedAt := d.raisedAt.put (area, stream, detail) d.now }) ⟨_, _, _, _, _, _, _, _, _, rfl⟩
      (Dev.attend_noted _ _).received) _

theorem Dev.countLost_received (d : Dev) (s : Nat) (before after : Window) : d.Received (d.countLost s before after) := by
  unfold Dev.countLost; dsimp only; split
  · exact Dev.Received.refl d
  · exact d.count_received _ _ _

theorem Dev.withWindow_received (d : Dev) (s : Nat) (w : Window) : d.Received (d.withWindow s w) :=
  (d.countLost_received _ _ _).trans (Dev.setStream_received _ _ _)

theorem Dev.resync_received (d : Dev) (s seq : Nat) (p : HeldPacket) : d.Received (d.resync s seq p) :=
  (((((d.count_received _ _ _).trans (Dev.withWindow_received _ _ _)).step_if (Dev.count_received _ _ _ _) _).trans
    (Dev.updStream_received _ _ _)).trans (Dev.updStream_received _ _ _)).trans (Dev.streamOnce_received _ _ _ _ _ _ _)

theorem Dev.placePacket_received (d : Dev) (s seq : Nat) (p : HeldPacket) : d.Received (d.placePacket s seq p) := by
  unfold Dev.placePacket; dsimp only
  split
  · exact d.updStream_received _ _
  split
  · exact d.count_received _ _ _
  split
  · exact d.count_received _ _ _
  · exact ((Dev.Received.refl d).step_if (d.count_received _ _ _) _).trans (Dev.withWindow_received _ _ _)

theorem Dev.takeRtp_received (d : Dev) (s : Nat) (r : RtpPacket) : d.Received (d.takeRtp s r) := by
  have taken (f : Stream → Stream) : d.Received ((d.count Reg.junctionStreamCounters_packets s).updStream s f) :=
    (d.count_received _ _ _).trans (Dev.updStream_received _ _ _)
  unfold Dev.takeRtp; dsimp only
  split
  · exact ((taken _).step_if (Dev.count_received _ _ _ _) _).trans (Dev.withWindow_received _ _ _)
  split
  · exact (taken _).trans (Dev.placePacket_received _ _ _ _)
  split
  · exact ((taken _).trans (Dev.updStream_received _ _ _)).trans (Dev.resync_received _ _ _ _)
  · exact (((taken _).trans (Dev.updStream_received _ _ _)).trans (Dev.count_received _ _ _ _)).trans (Dev.placePacket_received _ _ _ _)

theorem Dev.takeDatagram_received (d : Dev) (p : Nat) (k : IpPacket) : d.Received (d.takeDatagram p k) := by
  unfold Dev.takeDatagram; dsimp only
  split
  · exact ⟨_, _, _, _, _, _, _, _, _, rfl⟩
  split
  · exact d.count_received _ _ _
  split
  · split
    · exact d.takeRtp_received _ _
    · exact d.count_received _ _ _
  · split <;> exact d.count_received _ _ _

/-! ### A received frame (R104, R107, R110) -/

/-- An IP packet of a frame that its port takes. -/
def Dev.takeIp (d : Dev) (p mac : Nat) (k : IpPacket) : Dev :=
  if k.fragment then d.count Reg.junctionPortCounters_fragments p
  else if k.proto = 17 then
    if udpChecksumBad k then d.count Reg.junctionPortCounters_checksumErrors p else d.takeDatagram p k
  else if k.proto = 6 then d.count Reg.junctionPortCounters_unbound p
  else d.control p mac k

/-- A frame that its port takes: of no interest, answered, or a packet. -/
def Dev.takeFrame (d : Dev) (p : Nat) (h : EthHeader) : Dev :=
  if h.type = 0x8808 then d
  else if h.type = 0x0806 then d.arp p h.payload
  else match parseIp h.type h.payload with
    | none => d
    | some k => d.takeIp p h.src k

/-- A frame counted as received: dropped and counted by the first condition it meets, or taken. -/
def Dev.sortFrame (d : Dev) (p : Nat) (fcsOk beyond : Bool) (h : EthHeader) : Dev :=
  if beyond then d.count Reg.junctionPortCounters_droppedAtRate p
  else if !fcsOk then d.count Reg.junctionPortCounters_badFcs p
  else if !d.acceptsMac p h.dst ∨ h.vlan.getD 0 ≠ d.rd Reg.junctionPortConfig_vlan p then d.count Reg.junctionPortCounters_notAddressed p
  else d.takeFrame p h

theorem ethFrameReceivedEffect_off {d : Dev} {p : Nat} (fcsOk beyond : Bool) (f : List Byte) (off : d.portOn p = false) :
    ethFrameReceivedEffect p fcsOk beyond f d = d := by
  simp [ethFrameReceivedEffect, off]

theorem ethFrameReceivedEffect_on {d : Dev} {p : Nat} (fcsOk beyond : Bool) (f : List Byte) (on : d.portOn p = true) :
    ethFrameReceivedEffect p fcsOk beyond f d = (d.count Reg.junctionPortCounters_received p).sortFrame p fcsOk beyond (parseEth f) := by
  rw [ethFrameReceivedEffect, if_neg (by simp [on])]; rfl

theorem Dev.sortFrame_taken {d : Dev} {p : Nat} {h : EthHeader}
    (mine : d.acceptsMac p h.dst = true ∧ h.vlan.getD 0 = d.rd Reg.junctionPortConfig_vlan p) :
    d.sortFrame p true false h = d.takeFrame p h := by
  simp [Dev.sortFrame, mine]

theorem Dev.sortFrame_notMine {d : Dev} {p : Nat} {h : EthHeader}
    (other : ¬(d.acceptsMac p h.dst = true ∧ h.vlan.getD 0 = d.rd Reg.junctionPortConfig_vlan p)) :
    d.sortFrame p true false h = d.count Reg.junctionPortCounters_notAddressed p := by
  have dropped : (!d.acceptsMac p h.dst) = true ∨ h.vlan.getD 0 ≠ d.rd Reg.junctionPortConfig_vlan p := by
    cases mac : d.acceptsMac p h.dst with
    | false => exact .inl rfl
    | true => exact .inr fun vlan => other ⟨mac, vlan⟩
  rw [Dev.sortFrame, if_neg (by decide), if_neg (by decide), if_pos dropped]

theorem Dev.takeFrame_ip {d : Dev} {p : Nat} {h : EthHeader} {k : IpPacket} (noPause : h.type ≠ 0x8808) (noArp : h.type ≠ 0x0806)
    (ip : parseIp h.type h.payload = some k) : d.takeFrame p h = d.takeIp p h.src k := by
  simp [Dev.takeFrame, noPause, noArp, ip]

theorem Dev.takeIp_received (d : Dev) (p mac : Nat) (k : IpPacket) : d.Received (d.takeIp p mac k) := by
  unfold Dev.takeIp
  split
  · exact d.count_received _ _ _
  split
  · split
    · exact d.count_received _ _ _
    · exact d.takeDatagram_received _ _
  split
  · exact d.count_received _ _ _
  · exact d.control_received _ _ _

theorem Dev.takeFrame_received (d : Dev) (p : Nat) (h : EthHeader) : d.Received (d.takeFrame p h) := by
  unfold Dev.takeFrame
  split
  · exact Dev.Received.refl d
  split
  · exact d.arp_received _ _
  split
  · exact Dev.Received.refl d
  · exact d.takeIp_received _ _ _

theorem Dev.sortFrame_received (d : Dev) (p : Nat) (fcsOk beyond : Bool) (h : EthHeader) : d.Received (d.sortFrame p fcsOk beyond h) := by
  unfold Dev.sortFrame
  split
  · exact d.count_received _ _ _
  split
  · exact d.count_received _ _ _
  split
  · exact d.count_received _ _ _
  · exact d.takeFrame_received _ _

theorem ethFrameReceivedEffect_received (p : Nat) (fcsOk beyond : Bool) (f : List Byte) (d : Dev) :
    d.Received (ethFrameReceivedEffect p fcsOk beyond f d) := by
  cases on : d.portOn p with
  | false => rw [ethFrameReceivedEffect_off fcsOk beyond f on]; exact Dev.Received.refl d
  | true =>
    rw [ethFrameReceivedEffect_on fcsOk beyond f on]
    exact (d.count_received _ _ _).trans (Dev.sortFrame_received _ _ _ _ _)

/-- What settling leaves of a device that received something. -/
theorem Dev.Received.settled {d e : Dev} (h : d.Received e) :
    (settle e).mem = d.mem ∧ (settle e).memFree = d.memFree ∧ (settle e).queues = d.queues ∧ (settle e).contexts = d.contexts ∧
      (settle e).handedUnits = d.handedUnits := by
  obtain ⟨f, r, a, w, n, p, s, c, q, rfl⟩ := h
  simp

/-! ### Which stream a datagram goes to (R110, R111) -/

/-- The lowest number of a rising list of which `p` holds is the one found. -/
theorem find?_lowest {l : List Nat} (rises : l.Pairwise (· < ·)) {p : Nat → Bool} {s : Nat} (mem : s ∈ l) (hs : p s = true)
    (lower : ∀ n ∈ l, n < s → p n = false) : l.find? p = some s := by
  obtain ⟨before, after, rfl⟩ := List.append_of_mem mem
  refine List.find?_eq_some_iff_append.2 ⟨hs, before, after, rfl, fun n hn => ?_⟩
  obtain ⟨-, -, across⟩ := List.pairwise_append.1 rises
  have below : n < s := across n hn s (by simp)
  simp [lower n (by simp [hn]) below]

/-- The data of a datagram. -/
def IpPacket.data (k : IpPacket) : List Byte := (k.payload.take (be k.payload 4 2)).drop 8

/-- A datagram at one of the port's own addresses and the dictionary's port, while the dictionary answers UDP. -/
def Dev.forDictionary (d : Dev) (p : Nat) (k : IpPacket) : Prop :=
  d.flag Reg.dictionaryUdpEnable = true ∧ ((d.portAddresses p).any fun a => a.2 == k.dst) = true ∧
    be k.payload 2 2 = d.rd Reg.dictionaryUdpPort

/-- The streams whose address and ports a datagram fits, lowest first. -/
def Dev.fitting (d : Dev) (p : Nat) (k : IpPacket) : List Nat := (List.range 1024).filter (d.datagramFits p k)

theorem Dev.fitting_rises (d : Dev) (p : Nat) (k : IpPacket) : (d.fitting p k).Pairwise (· < ·) := List.pairwise_lt_range.filter _

theorem Dev.takeDatagram_dictionary {d : Dev} {p : Nat} {k : IpPacket} (h : d.forDictionary p k) :
    d.takeDatagram p k = { d with dictWaiting := d.dictWaiting ++
      [{ port := p, family := k.family, source := k.src, sourcePort := be k.payload 0 2, data := k.data }] } := by
  obtain ⟨on, own, port⟩ := h
  rw [Dev.takeDatagram, if_pos (by simp [on, own, port])]; rfl

/-- A packet offered to the streams whose address and ports it fits (R111). -/
def Dev.offerRtp (d : Dev) (p : Nat) (fits : List Nat) (r : RtpPacket) : Dev :=
  match fits.find? fun s => d.ssrcFits s r with
  | some s => if d.payloadFits s r then d.takeRtp s r else d.count Reg.junctionStreamCounters_wrongSsrc s
  | none =>
    match fits with
    | s :: _ => d.count Reg.junctionStreamCounters_wrongSsrc s
    | [] => d.count Reg.junctionPortCounters_unbound p

section
variable {d : Dev} {p : Nat} {k : IpPacket} (h : ¬d.forDictionary p k)
include h

theorem Dev.takeDatagram_streams : d.takeDatagram p k =
    match (if isRtcp k.data then none else parseRtp k.data) with
    | none => d.count Reg.junctionPortCounters_unbound p
    | some r => d.offerRtp p (d.fitting p k) r := by
  have no : ¬(d.flag Reg.dictionaryUdpEnable && ((d.portAddresses p).any fun a => a.2 == k.dst) &&
      be k.payload 2 2 == d.rd Reg.dictionaryUdpPort) = true := by simpa [Dev.forDictionary, and_assoc] using h
  unfold Dev.takeDatagram Dev.fitting
  dsimp only
  rw [if_neg no]
  generalize (List.range 1024).filter (d.datagramFits p k) = fits
  rfl

theorem Dev.takeDatagram_notRtp (n : isRtcp k.data = true ∨ parseRtp k.data = none) :
    d.takeDatagram p k = d.count Reg.junctionPortCounters_unbound p := by
  have none_ : (if isRtcp k.data then none else parseRtp k.data) = none := by simpa using fun rtcp => n.resolve_left (by simp [rtcp])
  rw [Dev.takeDatagram_streams h, none_]

theorem Dev.takeDatagram_rtp {r : RtpPacket} (rtcp : isRtcp k.data = false) (rtp : parseRtp k.data = some r) :
    d.takeDatagram p k = d.offerRtp p (d.fitting p k) r := by
  rw [Dev.takeDatagram_streams h, rtcp, rtp]; rfl

theorem Dev.takeDatagram_fitsNone (n : d.fitting p k = []) : d.takeDatagram p k = d.count Reg.junctionPortCounters_unbound p := by
  by_cases rtp : isRtcp k.data = true ∨ parseRtp k.data = none
  · exact Dev.takeDatagram_notRtp h rtp
  · rw [not_or, Bool.not_eq_true, ← ne_eq, Option.ne_none_iff_exists'] at rtp
    obtain ⟨rtcp, r, rtp⟩ := rtp
    rw [Dev.takeDatagram_rtp h rtcp rtp, n]; rfl

end

theorem Dev.offerRtp_taken {d : Dev} {p s : Nat} {fits : List Nat} {r : RtpPacket} (found : fits.find? (fun n => d.ssrcFits n r) = some s) :
    d.offerRtp p fits r = if d.payloadFits s r then d.takeRtp s r else d.count Reg.junctionStreamCounters_wrongSsrc s := by
  simp [Dev.offerRtp, found]

theorem Dev.offerRtp_wrongSsrc {d : Dev} {p s : Nat} {rest : List Nat} {r : RtpPacket} (none_ : ∀ n ∈ s :: rest, d.ssrcFits n r = false) :
    d.offerRtp p (s :: rest) r = d.count Reg.junctionStreamCounters_wrongSsrc s := by
  have lost : (s :: rest).find? (fun n => d.ssrcFits n r) = none := List.find?_eq_none.2 fun n hn => by simp [none_ n hn]
  simp only [Dev.offerRtp, lost]

/-! ### The place of a packet, and gaps (R121, R124, R125) -/

/-- A packet that its stream's window does not set aside is a duplicate, late or placed (R124). -/
theorem Dev.placePacket_near {d : Dev} {s seq : Nat} {p : HeldPacket}
    (notAhead : ¬(((d.stream s).window.highest : Int) + 3000 < (d.stream s).window.extend seq))
    (notBehind : ¬((d.stream s).window.extend seq + 100 < ((d.stream s).window.highest : Int) ∧
      (d.stream s).window.extend seq < ((d.stream s).window.next : Int))) :
    d.placePacket s seq p =
      let w := (d.stream s).window
      let n := (w.extend seq).toNat
      if (w.held.find? n).isSome ∨ w.gone.contains n then d.count Reg.junctionStreamCounters_duplicate s
      else if n < w.next ∨ w.losses.contains n then d.count Reg.junctionStreamCounters_late s
      else
        let d := if p.items.isNone then d.count Reg.junctionStreamCounters_lost s else d
        d.withWindow s (w.place n d.now (d.rd Reg.junctionStreamConfig_windowPackets s) p) := by
  unfold Dev.placePacket; dsimp only; rw [if_neg (not_or.2 ⟨notAhead, notBehind⟩)]

/-- A gap whose timer has run for gap_ticks. -/
def Dev.gapDue (d : Dev) (s g : Nat) : Prop :=
  ∃ e ∈ (d.stream s).window.gaps, e.1 = g ∧ e.2 + d.rd Reg.junctionStreamConfig_gapTicks s ≤ d.now

theorem gapTimerExpiryEffect_due {d : Dev} {s g : Nat} (h : d.gapDue s g) :
    gapTimerExpiryEffect s g d = d.withWindow s ((d.stream s).window.lose g) :=
  if_pos (by simpa [Dev.gapDue] using h)

theorem gapTimerExpiryEffect_notDue {d : Dev} {s g : Nat} (h : ¬d.gapDue s g) : gapTimerExpiryEffect s g d = d :=
  if_neg (by simpa [Dev.gapDue] using h)

/-- A gap lost is a loss, and a gap no more. -/
theorem Window.lose_spec (w : Window) (g : Nat) : g ∈ (w.lose g).losses ∧ ∀ e ∈ (w.lose g).gaps, e.1 ≠ g := by
  simp [Window.lose]

end Sys2Proof.Machine
end

section
/-! SUPPORT. Links that change, streams that become stopped, and pushes (R109, R113 to R115, R118, R120, R137). -/

namespace Sys2Proof.Machine
open Sys2Proof.Safety

/-! ### Causes raised and ended (R53, R54) -/

/-- An event leaves its detail with the bit's latest cause, unless the bit is LOG. -/
theorem Dev.rd_attend_causeDetail (d : Dev) {c : Cause} (hc : 8 ≤ c.bit) (notLog : c.bit ≠ Bit.log) :
    (d.attend c).rd Reg.dictionaryAttentionCause_detail (c.bit - 8) = c.detail % 65536 := by
  have one : (d.record c).rd Reg.dictionaryAttentionCause_detail (c.bit - 8) = c.detail % 65536 := by
    rw [Dev.record_eq]
    obtain ⟨-, -, -, -, -, -, detail⟩ := Dev.rd_putEntry_same
      ((d.setBit c.bit).advanceLog.putEntry .dictionaryAttentionLog
        (d.rd Reg.dictionaryAttentionLogHead % 256) (d.rd Reg.dictionaryAttentionLogHead) (d.eventKind c) c)
      .dictionaryAttentionCause (c.bit - 8) (d.rd Reg.dictionaryAttentionLogHead) (d.eventKind c) c
    exact detail
  rcases d.attend_cases c with h | h <;> rw [h]
  · exact one
  · have other : c.bit - 8 ≠ Bit.log - 8 := by have : Bit.log = 15 := rfl; omega
    exact ((d.record c).rd_record_ne _ _ (by decide) (.inl (by decide)) (.inr other)).trans one

theorem Dev.beginLasting_cases (d : Dev) (c : Cause) :
    (c.lasting ∈ d.lasting ∧ d.beginLasting c = d) ∨ d.beginLasting c = Dev.attend { d with lasting := c.lasting :: d.lasting } c := by
  unfold Dev.beginLasting; split
  · next h => exact .inl ⟨by simpa using h, rfl⟩
  · exact .inr rfl

/-- `e` is `d` but for lasting causes and what counting and attention events change, and no field outside the attention log changed. -/
def Dev.Alerted (d e : Dev) : Prop :=
  (∃ l, Dev.Noted { d with lasting := l } e) ∧ ∀ o off i, o.ofAttention = false → e.rd ⟨o, off⟩ i = d.rd ⟨o, off⟩ i

theorem Dev.Alerted.frame {d e : Dev} (h : d.Alerted e) :
    e.ports = d.ports ∧ e.mem = d.mem ∧ e.queues = d.queues ∧ e.streams = d.streams ∧ e.contexts = d.contexts := by
  obtain ⟨⟨l, f, r, a, w, rfl⟩, -⟩ := h
  exact ⟨rfl, rfl, rfl, rfl, rfl⟩

/-- Lasting causes change and an event is recorded. -/
theorem Dev.attend_alerted (d : Dev) (l : List Lasting) (c : Cause) : d.Alerted (Dev.attend { d with lasting := l } c) :=
  ⟨⟨l, Dev.attend_noted _ c⟩, fun _ off i n => (Dev.rd_attend_ne _ c n off i).trans (Dev.rd_of_regs rfl _ _)⟩

theorem Dev.beginLasting_alerted (d : Dev) (c : Cause) : d.Alerted (d.beginLasting c) := by
  rcases d.beginLasting_cases c with ⟨-, h⟩ | h <;> rw [h]
  · exact ⟨⟨d.lasting, Dev.Noted.refl d⟩, fun _ _ _ _ => rfl⟩
  · exact d.attend_alerted _ c

theorem Dev.attend_lasting (d : Dev) (c : Cause) : (d.attend c).lasting = d.lasting := by
  obtain ⟨f, r, a, w, h⟩ := d.attend_noted c
  rw [h]

theorem Dev.lasting_mem_beginLasting (d : Dev) (c : Cause) : c.lasting ∈ (d.beginLasting c).lasting := by
  rcases d.beginLasting_cases c with ⟨mem, h⟩ | h <;> rw [h]
  · exact mem
  · rw [Dev.attend_lasting]; exact List.mem_cons_self

/-! ### A port's link (R109) -/

/-- The port's link as it stands now, with its state objects, before anything is raised. -/
def Dev.reportLink (d : Dev) (p : Nat) (up : Bool) : Dev :=
  let e := (Dev.setFlag { d with ports := d.ports.put p { d.ports.getD p {} with up } } Reg.junctionPortState_linkUp p up).count
    Reg.junctionPortState_linkChanges p
  let speed := e.rd Reg.junctionPortConfig_speed p
  let fec := e.rd Reg.junctionPortConfig_fec p
  (e.wr Reg.junctionPortState_speed p (if up then speed else 0)).wr Reg.junctionPortState_fec p
    (if up then (if speed = 1 ∧ fec = 2 then 0 else fec) else 0)

/-- The lasting cause of a port whose link is down. -/
def linkCause (p : Nat) (l : Lasting) : Bool := l.bit == Bit.link && l.area == 0x04 && l.detail == p

theorem portLinkChangeEffect_same {d : Dev} {p : Nat} {up : Bool} (h : d.portOn p = false ∨ (d.ports.getD p {}).up = up) :
    portLinkChangeEffect p up d = d := by
  rcases h with h | h <;> simp [portLinkChangeEffect, h]

section
variable {d : Dev} {p : Nat}

theorem portLinkChangeEffect_up (on : d.portOn p = true) (h : (d.ports.getD p {}).up ≠ true) :
    portLinkChangeEffect p true d =
      ((d.reportLink p true).endLasting (linkCause p)).attend { bit := Bit.link, area := 0x04, detail := p } := by
  rw [portLinkChangeEffect, if_neg (by simp [on, h])]; rfl

theorem portLinkChangeEffect_down (on : d.portOn p = true) (h : (d.ports.getD p {}).up ≠ false) :
    portLinkChangeEffect p false d =
      (d.reportLink p false).beginLasting { bit := Bit.link, code := 0x32, area := 0x04, detail := p } := by
  rw [portLinkChangeEffect, if_neg (by simp [on, h])]; rfl

end

theorem portLinkChangeEffect_alerted {d : Dev} {p : Nat} {up : Bool} (on : d.portOn p = true) (h : (d.ports.getD p {}).up ≠ up) :
    (d.reportLink p up).Alerted (portLinkChangeEffect p up d) := by
  cases up with
  | true => rw [portLinkChangeEffect_up on h]; exact Dev.attend_alerted _ _ _
  | false => rw [portLinkChangeEffect_down on h]; exact Dev.beginLasting_alerted _ _

/-- A link that comes up raises LINK with the port in the detail, and ends the cause of its being down. -/
theorem portLinkChangeEffect_up_raises {d : Dev} {p : Nat} (on : d.portOn p = true) (h : (d.ports.getD p {}).up ≠ true) (hp : p < 65536) :
    (portLinkChangeEffect p true d).attentionBit Bit.link = true ∧
    (∀ l ∈ (portLinkChangeEffect p true d).lasting, ¬(l.bit = Bit.link ∧ l.area = 0x04 ∧ l.detail = p)) ∧
    (portLinkChangeEffect p true d).rd Reg.dictionaryAttentionCause_detail (Bit.link - 8) = p := by
  rw [portLinkChangeEffect_up on h]
  refine ⟨Dev.attentionBit_attend _ (show 8 ≤ Bit.link by decide) (show Bit.link ≤ 15 by decide), ?_, ?_⟩
  · rintro l mem ⟨link, area, port⟩
    rw [Dev.attend_lasting] at mem
    simpa [linkCause, link, area, port] using (List.mem_filter.1 mem).2
  · exact (Dev.rd_attend_causeDetail _ (show 8 ≤ Bit.link by decide) (show Bit.link ≠ Bit.log by decide)).trans (Nat.mod_eq_of_lt hp)

/-- A link that goes down begins a lasting LINK cause with LINK_DOWN. -/
theorem portLinkChangeEffect_down_lasts {d : Dev} {p : Nat} (on : d.portOn p = true) (h : (d.ports.getD p {}).up ≠ false) :
    ∃ l ∈ (portLinkChangeEffect p false d).lasting, l.bit = Bit.link ∧ l.code = 0x32 ∧ l.area = 0x04 ∧ l.detail = p := by
  rw [portLinkChangeEffect_down on h]
  exact ⟨_, Dev.lasting_mem_beginLasting _ _, rfl, rfl, rfl, rfl⟩

theorem Dev.count_eq_wr {d : Dev} {r : Reg} {i : Nat} (fits : d.rd r i + 1 < 2 ^ r.width) : d.count r i = d.wr r i (d.rd r i + 1) := if_pos fits

theorem Dev.rd_count_off_ne (d : Dev) (r p : Reg) (i n j : Nat) (h : r.obj ≠ p.obj ∨ r.off ≠ p.off) : (d.count r i n).rd p j = d.rd p j := by
  have key : (⟨r.obj, i, r.off⟩ : RegKey) ≠ ⟨p.obj, j, p.off⟩ := by
    intro e; injection e with o _ off; exact h.elim (· o) (· off)
  unfold Dev.count; dsimp only; split
  · exact d.rd_wr_ne _ _ _ _ _ key
  · exact (Dev.rd_of_regs rfl _ _).trans (d.rd_wr_ne r p i j _ key)

theorem Dev.rd_setPorts (d : Dev) (x : Tbl Nat EthPort) (r : Reg) (i : Nat) : ({ d with ports := x } : Dev).rd r i = d.rd r i := rfl

/-- What a port's state object reads then. -/
theorem Dev.rd_reportLink (d : Dev) (p : Nat) (up : Bool) :
    (d.reportLink p up).rd Reg.junctionPortState_linkUp p = (if up then 1 else 0) ∧
    (d.reportLink p up).rd Reg.junctionPortState_speed p = (if up then d.rd Reg.junctionPortConfig_speed p else 0) := by
  constructor
  · simp [Dev.reportLink, Dev.rd_wr, Dev.rd_count_off_ne, Dev.setFlag, b2n]
  · simp [Dev.reportLink, Dev.rd_wr, Dev.rd_count_off_ne, Dev.setFlag, Dev.rd_setPorts]

/-- One link change more is counted, as long as the count has room. -/
theorem Dev.rd_reportLink_changes {d : Dev} {p : Nat} (up : Bool)
    (room : d.rd Reg.junctionPortState_linkChanges p + 1 < 2 ^ Reg.junctionPortState_linkChanges.width) :
    (d.reportLink p up).rd Reg.junctionPortState_linkChanges p = d.rd Reg.junctionPortState_linkChanges p + 1 := by
  have before (x : Tbl Nat EthPort) : (Dev.setFlag { d with ports := x } Reg.junctionPortState_linkUp p up).rd Reg.junctionPortState_linkChanges p =
      d.rd Reg.junctionPortState_linkChanges p := by simp [Dev.setFlag, Dev.rd_wr, Dev.rd_setPorts]
  unfold Dev.reportLink
  rw [Dev.count_eq_wr (by rwa [before]), before]
  simp [Dev.rd_wr]

theorem Dev.rd_reportLink_ne (d : Dev) (p : Nat) (up : Bool) {o : Obj} (n : o ≠ .junctionPortState) (off i : Nat) :
    (d.reportLink p up).rd ⟨o, off⟩ i = d.rd ⟨o, off⟩ i := by
  have miss (r : Reg) (v : Nat) (h : r.obj = .junctionPortState) (e : Dev) : (e.wr r p v).rd ⟨o, off⟩ i = e.rd ⟨o, off⟩ i :=
    e.rd_wr_obj_ne r p v (h ▸ n.symm) off i
  simp only [Dev.reportLink, Dev.setFlag]
  rw [miss _ _ rfl, miss _ _ rfl, Dev.rd_count_ne _ _ _ _ n.symm, miss _ _ rfl, Dev.rd_setPorts]

theorem Dev.reportLink_frame (d : Dev) (p : Nat) (up : Bool) :
    ((d.reportLink p up).ports.getD p {}).up = up ∧ (d.reportLink p up).mem = d.mem ∧ (d.reportLink p up).queues = d.queues ∧
      (d.reportLink p up).streams = d.streams ∧ (d.reportLink p up).contexts = d.contexts := by
  obtain ⟨f, r, a, w, h⟩ := (Dev.count_noted
    (Dev.setFlag { d with ports := d.ports.put p { d.ports.getD p {} with up } } Reg.junctionPortState_linkUp p up)
    Reg.junctionPortState_linkChanges p 1)
  unfold Dev.reportLink
  rw [h]; simp

/-! ### A stream that becomes stopped (R120) -/

theorem streamBecomesStoppedEffect_notDrained {d : Dev} {s : Nat} (h : d.drained s = false) : streamBecomesStoppedEffect s d = d := by
  simp [streamBecomesStoppedEffect, h]

theorem streamBecomesStoppedEffect_drained {d : Dev} {s : Nat} (h : d.drained s = true) : streamBecomesStoppedEffect s d =
    if (d.stream s).restart then (d.stopStream s).enableStream s else d.stopStream s := by
  simp [streamBecomesStoppedEffect, h]

@[simp] theorem Dev.stream_setStream_same (d : Dev) (s : Nat) (x : Stream) : (d.setStream s x).stream s = x := by
  simp [Dev.stream, Dev.setStream]

/-- Nothing is left of a stopped stream. -/
theorem Dev.stream_stopStream (d : Dev) (s : Nat) : (d.stopStream s).stream s = {} := Dev.stream_setStream_same _ s {}

/-! ### Pushes (R113, R118, R120, R137) -/

theorem Stream.taking_ne_error {x : Stream} (h : x.taking = true) : x.phase ≠ .error := by
  intro e; simp [Stream.taking, e] at h

section
variable {d : Dev} {q i : Nat} {f : Fetched} (h : d.takeCommand q i 0x0401 = some f)
include h

theorem junctionPushEffect_error (e : (d.stream (le f.entry 8 2)).phase = .error) : junctionPushEffect q i d = d.complete q i 0x81 0x04 := by
  simp [junctionPushEffect, h, e]

theorem junctionPushEffect_notTaking (e : (d.stream (le f.entry 8 2)).phase ≠ .error) (t : (d.stream (le f.entry 8 2)).taking = false) :
    junctionPushEffect q i d = d.complete q i 0x80 0x04 := by
  simp [junctionPushEffect, h, e, t]

variable (t : (d.stream (le f.entry 8 2)).taking = true)
include t

theorem junctionPushEffect_notPushed (source : d.rd Reg.junctionStreamConfig_source (le f.entry 8 2) < 2) :
    junctionPushEffect q i d = d.complete q i 0x81 0x04 := by
  simp [junctionPushEffect, h, Stream.taking_ne_error t, t, source]

theorem junctionPushEffect_waits (source : 2 ≤ d.rd Reg.junctionStreamConfig_source (le f.entry 8 2))
    (w : f.data.length < le f.entry 12 4 ∨ d.earlierPush (le f.entry 8 2) f.order = true) : junctionPushEffect q i d = d := by
  simp [junctionPushEffect, h, Stream.taking_ne_error t, t, Nat.not_lt.2 source, w]

variable (arrived : le f.entry 12 4 ≤ f.data.length) (first : d.earlierPush (le f.entry 8 2) f.order = false)
include arrived first

/-- An RTP push is parsed; its code and detail say whether a length before a packet was malformed (R113). -/
theorem junctionPushEffect_rtp (source : d.rd Reg.junctionStreamConfig_source (le f.entry 8 2) = 2) :
    junctionPushEffect q i d =
      let n := le f.entry 8 2
      let fin := (byteAt f.entry 10).testBit 0
      let taken := d.updStream n Stream.run
      let x := taken.stream n
      let b := x.carry ++ f.data.take (le f.entry 12 4)
      let r := Dev.pushRtp (b.length + 1) taken n b fin
      let e := if fin then r.1.endOfData n else r.1
      if r.2.2 then e.complete q i 0x82 0x04 (r.2.1 - x.carry.length) else e.complete q i 0 0x04 (le f.entry 12 4) := by
  simp only [junctionPushEffect, h, Stream.taking_ne_error t, t, source, Nat.not_lt.2 arrived, first]
  rfl

/-- A transport stream's whole packets are taken (R114). -/
theorem junctionPushEffect_transport (source : d.rd Reg.junctionStreamConfig_source (le f.entry 8 2) = 3) :
    junctionPushEffect q i d =
      let n := le f.entry 8 2
      let taken := d.updStream n Stream.run
      let x := taken.stream n
      let b := x.carry ++ f.data.take (le f.entry 12 4)
      let e := taken.setStream n
        (Stream.tsPackets (b.length + 1) x (d.rd Reg.junctionStreamConfig_pid n) (d.rd Reg.junctionStreamConfig_codec n) b)
      (if (byteAt f.entry 10).testBit 0 then e.endOfData n else e).complete q i 0 0x04 (le f.entry 12 4) := by
  simp only [junctionPushEffect, h, Stream.taking_ne_error t, t, source, Nat.not_lt.2 arrived, first]
  rfl

/-- A file's whole boxes are taken, a malformed one raising STREAM (R115). -/
theorem junctionPushEffect_file (source : d.rd Reg.junctionStreamConfig_source (le f.entry 8 2) = 4) :
    junctionPushEffect q i d =
      let n := le f.entry 8 2
      let taken := d.updStream n Stream.run
      let x := taken.stream n
      let b := x.carry ++ f.data.take (le f.entry 12 4)
      let r := Stream.fileBoxes (b.length + 1) x (d.rd Reg.junctionStreamConfig_codec n) (d.rd Reg.junctionStreamConfig_trackId n) b false
      let e := taken.setStream n r.1
      (if r.2 then e.streamCause n 6 0x40 0x04 else e).complete q i 0 0x04 (le f.entry 12 4) := by
  simp only [junctionPushEffect, h, Stream.taking_ne_error t, t, source, Nat.not_lt.2 arrived, first]
  rfl

end

end Sys2Proof.Machine
end

section
/-! The statements on the Junction's ingress, settled. -/

namespace Sys2Proof.JunctionIngress
open Sys2Proof.Machine Sys2Proof.Safety

/-- Settles O30: one equation of the effect per outcome of the push. -/
theorem pushes : Obligations.Pushes := by
  intro s q i f w h
  refine ⟨fun e => ?_, fun e t => ?_, fun t source => ?_, fun t source waits => ?_, fun t arrived first =>
    ⟨fun source => ?_, fun source => ?_, fun source => ?_⟩⟩
  · exact leads_of rfl w (junctionPushEffect_error h e)
  · exact leads_of rfl w (junctionPushEffect_notTaking h e t)
  · exact leads_of rfl w (junctionPushEffect_notPushed h t source)
  · exact leads_of rfl w (junctionPushEffect_waits h t source waits)
  · have parsed := junctionPushEffect_rtp h t arrived first source
    refine ⟨fun bad => leads_of rfl w (parsed.trans (if_pos bad)), fun good => leads_of rfl w (parsed.trans (if_neg (ne_true_of_eq_false good)))⟩
  · exact leads_of rfl w (junctionPushEffect_transport h t arrived first source)
  · exact leads_of rfl w (junctionPushEffect_file h t arrived first source)

/-- Settles O26: each condition is one branch of `Dev.sortFrame`, `Dev.takeFrame` or `Dev.takeIp`, and all of them are within
`Dev.Received`. -/
theorem frameReceived : Obligations.FrameReceived := by
  refine ⟨?effects, ?frame⟩
  case effects =>
    intro s p fcsOk beyond f w c d h mine
    refine ⟨fun off => leads_of rfl w (ethFrameReceivedEffect_off fcsOk beyond f off), fun on => ?_⟩
    have sorted {e : Dev} (k : d.sortFrame p fcsOk beyond h = e) : leads c s e :=
      leads_of rfl w ((ethFrameReceivedEffect_on fcsOk beyond f on).trans k)
    refine ⟨?rate, ?fcs, ?other, ?pause, ?taken⟩
    case rate => rintro rfl; exact sorted rfl
    case fcs => rintro rfl rfl; exact sorted rfl
    case other => rintro rfl rfl other; exact sorted (Dev.sortFrame_notMine other)
    case pause => rintro rfl rfl own pause; exact sorted ((Dev.sortFrame_taken own).trans (if_pos pause))
    case taken =>
      rintro rfl rfl noPause own
      have taken {e : Dev} (k : d.takeFrame p h = e) : leads c s e := sorted ((Dev.sortFrame_taken own).trans k)
      refine ⟨fun arp => taken (by simp [Dev.takeFrame, arp]), fun noArp noIp => taken (by simp [Dev.takeFrame, noPause, noArp, noIp]),
        ?_⟩
      intro k noArp ip
      have packet {e : Dev} (t : d.takeIp p h.src k = e) : leads c s e := taken ((Dev.takeFrame_ip noPause noArp ip).trans t)
      exact ⟨fun frag => packet (by simp [Dev.takeIp, frag]),
        fun whole udp bad => packet (by simp [Dev.takeIp, whole, udp, bad]),
        fun whole udp good => packet (by simp [Dev.takeIp, whole, udp, good]),
        fun whole tcp => packet (by simp [Dev.takeIp, whole, tcp]),
        fun whole noUdp noTcp => packet (by simp [Dev.takeIp, whole, noUdp, noTcp])⟩
  case frame =>
    intro s t p fcsOk beyond f step
    rcases act_cases (.ethFrameReceived p fcsOk beyond f) (ethFrameReceivedEffect p fcsOk beyond f) s with
      ⟨-, e⟩ | ⟨-, -, e⟩ | ⟨-, -, e⟩
    all_goals cases e.symm.trans step
    · exact ⟨rfl, rfl, rfl, rfl, rfl⟩
    · exact (ethFrameReceivedEffect_received p fcsOk beyond f s.dev).settled

/-- Settles O27: the stream found is the first of a rising list; placing and losing a packet are single tests on the window. -/
theorem packetsOfAStream : Obligations.PacketsOfAStream := by
  refine ⟨?streams, ?order, ?gaps⟩
  case streams =>
    intro d p k data forDictionary fits
    refine ⟨fun h => ?_, fun h no => ?_, fun r s h rtcp rtp fit ssrc lower => ?_, fun r s rest h rtcp rtp fit none_ => ?_⟩
    · rw [Dev.takeDatagram_dictionary h]; simp
    · rcases no with rtcp | rtp | fitsNone
      · exact Dev.takeDatagram_notRtp h (.inl rtcp)
      · exact Dev.takeDatagram_notRtp h (.inr rtp)
      · exact Dev.takeDatagram_fitsNone h fitsNone
    · have offered := (Dev.takeDatagram_rtp h rtcp rtp).trans
        (Dev.offerRtp_taken (find?_lowest (d.fitting_rises p k) fit ssrc lower))
      exact ⟨fun wrong => offered.trans (if_neg (ne_true_of_eq_false wrong)), fun right => offered.trans (if_pos right)⟩
    · rw [Dev.takeDatagram_rtp h rtcp rtp, show d.fitting p k = s :: rest from fit]
      exact Dev.offerRtp_wrongSsrc (fit ▸ none_)
  case order =>
    intro d s seq p w e notAhead notBehind
    have near := Dev.placePacket_near (p := p) notAhead notBehind
    refine ⟨fun again => near.trans (if_pos again), fun notHeld notGone late => ?_⟩
    have new : ¬((w.held.find? e.toNat).isSome = true ∨ w.gone.contains e.toNat = true) := by rw [notHeld, notGone]; decide
    exact near.trans ((if_neg new).trans (if_pos late))
  case gaps =>
    intro s n g awake w due
    exact ⟨fun h => ⟨leads_of rfl awake (gapTimerExpiryEffect_due h), w.lose_spec g⟩,
      fun h => leads_of rfl awake (gapTimerExpiryEffect_notDue h)⟩

/-- A key picture of one byte. -/
def oneByteUnit : AuUnit := { parts := [[1#8]], timestamp := none, kind := 1, damaged := false, key := true }

/-- Pool 0 has one buffer of 1,024 bytes, which lies at 4,096 in logical rank 16; that rank takes no write (R470). -/
def deadBufferBase : Dev :=
  (((((Dev.wr { pwrgood := true, perstLow := false, lp := { lost := [16], dead := [16] } } Reg.junctionStreamConfig_maxAuKib 0 1).wr
    Reg.sidingsPoolConfig_base 0 4096).wr (Reg.sidingsPoolConfig_size 0) 0 1024).wr (Reg.sidingsPoolConfig_count 0) 0 1).setPool 0
      { on := true, fewest := 1, ring := 1 })

/-- Stream 0 has the unit to hand on, its reserve held. -/
def deadBuffer : State := { dev := deadBufferBase.setStream 0 { phase := .running, ready := [oneByteUnit], claimed := true }, pending := [] }

theorem deadBuffer_ready : ready (.auHandOff 0) deadBuffer := by decide +kernel

theorem deadBuffer_stream : deadBuffer.dev.stream 0 = { phase := .running, ready := [oneByteUnit], claimed := true } := by decide +kernel

/-- The unit is handed on, and the byte at the buffer's start is 0 all the same. -/
theorem deadBuffer_lost : (settle (auHandOffEffect 0 deadBuffer.dev)).getByte 4096 = 0#8 := by decide +kernel

/-- Refutes O28: a buffer may lie in a logical rank that met a command error while no spare was left. Writes to it are discarded (R470), so
the unit is handed on and its bytes do not stand in memory. -/
theorem not_unitHandedOn : ¬ Obligations.UnitHandedOn := by
  intro h
  obtain ⟨-, next⟩ := h deadBuffer 0 deadBuffer_ready
  rw [deadBuffer_stream] at next
  obtain ⟨-, handed⟩ := next oneByteUnit [] rfl rfl
  obtain ⟨stored, -⟩ := handed (.inr rfl) (.inr rfl) (by decide +kernel) (by decide +kernel)
  obtain ⟨t, step, -, au, -, -, -, -, -, -, -, -, -, bytes, -⟩ := stored 4096 (by decide +kernel) (by decide +kernel) (by decide +kernel)
  have arrived : t.dev.getByte 4096 = 1#8 := (bytes 0 (by decide +kernel)).trans (by decide +kernel)
  cases (act_runs deadBuffer_ready.1 deadBuffer_ready.2).symm.trans step
  rw [deadBuffer_lost] at arrived
  exact absurd arrived (by decide)

/-- Settles O29: the link is reported, then one event or lasting cause is added, which touches the attention log alone. -/
theorem linkAndStop : Obligations.LinkAndStop := by
  refine ⟨fun s p up w => ⟨fun same => leads_of rfl w (portLinkChangeEffect_same same), fun on differs => yields_of rfl w ?_⟩,
    fun s n w => ⟨fun h => ?_, fun h k => ⟨?_, ?_⟩, fun h k => ?_⟩⟩
  · have alerted := portLinkChangeEffect_alerted on differs
    obtain ⟨ports, mem, queues, streams, contexts⟩ := alerted.frame
    obtain ⟨-, unchanged⟩ := alerted
    obtain ⟨isUp, mem', queues', streams', contexts'⟩ := s.dev.reportLink_frame p up
    obtain ⟨linkUp, speed⟩ := s.dev.rd_reportLink p up
    have state (off : Nat) := unchanged .junctionPortState off p rfl
    have small : p < 65536 := Nat.lt_trans (by simpa [Instr.wf] using w.1) (show 2 < 65536 by decide)
    simp only [Dev.attentionBit, settle_rd, settle_ports, settle_lasting, settle_mem, settle_queues, settle_streams, settle_contexts,
      settle_attention]
    refine ⟨by rw [ports, isUp], (state _).trans linkUp, (state _).trans speed,
      fun room => (state _).trans (s.dev.rd_reportLink_changes up room), ?_, ?_,
      mem.trans mem', queues.trans queues', streams.trans streams', contexts.trans contexts', fun o i off notState notLog notCause notHead => ?_⟩
    · rintro rfl; exact portLinkChangeEffect_up_raises on differs small
    · rintro rfl; exact portLinkChangeEffect_down_lasts on differs
    · exact (unchanged o off i (by simp [Obj.ofAttention, notLog, notCause, notHead])).trans (s.dev.rd_reportLink_ne p up notState off i)
  · exact leads_of rfl w (streamBecomesStoppedEffect_notDrained h)
  · exact leads_of rfl w ((streamBecomesStoppedEffect_drained h).trans (if_neg (ne_true_of_eq_false k)))
  · exact s.dev.stream_stopStream n
  · exact leads_of rfl w ((streamBecomesStoppedEffect_drained h).trans (if_pos k))

end Sys2Proof.JunctionIngress
end

section
/-! SUPPORT. Decode starts and releases (R146, R152, R154, R155, R159): which unit an engine takes, what becomes of it, and which picture is due. -/

namespace Sys2Proof.Machine

-- One proof at a time: the threads of all of them together would not fit the memory.
set_option Elab.async false

/-! ### Which picture is due (R154) -/

/-- Of the frame found so far and one more that awaits output, the one with the earlier place in output order. -/
def earlierOut (acc : Option Frame) (f : Frame) : Option Frame :=
  match acc with
  | none => some f
  | some b => if f.order < b.order then some f else some b

theorem earlierOut_spec (acc : Option Frame) (f : Frame) :
    ∃ b, earlierOut acc f = some b ∧ (b = f ∨ acc = some b) ∧ b.order ≤ f.order ∧ ∀ c, acc = some c → b.order ≤ c.order := by
  cases acc with
  | none => exact ⟨f, rfl, .inl rfl, Nat.le_refl _, fun c h => by cases h⟩
  | some b =>
    by_cases earlier : f.order < b.order
    · exact ⟨f, if_pos earlier, .inl rfl, Nat.le_refl _, fun c h => by cases h; exact Nat.le_of_lt earlier⟩
    · exact ⟨b, if_neg earlier, .inr rfl, Nat.le_of_not_lt earlier, fun c h => by cases h; exact Nat.le_refl _⟩

/-- The frame found is one of those looked at, and none of them comes before it. -/
theorem foldl_earlierOut {l : List Frame} : ∀ {acc : Option Frame} {f : Frame}, l.foldl earlierOut acc = some f →
    (f ∈ l ∨ acc = some f) ∧ (∀ g ∈ l, f.order ≤ g.order) ∧ ∀ g, acc = some g → f.order ≤ g.order := by
  induction l with
  | nil =>
    intro acc f h
    exact ⟨.inr h, fun g mem => absurd mem (by simp), fun g k => by cases h.symm.trans k; exact Nat.le_refl _⟩
  | cons a l ih =>
    intro acc f h
    obtain ⟨b, found, one, beforeA, beforeAcc⟩ := earlierOut_spec acc a
    obtain ⟨mem, beforeRest, beforeB⟩ := ih (acc := earlierOut acc a) h
    have least := beforeB b found
    refine ⟨?_, fun g hg => ?_, fun g hg => Nat.le_trans least (beforeAcc g hg)⟩
    · rcases mem with mem | same
      · exact .inl (List.mem_cons_of_mem a mem)
      · cases found.symm.trans same
        rcases one with rfl | before
        · exact .inl List.mem_cons_self
        · exact .inr before
    · rcases List.mem_cons.1 hg with rfl | hg
      · exact Nat.le_trans least beforeA
      · exact beforeRest g hg

theorem DecodeStream.nextOut_eq (x : DecodeStream) : x.nextOut = (x.frames.filter Frame.awaiting).foldl earlierOut none := rfl

theorem DecodeStream.nextOut_spec {x : DecodeStream} {f : Frame} (h : x.nextOut = some f) :
    f ∈ x.frames ∧ f.awaiting = true ∧ ∀ g ∈ x.frames, g.awaiting = true → f.order ≤ g.order := by
  rw [DecodeStream.nextOut_eq] at h
  obtain ⟨found, least, -⟩ := foldl_earlierOut h
  obtain ⟨mem, awaits⟩ := List.mem_filter.1 (found.resolve_right (by simp))
  exact ⟨mem, awaits, fun g hg waits => least g (List.mem_filter.2 ⟨hg, waits⟩)⟩

theorem Dev.nextOut_of_dueOut {d : Dev} {s : Nat} {f : Frame} (h : d.dueOut s = some f) : (d.dec s).nextOut = some f :=
  (Option.filter_eq_some_iff.1 h).1

/-! ### Which unit an engine takes (R146) -/

theorem Dev.nextUnit_spec {d : Dev} {may : AccessUnit → Bool} {u : AccessUnit} (h : d.nextUnit may = some u) :
    may u = true ∧ u ∈ d.handedUnits ∧ d.inDecode u.stream = false ∧ (d.handedUnits.find? fun v => v.stream == u.stream) = some u ∧
      (d.dec u.stream).frames.length < d.rd Reg.decodeStreamConfig_dpbMax u.stream + 2 ∧ d.dueOut u.stream = none := by
  have fits := List.find?_some h
  simp only [Bool.and_eq_true, Bool.not_eq_true', beq_iff_eq, Option.isNone_iff_eq_none, Dev.frameFree, decide_eq_true_eq] at fits
  obtain ⟨⟨⟨⟨may, idle⟩, due⟩, free⟩, first⟩ := fits
  exact ⟨may, List.mem_of_find?_eq_some h, idle, first, free, due⟩

/-- The unit an engine takes is the earliest of a choice, which for a latency engine is of latency-critical streams alone. -/
theorem Dev.unitFor_nextUnit {d : Dev} {e : Nat} {u : AccessUnit} (h : d.unitFor e = some u) :
    ∃ may, d.nextUnit may = some u ∧ (d.latencyEngines.contains e = true → may u = d.latencyStream u.stream) := by
  unfold Dev.unitFor at h; dsimp only at h
  split at h
  · exact ⟨_, h, fun _ => rfl⟩
  next general =>
    split at h
    · exact ⟨_, h, fun k => absurd k general⟩
    split at h
    next v first =>
      split at first
      · exact ⟨_, first.trans h, fun k => absurd k general⟩
      · cases first
    · exact ⟨_, h, fun k => absurd k general⟩

/-! ### What becomes of the unit (R140, R146, R152, R159) -/

/-- An engine that may take a picture. -/
def Dev.mayTakePicture (d : Dev) (e : Nat) : Prop :=
  d.decoderBusy e = false ∧ d.liveDecoders.contains e = true ∧ d.ep.firmwareReady = true

theorem decodeStartEffect_not {d : Dev} {e : Nat} {h : PictureHeader} (not : ¬d.mayTakePicture e) : decodeStartEffect e h d = d := by
  unfold decodeStartEffect
  refine if_pos (Decidable.byContradiction fun free => not ?_)
  simp only [not_or, Bool.not_eq_true, Bool.not_eq_false'] at free
  exact free

section
variable {d : Dev} {e : Nat} {h : PictureHeader} (free : d.mayTakePicture e)
include free

theorem decodeStartEffect_free : decodeStartEffect e h d = match d.unitFor e with
    | some u => d.takeUnit e u h
    | none => if d.latencyEngines.contains e ∨ !d.headroom then d else match d.clipToDecode with
      | some c => d.takeClipUnit e c h
      | none => d := by
  obtain ⟨idle, live, ready⟩ := free
  refine if_neg ?_
  simp only [idle, live, ready]
  decide

theorem decodeStartEffect_unit {u : AccessUnit} (k : d.unitFor e = some u) : decodeStartEffect e h d = d.takeUnit e u h := by
  rw [decodeStartEffect_free free, k]

variable (noUnit : d.unitFor e = none)
include noUnit

theorem decodeStartEffect_noClip (k : d.latencyEngines.contains e = true ∨ d.headroom = false ∨ d.clipToDecode = none) :
    decodeStartEffect e h d = d := by
  rw [decodeStartEffect_free free, noUnit]
  dsimp only
  split
  · rfl
  · rename_i general
    have noClip : d.clipToDecode = none := by
      rcases k with k | k | k
      · exact absurd (.inl k) general
      · exact absurd (.inr (by simp [k])) general
      · exact k
    rw [noClip]

theorem decodeStartEffect_clip {c : Nat} (general : d.latencyEngines.contains e = false) (room : d.headroom = true)
    (k : d.clipToDecode = some c) : decodeStartEffect e h d = d.takeClipUnit e c h := by
  rw [decodeStartEffect_free free, noUnit, general, room, k]
  rfl

end

section
variable {d : Dev} {e : Nat} {u : AccessUnit} {h : PictureHeader}

/-- The device as it takes a unit of a stream behind no switch: the stream waits for no switch. -/
def Dev.afterSwitch (d : Dev) (s : Nat) : Dev := d.setDec s { d.dec s with switching := false }

/-- A stream with no reserve loses a unit that is not a key picture. -/
theorem Dev.takeUnit_lost (claimed : (d.dec u.stream).claimed = false) (key : h.key = false) (switching : (d.dec u.stream).switching = false) :
    d.takeUnit e u h = (d.afterSwitch u.stream).noBufferDiscard u := by
  simp [Dev.takeUnit, Dev.afterSwitch, claimed, key, switching]

variable (claimed : (d.dec u.stream).claimed = true) (buffers : (d.dec u.stream).noBuffers = false)
  (switching : (d.dec u.stream).switching = false)
include claimed buffers switching

theorem Dev.takeUnit_rejected {code : Nat} (k : (d.dec u.stream).rejects u h = some code) :
    d.takeUnit e u h = (d.afterSwitch u.stream).rejectPicture u code := by
  simp [Dev.takeUnit, Dev.afterSwitch, claimed, buffers, switching, k]

variable (passes : (d.dec u.stream).rejects u h = none)
include passes

theorem Dev.takeUnit_shown {n : Nat} (k : h.showExisting = some n) :
    d.takeUnit e u h = (d.afterSwitch u.stream).showExisting u h n := by
  simp [Dev.takeUnit, Dev.afterSwitch, claimed, buffers, switching, passes, k]

theorem Dev.takeUnit_taken {a : Nat} {z : Dev} (k : h.showExisting = none)
    (buffer : (d.afterSwitch u.stream).alloc (d.rd Reg.decodeFramePool) u.form.bytes u.stream = (.ok a, z)) :
    d.takeUnit e u h = ((z.updDec u.stream fun x => { x with noBuffers := false }).buffersAgain u.stream).startPicture e u h
      (d.rd Reg.decodeFramePool) a none := by
  have same : (d.afterSwitch u.stream).rd Reg.decodeFramePool = d.rd Reg.decodeFramePool := rfl
  rw [← same] at buffer ⊢
  simp only [Dev.afterSwitch, claimed, buffers] at buffer
  simp [Dev.takeUnit, Dev.afterSwitch, claimed, buffers, switching, passes, k, buffer]

end

/-- The engine is busy with the last picture its unit codes, and the unit no longer waits. -/
theorem Dev.startPicture_spec (d : Dev) (e : Nat) (u : AccessUnit) {h : PictureHeader} (pool a : Nat) (last : h.last = true) :
    let w := d.startPicture e u h pool a none
    w.decodeJobs.find? e = some { unit := u, header := h, pointer := a, pool, start := d.now, clip := none } ∧
      w.handedUnits = d.handedUnits.erase u ∧ w.rd Reg.decodeEngineState_busy e = 1 ∧ w.rd Reg.decodeEngineState_stream e = u.stream ∧
      w.mem = d.mem := by
  intro w
  have counted (x : Dev) : ∃ f r a l, x.countNals u = { x with free := f, regs := r, attention := a, logWrapped := l } :=
    x.count_noted _ _ _
  obtain ⟨f, r, at_, l, e⟩ := counted (d.updDec u.stream fun x =>
    { x with rejected := none, width := h.width, height := h.height, bitDepth := h.bitDepth, reorder := h.reorder,
             frames := if h.key then x.frames.map fun f => { f with reference := false } else x.frames })
  simp only [w, Dev.startPicture, last, if_true, e, Dev.dequeueUnit, Dev.setFlag, Dev.rd_wr]
  simp [Dev.updDec, Dev.setDec, b2n]

@[simp] theorem settle_decodeJobs (d : Dev) : (settle d).decodeJobs = d.decodeJobs := by
  rcases settle_eq d with h | h <;> rw [h]
  rfl

end Sys2Proof.Machine
end

section
/-! SUPPORT. What the operations that decode shares with other blocks leave alone: storing, requesting and returning buffers, causes, batches
and clips (R153, R169 to R172, R389, R445 to R458). -/

namespace Sys2Proof.Machine

-- One proof at a time: the threads of all of them together would not fit the memory.
set_option Elab.async false

/-- Objects that only the decode engines and their pictures count in. -/
def Obj.ofDecode (o : Obj) : Bool := o == .decodeEngineState || o == .decodeStreamCounters

/-- From `d` to `e` the clock, the queues, the pictures in decode, the units that wait for it, the pictures released and the frames handed on
are as they were, and so is a field of an object. -/
structure Dev.KeepsDecode (p : Reg) (d e : Dev) : Prop where
  now : e.now = d.now := by rfl
  queues : e.queues = d.queues := by rfl
  handedUnits : e.handedUnits = d.handedUnits := by rfl
  decodeJobs : e.decodeJobs = d.decodeJobs := by rfl
  released : e.released = d.released := by rfl
  frames : e.frames = d.frames := by rfl
  rd : ∀ i, e.rd p i = d.rd p i := by intro; rfl

namespace Dev.KeepsDecode

variable {p : Reg} {a b c : Dev}

theorem refl (p : Reg) (d : Dev) : d.KeepsDecode p d := {}

theorem trans (h : a.KeepsDecode p b) (k : b.KeepsDecode p c) : a.KeepsDecode p c where
  now := k.now.trans h.now
  queues := k.queues.trans h.queues
  handedUnits := k.handedUnits.trans h.handedUnits
  decodeJobs := k.decodeJobs.trans h.decodeJobs
  released := k.released.trans h.released
  frames := k.frames.trans h.frames
  rd i := (k.rd i).trans (h.rd i)

/-- A further step taken under a condition. -/
theorem step_if (h : a.KeepsDecode p b) (k : b.KeepsDecode p c) (q : Prop) [Decidable q] : a.KeepsDecode p (if q then c else b) := by
  split
  · exact h.trans k
  · exact h

theorem foldl {α : Type} {f : Dev → α → Dev} (h : ∀ (d : Dev) (x : α), d.KeepsDecode p (f d x)) (l : List α) (d : Dev) :
    d.KeepsDecode p (l.foldl f d) := by
  induction l generalizing d with
  | nil => exact refl p d
  | cons x l ih => exact (h d x).trans (ih _)

end Dev.KeepsDecode

theorem Dev.Noted.keepsDecode {p : Reg} {d e : Dev} (h : d.Noted e) (rd : ∀ i, e.rd p i = d.rd p i) : d.KeepsDecode p e := by
  obtain ⟨f, r, a, w, rfl⟩ := h
  exact { rd := rd }

/-! ### Records of the decoder, of pools, of streams and of clips -/

theorem Dev.updDec_keepsDecode {p : Reg} (d : Dev) (k : Nat) (f : DecodeStream → DecodeStream) : d.KeepsDecode p (d.updDec k f) := {}

theorem Dev.setPool_keepsDecode {p : Reg} (d : Dev) (q : Nat) (x : Pool) : d.KeepsDecode p (d.setPool q x) := {}

theorem Dev.updStream_keepsDecode {p : Reg} (d : Dev) (s : Nat) (f : Stream → Stream) : d.KeepsDecode p (d.updStream s f) := {}

theorem Dev.setClips_keepsDecode {p : Reg} (d : Dev) (t : Tbl Nat DecodeStream) (x : Tbl Nat Clip) :
    d.KeepsDecode p { d with decoders := t, clips := x } := {}

theorem Dev.joinClip_keepsDecode {p : Reg} (d : Dev) (c : Nat) (x : Clip) (f : Frame) (ptr : Nat) (fromRing : Bool) :
    d.KeepsDecode p (d.joinClip c x f ptr fromRing) := {}

/-! ### Fields and counts -/

theorem Dev.wr_keepsDecode (d : Dev) {r p : Reg} (i v : Nat) (h : r ≠ p) : d.KeepsDecode p (d.wr r i v) :=
  { rd := fun j => by rw [Dev.rd_wr, if_neg fun k => h k.1] }

theorem Dev.count_keepsDecode (d : Dev) {r p : Reg} (i n : Nat) (h : r ≠ p) : d.KeepsDecode p (d.count r i n) := by
  have other : r.obj ≠ p.obj ∨ r.off ≠ p.off := by
    by_cases obj : r.obj = p.obj
    · refine .inr fun off => h ?_
      obtain ⟨_, _⟩ := r; obtain ⟨_, _⟩ := p
      exact congr (congrArg Reg.mk obj) off
    · exact .inl obj
  exact (d.count_noted r i n).keepsDecode fun j => d.rd_count_off_ne r p i n j other

section
variable {p : Reg} (ofDecode : p.obj.ofDecode = true)
include ofDecode

/-- A field of another object is not the one that is kept. -/
theorem Reg.ne_of_ofDecode {r : Reg} (h : r.obj.ofDecode = false) : r ≠ p := by
  rintro rfl; simp [ofDecode] at h

theorem Dev.countOther_keepsDecode (d : Dev) {r : Reg} (i n : Nat) (h : r.obj.ofDecode = false) : d.KeepsDecode p (d.count r i n) :=
  d.count_keepsDecode i n (Reg.ne_of_ofDecode ofDecode h)

theorem Dev.wrOther_keepsDecode (d : Dev) {r : Reg} (i v : Nat) (h : r.obj.ofDecode = false) : d.KeepsDecode p (d.wr r i v) :=
  d.wr_keepsDecode i v (Reg.ne_of_ofDecode ofDecode h)

/-! ### Causes (R54, R136) -/

theorem Dev.attend_keepsDecode (d : Dev) (c : Cause) : d.KeepsDecode p (d.attend c) := by
  have other : p.obj.ofAttention = false := by
    simp only [Obj.ofDecode, Bool.or_eq_true, beq_iff_eq] at ofDecode
    rcases ofDecode with o | o <;> rw [o] <;> decide
  exact (d.attend_noted c).keepsDecode fun i => d.rd_attend_ne c other p.off i

theorem Dev.beginLasting_keepsDecode (d : Dev) (c : Cause) : d.KeepsDecode p (d.beginLasting c) := by
  rcases d.beginLasting_cases c with ⟨-, h⟩ | h <;> rw [h]
  · exact .refl p d
  · exact Dev.KeepsDecode.trans (b := { d with lasting := c.lasting :: d.lasting }) {} (Dev.attend_keepsDecode ofDecode _ c)

theorem Dev.streamOnce_keepsDecode (d : Dev) (area stream detail code codeArea context : Nat) :
    d.KeepsDecode p (d.streamOnce area stream detail code codeArea context) :=
  (Dev.KeepsDecode.refl p d).step_if (Dev.KeepsDecode.trans (b := { d with raisedAt := d.raisedAt.put (area, stream, detail) d.now }) {}
    (Dev.attend_keepsDecode ofDecode _ _)) _

/-! ### Stores (R445, R465) -/

omit ofDecode in
theorem Dev.putBytes_keepsDecode (bs : List Byte) : ∀ (d : Dev) (a : Nat), d.KeepsDecode p (d.putBytes a bs) := by
  induction bs with
  | nil => exact fun d _ => .refl p d
  | cons b bs ih => exact fun d a => (Dev.KeepsDecode.step_if (b := d.setByte a b) {} {} (deadAt d.lp.dead a = true)).trans (ih _ _)

theorem Dev.afterStore_keepsDecode (d : Dev) (a n : Nat) : d.KeepsDecode p (d.afterStore a n) := by
  unfold Dev.afterStore; dsimp only; split
  · exact {}
  · refine Dev.KeepsDecode.trans ?_ (Dev.countOther_keepsDecode ofDecode _ _ _ rfl)
    exact {}

theorem Dev.store_keepsDecode (d : Dev) (a : Nat) (bs : List Byte) : d.KeepsDecode p (d.store a bs) :=
  (d.putBytes_keepsDecode bs a).trans (Dev.afterStore_keepsDecode ofDecode _ a _)

theorem Dev.linkCells_keepsDecode (l : List Nat) : ∀ d : Dev, d.KeepsDecode p (d.linkCells l) := by
  induction l with
  | nil => exact fun d => .refl p d
  | cons a l ih =>
    cases l with
    | nil => exact fun d => d.store_keepsDecode ofDecode _ _
    | cons b l => exact fun d => (d.store_keepsDecode ofDecode _ _).trans (ih _)

/-! ### Requests and returns (R451 to R455) -/

theorem Dev.checkControl_keepsDecode (d : Dev) (q : Nat) : d.KeepsDecode p (d.checkControl q) := by
  unfold Dev.checkControl; dsimp only; split
  · exact Dev.KeepsDecode.trans {} (Dev.beginLasting_keepsDecode ofDecode _ _)
  · exact {}

omit ofDecode in
theorem Dev.takeOne_keepsDecode (d : Dev) (q k owner : Nat) : d.KeepsDecode p (d.takeOne q k owner).2 := by
  unfold Dev.takeOne; dsimp only; split <;> exact {}

omit ofDecode in
theorem Dev.takeMany_keepsDecode (n q k owner : Nat) : ∀ d : Dev, d.KeepsDecode p (Dev.takeMany n d q k owner).2 := by
  induction n with
  | zero => exact fun d => .refl p d
  | succ n ih => exact fun d => (d.takeOne_keepsDecode q k owner).trans (ih _)

theorem Dev.alloc_keepsDecode (d : Dev) (q n owner : Nat) : d.KeepsDecode p (d.alloc q n owner).2 := by
  unfold Dev.alloc; dsimp only
  have checked := d.checkControl_keepsDecode ofDecode q
  split
  · exact checked
  generalize (if (d.checkControl q).cellChain q then max 1 (ceilDiv n 248) else 1) = want
  split
  · exact checked.trans (Dev.countOther_keepsDecode ofDecode _ _ _ rfl)
  · refine Dev.KeepsDecode.step_if ?_ (Dev.linkCells_keepsDecode ofDecode _ _) _
    exact (checked.trans (Dev.takeMany_keepsDecode _ q _ owner _)).trans (Dev.setPool_keepsDecode _ q _)

theorem Dev.freeOne_keepsDecode (d : Dev) (q a : Nat) : d.KeepsDecode p (d.freeOne q a).2 := by
  unfold Dev.freeOne; split
  · exact d.countOther_keepsDecode ofDecode _ _ rfl
  · dsimp only; split
    · exact {}
    · exact d.countOther_keepsDecode ofDecode _ _ rfl

theorem Dev.freeChain_keepsDecode (left q : Nat) : ∀ (d : Dev) (a : Nat), d.KeepsDecode p (Dev.freeChain left d q a).2.2 := by
  induction left with
  | zero => exact fun d _ => .refl p d
  | succ left ih =>
    intro d a
    have one := d.freeOne_keepsDecode ofDecode q a
    unfold Dev.freeChain; dsimp only; split
    · exact one
    split
    · exact one
    · exact one.trans (ih _ _)

theorem Dev.give_keepsDecode (d : Dev) (q a count : Nat) : d.KeepsDecode p (d.give q a count).2.2 := by
  have checked := d.checkControl_keepsDecode ofDecode q
  unfold Dev.give; dsimp only; split
  · exact checked.trans (Dev.freeChain_keepsDecode ofDecode _ q _ a)
  · exact checked.trans (Dev.freeOne_keepsDecode ofDecode _ q a)

theorem Dev.giveOwn_keepsDecode (d : Dev) (q a count : Nat) : d.KeepsDecode p (d.giveOwn q a count) := by
  have given := d.give_keepsDecode ofDecode q a count
  unfold Dev.giveOwn; dsimp only; split
  · exact given
  · exact given.trans (Dev.attend_keepsDecode ofDecode _ _)

/-! ### Frame buffers and rings (R134, R153) -/

theorem Dev.reclaim_keepsDecode (d : Dev) (k : Nat) : d.KeepsDecode p (d.reclaim k) :=
  Dev.KeepsDecode.trans (b := d.setDec k { d.dec k with frames := (d.dec k).frames.filter fun f => !f.unmarked }) {}
    (Dev.KeepsDecode.foldl (fun d f => d.giveOwn_keepsDecode ofDecode _ _ _) _ _)

theorem Dev.releaseHold_keepsDecode (d : Dev) (s ptr : Nat) : d.KeepsDecode p (d.releaseHold s ptr) := by
  refine Dev.KeepsDecode.trans ?_ (Dev.reclaim_keepsDecode ofDecode _ s)
  exact {}

theorem Dev.trimOne_keepsDecode (d : Dev) (s : Nat) : d.KeepsDecode p (d.trimOne s) := by
  unfold Dev.trimOne; dsimp only; split
  · split
    · exact {}
    · exact Dev.KeepsDecode.trans {} (Dev.KeepsDecode.foldl (fun d u => d.giveOwn_keepsDecode ofDecode _ _ _) _ _)
  · exact {}

theorem Dev.freeRing_keepsDecode (fuel s : Nat) : ∀ d : Dev, d.KeepsDecode p (d.freeRing fuel s) := by
  induction fuel with
  | zero => exact fun d => .refl p d
  | succ fuel ih =>
    intro d
    unfold Dev.freeRing; split
    · split
      · exact (d.trimOne_keepsDecode ofDecode s).trans (ih _)
      · exact {}
    · exact {}

/-! ### Batches (R389) -/

theorem Dev.batchDead_keepsDecode (d : Dev) (b : HeldBatch) : d.KeepsDecode p (d.batchDead b) :=
  (d.countOther_keepsDecode ofDecode _ _ rfl).trans (Dev.streamOnce_keepsDecode ofDecode _ _ _ _ _ _ _)

theorem Dev.holdBatch_keepsDecode (d : Dev) (b : HeldBatch) : d.KeepsDecode p (d.holdBatch b) := by
  have dead (d : Dev) := d.batchDead_keepsDecode ofDecode b
  have offered := ((Dev.KeepsDecode.refl p d).step_if (dead d) (d.ringDead b = true)).step_if (dead _) (d.targetDead b = true)
  unfold Dev.holdBatch; dsimp only; split
  · exact offered.trans (Dev.giveOwn_keepsDecode ofDecode _ _ _ _)
  · exact offered.trans {}

theorem Dev.batchLost_keepsDecode (d : Dev) (s ctx : Nat) (clear : Bool) : d.KeepsDecode p (d.batchLost s ctx clear) := by
  have counted := (d.countOther_keepsDecode ofDecode (r := Reg.pointsCounters_batchesDiscarded) 0 1 rfl).step_if
    (Dev.countOther_keepsDecode ofDecode _ (r := Reg.hostEgressHeldDropped) 0 1 rfl) (clear = true)
  exact (counted.trans (b := _) {}).trans (Dev.streamOnce_keepsDecode ofDecode _ _ _ _ _ _ _)

theorem Dev.dropBatch_keepsDecode (d : Dev) (b : HeldBatch) : d.KeepsDecode p (d.dropBatch b) :=
  Dev.KeepsDecode.trans {} (Dev.giveOwn_keepsDecode ofDecode _ _ _ _)

theorem Dev.seal_keepsDecode (d : Dev) (s ctx seq : Nat) (bytes : List Byte) : d.KeepsDecode p (d.seal s ctx seq bytes) := by
  have keep (d : Dev) (a : Nat) (b : HeldBatch) : d.KeepsDecode p ((d.store a bytes).holdBatch b) :=
    (d.store_keepsDecode ofDecode a bytes).trans (Dev.holdBatch_keepsDecode ofDecode _ b)
  have asked (d : Dev) (q : Nat) := d.alloc_keepsDecode ofDecode q bytes.length s
  have lost (d : Dev) (clear : Bool) := d.batchLost_keepsDecode ofDecode s ctx clear
  unfold Dev.seal; dsimp only; split
  · exact (asked d _).trans (keep _ _ _)
  have missed (q : Bool) := (asked d (d.rd Reg.pointsEgressPool)).step_if
    (Dev.countOther_keepsDecode ofDecode _ (r := Reg.pointsLcMisses) 0 1 rfl) (q = true)
  split
  · exact (missed _).trans (lost _ _)
  next old _ =>
    have dropped (q clear : Bool) := ((missed q).trans (Dev.dropBatch_keepsDecode ofDecode _ old)).trans (lost _ clear)
    split
    · exact ((dropped _ _).trans (asked _ _)).trans (keep _ _ _)
    · exact ((dropped _ _).trans (asked _ _)).trans (lost _ _)

/-! ### Clips (R169 to R172) -/

theorem Dev.freeClipPicture_keepsDecode (d : Dev) (c : Nat) (x : ClipPicture) : d.KeepsDecode p (d.freeClipPicture c x) := by
  unfold Dev.freeClipPicture; dsimp only
  have given := d.giveOwn_keepsDecode ofDecode (d.rd Reg.encodeClipPool) x.pointer 0
  split
  · exact d.releaseHold_keepsDecode ofDecode _ _
  split
  · exact given
  split
  · exact given.trans (Dev.releaseHold_keepsDecode ofDecode _ _ _)
  · exact given

theorem Dev.unpinDone_keepsDecode (d : Dev) (c : Nat) : d.KeepsDecode p (d.unpinDone c) := by
  unfold Dev.unpinDone; split
  · exact {}
  · dsimp only
    refine Dev.KeepsDecode.step_if ?_ (Dev.freeRing_keepsDecode ofDecode _ _ _) _
    exact {}

/-- No engine decodes for a clip. -/
def Dev.notDecoding (d : Dev) (c : Nat) : Prop := (d.decodeJobs.any fun j => j.2.clip == some c) = false

/-- Where no engine decodes for a clip, only encode engines are freed. -/
theorem Dev.freeEngines_keepsDecode {d : Dev} {c : Nat} (none_ : d.notDecoding c) : d.KeepsDecode p (d.freeEngines c) := by
  have jobs : d.decodeJobs.filter (fun j => j.2.clip == some c) = [] :=
    List.filter_eq_nil_iff.2 fun j mem => by simpa using List.any_eq_false.1 none_ j mem
  unfold Dev.freeEngines; rw [jobs]
  refine Dev.KeepsDecode.foldl (fun d j => ?_) _ d
  exact (Dev.KeepsDecode.trans (b := { d with encodeJobs := d.encodeJobs.erase j.1 }) {}
    (Dev.wrOther_keepsDecode ofDecode _ _ _ rfl)).trans (Dev.wrOther_keepsDecode ofDecode _ _ _ rfl)

theorem Dev.closeClip_keepsDecode {d : Dev} {c : Nat} (none_ : d.notDecoding c) : d.KeepsDecode p (d.closeClip c) := by
  unfold Dev.closeClip; split
  · exact {}
  next x _ =>
    dsimp only
    have freed := Dev.KeepsDecode.foldl (fun d y => d.freeClipPicture_keepsDecode ofDecode c y) (x.pictures ++ x.inService.toList) d
    refine Dev.KeepsDecode.step_if ?_ (Dev.freeRing_keepsDecode ofDecode _ _ _) _
    have reclaimed := (freed.trans (Dev.updDec_keepsDecode _ (1024 + c) fun y => { y with frames := y.frames.map fun f =>
      { f with reference := false, awaiting := false, held := 0, source := false } })).trans
      (Dev.reclaim_keepsDecode ofDecode _ (1024 + c))
    have engines := reclaimed.trans (Dev.freeEngines_keepsDecode ofDecode (c := c) (by rw [Dev.notDecoding, reclaimed.decodeJobs]; exact none_))
    exact (engines.trans (Dev.setClips_keepsDecode _ _ _)).trans (Dev.updStream_keepsDecode _ _ _)

theorem Dev.endClip_keepsDecode {d : Dev} {c : Nat} (none_ : d.notDecoding c) : d.KeepsDecode p (d.endClip c) := by
  unfold Dev.endClip; split
  · exact {}
  next x _ =>
    dsimp only; split
    · exact Dev.closeClip_keepsDecode ofDecode none_
    · have sent : d.KeepsDecode p (d.sendRecord c x 0 0 x.lastTime x.kind false true []) := d.seal_keepsDecode ofDecode _ _ _ _
      exact sent.trans (Dev.closeClip_keepsDecode ofDecode (by rw [Dev.notDecoding, sent.decodeJobs]; exact none_))

/-- A clip ends by itself only when none of its pictures is in decode. -/
theorem Dev.clipDone_keepsDecode (d : Dev) (c : Nat) : d.KeepsDecode p (d.clipDone c) := by
  unfold Dev.clipDone; split
  · exact {}
  split
  next done =>
    simp only [Dev.ringOpen, Bool.and_eq_true, Bool.not_eq_true', Bool.or_eq_false_iff] at done
    exact Dev.endClip_keepsDecode ofDecode done.2.2
  · exact {}

theorem Dev.clipDecoded_keepsDecode (d : Dev) (c : Nat) (f : Frame) : d.KeepsDecode p (d.clipDecoded c f) := by
  unfold Dev.clipDecoded; split
  · exact {}
  · refine Dev.KeepsDecode.trans (.trans ?_ (Dev.unpinDone_keepsDecode ofDecode _ c)) (Dev.clipDone_keepsDecode ofDecode _ c)
    split
    · exact .refl p d
    · exact (d.joinClip_keepsDecode _ _ _ _ _).trans (Dev.updDec_keepsDecode _ _ _)

theorem Dev.dropLive_keepsDecode (d : Dev) (c : Nat) (x : Clip) : d.KeepsDecode p (d.dropLive c x) := by
  refine Dev.KeepsDecode.trans ?_ (Dev.streamOnce_keepsDecode ofDecode _ _ _ _ _ _ _)
  exact {}

theorem Dev.offerClip_keepsDecode (d : Dev) (c : Nat) (f : Frame) : d.KeepsDecode p (d.offerClip c f) := by
  unfold Dev.offerClip; split
  · exact {}
  dsimp only
  split
  · exact {}
  split
  · exact Dev.KeepsDecode.trans {} (Dev.clipDone_keepsDecode ofDecode _ c)
  split
  · exact d.dropLive_keepsDecode ofDecode c _
  have asked := d.alloc_keepsDecode ofDecode (d.rd Reg.encodeClipPool) f.unit.form.bytes c
  split
  · exact asked.trans (Dev.dropLive_keepsDecode ofDecode _ c _)
  · exact (asked.trans (Dev.joinClip_keepsDecode _ _ _ _ _ _)).trans (Dev.updDec_keepsDecode _ _ _)

end

end Sys2Proof.Machine
end

section
/-! SUPPORT. How a picture ends, how an engine faults, and how a picture is released for output (R148, R154, R155, R160 to R165, R194). -/

namespace Sys2Proof.Machine

-- One proof at a time: the threads of all of them together would not fit the memory.
set_option Elab.async false

/-! ### A table without a key -/

@[simp] theorem Tbl.find?_erase_same {κ α : Type} [DecidableEq κ] (t : Tbl κ α) (k : κ) : (t.erase k).find? k = none := by
  induction t with
  | nil => rfl
  | cons e t ih => by_cases h : e.1 = k <;> simp_all [Tbl.erase, Tbl.find?]

theorem Tbl.erase_of_find?_none {κ α : Type} [DecidableEq κ] {t : Tbl κ α} {k : κ} (h : t.find? k = none) : t.erase k = t := by
  induction t with
  | nil => rfl
  | cons e t ih =>
    unfold Tbl.find? at h
    split at h
    · cases h
    next other => rw [Tbl.erase, List.filter_cons_of_pos (by simpa using other)]; exact congrArg _ (ih h)

/-! ### A picture written (R155 to R157, R161) -/

section
variable {p : Reg} (ofDecode : p.obj.ofDecode = true)
include ofDecode

theorem Dev.putPlane_keepsDecode (d : Dev) (base pitch bytes w h : Nat) (value : Nat → Nat → Nat) :
    d.KeepsDecode p (d.putPlane base pitch bytes w h value) :=
  Dev.KeepsDecode.foldl (fun d _ => d.store_keepsDecode ofDecode _ _) _ d

theorem Dev.putPicture_keepsDecode (d : Dev) (g : FrameForm) (ptr : Nat) (h : PictureHeader) (r : PictureResult) (source : Option (Nat × Nat)) :
    d.KeepsDecode p (d.putPicture g ptr h r source) :=
  (d.putPlane_keepsDecode ofDecode _ _ _ _ _ _).trans (Dev.putPlane_keepsDecode ofDecode _ _ _ _ _ _ _)

theorem Dev.putHints_keepsDecode (d : Dev) (g : FrameForm) (b ptr w h : Nat) (prev : Option Nat) (r : PictureResult) :
    d.KeepsDecode p (d.putHints g b ptr w h prev r) :=
  Dev.KeepsDecode.foldl (fun d _ => d.store_keepsDecode ofDecode _ _) _ d

/-- A picture that finishes counts for its stream and its engine alone. -/
theorem Dev.pictureFinished_keepsDecode (d : Dev) (u : AccessUnit) (e : Nat) (holdsUnit : Bool)
    (ofStream : Reg.decodeStreamCounters_finished ≠ p) (ofEngine : Reg.decodeEngineState_finished ≠ p) :
    d.KeepsDecode p (d.pictureFinished u e holdsUnit) :=
  ((d.count_keepsDecode _ _ ofStream).trans (Dev.count_keepsDecode _ _ _ ofEngine)).step_if (Dev.giveOwn_keepsDecode ofDecode _ _ _ _) _

end

/-- One more picture finished of an engine, as long as the count has room. -/
theorem Dev.rd_pictureFinished {d : Dev} (u : AccessUnit) {e : Nat} (holdsUnit : Bool)
    (room : d.rd Reg.decodeEngineState_finished e + 1 < 2 ^ Reg.decodeEngineState_finished.width) :
    (d.pictureFinished u e holdsUnit).rd Reg.decodeEngineState_finished e = d.rd Reg.decodeEngineState_finished e + 1 := by
  have stream := (d.count_keepsDecode (r := Reg.decodeStreamCounters_finished) (p := Reg.decodeEngineState_finished) u.stream 1 (by decide)).rd e
  have counted : ((d.count Reg.decodeStreamCounters_finished u.stream).count Reg.decodeEngineState_finished e).rd
      Reg.decodeEngineState_finished e = d.rd Reg.decodeEngineState_finished e + 1 := by
    rw [Dev.count_eq_wr (by rwa [stream]), Dev.rd_wr_same, stream]
  exact (((Dev.KeepsDecode.refl _ _).step_if (Dev.giveOwn_keepsDecode rfl _ _ _ _) (holdsUnit = true)).rd e).trans counted

/-! ### The end of a picture (R155, R160 to R163) -/

/-- The frame that a job leaves as its picture ends. -/
def Dev.endedFrame (d : Dev) (e : Nat) (j : DecodeJob) (r : PictureResult) (how : Ending) : Frame :=
  let x := d.dec j.record
  let r := settledResult r x j.header
  (d.putPicture j.unit.form j.pointer j.header r (concealSource x j.header)).frameKept j (finishedFrame x e j r how)

/-- The device once a job's picture and hints are written, the decoder holds its frame, and its engine is free. -/
def Dev.engineFreed (d : Dev) (e : Nat) (j : DecodeJob) (r : PictureResult) (f : Frame) : Dev :=
  let x := d.dec j.record
  let h := j.header
  let r := settledResult r x h
  let d := d.putPicture j.unit.form j.pointer h r (concealSource x h)
  let y := x.remark h
  let d := d.setDec j.record { y with frames := y.frames ++ [f], barred := h.key }
  let d := { d with decodeJobs := d.decodeJobs.erase e }
  let next := j.clip.isSome || (d.dueOut j.unit.stream).any fun o => o.pointer == f.pointer
  let d := d.putHints j.unit.form (bytesAt h.bitDepth) j.pointer h.width h.height (if next then previousOutput x j else none) r
  (d.setFlag Reg.decodeEngineState_busy e false).wr Reg.decodeEngineState_stream e 0xFFFF

/-- The device once the picture is counted, and has finished if it is not to be released. -/
def Dev.pictureCounted (d : Dev) (e : Nat) (j : DecodeJob) (f : Frame) (how : Ending) : Dev :=
  let d := d.countPicture j.unit.stream f how
  if f.awaiting then d else d.pictureFinished j.unit e (j.clip.isNone && j.header.last)

theorem Dev.endPicture_idle {d : Dev} {e : Nat} (h : d.decodeJobs.find? e = none) (r : PictureResult) (how : Ending) :
    d.endPicture e r how = d := by simp [Dev.endPicture, h]

theorem Dev.endPicture_serving {d : Dev} {e : Nat} {j : DecodeJob} (h : d.decodeJobs.find? e = some j) (r : PictureResult) (how : Ending) :
    d.endPicture e r how =
      let f := d.endedFrame e j r how
      let w := (d.engineFreed e j r f).pictureCounted e j f how
      (j.clip.elim w fun c => w.clipDecoded c f).reclaim j.record := by
  unfold Dev.endPicture
  rw [h]
  obtain ⟨u, hd, pointer, pool, start, clip⟩ := j
  cases clip <;> rfl

section
variable (d : Dev) (e : Nat) (j : DecodeJob) (r : PictureResult) (f : Frame)

/-- Writing a picture takes its job from the engine, and changes no field of the engines but their state and stream. -/
theorem Dev.engineFreed_spec : (d.engineFreed e j r f).now = d.now ∧ (d.engineFreed e j r f).decodeJobs = d.decodeJobs.erase e ∧
    (d.engineFreed e j r f).rd Reg.decodeEngineState_busy e = 0 ∧ (d.engineFreed e j r f).rd Reg.decodeEngineState_stream e = 0xFFFF ∧
    (d.engineFreed e j r f).rd Reg.decodeEngineState_finished e = d.rd Reg.decodeEngineState_finished e := by
  have written (x : Dev) := x.putPicture_keepsDecode (p := Reg.decodeEngineState_finished) rfl j.unit.form j.pointer j.header
  have hints (x : Dev) := x.putHints_keepsDecode (p := Reg.decodeEngineState_finished) rfl j.unit.form (bytesAt j.header.bitDepth) j.pointer
    j.header.width j.header.height
  refine ⟨(hints _ _ _).now.trans (written d _ _).now,
    (hints _ _ _).decodeJobs.trans (congrArg (Tbl.erase · e) (written d _ _).decodeJobs), ?_, ?_, ?_⟩
  · simp [Dev.engineFreed, Dev.setFlag, Dev.rd_wr, b2n]
  · simp [Dev.engineFreed]
  · have state (x : Dev) : ((x.setFlag Reg.decodeEngineState_busy e false).wr Reg.decodeEngineState_stream e 0xFFFF).rd
        Reg.decodeEngineState_finished e = x.rd Reg.decodeEngineState_finished e := by simp [Dev.setFlag, Dev.rd_wr]
    exact (state _).trans (((hints _ _ _).rd e).trans ((written d _ _).rd e))

/-- A picture's outcome is counted for its stream, and leaves the engines' fields alone. -/
theorem Dev.countPicture_keepsDecode {p : Reg} (ofEngine : p.obj = .decodeEngineState) (s : Nat) (how : Ending) :
    d.KeepsDecode p (d.countPicture s f how) := by
  have ofDecode : p.obj.ofDecode = true := by rw [ofEngine]; rfl
  have counted (x : Dev) {q : Reg} (h : q.obj = .decodeStreamCounters) (i n : Nat) : x.KeepsDecode p (x.count q i n) :=
    x.count_keepsDecode i n fun k => by rw [k, ofEngine] at h; cases h
  have caused (x : Dev) {q : Reg} (h : q.obj = .decodeStreamCounters) (detail code : Nat) :
      x.KeepsDecode p ((x.count q s).streamOnce 0x05 s detail code) :=
    (counted x h s 1).trans (Dev.streamOnce_keepsDecode ofDecode _ _ _ _ _ _ _)
  have grey := (Dev.KeepsDecode.refl p d).step_if (caused d (q := Reg.decodeStreamCounters_greyReferenced) rfl 0x15 0x40) (f.grey = true)
  cases how with
  | finished => exact grey.step_if (caused _ rfl _ _) _
  | aborted => exact grey.trans (caused _ rfl _ _)
  | reset => exact grey.trans (counted _ rfl _ _)

theorem Dev.pictureCounted_keepsDecode {p : Reg} (ofEngine : p.obj = .decodeEngineState) (notFinished : Reg.decodeEngineState_finished ≠ p)
    (how : Ending) : d.KeepsDecode p (d.pictureCounted e j f how) := by
  have ofDecode : p.obj.ofDecode = true := by rw [ofEngine]; rfl
  have ofStream : Reg.decodeStreamCounters_finished ≠ p := by rintro rfl; cases ofEngine
  have counted := d.countPicture_keepsDecode f ofEngine j.unit.stream how
  unfold Dev.pictureCounted; dsimp only; split
  · exact counted
  · exact counted.trans (Dev.pictureFinished_keepsDecode ofDecode _ _ _ _ ofStream notFinished)

/-- A picture that does not await output has finished, and is counted for its engine. -/
theorem Dev.rd_pictureCounted (how : Ending) (room : d.rd Reg.decodeEngineState_finished e + 1 < 2 ^ Reg.decodeEngineState_finished.width) :
    (d.pictureCounted e j f how).rd Reg.decodeEngineState_finished e =
      d.rd Reg.decodeEngineState_finished e + (if f.awaiting then 0 else 1) := by
  have counted := (d.countPicture_keepsDecode f (p := Reg.decodeEngineState_finished) rfl j.unit.stream how).rd e
  unfold Dev.pictureCounted; dsimp only; split
  · exact counted
  · rw [Dev.rd_pictureFinished _ _ (by rwa [counted]), counted]

end

section
variable {d : Dev} {e : Nat} {j : DecodeJob} (job : d.decodeJobs.find? e = some j) (r : PictureResult) (how : Ending)
include job

/-- What follows the counting of a picture leaves the engines alone. -/
theorem Dev.pictureCounted_endPicture {p : Reg} (ofDecode : p.obj.ofDecode = true) :
    ((d.engineFreed e j r (d.endedFrame e j r how)).pictureCounted e j (d.endedFrame e j r how) how).KeepsDecode p (d.endPicture e r how) := by
  rw [Dev.endPicture_serving job]
  dsimp only
  refine Dev.KeepsDecode.trans ?_ (Dev.reclaim_keepsDecode ofDecode _ _)
  cases j.clip with
  | none => exact .refl _ _
  | some c => exact Dev.clipDecoded_keepsDecode ofDecode _ c _

theorem Dev.engineFreed_endPicture {p : Reg} (ofEngine : p.obj = .decodeEngineState) (notFinished : Reg.decodeEngineState_finished ≠ p) :
    (d.engineFreed e j r (d.endedFrame e j r how)).KeepsDecode p (d.endPicture e r how) :=
  (Dev.pictureCounted_keepsDecode _ e j _ ofEngine notFinished how).trans
    (Dev.pictureCounted_endPicture job r how (by rw [ofEngine]; rfl))

/-- The engine is free, and its state says so. -/
theorem Dev.endPicture_free : (d.endPicture e r how).decodeJobs.find? e = none ∧ (d.endPicture e r how).decoderBusy e = false ∧
    (d.endPicture e r how).rd Reg.decodeEngineState_busy e = 0 ∧ (d.endPicture e r how).rd Reg.decodeEngineState_stream e = 0xFFFF := by
  obtain ⟨-, jobs, busy, stream, -⟩ := d.engineFreed_spec e j r (d.endedFrame e j r how)
  have ofBusy := Dev.engineFreed_endPicture job r how (p := Reg.decodeEngineState_busy) rfl (by decide)
  have ofStream := Dev.engineFreed_endPicture job r how (p := Reg.decodeEngineState_stream) rfl (by decide)
  have none_ : (d.endPicture e r how).decodeJobs.find? e = none := by rw [ofBusy.decodeJobs, jobs, Tbl.find?_erase_same]
  exact ⟨none_, by rw [Dev.decoderBusy, none_]; rfl, (ofBusy.rd e).trans busy, (ofStream.rd e).trans stream⟩

theorem Dev.rd_endPicture_finished (room : d.rd Reg.decodeEngineState_finished e + 1 < 2 ^ Reg.decodeEngineState_finished.width) :
    (d.endPicture e r how).rd Reg.decodeEngineState_finished e =
      d.rd Reg.decodeEngineState_finished e + (if (d.endedFrame e j r how).awaiting then 0 else 1) := by
  obtain ⟨-, -, -, -, finished⟩ := d.engineFreed_spec e j r (d.endedFrame e j r how)
  rw [(Dev.pictureCounted_endPicture job r how (p := Reg.decodeEngineState_finished) rfl).rd e,
    Dev.rd_pictureCounted _ _ _ _ _ (by rwa [finished]), finished]

omit job in
/-- The frame of a stream's picture is the one its job leaves. -/
theorem Dev.endedFrame_stream (noClip : j.clip = none) : d.endedFrame e j r how =
    finishedFrame (d.dec j.unit.stream) e j (settledResult r (d.dec j.unit.stream) j.header) how := by
  simp [Dev.endedFrame, Dev.frameKept, DecodeJob.record, noClip]

end

/-- Whether or not the engine serves a picture, it serves none afterwards, and the others are as they were. -/
theorem Dev.endPicture_jobs (d : Dev) (e : Nat) (r : PictureResult) (how : Ending) :
    (d.endPicture e r how).now = d.now ∧ (d.endPicture e r how).decodeJobs = d.decodeJobs.erase e := by
  cases job : d.decodeJobs.find? e with
  | none => rw [Dev.endPicture_idle job]; exact ⟨rfl, (Tbl.erase_of_find?_none job).symm⟩
  | some j =>
    obtain ⟨now, jobs, -⟩ := d.engineFreed_spec e j r (d.endedFrame e j r how)
    have freed := Dev.engineFreed_endPicture job r how (p := Reg.decodeEngineState_busy) rfl (by decide)
    exact ⟨freed.now.trans now, freed.decodeJobs.trans jobs⟩

/-- The marks of the frame a picture leaves (R140, R153, R155, R161). -/
theorem finishedFrame_spec (x : DecodeStream) (e : Nat) (j : DecodeJob) (r : PictureResult) (how : Ending) :
    let f := finishedFrame x e j r how
    f.pointer = j.pointer ∧ f.unit = j.unit ∧ f.reference = j.header.kept ∧
      (f.awaiting = true ↔ (j.header.shown = true ∨ j.unit.codec ≠ 3) ∧ how = .finished ∧ (j.unit.releaseConcealed = true ∨ f.concealed = false)) ∧
      (f.concealed = true ↔ ∃ b, b < ceilDiv j.header.width 16 * ceilDiv j.header.height 16 ∧ outcomeAt r b = none) := by
  refine ⟨rfl, rfl, rfl, ?_, ?_⟩
  · have release : (finishedFrame x e j r how).awaiting =
        (!(how != .finished || ((finishedFrame x e j r how).concealed && !j.unit.releaseConcealed)) &&
          (j.header.shown || j.unit.codec != 3)) := rfl
    rw [release]
    simp only [Bool.and_eq_true, Bool.not_eq_true', Bool.or_eq_false_iff, Bool.and_eq_false_iff, Bool.not_eq_false', Bool.or_eq_true,
      bne_eq_false_iff_eq, bne_iff_ne]
    rw [And.comm, Or.comm (a := _ = false)]
  · have blocks : (finishedFrame x e j r how).concealed =
        (List.range (ceilDiv j.header.width 16 * ceilDiv j.header.height 16)).any fun b => (outcomeAt r b).isNone := rfl
    simp only [blocks, List.any_eq_true, List.mem_range, Option.isNone_iff_eq_none]

/-- A picture whose budget has run out for certain may be aborted (R163). -/
theorem DecodeJob.mayAbort_of_overdue {j : DecodeJob} {t : Nat} (h : j.overdue t = true) : j.mayAbort t = true := by
  simp only [DecodeJob.overdue, DecodeJob.mayAbort, decide_eq_true_eq] at h ⊢
  omega

/-! ### Engine faults (R148) -/

theorem Dev.appendNow_keepsDecode {p : Reg} (ofDecode : p.obj.ofDecode = true) (d : Dev) (x : LedgerEntry) : d.KeepsDecode p (d.appendNow x) := by
  have other (d : Dev) {q : Reg} (h : q.obj.ofDecode = false) (i v : Nat) := d.wrOther_keepsDecode ofDecode i v h
  have counted (d : Dev) {q : Reg} (h : q.obj.ofDecode = false) (i n : Nat) := d.countOther_keepsDecode ofDecode i n h
  have ledger (d : Dev) (l : Ledger) : d.KeepsDecode p { d with ledger := l } := {}
  have compacted : d.KeepsDecode p d.compact :=
    (((ledger d _).trans (counted _ rfl _ _)).trans (counted _ rfl _ _)).trans (other _ rfl _ _)
  refine ((Dev.KeepsDecode.trans ?_ (counted _ rfl _ _)).trans (other _ rfl _ _)).trans (other _ rfl _ _)
  exact ((Dev.KeepsDecode.refl p d).step_if compacted _).trans (ledger _ _)

theorem Dev.appendLedger_keepsDecode {p : Reg} (ofDecode : p.obj.ofDecode = true) (d : Dev) (kind : Nat) (t : UnitType) (unit sub : Nat)
    (data : List Byte) : d.KeepsDecode p (d.appendLedger kind t unit sub data) := by
  unfold Dev.appendLedger; dsimp only; split
  · exact {}
  split
  · refine Dev.KeepsDecode.trans ?_ (Dev.countOther_keepsDecode ofDecode _ _ _ rfl)
    exact {}
  · exact d.appendNow_keepsDecode ofDecode _

/-- The engine faulted less than a second before. -/
def Dev.faultsAgain (d : Dev) (e : Nat) : Bool :=
  (d.faults.find? (5 * 16 + Reg.decodeEngineState_retired.obj.info.number % 16, e)).any fun t => decide (d.now < t + secondTicks)

theorem decodeEngineFaultEffect_dead {d : Dev} {e : Nat} (r : PictureResult) (dead : d.liveDecoders.contains e = false) :
    decodeEngineFaultEffect e r d = d := if_pos (by rw [dead]; rfl)

theorem decodeEngineFaultEffect_live {d : Dev} {e : Nat} (r : PictureResult) (live : d.liveDecoders.contains e = true) :
    decodeEngineFaultEffect e r d =
      (d.endPicture e r .reset).engineFault 0x05 e Reg.decodeEngineState_retired Reg.decodeEngineState_resets .decodeEngine :=
  if_neg (by rw [live]; decide)

/-- A decode engine's fault leaves the pictures in decode as they were, and ends in FAULT with the engine in its detail. -/
theorem Dev.engineFault_spec (d : Dev) (e : Nat) :
    let w := d.engineFault 0x05 e Reg.decodeEngineState_retired Reg.decodeEngineState_resets .decodeEngine
    w.decodeJobs = d.decodeJobs ∧ w.attentionBit Bit.fault = true ∧
      w.rd Reg.dictionaryAttentionCause_detail (Bit.fault - 8) = (e + (if d.faultsAgain e then 0x8000 else 0)) % 65536 := by
  refine ⟨?jobs, Dev.attentionBit_attend _ (show 8 ≤ Bit.fault by decide) (show Bit.fault ≤ 15 by decide),
    Dev.rd_attend_causeDetail _ (show 8 ≤ Bit.fault by decide) (show Bit.fault ≠ Bit.log by decide)⟩
  refine (Dev.KeepsDecode.trans (Dev.KeepsDecode.step_if (p := Reg.decodeEngineState_busy)
    (.trans ?faults (Dev.count_keepsDecode _ _ _ ?resets))
    (.trans (Dev.wr_keepsDecode _ _ _ ?retired) (Dev.appendLedger_keepsDecode rfl _ _ _ _ _ _)) _)
    (Dev.attend_keepsDecode rfl _ _)).decodeJobs
  case faults => exact {}
  case resets => decide
  case retired => decide

/-! ### A picture released (R154, R155, R194) -/

/-- The decoder's record of a stream once a frame is released: the last output and the concealment source, held downstream if the stream
produces frames. -/
def DecodeStream.release (x : DecodeStream) (f : Frame) (produce : Bool) : DecodeStream :=
  { x with lastOutput := some f.pointer, freshOutput := false,
           frames := x.frames.map fun g =>
             if g.pointer = f.pointer then { g with awaiting := false, held := g.held + b2n produce, source := true, engine := none, unitHeld := false }
             else { g with source := false } }

/-- A frame released has finished, and its access-unit buffer returns, unless both have happened before. -/
def Dev.releasedFinished (d : Dev) (f : Frame) : Dev :=
  match f.engine with
  | some e => d.pictureFinished f.unit e f.unitHeld
  | none => if f.unitHeld then d.returnUnit f.unit else d

/-- The device once a picture is released, counted, and has finished. -/
def Dev.pictureReleased (d : Dev) (s : Nat) (f : Frame) : Dev :=
  let produce := d.flag Reg.calenderStreamConfig_produce s
  let d := d.updDec s fun x => x.release f produce
  (d.count Reg.decodeStreamCounters_released s).releasedFinished f

/-- The device with a released picture at the end of those that wait for a Calender. -/
def Dev.toCalender (d : Dev) (s : Nat) (f : Frame) : Dev :=
  let d := d.calenderMiss s
  { d with released := d.released ++ [f.picture] }

theorem pictureReleaseEffect_none {d : Dev} {s : Nat} (h : d.dueOut s = none) : pictureReleaseEffect s d = d := by
  simp [pictureReleaseEffect, h]

theorem pictureReleaseEffect_due {d : Dev} {s : Nat} {f : Frame} (h : d.dueOut s = some f) : pictureReleaseEffect s d =
    let w := d.pictureReleased s f
    ((List.range 64).foldl (fun d c => d.offerClip c f)
      (if d.flag Reg.calenderStreamConfig_produce s then w.toCalender s f else w)).reclaim s := by
  unfold pictureReleaseEffect
  rw [h]
  rfl

theorem Dev.releasedFinished_keepsDecode (d : Dev) (f : Frame) : d.KeepsDecode Reg.decodeStreamCounters_released (d.releasedFinished f) := by
  unfold Dev.releasedFinished; split
  · exact d.pictureFinished_keepsDecode rfl _ _ _ (by decide) (by decide)
  · exact (Dev.KeepsDecode.refl _ d).step_if (Dev.giveOwn_keepsDecode rfl _ _ _ _) _

theorem Dev.pictureReleased_spec (d : Dev) (s : Nat) (f : Frame) :
    let w := d.pictureReleased s f
    w.released = d.released ∧ w.frames = d.frames ∧ w.queues = d.queues ∧ w.handedUnits = d.handedUnits ∧
      (d.rd Reg.decodeStreamCounters_released s + 1 < 2 ^ Reg.decodeStreamCounters_released.width →
        w.rd Reg.decodeStreamCounters_released s = d.rd Reg.decodeStreamCounters_released s + 1) := by
  have record (p : Reg) := d.updDec_keepsDecode (p := p) s fun x => x.release f (d.flag Reg.calenderStreamConfig_produce s)
  have count := (record _).trans (Dev.count_keepsDecode _ (r := Reg.decodeStreamCounters_released)
    (p := Reg.decodeStreamCounters_finished) s 1 (by decide))
  have finish (x : Dev) := x.releasedFinished_keepsDecode f
  refine ⟨(finish _).released.trans count.released, (finish _).frames.trans count.frames, (finish _).queues.trans count.queues,
    (finish _).handedUnits.trans count.handedUnits, fun room => ((finish _).rd s).trans ?_⟩
  rw [Dev.count_eq_wr (by rwa [(record _).rd]), Dev.rd_wr_same, (record _).rd]

/-- The picture joins those that wait for a Calender. -/
theorem Dev.toCalender_spec (d : Dev) (s : Nat) (f : Frame) :
    (d.toCalender s f).released = d.released ++ [f.picture] ∧ (d.toCalender s f).frames = d.frames ∧ (d.toCalender s f).queues = d.queues ∧
      (d.toCalender s f).handedUnits = d.handedUnits ∧
      (d.toCalender s f).rd Reg.decodeStreamCounters_released s = d.rd Reg.decodeStreamCounters_released s := by
  have missed : d.KeepsDecode Reg.decodeStreamCounters_released (d.calenderMiss s) :=
    (Dev.KeepsDecode.refl _ d).step_if (d.countOther_keepsDecode rfl _ _ rfl) _
  exact ⟨congrArg (· ++ [f.picture]) missed.released, missed.frames, missed.queues, missed.handedUnits, missed.rd s⟩

/-- The clips of a stream take their copies, and free buffers return, beside the decoder's counts. -/
theorem pictureReleaseEffect_keepsDecode {d : Dev} {s : Nat} {f : Frame} (h : d.dueOut s = some f) :
    (if d.flag Reg.calenderStreamConfig_produce s then (d.pictureReleased s f).toCalender s f else d.pictureReleased s f).KeepsDecode
      Reg.decodeStreamCounters_released (pictureReleaseEffect s d) := by
  rw [pictureReleaseEffect_due h]
  exact (Dev.KeepsDecode.foldl (fun d c => d.offerClip_keepsDecode rfl c f) _ _).trans (Dev.reclaim_keepsDecode rfl _ s)

@[simp] theorem settle_released (d : Dev) : (settle d).released = d.released := by
  rcases settle_eq d with h | h <;> rw [h]
  rfl

@[simp] theorem settle_frames (d : Dev) : (settle d).frames = d.frames := by
  rcases settle_eq d with h | h <;> rw [h]
  rfl

end Sys2Proof.Machine
end

section
/-! The statements on decode (R138 to R166, R194), settled. -/

namespace Sys2Proof.DecodeFamily
open Sys2Proof.Machine Sys2Proof.Safety

-- One proof at a time: the threads of all of them together would not fit the memory.
set_option Elab.async false

/-- Settles O31: one equation of the effect for each outcome of the engine's turn. -/
theorem decodeStarts : Obligations.DecodeStarts := by
  refine ⟨fun s e h w => ⟨fun not => ?_, fun free none_ => ⟨fun k => ?_, fun general room c clip => ?_⟩, fun u free unit => ⟨?_, ?_⟩⟩, ?_⟩
  · exact leads_of rfl w (decodeStartEffect_not not)
  · exact leads_of rfl w (decodeStartEffect_noClip free none_ k)
  · exact leads_of rfl w (decodeStartEffect_clip free none_ general room clip)
  · intro claimed key switching
    exact leads_of rfl w ((decodeStartEffect_unit free unit).trans (Dev.takeUnit_lost claimed key switching))
  · intro claimed buffers switching
    have takes {z : Dev} (k : s.dev.takeUnit e u h = z) : decodeStartEffect e h s.dev = z := (decodeStartEffect_unit free unit).trans k
    refine ⟨fun code k => ?_, fun passes n k => ?_, fun a z passes k last buffer => ?_⟩
    · exact leads_of rfl w (takes (Dev.takeUnit_rejected claimed buffers switching k))
    · exact leads_of rfl w (takes (Dev.takeUnit_shown claimed buffers switching passes k))
    · refine yields_of rfl w ?_
      rw [takes (Dev.takeUnit_taken claimed buffers switching passes k buffer)]
      simp only [settle_decodeJobs, settle_handedUnits, settle_rd, settle_mem]
      exact Dev.startPicture_spec _ e u _ a last
  · intro d e u k
    obtain ⟨may, next, latency⟩ := Dev.unitFor_nextUnit k
    obtain ⟨mays, waits, idle, first, room, due⟩ := Dev.nextUnit_spec next
    exact ⟨waits, idle, first, room, due, fun l => (latency l).symm.trans mays⟩

/-- Settles O32: a picture's end is written, counted and reclaimed, and only its writing touches the engine's state. -/
theorem pictureEnds : Obligations.PictureEnds := by
  refine ⟨fun s e r idle => ⟨fun w => ?_, fun w => ?_⟩, ?serving, finishedFrame_spec, fun s e r w => ⟨fun dead => ?_, fun live => ?_⟩⟩
  case serving =>
    intro s e r j job noClip _
    refine ⟨fun x w => ?_, fun w => ⟨fun may => ?_, fun may => ?_⟩, fun t => DecodeJob.mayAbort_of_overdue, fun how => ?_⟩
    · exact leads_of rfl w (by simp [decodeFinishEffect, job])
    · exact leads_of rfl w (by simp [budgetAbortEffect, job, may])
    · exact leads_of rfl w (by simp [budgetAbortEffect, job, may])
    · obtain ⟨none_, idle, busy, stream⟩ := Dev.endPicture_free job r how
      refine ⟨none_, idle, busy, stream, fun room => ?_⟩
      rw [Dev.rd_endPicture_finished job r how room, Dev.endedFrame_stream r how noClip]
  · exact leads_of rfl w (Dev.endPicture_idle idle r _)
  · exact leads_of rfl w (by simp [budgetAbortEffect, idle])
  · exact leads_of rfl w (decodeEngineFaultEffect_dead r dead)
  · refine yields_of rfl w ?_
    obtain ⟨now, jobs⟩ := s.dev.endPicture_jobs e r .reset
    obtain ⟨kept, fault, detail⟩ := (s.dev.endPicture e r .reset).engineFault_spec e
    rw [Dev.faultsAgain, now] at detail
    simp only [decodeEngineFaultEffect_live r live, Dev.attentionBit, settle_decodeJobs, settle_rd, settle_attention]
    exact ⟨kept.trans jobs, fault, detail⟩

/-- Settles O36: the picture is released and joins the Calender's, and what follows keeps those and the count. -/
theorem pictureReleased : Obligations.PictureReleased := by
  refine ⟨fun s n w none_ => leads_of rfl w (pictureReleaseEffect_none none_), fun s n f w due => yields_of rfl w ?_,
    fun d n f => Dev.nextOut_of_dueOut, fun x f => DecodeStream.nextOut_spec⟩
  have kept := pictureReleaseEffect_keepsDecode due
  obtain ⟨released, frames, queues, units, count⟩ := s.dev.pictureReleased_spec n f
  obtain ⟨released', frames', queues', units', count'⟩ := (s.dev.pictureReleased n f).toCalender_spec n f
  simp only [settle_released, settle_frames, settle_queues, settle_handedUnits, settle_rd, kept.released, kept.frames, kept.queues,
    kept.handedUnits, kept.rd]
  split
  · exact ⟨by rw [released', released], frames'.trans frames, queues'.trans queues, units'.trans units, fun room => count'.trans (count room)⟩
  · exact ⟨released, frames, queues, units, count⟩

/-- Logical rank 0 takes no write: it met a command error while no spare was left (R470). -/
def deadRank : Dev := { lp := { lost := [0], dead := [0] } }

/-- A sample of 1 stored at address 0, in the dead rank, reads 0. -/
theorem deadRank_sample : (deadRank.putPlane 0 1 1 1 1 fun _ _ => 1).sample 0 1 1 0 0 = 0 := by decide +kernel

/-- Refutes O33: a plane may lie in a logical rank that met a command error while no spare was left. Writes to it are discarded (R470), so
its samples do not read back. -/
theorem not_planesStored : ¬ Obligations.PlanesStored := by
  intro ⟨planes, _⟩
  obtain ⟨reads, -, -⟩ := planes deadRank 0 1 1 1 1 (fun _ _ => 1) ⟨List.Pairwise.nil, by simp [deadRank]⟩ (by decide)
  have stored := reads 0 0 (by decide) (by decide)
  rw [deadRank_sample] at stored
  exact absurd stored (by decide)

end Sys2Proof.DecodeFamily
end

section
/-! SUPPORT. The clip commands (R167, R168, R172, R181) and the copy of a picture (R171). -/

namespace Sys2Proof.Machine

/-! ### Clip slots (R168) -/

@[simp] theorem Dev.clip?_setClip_same (d : Dev) (c : Nat) (x : Clip) : (d.setClip c x).clip? c = some x :=
  Tbl.find?_put_same d.clips c x

/-- Where some slot has no clip, the slot taken is the lowest such. -/
theorem Dev.freeClip_spec {d : Dev} (h : ∃ c, c < 64 ∧ d.clip? c = none) :
    d.clip? d.freeClip = none ∧ ∀ c, c < d.freeClip → (d.clip? c).isSome = true := by
  obtain ⟨c, small, free⟩ := h
  cases found : (List.range 64).find? fun c => (d.clip? c).isNone with
  | none => simpa [free] using List.find?_eq_none.1 found c (List.mem_range.2 small)
  | some k =>
    obtain ⟨none_, -, taken⟩ := List.find?_range_eq_some.1 found
    rw [show d.freeClip = k by simp [Dev.freeClip, found]]
    exact ⟨by simpa using none_, fun j below => by simpa using taken j below⟩

/-- The slot taken holds a clip of the stream the command names. -/
theorem Dev.stream_openClip (d : Dev) (e : List Byte) : ((d.openClip e).clip? d.freeClip).map Clip.stream = some (le e 8 2) := by
  simp [Dev.openClip, Dev.clip?, Dev.setClip]

/-! ### Why ENCODE_CLIP is refused (R168) -/

theorem Dev.clipRefusal_full {d : Dev} (e : List Byte) (h : ∀ c, c < 64 → (d.clip? c).isSome = true) : d.clipRefusal e = some 0x80 :=
  if_pos (by simpa using h)

theorem Dev.clipRefusal_room {d : Dev} {e : List Byte} (h : d.clipRefusal e = none) : ∃ c, c < 64 ∧ d.clip? c = none := by
  refine Classical.byContradiction fun none_ => ?_
  have full := d.clipRefusal_full e fun c small => Option.isSome_iff_ne_none.2 fun free => none_ ⟨c, small, free⟩
  exact absurd (h.symm.trans full) (by decide)

theorem Dev.clipRefusal_notRunning {d : Dev} {e : List Byte} (h : ∃ c, c < 64 ∧ d.clip? c = none)
    (idle : (d.stream (le e 8 2)).phase ≠ .running) : d.clipRefusal e = some 0x83 := by
  obtain ⟨c, small, free⟩ := h
  have room : ¬((List.range 64).all fun c => (d.clip? c).isSome) = true := fun full => by
    simpa [free] using List.all_eq_true.1 full c (List.mem_range.2 small)
  rw [Dev.clipRefusal, if_neg room, if_pos idle]

/-! ### What each command does -/

section
variable {d : Dev} {q i : Nat} {f : Fetched}

theorem encodeClipEffect_refused {code : Nat} (h : d.takeCommand q i 0x0601 = some f) (r : d.clipRefusal f.entry = some code) :
    encodeClipEffect q i d = d.complete q i code 0x06 := by
  simp only [encodeClipEffect, h, r]

theorem encodeClipEffect_opened (h : d.takeCommand q i 0x0601 = some f) (r : d.clipRefusal f.entry = none) :
    encodeClipEffect q i d = (d.openClip f.entry).complete q i 0 0x06 d.freeClip := by
  simp only [encodeClipEffect, h, r]

theorem encodeStopEffect_noClip (h : d.takeCommand q i 0x0602 = some f) (n : d.clip? (byteAt f.entry 8) = none) :
    encodeStopEffect q i d = d.complete q i 0x81 0x06 := by
  simp only [encodeStopEffect, h, n]

theorem encodeStopEffect_clip {x : Clip} (h : d.takeCommand q i 0x0602 = some f) (c : d.clip? (byteAt f.entry 8) = some x) :
    encodeStopEffect q i d = (if x.inService.isNone then d.endClip (byteAt f.entry 8)
      else d.setClip (byteAt f.entry 8) { x with stopping := true }).complete q i 0 0x06 := by
  simp only [encodeStopEffect, h, c]

theorem encodeKeyEffect_noClip (h : d.takeCommand q i 0x0603 = some f) (n : d.clip? (byteAt f.entry 8) = none) :
    encodeKeyEffect q i d = d.complete q i 0x81 0x06 := by
  simp only [encodeKeyEffect, h, n]

theorem encodeKeyEffect_clip {x : Clip} (h : d.takeCommand q i 0x0603 = some f) (c : d.clip? (byteAt f.entry 8) = some x) :
    encodeKeyEffect q i d =
      (d.setClip (byteAt f.entry 8) { x with rc := { x.rc with keyRequested := true } }).complete q i 0 0x06 := by
  simp only [encodeKeyEffect, h, c]

end

/-! ### A copy into a rank that takes no write (R171, R470) -/

theorem Dev.getByte_putBytes_dead (bs : List Byte) : ∀ (d : Dev) (a c : Nat), Memory.wf d.memFree d.mem → deadAt d.lp.dead c = true →
    (d.putBytes a bs).getByte c = d.getByte c := by
  induction bs with
  | nil => intro d a c h dead; rfl
  | cons b bs ih =>
    intro d a c h dead
    rw [Dev.putBytes]
    split
    · exact ih d (a + 1) c h dead
    · next live =>
      rw [ih _ (a + 1) c (d.setByte_wf a b h) dead]
      exact d.getByte_setByte_ne b (fun same => live (same ▸ dead)) h

/-- A byte of a rank that takes no write is after any copy what it was before. -/
theorem Dev.getByte_copyBytes_dead {d : Dev} (src dst n : Nat) {c : Nat} (h : Memory.wf d.memFree d.mem)
    (dead : deadAt d.lp.dead c = true) : (d.copyBytes src dst n).getByte c = d.getByte c := by
  have bytes : (d.copyBytes src dst n).getByte c = (d.putBytes dst (d.getBytes src n)).getByte c := by
    simp [Dev.copyBytes, Dev.store, Dev.getByte]
  rw [bytes, Dev.getByte_putBytes_dead _ d dst c h dead]

end Sys2Proof.Machine
end

section
/-! The statements on encode (R167 to R189), settled. -/

namespace Sys2Proof.EncodeFamily
open Sys2Proof.Machine Sys2Proof.Safety

/-- Settles O34: one equation of the effect for each answer of the three commands. -/
theorem clipCommands : Obligations.ClipCommands := by
  refine ⟨fun s q i f w h => ⟨fun full => ?_, fun room idle => ?_, fun passes => ?_⟩,
    fun s q i f w h => ⟨fun none_ => ?_, fun x clip => ⟨fun idle => ?_, fun busy => ?_⟩⟩,
    fun s q i f w h => ⟨fun none_ => ?_, fun x clip => ?_⟩⟩
  · exact leads_of rfl w (encodeClipEffect_refused h (Dev.clipRefusal_full f.entry full))
  · exact leads_of rfl w (encodeClipEffect_refused h (Dev.clipRefusal_notRunning room idle))
  · obtain ⟨free, lower⟩ := Dev.freeClip_spec (Dev.clipRefusal_room passes)
    exact ⟨leads_of rfl w (encodeClipEffect_opened h passes), free, lower, s.dev.stream_openClip f.entry⟩
  · exact leads_of rfl w (encodeStopEffect_noClip h none_)
  · exact leads_of rfl w (by rw [encodeStopEffect_clip h clip, if_pos (Option.isNone_iff_eq_none.2 idle)])
  · exact leads_of rfl w (by rw [encodeStopEffect_clip h clip, if_neg (mt Option.isNone_iff_eq_none.1 busy)])
  · exact leads_of rfl w (encodeKeyEffect_noClip h none_)
  · exact leads_of rfl w (encodeKeyEffect_clip h clip)

/-- Logical rank 0 takes no write, and the first byte of rank 1, at address 256, is 1. -/
def copyToDeadRank : Dev := { mem := [(256, 1#8)], lp := { lost := [0], dead := [0] } }

theorem copyToDeadRank_wf : Memory.wf copyToDeadRank.memFree copyToDeadRank.mem :=
  ⟨List.pairwise_singleton _ _, by decide⟩

/-- Refutes O35: a clip's copy may lie in a logical rank that met a command error while no spare was left. Writes to it are discarded (R470),
so the copy does not hold the source's bytes: the byte at 0 stays 0 when the 1 at 256 is copied there. -/
theorem not_encodePictures : ¬ Obligations.EncodePictures := by
  intro h
  obtain ⟨-, -, -, -, -, copies, -, -⟩ := h
  have copied := copies copyToDeadRank 256 0 1 0 copyToDeadRank_wf (by decide)
  rw [Dev.getByte_copyBytes_dead 256 0 1 copyToDeadRank_wf (by decide)] at copied
  exact absurd copied (by decide)

end Sys2Proof.EncodeFamily
end

section
/-! SUPPORT. The Calender's levels and difference map (R199, R201, R203, R204), and its fault (R197, R205). -/

namespace Sys2Proof.Machine

/-! ### The layout of levels (R199, R201) -/

theorem roundUp_mod (x m : Nat) : roundUp x m % m = 0 := Nat.mul_mod_left _ _

theorem le_roundUp (x : Nat) {m : Nat} (pos : 0 < m) : x ≤ roundUp x m := by
  have split := Nat.div_add_mod (x + m - 1) m
  have small := Nat.mod_lt (x + m - 1) pos
  rw [roundUp, Nat.mul_comm]
  omega

/-- A row of a level holds its samples, of two bytes each. -/
theorem le_levelPitch (w : Nat) : 2 * w ≤ levelPitch w := by
  have room := le_roundUp w (m := 16) (by decide)
  rw [levelPitch]
  omega

theorem one_le_outDim (n m : Nat) : 1 ≤ outDim n m := Nat.le_max_left _ _

/-- A dimension that the scale does not take below one is at most what the scale gives. -/
theorem outDim_le_scaled {n m : Nat} (h : 256 ≤ n * m) : 256 * outDim n m ≤ n * m := by
  have floor : outDim n m = n * m / 256 := Nat.max_eq_right ((Nat.one_le_div_iff (by decide)).2 h)
  rw [floor]
  exact Nat.mul_div_le _ _

/-- The first level lies on the next 4 KiB boundary, and the others behind it. -/
theorem layLevels_cons (planes w h : Nat) (sizes : List (Nat × Nat)) (pos : Nat) :
    layLevels planes ((w, h) :: sizes) pos =
      (let off := roundUp pos 4096
      let r := layLevels planes sizes (off + planes * h * levelPitch w)
      ({ width := w, height := h, pitch := levelPitch w, offset := off } :: r.1, r.2)) := rfl

theorem layLevels_length (planes : Nat) (sizes : List (Nat × Nat)) (pos : Nat) :
    (layLevels planes sizes pos).1.length = sizes.length := by
  induction sizes generalizing pos with
  | nil => rfl
  | cons x sizes ih => exact congrArg (· + 1) (ih _)

theorem le_layLevels_end (planes : Nat) (sizes : List (Nat × Nat)) (pos : Nat) : pos ≤ (layLevels planes sizes pos).2 := by
  induction sizes generalizing pos with
  | nil => exact Nat.le_refl pos
  | cons x sizes ih =>
    have first := le_roundUp pos (m := 4096) (by decide)
    have rest := ih (roundUp pos 4096 + planes * x.2 * levelPitch x.1)
    rw [layLevels_cons]
    dsimp only
    omega

/-- Every level lies on a 4 KiB boundary between the position laid from and the end, and its rows hold their samples. -/
theorem layLevels_place (planes : Nat) (sizes : List (Nat × Nat)) (pos : Nat) : ∀ l ∈ (layLevels planes sizes pos).1,
    l.offset % 4096 = 0 ∧ pos ≤ l.offset ∧ l.offset + planes * l.height * l.pitch ≤ (layLevels planes sizes pos).2 ∧
      2 * l.width ≤ l.pitch := by
  induction sizes generalizing pos with
  | nil => simp [layLevels]
  | cons x sizes ih =>
    have first := le_roundUp pos (m := 4096) (by decide)
    intro l mem
    rw [layLevels_cons] at mem ⊢
    rcases List.mem_cons.1 mem with rfl | mem
    · exact ⟨roundUp_mod _ _, first, le_layLevels_end _ _ _, le_levelPitch _⟩
    · obtain ⟨boundary, after, inside, rows⟩ := ih _ l mem
      exact ⟨boundary, by omega, inside, rows⟩

/-- No level overlaps a later one. -/
theorem layLevels_pairwise (planes : Nat) (sizes : List (Nat × Nat)) (pos : Nat) :
    (layLevels planes sizes pos).1.Pairwise fun a b => a.offset + planes * a.height * a.pitch ≤ b.offset := by
  induction sizes generalizing pos with
  | nil => exact List.Pairwise.nil
  | cons x sizes ih =>
    refine List.Pairwise.cons (fun l mem => ?_) (ih _)
    obtain ⟨-, after, -, -⟩ := layLevels_place planes sizes _ l mem
    exact after

/-! ### Entries of the difference map (R203, R204) -/

section
variable {d : Dev} {p : Picture} {new old : List Plane} {bad : Bool} {bx k : Nat}

theorem Dev.mapEntry_damagedHint (h : 2 ∈ d.footprintHints p bx k) : d.mapEntry p new (some old) bad bx k = (0x7C00, 2) := by
  simp [Dev.mapEntry, h]

/-- With every hint zero no comparison is made. -/
theorem Dev.mapEntry_zeroHints (h : ∀ x ∈ d.footprintHints p bx k, x = 0) : d.mapEntry p new (some old) bad bx k = (0, 0) := by
  have sound : 2 ∉ d.footprintHints p bx k := fun mem => absurd (h 2 mem) (by decide)
  have zero : (d.footprintHints p bx k).all (· == 0) = true := by simpa using h
  simp [Dev.mapEntry, sound, zero]

theorem Dev.mapEntry_poisonedHistory (sound : 2 ∉ d.footprintHints p bx k) (h : ∃ x ∈ d.footprintHints p bx k, x ≠ 0) :
    d.mapEntry p new (some old) true bx k = (0x7C00, 2) := by
  have changed : ¬(d.footprintHints p bx k).all (· == 0) = true := by simpa using h
  simp only [Dev.mapEntry, List.contains_iff_mem, if_neg sound, if_neg changed, if_true]

/-- With sound hints and history an entry is 0 of class 0 or a difference of class 1. -/
theorem Dev.mapEntry_sound (sound : 2 ∉ d.footprintHints p bx k) : d.mapEntry p new (some old) false bx k = (0, 0) ∨
    ((d.mapEntry p new (some old) false bx k).1 ≠ 0 ∧ (d.mapEntry p new (some old) false bx k).2 = 1) := by
  by_cases zero : ∀ x ∈ d.footprintHints p bx k, x = 0
  · exact .inl (Dev.mapEntry_zeroHints zero)
  have changed : ¬(d.footprintHints p bx k).all (· == 0) = true := by simpa using zero
  have compared : d.mapEntry p new (some old) false bx k =
      if up16 (blockDifference new old bx k) = 0 then (0, 0) else (up16 (blockDifference new old bx k), 1) := by
    simp only [Dev.mapEntry, List.contains_iff_mem, if_neg sound, if_neg changed, Bool.false_eq_true, if_false]
  rw [compared]
  split
  · exact .inl rfl
  · next differs => exact .inr ⟨differs, rfl⟩

end

/-! ### A fault with a picture of an earlier enable in service (R197, R205) -/

theorem Dev.Noted.calStreams {d e : Dev} (h : d.Noted e) : e.calStreams = d.calStreams := by
  obtain ⟨f, r, a, w, rfl⟩ := h
  rfl

@[simp] theorem Dev.count_calStreams (d : Dev) (r : Reg) (i n : Nat) : (d.count r i n).calStreams = d.calStreams :=
  (d.count_noted r i n).calStreams

@[simp] theorem Dev.appendNow_calStreams (d : Dev) (x : LedgerEntry) : (d.appendNow x).calStreams = d.calStreams := by
  have compacted : d.compact.calStreams = d.calStreams := by simp [Dev.compact]
  simp only [Dev.appendNow, Dev.wr_calStreams, Dev.count_calStreams]
  split
  · exact compacted
  · rfl

@[simp] theorem Dev.appendLedger_calStreams (d : Dev) (kind : Nat) (t : UnitType) (unit sub : Nat) (data : List Byte) :
    (d.appendLedger kind t unit sub data).calStreams = d.calStreams := by
  unfold Dev.appendLedger; dsimp only
  split
  · rfl
  split <;> simp

@[simp] theorem Dev.engineFault_calStreams (d : Dev) (area e : Nat) (st rs : Reg) (t : UnitType) :
    (d.engineFault area e st rs t).calStreams = d.calStreams := by
  simp only [Dev.engineFault, (Dev.attend_noted _ _).calStreams]
  split <;> simp

@[simp] theorem settle_calStreams (d : Dev) : (settle d).calStreams = d.calStreams := by
  rcases settle_eq d with h | h <;> rw [h]
  rfl

/-- A picture of an earlier enable has no history, so a fault while it is in service marks none stale. -/
theorem calenderFaultEffect_old_calStreams {d : Dev} {e : Nat} {p : Picture} (b : Bool) (job : d.calJob e = some p) (old : p.old = true) :
    (calenderFaultEffect e b d).calStreams = d.calStreams := by
  unfold calenderFaultEffect
  split
  · rfl
  · simp [job, old, Dev.updPicture]

end Sys2Proof.Machine
end

section
/-! The statements on the Calender (R195 to R205), settled. -/

namespace Sys2Proof.CalenderFamily
open Sys2Proof.Machine Sys2Proof.Safety

/-- A picture released before its stream stopped, in service on Calender 0. -/
def oldPicture : Picture :=
  { stream := 0, flags := 0, sequence := 0, pointer := 0, width := 16, height := 16, timestamp := 0, wraps := 0, kind := 1,
    engine := some 0, old := true }

/-- The device is out of reset and has that picture in service; the stream's record is as a stop leaves it (R211). -/
def oldInService : State := { dev := { pwrgood := true, perstLow := false, released := [oldPicture] }, pending := [] }

theorem oldInService_ready : ready (.calenderFault 0 true) oldInService := by decide +kernel

theorem oldInService_live : oldInService.dev.liveCalenders.contains 0 = true := by decide +kernel

theorem oldInService_job : oldInService.dev.calJob 0 = some oldPicture := by decide +kernel

/-- Refutes O37: a Calender may fault, named as writing history, with a picture of an earlier enable in service. Such a picture has no
history (R205), so the fault marks none stale. -/
theorem not_calenderWork : ¬ Obligations.CalenderWork := by
  intro h
  obtain ⟨-, -, -, -, -, faults⟩ := h
  obtain ⟨-, faulted⟩ := faults oldInService 0 true oldInService_ready
  obtain ⟨t, step, -, -, -, -, -, -, marked, -⟩ := faulted oldPicture oldInService_live oldInService_job
  have stale : (t.dev.calStream 0).stale = true := marked rfl
  cases (act_runs oldInService_ready.1 oldInService_ready.2).symm.trans step
  rw [Dev.calStream, settle_calStreams, calenderFaultEffect_old_calStreams true oldInService_job rfl] at stale
  exact absurd stale (by decide)

/-- Settles O38: the cases of an entry are those of R203 and R204, and each level is laid behind the one before it. -/
theorem differenceMap : Obligations.DifferenceMap := by
  refine ⟨fun d p new bad bx k => ⟨rfl, fun old => ⟨Dev.mapEntry_damagedHint, Dev.mapEntry_zeroHints, fun sound changed poisoned => ?_,
    fun sound clean => ?_⟩⟩, fun n m => ⟨one_le_outDim n m, outDim_le_scaled⟩, fun planes sizes pos => ?_⟩
  · subst poisoned
    exact Dev.mapEntry_poisonedHistory sound changed
  · subst clean
    exact Dev.mapEntry_sound sound
  · exact ⟨layLevels_length _ _ _, le_layLevels_end _ _ _, layLevels_place _ _ _, layLevels_pairwise _ _ _⟩

end Sys2Proof.CalenderFamily
end

section
/-! SUPPORT. Press cores, contexts and entries: what a change of one leaves alone, and the command a core has in service (R212, R235, R238,
R423). -/

namespace Sys2Proof.Machine

/-! ### Cores -/

@[simp] theorem Dev.core_updCore_same (d : Dev) (k : Nat) (f : Core → Core) : (d.updCore k f).core k = f (d.core k) := by
  simp [Dev.core, Dev.updCore]

theorem Dev.core_updCore_ne (d : Dev) {k j : Nat} (f : Core → Core) (h : j ≠ k) : (d.updCore k f).core j = d.core j := by
  simp [Dev.core, Dev.updCore, Ne.symm h]

@[simp] theorem Dev.updCore_mem (d : Dev) (k : Nat) (f : Core → Core) : (d.updCore k f).mem = d.mem := rfl
@[simp] theorem Dev.updCore_regs (d : Dev) (k : Nat) (f : Core → Core) : (d.updCore k f).regs = d.regs := rfl
@[simp] theorem Dev.updCore_queues (d : Dev) (k : Nat) (f : Core → Core) : (d.updCore k f).queues = d.queues := rfl
@[simp] theorem Dev.updCore_contexts (d : Dev) (k : Nat) (f : Core → Core) : (d.updCore k f).contexts = d.contexts := rfl
@[simp] theorem Dev.updCore_attention (d : Dev) (k : Nat) (f : Core → Core) : (d.updCore k f).attention = d.attention := rfl
@[simp] theorem Dev.rd_updCore (d : Dev) (k : Nat) (f : Core → Core) (r : Reg) (i : Nat) : (d.updCore k f).rd r i = d.rd r i := rfl

theorem Dev.core_of_cores {d e : Dev} (h : e.cores = d.cores) (k : Nat) : e.core k = d.core k := by rw [Dev.core, Dev.core, h]

@[simp] theorem settle_cores (d : Dev) : (settle d).cores = d.cores := by
  rcases settle_eq d with h | h <;> rw [h]
  rfl

@[simp] theorem settle_core (d : Dev) (k : Nat) : (settle d).core k = d.core k := Dev.core_of_cores (settle_cores d) k

/-- Counting and attention events leave cores, contexts, queues and device memory alone. -/
theorem Dev.Noted.work {d e : Dev} (h : d.Noted e) :
    e.cores = d.cores ∧ e.contexts = d.contexts ∧ e.queues = d.queues ∧ e.mem = d.mem := by
  obtain ⟨f, r, a, w, rfl⟩ := h
  exact ⟨rfl, rfl, rfl, rfl⟩

/-! ### Arrays of a core -/

@[simp] theorem Core.array_updArray_same (x : Core) (a : Nat) (f : PressArray → PressArray) : (x.updArray a f).array a = f (x.array a) := by
  unfold Core.updArray Core.array; split <;> rfl

/-- The arrays of a core are those numbered `a` and `1 - a`. -/
theorem Core.array_cases (x : Core) (a : Nat) :
    (x.array a = x.array0 ∧ x.array (1 - a) = x.array1) ∨ (x.array a = x.array1 ∧ x.array (1 - a) = x.array0) := by
  match a with
  | 0 => exact .inl ⟨rfl, rfl⟩
  | n + 1 => exact .inr ⟨rfl, by simp [Core.array]⟩

@[simp] theorem Core.array_updArray_other (x : Core) (a : Nat) (f : PressArray → PressArray) :
    (x.updArray a f).array (1 - a) = x.array (1 - a) := by
  match a with
  | 0 => rfl
  | n + 1 => simp [Core.updArray, Core.array]

@[simp] theorem Core.updArray_buffer (x : Core) (a : Nat) (f : PressArray → PressArray) : (x.updArray a f).buffer = x.buffer := by
  unfold Core.updArray; split <;> rfl

/-! ### Contexts, steps and entries -/

/-- A change of an entry changes contexts alone. -/
theorem Dev.updEntry_eq (d : Dev) (c n p : Nat) (f : StepEntry → StepEntry) : ∃ cs, d.updEntry c n p f = { d with contexts := cs } := by
  unfold Dev.updEntry Dev.updStep Dev.updCtx; split
  · exact ⟨_, rfl⟩
  · exact ⟨d.contexts, rfl⟩

theorem Dev.updEntry_work (d : Dev) (c n p : Nat) (f : StepEntry → StepEntry) :
    (d.updEntry c n p f).cores = d.cores ∧ (d.updEntry c n p f).queues = d.queues ∧ (d.updEntry c n p f).mem = d.mem ∧
      (d.updEntry c n p f).regs = d.regs := by
  obtain ⟨cs, h⟩ := d.updEntry_eq c n p f
  rw [h]; exact ⟨rfl, rfl, rfl, rfl⟩

theorem Dev.entry?_of_contexts {d e : Dev} (h : e.contexts = d.contexts) (c n p : Nat) : e.entry? c n p = d.entry? c n p := by
  simp only [Dev.entry?, Dev.step?, Dev.ctx?, h]

@[simp] theorem Dev.ctx?_updCtx_same (d : Dev) (c : Nat) (f : Context → Context) : (d.updCtx c f).ctx? c = (d.ctx? c).map f := by
  unfold Dev.updCtx; split
  · next x h => rw [h]; exact Tbl.find?_put_same _ _ _
  · next h => rw [h]; rfl

/-- A step reads as it was changed, as long as it keeps its number. -/
theorem Context.step?_updStep_same (x : Context) (n : Nat) {f : Step → Step} (h : ∀ s, (f s).number = s.number) :
    (x.updStep n f).step? n = (x.step? n).map f := by
  simp only [Context.step?, Context.updStep, List.find?_map]
  have number (s : Step) : (if s.number = n then f s else s).number = s.number := by split <;> simp [h]
  simp only [Function.comp_def, number]
  cases found : x.steps.find? fun s => s.number == n with
  | none => rfl
  | some s =>
    have same : s.number = n := by simpa using List.find?_some found
    simp [same]

/-- An entry reads as it was changed. -/
theorem Dev.entry?_updEntry_same {d : Dev} {c n p : Nat} {e : StepEntry} (h : d.entry? c n p = some e) (f : StepEntry → StepEntry) :
    (d.updEntry c n p f).entry? c n p = some (f e) := by
  obtain ⟨s, step, entry⟩ := Option.bind_eq_some_iff.1 h
  obtain ⟨x, ctx, inStep⟩ := Option.bind_eq_some_iff.1 step
  simp [Dev.entry?, Dev.step?, Dev.updEntry, Dev.updStep, ctx, Context.step?_updStep_same, inStep, entry]

/-! ### The command in service -/

theorem Dev.issuing_of_running_none {d : Dev} {k : Nat} (h : d.running k = none) : d.issuing k = none := by simp [Dev.issuing, h]

/-- A field counted within its width. -/
theorem Dev.rd_count_same {d : Dev} {r : Reg} {i n : Nat} (room : d.rd r i + n < 2 ^ r.width) : (d.count r i n).rd r i = d.rd r i + n := by
  rw [Dev.count, if_pos room, Dev.rd_wr_same]

end Sys2Proof.Machine
end

section
/-! SUPPORT. Ledger entries and faults of a Press core: what they record, and what they leave alone (R228, R240, R242, R546). -/

namespace Sys2Proof.Machine

/-! ### Entries of the ledger -/

/-- Objects that the ledger's entries are counted in (R546 to R548). -/
def Obj.ofLedger (o : Obj) : Bool := o == .bootLedger || o == .bootFlashCounters

/-- From `d` to `e` only the ledger has changed, with the fields of its objects and free values drawn. -/
structure Dev.Logged (d e : Dev) : Prop where
  frame : ∃ f r l, e = { d with free := f, regs := r, ledger := l }
  rd : ∀ r i, r.obj.ofLedger = false → e.rd r i = d.rd r i

theorem Dev.Logged.refl (d : Dev) : d.Logged d := ⟨⟨_, _, _, rfl⟩, fun _ _ _ => rfl⟩

theorem Dev.Logged.trans {a b c : Dev} (h : a.Logged b) (k : b.Logged c) : a.Logged c := by
  obtain ⟨⟨f, r, l, rfl⟩, rd⟩ := h
  obtain ⟨⟨f', r', l', rfl⟩, rd'⟩ := k
  exact ⟨⟨f', r', l', rfl⟩, fun p i n => (rd' p i n).trans (rd p i n)⟩

theorem Dev.setLedger_logged (d : Dev) (l : Ledger) : d.Logged { d with ledger := l } := ⟨⟨_, _, l, rfl⟩, fun _ _ _ => rfl⟩

theorem Obj.ne_of_ofLedger {o p : Obj} (h : o.ofLedger = true) (n : p.ofLedger = false) : o ≠ p := by
  rintro rfl
  exact absurd (h.symm.trans n) (by decide)

theorem Dev.wr_logged (d : Dev) {r : Reg} (h : r.obj.ofLedger = true) (i v : Nat) : d.Logged (d.wr r i v) :=
  ⟨⟨_, _, _, rfl⟩, fun _ j n => d.rd_wr_obj_ne r i v (Obj.ne_of_ofLedger h n) _ j⟩

theorem Dev.count_logged (d : Dev) {r : Reg} (h : r.obj.ofLedger = true) (i n : Nat) : d.Logged (d.count r i n) := by
  refine ⟨?_, fun _ j m => d.rd_count_ne r i n (Obj.ne_of_ofLedger h m) _ j⟩
  unfold Dev.count; dsimp only; split
  · exact ⟨_, _, _, rfl⟩
  · exact ⟨_, _, _, rfl⟩

theorem Dev.compact_logged (d : Dev) : d.Logged d.compact :=
  (((d.setLedger_logged _).trans (Dev.count_logged _ rfl _ _)).trans (Dev.count_logged _ rfl _ _)).trans (Dev.wr_logged _ rfl _ _)

theorem Dev.appendNow_logged (d : Dev) (x : LedgerEntry) : d.Logged (d.appendNow x) := by
  refine ((Dev.Logged.trans (.trans ?room (Dev.setLedger_logged _ _)) (Dev.count_logged _ rfl _ _)).trans
    (Dev.wr_logged _ rfl _ _)).trans (Dev.wr_logged _ rfl _ _)
  split
  · exact d.compact_logged
  · exact .refl d

/-- An entry of the ledger leaves everything but the ledger alone. -/
theorem Dev.appendLedger_logged (d : Dev) (kind : Nat) (t : UnitType) (unit sub : Nat) (data : List Byte) :
    d.Logged (d.appendLedger kind t unit sub data) := by
  unfold Dev.appendLedger; dsimp only; split
  · exact .refl d
  split
  · exact (d.setLedger_logged _).trans (Dev.count_logged _ rfl _ _)
  · exact d.appendNow_logged _

/-! ### Causes -/

/-- An event leaves the bit's latest cause with a status word of its code and area, unless the bit is LOG. -/
theorem Dev.rd_attend_causeStatus (d : Dev) {c : Cause} (hc : 8 ≤ c.bit) (notLog : c.bit ≠ Bit.log) :
    ∃ w : Dev, (d.attend c).rd Reg.dictionaryAttentionCause_status (c.bit - 8) = w.statusWord c.code c.area := by
  have one : ∃ w : Dev, (d.record c).rd Reg.dictionaryAttentionCause_status (c.bit - 8) = w.statusWord c.code c.area := by
    rw [Dev.record_eq]
    obtain ⟨-, status, -⟩ := Dev.rd_putEntry_same
      ((d.setBit c.bit).advanceLog.putEntry .dictionaryAttentionLog
        (d.rd Reg.dictionaryAttentionLogHead % 256) (d.rd Reg.dictionaryAttentionLogHead) (d.eventKind c) c)
      .dictionaryAttentionCause (c.bit - 8) (d.rd Reg.dictionaryAttentionLogHead) (d.eventKind c) c
    exact ⟨_, status⟩
  rcases d.attend_cases c with h | h <;> rw [h]
  · exact one
  · have other : c.bit - 8 ≠ Bit.log - 8 := by have : Bit.log = 15 := rfl; omega
    rw [Dev.rd_record_ne _ _ _ (by decide) (.inl (by decide)) (.inr other)]
    exact one

/-- The lowest byte of a status word is its code, the highest its area (R47). -/
theorem Dev.statusWord_bytes (d : Dev) (code area : Nat) :
    bits (d.statusWord code area) 0 8 = code % 256 ∧ bits (d.statusWord code area) 24 8 = area % 256 := by
  obtain ⟨low, -, -, high⟩ := bits_of_four_bytes (a := code % 256) (b := d.attention.toNat)
    (c := d.rd Reg.dictionaryAttentionLogHead % 256) (e := area % 256) (by omega) d.attention.isLt (by omega) (by omega)
  exact ⟨low, high⟩

/-! ### Faults of a core (R228, R240, R242) -/

theorem pressCoreFaultEffect_dead {d : Dev} {k : Nat} (f : PressFault) (dead : d.liveCores.contains k = false) :
    pressCoreFaultEffect k f d = d := if_neg (by rw [dead]; decide)

theorem pressCoreFaultEffect_live {d : Dev} {k : Nat} (f : PressFault) (live : d.liveCores.contains k = true) :
    pressCoreFaultEffect k f d = (d.recordSuspect k f).coreFault k := if_pos live

theorem watchdogTripEffect_none {d : Dev} {k : Nat} (h : d.running k = none) : watchdogTripEffect k d = d := by simp [watchdogTripEffect, h]

theorem watchdogTripEffect_running {d : Dev} {k : Nat} (h : d.running k ≠ none) : watchdogTripEffect k d = d.coreFault k :=
  if_pos (Option.isSome_iff_ne_none.2 h)

theorem Dev.coreAlive_of_liveCores {d : Dev} {k : Nat} (h : d.liveCores.contains k = true) : d.coreAlive k = true :=
  (List.mem_filter.1 (List.contains_iff_mem.1 h)).2

/-- Recording what is suspect changes the ledger and one field alone, which of a column fault is the column (R228). -/
theorem Dev.recordSuspect_spec (d : Dev) (k : Nat) (f : PressFault) :
    (∃ fr r l, d.recordSuspect k f = { d with free := fr, regs := r, ledger := l }) ∧
      (∀ j, (d.recordSuspect k f).coreAlive j = d.coreAlive j) ∧
      ∀ a p, f = .column a p → (d.recordSuspect k f).rd Reg.pressArrayState_suspect (2 * k + a) = p := by
  cases f with
  | column a p =>
    obtain ⟨⟨fr, r, l, same⟩, rd⟩ := (d.wr Reg.pressArrayState_suspect (2 * k + a) p).appendLedger_logged 3 .arrayColumn
      (2 * d.physical .pressCore k + a) p []
    refine ⟨⟨fr, r, l, same⟩, fun j => ?_, ?_⟩
    · rw [Dev.coreAlive, Dev.flag, Dev.recordSuspect, rd _ _ rfl, Dev.rd_wr_obj_ne _ _ _ _ (by decide)]; rfl
    · rintro _ _ ⟨⟩
      rw [Dev.recordSuspect, rd _ _ rfl, Dev.rd_wr_same]
  | half a h =>
    obtain ⟨same, rd⟩ := d.appendLedger_logged 3 .arrayHalf (2 * d.physical .pressCore k + a) h []
    refine ⟨same, fun j => ?_, fun _ _ other => by cases other⟩
    rw [Dev.coreAlive, Dev.flag, Dev.recordSuspect, rd _ _ rfl]; rfl
  | buffer => exact ⟨⟨d.free, d.regs, d.ledger, rfl⟩, fun _ => rfl, fun _ _ other => by cases other⟩

/-- The key under which the last fault of a core is kept. -/
def coreFaultKey (k : Nat) : Nat × Nat := (0x08 * 16 + Reg.pressCoreState_retired.obj.info.number % 16, k)

/-- The core's last fault was less than a second ago (R242). -/
def Dev.coreFaultsAgain (d : Dev) (k : Nat) : Bool := (d.faults.find? (coreFaultKey k)).any fun t => d.now < t + secondTicks

theorem Dev.coreFaultsAgain_of_old {d : Dev} (k : Nat) (old : ∀ key t, d.faults.find? key = some t → t + secondTicks ≤ d.now) :
    d.coreFaultsAgain k = false := by
  rw [Dev.coreFaultsAgain, Option.any_eq_false]
  exact fun t last => decide_eq_false (Nat.not_lt.2 (old _ t last))

/-- The fault as the attention log has it, and the device once it is counted and raised. -/
def coreFaultCause (k : Nat) : Cause := { bit := Bit.fault, code := 0x31, area := 0x08, detail := k }
def Dev.coreFaultRaised (d : Dev) (k : Nat) : Dev :=
  ({ d with faults := d.faults.put (coreFaultKey k) d.now }.count Reg.pressCoreState_resets k).attend (coreFaultCause k)

/-- A fault of a core that does not retire it changes the attention log and the core's reset count alone among the fields. -/
theorem Dev.rd_coreFaultRaised (d : Dev) (k : Nat) {r : Reg} (h : r.obj.ofAttention = false)
    (n : Reg.pressCoreState_resets.obj ≠ r.obj ∨ Reg.pressCoreState_resets.off ≠ r.off) (i : Nat) :
    (d.coreFaultRaised k).rd r i = d.rd r i := by
  obtain ⟨o, off⟩ := r
  rw [Dev.coreFaultRaised, Dev.rd_attend_ne _ _ h, Dev.rd_count_off_ne _ _ _ _ _ _ n]
  rfl

/-- A live core's first fault within a second, while it serves nothing, retires it not: its arrays are released (R242). -/
theorem Dev.coreFault_first {d : Dev} {k : Nat} (alive : d.coreAlive k = true) (idle : (d.core k).serving = none)
    (first : d.coreFaultsAgain k = false) :
    d.coreFault k = (d.coreFaultRaised k).updCore k fun x => { x.freshArrays with serving := none } := by
  have raised : d.engineFault 0x08 k Reg.pressCoreState_retired Reg.pressCoreState_resets .pressCore = d.coreFaultRaised k := by
    have first' : ((d.faults.find? (0x08 * 16 + Reg.pressCoreState_retired.obj.info.number % 16, k)).any fun t =>
        decide (d.now < t + secondTicks)) = false := first
    simp only [Dev.engineFault, first']
    rfl
  have alive' : ((d.coreFaultRaised k).updCore k fun x => { x.freshArrays with serving := none }).coreAlive k = true := by
    rw [← alive]
    simp only [Dev.coreAlive, Dev.flag, Dev.rd_updCore]
    rw [Dev.rd_coreFaultRaised _ _ rfl (.inr (by decide))]
  simp only [Dev.coreFault, raised, idle, alive', if_true]

theorem Dev.coreFaultRaised_work (d : Dev) (k : Nat) :
    (d.coreFaultRaised k).mem = d.mem ∧ (d.coreFaultRaised k).contexts = d.contexts ∧
      (d.coreFaultRaised k).attentionBit Bit.fault = true ∧
      (d.coreFaultRaised k).rd Reg.dictionaryAttentionCause_detail (Bit.fault - 8) = k % 65536 ∧
      ∃ w : Dev, (d.coreFaultRaised k).rd Reg.dictionaryAttentionCause_status (Bit.fault - 8) = w.statusWord 0x31 0x08 := by
  obtain ⟨-, contexts, -, mem⟩ := ((Dev.count_noted _ _ _ _).trans (Dev.attend_noted _ _) :
    ({ d with faults := d.faults.put (coreFaultKey k) d.now } : Dev).Noted (d.coreFaultRaised k)).work
  have raised : 8 ≤ (coreFaultCause k).bit := show 8 ≤ Bit.fault by decide
  have notLog : (coreFaultCause k).bit ≠ Bit.log := show Bit.fault ≠ Bit.log by decide
  exact ⟨mem, contexts, Dev.attentionBit_attend _ raised (show Bit.fault ≤ 15 by decide), Dev.rd_attend_causeDetail _ raised notLog,
    Dev.rd_attend_causeStatus _ raised notLog⟩

end Sys2Proof.Machine
end

section
/-! SUPPORT. The registers of a vector engine: lists written to them, and the operations that write them (R235, R236, R267). -/

namespace Sys2Proof.Machine

/-! ### Registers -/

/-- Lists are built by elements added at their end. -/
theorem list_concat_induction {α : Type} {motive : List α → Prop} (nil : motive []) (concat : ∀ l v, motive l → motive (l ++ [v]))
    (l : List α) : motive l := by
  rw [← l.reverse_reverse]
  induction l.reverse with
  | nil => exact nil
  | cons v l ih => rw [List.reverse_cons]; exact concat _ v ih

/-- An element reads what was last written to it. -/
theorem Core.reg_setReg (x : Core) (r i v r' i' : Nat) : (x.setReg r i v).reg r' i' = if r' = r ∧ i' = i then v else x.reg r' i' := by
  by_cases same : r' = r ∧ i' = i
  · obtain ⟨rfl, rfl⟩ := same
    simp [Core.reg, Core.setReg]
  · have other : (r, i) ≠ (r', i') := fun h => same ⟨(congrArg Prod.fst h).symm, (congrArg Prod.snd h).symm⟩
    rw [if_neg same]
    exact Tbl.getD_put_ne x.vregs v _ other

theorem Core.setRegList_concat (x : Core) (r : Nat) (vs : List Nat) (v : Nat) :
    x.setRegList r (vs ++ [v]) = if vs.length < 512 then (x.setRegList r vs).setReg r vs.length v else x.setRegList r vs := by
  simp [Core.setRegList, List.range_succ, List.zip_append]

/-- A list written to a register changes the registers alone. -/
theorem Core.setRegList_eq (x : Core) (r : Nat) (vs : List Nat) : ∃ t, x.setRegList r vs = { x with vregs := t } := by
  induction vs using list_concat_induction with
  | nil => exact ⟨x.vregs, rfl⟩
  | concat vs v ih =>
    obtain ⟨t, same⟩ := ih
    rw [Core.setRegList_concat, same]
    split
    · exact ⟨_, rfl⟩
    · exact ⟨t, rfl⟩

@[simp] theorem Core.setRegList_buffer (x : Core) (r : Nat) (vs : List Nat) : (x.setRegList r vs).buffer = x.buffer := by
  obtain ⟨t, same⟩ := x.setRegList_eq r vs
  rw [same]

/-- The elements of the register are those of the list, and every other element is as it was. -/
theorem Core.reg_setRegList (x : Core) (r : Nat) (vs : List Nat) (fits : vs.length ≤ 512) (r' i : Nat) :
    (x.setRegList r vs).reg r' i = if h : r' = r ∧ i < vs.length then vs[i] else x.reg r' i := by
  induction vs using list_concat_induction with
  | nil => simp [Core.setRegList]
  | concat vs v ih =>
    rw [List.length_append, List.length_singleton] at fits
    rw [Core.setRegList_concat, if_pos (by omega), Core.reg_setReg, ih (by omega)]
    by_cases last : i = vs.length
    · subst last; simp
    · have below : i < vs.length + 1 ↔ i < vs.length := by omega
      simp only [last, and_false, if_false, List.length_append, List.length_singleton, below]
      split
      · next h => rw [List.getElem_append_left]
      · rfl

/-! ### Operations -/

/-- The elements of a register written from a function of their places. -/
theorem Core.reg_setRegList_map (x : Core) (r m : Nat) (f : Nat → Nat) (fits : m ≤ 512) :
    (∀ i, i < m → (x.setRegList r ((List.range m).map f)).reg r i = f i) ∧
      ∀ r' i, r' ≠ r ∨ m ≤ i → (x.setRegList r ((List.range m).map f)).reg r' i = x.reg r' i := by
  have reads := x.reg_setRegList r ((List.range m).map f) (by simpa using fits)
  refine ⟨fun i below => ?_, fun r' i outside => ?_⟩
  · rw [reads, dif_pos ⟨rfl, by simpa using below⟩]; simp
  · rw [reads, dif_neg]
    simp only [List.length_map, List.length_range]
    omega

/-- An operation that writes the elements of one register changes nothing else of the device. -/
theorem Dev.updCore_setRegList_spec (d : Dev) (k dst m : Nat) (f : Nat → Nat) (fits : m ≤ 512) :
    let w := settle (d.updCore k fun y => y.setRegList dst ((List.range m).map f))
    (∀ i, i < m → (w.core k).reg dst i = f i) ∧ (∀ r i, r ≠ dst ∨ m ≤ i → (w.core k).reg r i = (d.core k).reg r i) ∧
      (w.core k).buffer = (d.core k).buffer ∧ (∀ j, j ≠ k → w.core j = d.core j) ∧ w.mem = d.mem ∧ w.regs = d.regs ∧
      w.contexts = d.contexts := by
  obtain ⟨written, kept⟩ := (d.core k).reg_setRegList_map dst m f fits
  simp only [settle_core, settle_mem, settle_regs, settle_contexts, Dev.core_updCore_same, Core.setRegList_buffer]
  exact ⟨written, kept, trivial, fun j other => d.core_updCore_ne _ other, rfl, rfl, rfl⟩

theorem vectorOperationEffect_none {d : Dev} {k : Nat} (op : VecOp) (h : d.issuing k = none) : vectorOperationEffect k op d = d := by
  simp only [vectorOperationEffect, h]

theorem vectorOperationEffect_issues {d : Dev} {k c n p : Nat} {e : StepEntry} {x : Context} {st : Step} (op : VecOp)
    (issuing : d.issuing k = some (c, n, p, e)) (ctx : d.ctx? c = some x) (step : d.step? c n = some st) :
    vectorOperationEffect k op d = d.vecOp { core := k, context := c, step := st, pos := p, entry := e, ctx := x } op := by
  simp only [vectorOperationEffect, issuing, ctx, step]

/-! ### Folds of one element (R236) -/

theorem vecFold_singleton (a : Nat) : vecFold .sum [a] = a ∧ vecFold .max [a] = a := ⟨rfl, rfl⟩

/-! ### A gather beyond its table (R267, R334) -/

/-- A row that is not in the table is gathered as zeros, and counted in the context. -/
theorem Dev.vecOp_gather_beyond {d : Dev} {v : VecAt} {rows indices : Nat} (table : VecRef) (width dst : Nat)
    (beyond : (rows : Int) ≤ toSigned 32 (leNat ((d.core v.core).bytes indices 4))) :
    d.vecOp v (.gather table rows width indices 1 dst) =
      (d.updCtx v.context fun x => { x with gatherOut := x.gatherOut + 1 }).updCore v.core fun y =>
        y.setRegList dst (List.replicate width 0) := by
  simp [Dev.vecOp, show toSigned 32 (leNat ((d.core v.core).bytes indices 4)) < 0 ∨ _ from .inr beyond]

end Sys2Proof.Machine
end

section
/-! SUPPORT. Drains, tile boundaries and random fills of a Press core (R225, R238, R253, R274, R406). -/

namespace Sys2Proof.Machine

/-! ### What the rows of a drain leave alone -/

/-- From `d` to `e` the queues and the arrays of core `k` are as they were and, where `still`, so is device memory. -/
structure Dev.KeepsArrays (k : Nat) (still : Prop) (d e : Dev) : Prop where
  queues : e.queues = d.queues := by rfl
  array0 : (e.core k).array0 = (d.core k).array0 := by rfl
  array1 : (e.core k).array1 = (d.core k).array1 := by rfl
  mem : still → e.mem = d.mem := by intro; rfl

section
variable {k : Nat} {still : Prop}

theorem Dev.KeepsArrays.refl (d : Dev) : d.KeepsArrays k still d := {}

theorem Dev.KeepsArrays.trans {a b c : Dev} (h : a.KeepsArrays k still b) (g : b.KeepsArrays k still c) : a.KeepsArrays k still c where
  queues := g.queues.trans h.queues
  array0 := g.array0.trans h.array0
  array1 := g.array1.trans h.array1
  mem s := (g.mem s).trans (h.mem s)

theorem Dev.KeepsArrays.foldl {α : Type} {f : Dev → α → Dev} (h : ∀ (d : Dev) (x : α), d.KeepsArrays k still (f d x)) (l : List α) (d : Dev) :
    d.KeepsArrays k still (l.foldl f d) := by
  induction l generalizing d with
  | nil => exact .refl d
  | cons x l ih => exact (h d x).trans (ih _)

theorem Dev.KeepsArrays.array {d e : Dev} (h : d.KeepsArrays k still e) (a : Nat) : (e.core k).array a = (d.core k).array a := by
  rw [Core.array, Core.array, h.array0, h.array1]

theorem Dev.Noted.keepsArrays {d e : Dev} (h : d.Noted e) : d.KeepsArrays k still e := by
  obtain ⟨f, r, a, w, rfl⟩ := h
  exact {}

theorem Dev.countIf_keepsArrays (d : Dev) (b : Bool) (r : Reg) (i n : Nat) : d.KeepsArrays k still (if b then d.count r i n else d) := by
  split
  · exact (d.count_noted r i n).keepsArrays
  · exact .refl d

/-- Bytes written to a Press buffer change it alone. -/
theorem Core.put_eq (bs : List Byte) : ∀ (x : Core) (a : Nat), ∃ b, x.put a bs = { x with buffer := b } := by
  induction bs with
  | nil => intro x a; exact ⟨x.buffer, rfl⟩
  | cons b bs ih =>
    intro x a
    obtain ⟨t, rest⟩ := ih (if a < pressBytes then { x with buffer := Memory.set x.lost x.buffer a b } else x) (a + 1)
    rw [Core.put, rest]
    split
    · exact ⟨t, rfl⟩
    · exact ⟨t, rfl⟩

theorem Dev.updCore_put_keepsArrays (d : Dev) (a : Nat) (bs : List Byte) : d.KeepsArrays k still (d.updCore k fun y => y.put a bs) := by
  obtain ⟨t, put⟩ := Core.put_eq bs (d.core k) a
  exact { array0 := by rw [Dev.core_updCore_same, put], array1 := by rw [Dev.core_updCore_same, put] }

theorem Dev.putBytes_keepsArrays (moves : ¬still) (bs : List Byte) : ∀ (d : Dev) (a : Nat), d.KeepsArrays k still (d.putBytes a bs) := by
  induction bs with
  | nil => intro d a; exact .refl d
  | cons b bs ih =>
    intro d a
    refine Dev.KeepsArrays.trans ?_ (ih _ _)
    split
    · exact .refl d
    · exact { mem := fun s => absurd s moves }

theorem Dev.store_keepsArrays (moves : ¬still) (d : Dev) (a : Nat) (bs : List Byte) : d.KeepsArrays k still (d.store a bs) := by
  refine (Dev.putBytes_keepsArrays moves bs d a).trans ?_
  rw [Dev.store]; unfold Dev.afterStore; dsimp only; split
  · exact {}
  · exact Dev.KeepsArrays.trans {} (Dev.count_noted _ _ _ _).keepsArrays

theorem Dev.gather_keepsArrays (moves : ¬still) (d : Dev) (x : Context) (slot place : Nat) (zero saturated underflowed : Bool) (mag : Nat) :
    d.KeepsArrays k still (d.gather x slot place zero saturated underflowed mag) := by
  have storeIf (d : Dev) (b : Bool) (a : Nat) (bs : List Byte) : d.KeepsArrays k still (if b then d.store a bs else d) := by
    split
    · exact d.store_keepsArrays moves a bs
    · exact .refl d
  unfold Dev.gather; dsimp only; split
  · exact .refl d
  · exact (((storeIf d _ _ _).trans (storeIf _ _ _ _)).trans (storeIf _ _ _ _)).trans (storeIf _ _ _ _)

theorem Dev.countConverted_keepsArrays (d : Dev) (v : Converted) (stochastic : Bool) : d.KeepsArrays k still (d.countConverted v stochastic) :=
  (((d.countIf_keepsArrays _ _ _ _).trans (Dev.countIf_keepsArrays _ _ _ _ _)).trans (Dev.countIf_keepsArrays _ _ _ _ _)).trans
    (Dev.countIf_keepsArrays _ _ _ _ _)

theorem Dev.draw16_keepsArrays (d : Dev) (core : Core) (rs : List DrawRegion) (key : DrawKey) (index : Nat) :
    d.KeepsArrays k still (d.draw16 core rs key index).2 := by
  unfold Dev.draw16; split
  · exact .refl d
  · exact {}

end

/-- Converting an element stores nothing in device memory where its tensor's biases do not adapt (R261). -/
theorem Dev.convertFor_keepsArrays {k : Nat} {x : Context} {tensor : Nat} (d : Dev) (slot ch : Nat) (bf : Bool) (v : FVal) (draw : Option Nat) :
    d.KeepsArrays k (∀ ch, x.biasPlace tensor ch = none) (d.convertFor x slot tensor ch bf v draw).2 := by
  unfold Dev.convertFor; dsimp only; split
  · next place adaptive =>
    have moves : ¬∀ ch, x.biasPlace tensor ch = none := fun still => by rw [still ch] at adaptive; cases adaptive
    split
    · exact d.countConverted_keepsArrays _ _
    · exact (d.countConverted_keepsArrays _ _).trans (Dev.gather_keepsArrays moves _ _ _ _ _ _ _ _)
  · exact d.countConverted_keepsArrays _ _

section
variable {k : Nat} {x : Context} {j : DrainJob} (d : Dev) (s : Step) (rs : List DrawRegion) (tgt : DrainTo) (v : Nat)

theorem Dev.drainElement_keepsArrays (col u : Nat) :
    d.KeepsArrays k (∀ ch, x.biasPlace j.tensor ch = none) (d.drainElement k x s rs j tgt v col u).2 := by
  unfold Dev.drainElement; dsimp only
  refine Dev.KeepsArrays.trans ?_ (Dev.convertFor_keepsArrays _ _ _ _ _ _)
  split
  · exact d.draw16_keepsArrays _ _ _ _
  · exact .refl d

/-- A row drained changes the Press buffer, counts, draws and what adaptive biases gather (R225, R253, R261). -/
theorem Dev.drainRow_keepsArrays : d.KeepsArrays k (∀ ch, x.biasPlace j.tensor ch = none) (d.drainRow k x s rs j tgt v) := by
  unfold Dev.drainRow; dsimp only; split
  · exact (d.countConverted_keepsArrays _ _).trans (Dev.updCore_put_keepsArrays _ _ _)
  · refine Dev.KeepsArrays.trans ?_ (Dev.updCore_put_keepsArrays _ _ _)
    refine List.foldlRecOn (motive := fun acc : List Byte × Dev => d.KeepsArrays k _ acc.2) _ _ (.refl d) fun acc kept e _ => ?_
    exact kept.trans (acc.2.drainElement_keepsArrays s rs tgt v e.1 e.2)

end

/-! ### The switch point (R238, R406) -/

/-- A core whose arrays stand at a switch point: one has stopped, and neither has a tile in progress. -/
def Core.standsAtSwitch (x : Core) : Bool := (x.array0.stopped || x.array1.stopped) && !x.array0.working && !x.array1.working

theorem Core.standsAtSwitch_eq (x : Core) (a : Nat) : x.standsAtSwitch =
    (((x.array a).stopped || (x.array (1 - a)).stopped) && !(x.array a).working && !(x.array (1 - a)).working) := by
  rcases x.array_cases a with ⟨h, h'⟩ | ⟨h, h'⟩ <;> rw [h, h', Core.standsAtSwitch]
  rw [Bool.or_comm, Bool.and_right_comm]

theorem Dev.standSwitch_not {d : Dev} {k : Nat} (h : (d.core k).standsAtSwitch = false) (c n p : Nat) : d.standSwitch k c n p = d :=
  if_neg (ne_true_of_eq_false h)

/-- A command at its switch point: its arrays are released, and it waits for the Yard (R238, R406). -/
theorem Dev.standSwitch_stands {d : Dev} {k : Nat} (h : (d.core k).standsAtSwitch = true) (c n p : Nat) :
    let w := d.standSwitch k c n p
    (w.core k).array0 = {} ∧ (w.core k).array1 = {} ∧ w.mem = d.mem ∧
      ∀ e, d.entry? c n p = some e → ∃ f, w.entry? c n p = some f ∧ f.atSwitch = true ∧ f.boundaries = e.boundaries + 1 := by
  have stands : d.standSwitch k c n p =
      (d.updCore k Core.freshArrays).updEntry c n p fun e => { e with atSwitch := true, boundaries := e.boundaries + 1 } := if_pos h
  obtain ⟨cores, -, mem, -⟩ := (d.updCore k Core.freshArrays).updEntry_work c n p
    fun e => { e with atSwitch := true, boundaries := e.boundaries + 1 }
  dsimp only
  rw [stands, Dev.core_of_cores cores, Dev.core_updCore_same, mem]
  refine ⟨rfl, rfl, rfl, fun e entry => ⟨_, Dev.entry?_updEntry_same (e := e) ?_ _, rfl, rfl⟩⟩
  rwa [Dev.entry?_of_contexts (Dev.updCore_contexts _ _ _)]

theorem Dev.standSwitch_work (d : Dev) (k c n p : Nat) : (d.standSwitch k c n p).mem = d.mem ∧ (d.standSwitch k c n p).queues = d.queues := by
  unfold Dev.standSwitch; dsimp only; split
  · obtain ⟨-, queues, mem, -⟩ := (d.updCore k Core.freshArrays).updEntry_work c n p
      fun e => { e with atSwitch := true, boundaries := e.boundaries + 1 }
    exact ⟨mem, queues⟩
  · exact ⟨rfl, rfl⟩

/-- An array keeps its core from the switch point unless it has stopped, or is quiet with no boundary to come. -/
theorem PressArray.working_eq_false {r : PressArray} : r.working = false ↔ r.stopped = true ∨ (r.quiet = true ∧ r.boundary = none) := by
  cases stopped : r.stopped <;> simp [PressArray.working, stopped]

/-! ### DRAIN (R225) -/

theorem drainEffect_none {d : Dev} {k : Nat} (a : Nat) (h : d.running k = none) : drainEffect k a d = d := by simp only [drainEffect, h]

section
variable {d : Dev} {k a c n p : Nat} {e : StepEntry}

theorem drainEffect_noDrain (running : d.running k = some (c, n, p, e)) (h : ((d.core k).array a).drains = []) : drainEffect k a d = d := by
  simp only [drainEffect, running, h]
  cases d.ctx? c <;> cases d.step? c n <;> rfl

/-- The device once the rows of a drain are written. -/
def Dev.rowsDrained (d : Dev) (k : Nat) (x : Context) (s : Step) (rs : List DrawRegion) (j : DrainJob) : Dev :=
  (List.range (modeVectors j.mode)).foldl (fun d v =>
    j.tgt.foldl (fun d tgt => if v < tgt.vectors then d.drainRow k x s rs j tgt v else d) d) d

/-- The array once its earliest drain is done, and the device with it. -/
def PressArray.drained (r : PressArray) (j : DrainJob) (rest : List DrainJob) : PressArray :=
  { r with drains := rest, boundary := if modeBoundary j.mode then some (boundaryCycle j.reads) else r.boundary }
def Dev.drainDone (d : Dev) (k a : Nat) (x : Context) (s : Step) (rs : List DrawRegion) (j : DrainJob) (rest : List DrainJob) : Dev :=
  (d.rowsDrained k x s rs j).updCore k fun y => y.updArray a fun r => r.drained j rest

theorem drainEffect_drains {x : Context} {s : Step} {j : DrainJob} {rest : List DrainJob} (running : d.running k = some (c, n, p, e))
    (ctx : d.ctx? c = some x) (step : d.step? c n = some s) (drains : ((d.core k).array a).drains = j :: rest) :
    drainEffect k a d = (d.drainDone k a x s e.draws j rest).standSwitch k c n p := by
  simp only [drainEffect, running, ctx, step, drains]
  rfl

theorem Dev.rowsDrained_keepsArrays {x : Context} {j : DrainJob} (d : Dev) (s : Step) (rs : List DrawRegion) :
    d.KeepsArrays k (∀ ch, x.biasPlace j.tensor ch = none) (d.rowsDrained k x s rs j) := by
  refine .foldl (fun d v => .foldl (fun d tgt => ?_) _ d) _ d
  split
  · exact d.drainRow_keepsArrays s rs tgt v
  · exact .refl d

/-- One drain less is to come, and nothing else of the arrays, the queues and, without adaptive biases, of device memory has changed. -/
theorem Dev.drainDone_spec (d : Dev) (k a : Nat) (x : Context) (s : Step) (rs : List DrawRegion) (j : DrainJob) (rest : List DrainJob) :
    let w := d.drainDone k a x s rs j rest
    (w.core k).array a = ((d.core k).array a).drained j rest ∧ (w.core k).array (1 - a) = (d.core k).array (1 - a) ∧ w.queues = d.queues ∧
      ((∀ ch, x.biasPlace j.tensor ch = none) → w.mem = d.mem) := by
  have kept := d.rowsDrained_keepsArrays (k := k) (x := x) (j := j) s rs
  dsimp only
  rw [Dev.drainDone, Dev.core_updCore_same, Core.array_updArray_same, Core.array_updArray_other, kept.array, kept.array]
  exact ⟨rfl, rfl, kept.queues, kept.mem⟩

section
variable {x : Context} (s : Step) (rs : List DrawRegion) (j : DrainJob) (rest : List DrainJob)

/-- While neither array has stopped, no drain brings the core to its switch point. -/
theorem Dev.drainDone_goesOn (going0 : (d.core k).array0.stopped = false) (going1 : (d.core k).array1.stopped = false) :
    ((d.drainDone k a x s rs j rest).core k).standsAtSwitch = false := by
  obtain ⟨drained, other, -⟩ := d.drainDone_spec k a x s rs j rest
  have going : ((d.core k).array a).stopped = false ∧ ((d.core k).array (1 - a)).stopped = false := by
    rcases (d.core k).array_cases a with ⟨h, h'⟩ | ⟨h, h'⟩ <;> rw [h, h']
    · exact ⟨going0, going1⟩
    · exact ⟨going1, going0⟩
  simp [Core.standsAtSwitch_eq _ a, drained, other, PressArray.drained, going]

/-- The last drain of an array that asks for no boundary brings the core to its switch point where the other array has stopped. -/
theorem Dev.drainDone_stands (otherStopped : ((d.core k).array (1 - a)).stopped = true)
    (closedA : ((d.core k).array a).halfA.opened = none) (closedB : ((d.core k).array a).halfB.opened = none)
    (noBoundary : ((d.core k).array a).boundary = none) (goesOn : modeBoundary j.mode = false) :
    ((d.drainDone k a x s rs j []).core k).standsAtSwitch = true := by
  obtain ⟨drained, other, -⟩ := d.drainDone_spec k a x s rs j []
  have idle : (((d.core k).array a).drained j []).working = false :=
    PressArray.working_eq_false.2 (.inr ⟨by simp [PressArray.quiet, PressArray.drained, closedA, closedB],
      by simp [PressArray.drained, goesOn, noBoundary]⟩)
  rw [Core.standsAtSwitch_eq _ a, drained, other, idle, PressArray.working_eq_false.2 (.inl otherStopped), otherStopped, Bool.or_true]
  rfl

end

end

/-! ### TILE_BOUNDARY (R238, R406) -/

theorem tileBoundaryEffect_none {d : Dev} {k : Nat} (a : Nat) (h : d.running k = none) : tileBoundaryEffect k a d = d := by
  simp only [tileBoundaryEffect, h]

section
variable {d : Dev} {k a c n p : Nat} {e : StepEntry} (running : d.running k = some (c, n, p, e))
include running

theorem tileBoundaryEffect_noBoundary (h : ((d.core k).array a).boundary = none) : tileBoundaryEffect k a d = d := by
  simp only [tileBoundaryEffect, running, h, Option.isNone_none, if_true]

/-- The array at its boundary stops; where the other keeps the core from its switch point no longer, the command stands there. -/
theorem tileBoundaryEffect_stops (h : ((d.core k).array a).boundary ≠ none) : tileBoundaryEffect k a d =
    (d.updCore k fun y => y.updArray a fun _ => { stopped := true }).standSwitch k c n p := by
  have at_ : (((d.core k).array a).boundary).isNone = false := by simpa [Option.isSome_iff_ne_none] using h
  simp only [tileBoundaryEffect, running, at_]
  rfl

end

theorem Dev.standsAtSwitch_stopped (d : Dev) (k a : Nat) :
    ((d.updCore k fun y => y.updArray a fun _ => { stopped := true }).core k).standsAtSwitch = !((d.core k).array (1 - a)).working := by
  rw [Dev.core_updCore_same, Core.standsAtSwitch_eq _ a, Core.array_updArray_same, Core.array_updArray_other]
  simp [PressArray.working]

/-! ### RANDOM_FILL (R274) -/

theorem randomFillEffect_none {d : Dev} {k : Nat} (op : FillOp) (h : d.issuing k = none) : randomFillEffect k op d = d := by
  simp only [randomFillEffect, h]

theorem randomFillEffect_untested {d : Dev} {k c n p : Nat} {e : StepEntry} {x : Context} (op : FillOp)
    (issuing : d.issuing k = some (c, n, p, e)) (ctx : d.ctx? c = some x) (h : d.flag Reg.randomSelftest = false) :
    randomFillEffect k op d = d := by
  simp only [randomFillEffect, issuing, ctx, h, Bool.not_false, if_true]

end Sys2Proof.Machine
end

section
/-! SUPPORT. Passes of a Press core: when one enters, what it leaves, and the cycles lost before it (R217 to R224, R245, R348, R483). -/

namespace Sys2Proof.Machine

/-! ### Entry cycles and lost cycles (R222, R223, R245) -/

theorem entryCycles_spec (start n : Nat) (gaps : List Nat) : (entryCycles start gaps n).length = n ∧
    (∀ c ∈ entryCycles start gaps n, start ≤ c) ∧ (entryCycles start gaps n).Pairwise (· < ·) := by
  induction n generalizing start gaps with
  | zero => simp [entryCycles]
  | succ n ih =>
    obtain ⟨length, later, rises⟩ := ih (start + 1 + gaps.headD 0) gaps.tail
    refine ⟨by rw [entryCycles, List.length_cons, length], fun c member => ?_, List.pairwise_cons.2 ⟨fun c member => ?_, rises⟩⟩
    · rcases List.mem_cons.1 member with rfl | member
      · exact Nat.le_refl _
      · have := later c member; omega
    · have := later c member; omega

/-- The cycles before a pass from row 0 free on are each counted once (R245). -/
theorem Earliest.lost_sum (x : Earliest) (start : Nat) (es : List Nat) (free : x.free ≤ start) :
    (x.lost start es).1 + (x.lost start es).2.1 + (x.lost start es).2.2.1 + (x.lost start es).2.2.2 = start - x.free := by
  simp only [Earliest.lost]
  generalize (es.zip x.drain).foldl (fun h e => max h (e.2 - (e.1 - start))) 0 = hold
  omega

/-! ### Bubbles (R483) -/

/-- A window of 64 cycles holds as many cycles of a pattern that repeats every 64, wherever it begins. -/
theorem countP_window {p : Nat → Bool} (periodic : ∀ c, p (c + 64) = p c) (a : Nat) :
    (List.range 64).countP (fun i => p (a + i)) = (List.range 64).countP p := by
  induction a with
  | zero => simp only [Nat.zero_add]
  | succ a ih =>
    have last : (List.range 65).countP (fun i => p (a + i)) = (List.range 64).countP (fun i => p (a + i)) + if p a then 1 else 0 := by
      rw [List.range_succ, List.countP_append, List.countP_singleton, periodic]
    have first : (List.range 65).countP (fun i => p (a + i)) = (List.range 64).countP (fun i => p (a + 1 + i)) + if p a then 1 else 0 := by
      rw [List.range_succ_eq_map, List.countP_cons, List.countP_map]
      simp only [Function.comp_def, Nat.add_zero, Nat.succ_eq_add_one, Nat.add_assoc, Nat.add_comm 1]
    rw [← ih]
    exact Nat.add_right_cancel (first.symm.trans last)

/-- Among the first `n` cycles of a turn of 64, `n * k / 64` are bubbles. -/
theorem countP_bubble {k n : Nat} (fits : k ≤ 64) (turn : n ≤ 64) : (List.range n).countP (bubble k 0) = n * k / 64 := by
  induction n with
  | zero => simp
  | succ n ih =>
    have place : (0 + n) % 64 = n := by omega
    rw [List.range_succ, List.countP_append, List.countP_singleton, ih (by omega)]
    simp only [bubble, place, decide_eq_true_eq, Nat.succ_mul]
    split <;> omega

/-- Every 64 cycles have `k` bubbles, whatever the cycle count stood at. -/
theorem length_bubbles {k : Nat} (fits : k ≤ 64) (origin c : Nat) :
    ((List.range 64).filter fun i => bubble k origin (c + i)).length = k := by
  have shift (i : Nat) : bubble k origin (c + i) = bubble k 0 (origin + c + i) := by simp only [bubble, Nat.zero_add, Nat.add_assoc]
  have periodic (b : Nat) : bubble k 0 (b + 64) = bubble k 0 b := by simp only [bubble, ← Nat.add_assoc, Nat.add_mod_right]
  simp only [shift]
  rw [← List.countP_eq_length_filter, countP_window periodic, countP_bubble fits (Nat.le_refl _), Nat.mul_div_cancel_left k (by decide)]

/-! ### The conditions of R222 -/

/-- A pass enters once the pass before it has ended, its weights are loaded behind the load before, and a gang's drains are over before a split;
and no vector of it enters in a bubble. -/
theorem PressArray.mayEnter_spec {r : PressArray} {k m : Nat} {loads : Bool} {t : PassTiming} (h : r.mayEnter k m loads t = true) :
    (r.idle = false → r.ended ≤ t.start) ∧ (loads = true → r.loadEnd ≤ t.load ∧ t.load + 256 + t.pause ≤ t.start) ∧
      (r.idle = false → r.split = false → modeSplit m = true → r.ended + 258 ≤ t.start) ∧
      ∀ e ∈ entryCycles t.start t.gaps (modeVectors m), bubble k t.origin e = false := by
  simp only [PressArray.mayEnter, PressArray.earliest, bubblesFit, Bool.and_eq_true, Bool.or_eq_true, decide_eq_true_eq, List.all_eq_true,
    Bool.not_eq_true'] at h
  obtain ⟨⟨⟨⟨⟨free, loaded⟩, mode⟩, load⟩, ⟨noBubble, -⟩, -⟩, -⟩ := h
  refine ⟨fun busy => ?_, fun l => ⟨?_, ?_⟩, fun busy gang split => ?_, noBubble⟩
  · simpa [busy] using free
  · exact (load.resolve_left (by simp [l])).1
  · simpa [l] using loaded
  · simpa [busy, gang, split] using mode

/-! ### The array after a pass (R220 to R225) -/

@[simp] theorem PressArray.updHalf_idle (r : PressArray) (h : Nat) (f : AccHalf → AccHalf) : (r.updHalf h f).idle = r.idle := by
  unfold PressArray.updHalf; split <;> rfl

theorem PressArray.foldl_updHalf_idle {α : Type} (half : α → Nat) (f : α → AccHalf → AccHalf) (l : List α) (r : PressArray) :
    (l.foldl (fun r x => r.updHalf (half x) (f x)) r).idle = r.idle := by
  induction l generalizing r with
  | nil => rfl
  | cons x l ih => rw [List.foldl_cons, ih, PressArray.updHalf_idle]

/-- An array a pass has entered is not idle. -/
theorem PressArray.entered_idle (r : PressArray) (m : Nat) (loads : Bool) (t : PassTiming) : (r.entered m loads t).idle = false := by
  unfold PressArray.entered; dsimp only
  split
  · simp only [apply_ite PressArray.idle, ite_self, PressArray.foldl_updHalf_idle (fun h : Nat => h) fun _ y => { y with opened := none }]
  · simp only [apply_ite PressArray.idle, ite_self]

theorem Dev.afterPass_idle (d : Dev) (x : Context) (core : Core) (r : PressArray) (map m record : Nat) (loads : Bool) (ref : PassRef)
    (t : PassTiming) (qs : List Quad) (windows : List (Nat × Nat)) :
    (d.afterPass x core r map m record loads ref t qs windows).idle = false := by
  unfold Dev.afterPass; dsimp only
  split <;> exact PressArray.entered_idle _ _ _ _

/-! ### PASS_ENTRY (R217 to R223, R348) -/

/-- A pass that PASS_ENTRY names: its core `k`, its record and timing, and the command it is of, with context, step and entry. -/
structure PassAt where
  k : Nat
  ref : PassRef
  t : PassTiming
  c : Nat
  n : Nat
  p : Nat
  e : StepEntry
  x : Context
  st : Step

namespace PassAt
variable (a : PassAt) (d : Dev)

/-- The array, record, mode and windows as the pass finds them. -/
def array : PressArray := (d.core a.k).array a.ref.array
def address : Nat := a.x.store + a.ref.offset
def record : Nat := d.getNat a.address 64
def mode : Nat := bits (a.record d) 0 64
def loads : Bool := d.loads a.x a.st a.e (a.array d) a.ref (a.mode d)
def quads : List Quad := d.quads a.x a.st a.e a.ref.offset
def windows : List (Nat × Nat) := (modeQuads (a.mode d)).map fun q => (q, d.getNat (a.address + 64 + 64 * q) 64)

/-- The check at row 0 (R219). -/
def valid : Bool :=
  passValid (a.array d) (d.rd Reg.pressCoreState_width a.k) (popCount 2 (d.rd Reg.pressArrayState_halves (2 * a.k + a.ref.array))) (a.mode d)
    (a.loads d) ((a.quads d).map Quad.desc)

/-- A condition of R222 does not hold yet, or the bubble origin is not that of the core (R483). -/
def held : Bool :=
  !(a.array d).mayEnter (d.bubbleFraction a.c) (a.mode d) (a.loads d) a.t || (d.core a.k).origin.any (· != a.t.origin)

/-- The bytes of the pass's record and windows. -/
def size : Nat := if modeSplit (a.mode d) then 320 else 128

/-- The pass is none for the command to enter: it lies outside the command's body or not behind those entered before in its array, or its
array stands at a boundary (R238, R321). -/
def outside : Bool :=
  a.ref.offset < a.e.e.body || a.e.e.body + a.e.e.bodyBytes < a.ref.offset + a.size d ||
    (a.e.passed.any fun q => q.1 == a.ref.array && a.ref.offset ≤ q.2) || (a.array d).atBoundary

/-- The array as the pass leaves it. -/
def after : PressArray :=
  d.afterPass a.x (d.core a.k) (a.array d) (d.rd Reg.pressArrayColumnMap_map (2 * a.k + a.ref.array)) (a.mode d) (a.record d) (a.loads d) a.ref
    a.t (a.quads d) (a.windows d)

/-- The device once the pass has entered, before its counts: the array and the core's bubble origin, with the free values that an accumulation
may draw, and the entry with the pass among those entered. -/
def arrayEntered : Dev :=
  let w := d.updCore a.k fun y => { y.updArray a.ref.array (fun _ => a.after d) with origin := some a.t.origin }
  if modeAccumulate (a.mode d) then { w with free := w.free + 131072 } else w
def passEntered : Dev :=
  (a.arrayEntered d).updEntry a.c a.n a.p fun f => { f with passed := f.passed ++ [(a.ref.array, a.ref.offset)] }

/-- The counts of a pass: one pass, its vectors, and the cycles lost before it (R245). -/
def counted : Dev :=
  let lost := ((a.array d).earliest (a.mode d) (a.loads d) a.t).lost a.t.start (entryCycles a.t.start a.t.gaps (modeVectors (a.mode d)))
  let d := ((a.passEntered d).count Reg.pressArrayState_passes (2 * a.k + a.ref.array)).count Reg.pressCounters_entry a.k (modeVectors (a.mode d))
  let d := (d.count Reg.pressCounters_loadWait a.k lost.1).count Reg.pressCounters_modeWait a.k lost.2.1
  (d.count Reg.pressCounters_drainHold a.k lost.2.2.1).count Reg.pressCounters_idle a.k lost.2.2.2

end PassAt

theorem passEntryEffect_none {d : Dev} {k : Nat} (ref : PassRef) (t : PassTiming) (h : d.issuing k = none) : passEntryEffect k ref t d = d := by
  simp only [passEntryEffect, h]

namespace PassAt
variable {a : PassAt} {d : Dev}

theorem outside_eq_false : a.outside d = false ↔ a.e.e.body ≤ a.ref.offset ∧ a.ref.offset + a.size d ≤ a.e.e.body + a.e.e.bodyBytes ∧
    (∀ q ∈ a.e.passed, q.1 = a.ref.array → q.2 < a.ref.offset) ∧ (a.array d).atBoundary = false := by
  simp [outside, and_assoc]

theorem held_eq_false : a.held d = false ↔ (a.array d).mayEnter (d.bubbleFraction a.c) (a.mode d) (a.loads d) a.t = true ∧
    ∀ o, (d.core a.k).origin = some o → o = a.t.origin := by
  simp [held, Option.any_eq_false]

/-- The command of a pass is the one its core issues operations of. -/
structure InService (a : PassAt) (d : Dev) : Prop where
  issuing : d.issuing a.k = some (a.c, a.n, a.p, a.e)
  ctx : d.ctx? a.c = some a.x
  step : d.step? a.c a.n = some a.st

section
variable (s : a.InService d)
include s

/-- The outcomes of a pass in the order in which they are tried. -/
theorem effect : passEntryEffect a.k a.ref a.t d =
    if a.outside d then d
    else if d.poisoned a.address (a.size d) then d.endFaulty a.k a.c 0x82 (memArea a.address)
    else if d.skipped a.x a.st a.e a.ref.offset then d
    else if !a.valid d then d.endFaulty a.k a.c 0x80 0x08
    else if a.held d then d
    else a.counted d := by
  simp only [passEntryEffect, s.issuing, s.ctx, s.step]
  rfl

theorem effect_outside (h : a.outside d = true) : passEntryEffect a.k a.ref a.t d = d := by rw [effect s, if_pos h]

variable (inside : a.outside d = false)
include inside

theorem effect_poisoned (h : d.poisoned a.address (a.size d) = true) :
    passEntryEffect a.k a.ref a.t d = d.endFaulty a.k a.c 0x82 (memArea a.address) := by
  simp [effect s, inside, h]

variable (sound : d.poisoned a.address (a.size d) = false)
include sound

theorem effect_skipped (h : d.skipped a.x a.st a.e a.ref.offset = true) : passEntryEffect a.k a.ref a.t d = d := by
  simp [effect s, inside, sound, h]

variable (dirty : d.skipped a.x a.st a.e a.ref.offset = false)
include dirty

theorem effect_invalid (h : a.valid d = false) : passEntryEffect a.k a.ref a.t d = d.endFaulty a.k a.c 0x80 0x08 := by
  simp [effect s, inside, sound, dirty, h]

variable (valid : a.valid d = true)
include valid

theorem effect_held (h : a.held d = true) : passEntryEffect a.k a.ref a.t d = d := by
  simp [effect s, inside, sound, dirty, valid, h]

theorem effect_enters (h : a.held d = false) : passEntryEffect a.k a.ref a.t d = a.counted d := by
  simp [effect s, inside, sound, dirty, valid, h]

end

/-! ### What a pass that enters changes -/

theorem counted_noted (a : PassAt) (d : Dev) : (a.passEntered d).Noted (a.counted d) :=
  (((((Dev.count_noted _ _ _ _).trans (Dev.count_noted _ _ _ _)).trans (Dev.count_noted _ _ _ _)).trans (Dev.count_noted _ _ _ _)).trans
    (Dev.count_noted _ _ _ _)).trans (Dev.count_noted _ _ _ _)

theorem rd_counted_passes (room : (a.passEntered d).rd Reg.pressArrayState_passes (2 * a.k + a.ref.array) + 1 <
      2 ^ Reg.pressArrayState_passes.width) : (a.counted d).rd Reg.pressArrayState_passes (2 * a.k + a.ref.array) =
    (a.passEntered d).rd Reg.pressArrayState_passes (2 * a.k + a.ref.array) + 1 := by
  unfold counted; dsimp only
  repeat rw [Dev.rd_count_ne _ _ _ _ (by decide)]
  exact Dev.rd_count_same room

theorem arrayEntered_work (a : PassAt) (d : Dev) :
    (a.arrayEntered d).core a.k = { (d.core a.k).updArray a.ref.array (fun _ => a.after d) with origin := some a.t.origin } ∧
      (a.arrayEntered d).contexts = d.contexts ∧ (a.arrayEntered d).mem = d.mem ∧ (a.arrayEntered d).queues = d.queues ∧
      (a.arrayEntered d).regs = d.regs := by
  have entered := d.core_updCore_same a.k fun y => { y.updArray a.ref.array (fun _ => a.after d) with origin := some a.t.origin }
  unfold arrayEntered; dsimp only; split
  · exact ⟨entered, rfl, rfl, rfl, rfl⟩
  · exact ⟨entered, rfl, rfl, rfl, rfl⟩

theorem after_idle (a : PassAt) (d : Dev) : (a.after d).idle = false := Dev.afterPass_idle _ _ _ _ _ _ _ _ _ _ _ _

/-- A pass that enters occupies its array, is among its command's passes, is counted, and changes nothing else of what the statement on it names. -/
theorem counted_spec (a : PassAt) (d : Dev) :
    let w := settle (a.counted d)
    (w.core a.k).array a.ref.array = a.after d ∧ (w.core a.k).origin = some a.t.origin ∧ ((w.core a.k).array a.ref.array).idle = false ∧
      (w.core a.k).buffer = (d.core a.k).buffer ∧ w.mem = d.mem ∧ w.queues = d.queues ∧
      (d.entry? a.c a.n a.p = some a.e →
        ∃ f, w.entry? a.c a.n a.p = some f ∧ f.passed = a.e.passed ++ [(a.ref.array, a.ref.offset)]) ∧
      (d.rd Reg.pressArrayState_passes (2 * a.k + a.ref.array) + 1 < 2 ^ Reg.pressArrayState_passes.width →
        w.rd Reg.pressArrayState_passes (2 * a.k + a.ref.array) = d.rd Reg.pressArrayState_passes (2 * a.k + a.ref.array) + 1) := by
  obtain ⟨core, contexts, mem, queues, regs⟩ := a.arrayEntered_work d
  obtain ⟨cores', queues', mem', regs'⟩ := (a.arrayEntered d).updEntry_work a.c a.n a.p
    fun f => { f with passed := f.passed ++ [(a.ref.array, a.ref.offset)] }
  obtain ⟨cores'', contexts'', queues'', mem''⟩ := (a.counted_noted d).work
  have core_eq : (a.counted d).core a.k = { (d.core a.k).updArray a.ref.array (fun _ => a.after d) with origin := some a.t.origin } := by
    rw [Dev.core_of_cores cores'', passEntered, Dev.core_of_cores cores', core]
  have array_eq : ((a.counted d).core a.k).array a.ref.array = a.after d := by
    rw [core_eq]; exact Core.array_updArray_same (d.core a.k) a.ref.array _
  have passes : (a.passEntered d).rd Reg.pressArrayState_passes (2 * a.k + a.ref.array) = d.rd Reg.pressArrayState_passes (2 * a.k + a.ref.array) :=
    Dev.rd_of_regs (regs'.trans regs) _ _
  simp only [settle_core, settle_mem, settle_queues, settle_rd, array_eq]
  refine ⟨trivial, by rw [core_eq], a.after_idle d, by rw [core_eq]; exact Core.updArray_buffer _ _ _, mem''.trans (mem'.trans mem),
    queues''.trans (queues'.trans queues), fun entry =>
      ⟨{ a.e with passed := a.e.passed ++ [(a.ref.array, a.ref.offset)] }, ?_, rfl⟩, fun room => ?_⟩
  · rw [Dev.entry?_of_contexts (settle_contexts _), Dev.entry?_of_contexts contexts'']
    exact Dev.entry?_updEntry_same ((Dev.entry?_of_contexts contexts _ _ _).trans entry) _
  · rw [rd_counted_passes (by rwa [passes]), passes]

end PassAt

end Sys2Proof.Machine
end

section
/-! The statements on Press cores (R212 to R246), settled. -/

namespace Sys2Proof.PressFamily
open Sys2Proof.Machine Sys2Proof.Safety

/-- Settles O40: one equation of the effect for each outcome of a pass, and the cycles, the idle counts and the bubbles apart from it. -/
theorem passEnters : Obligations.PassEnters := by
  refine ⟨?entry, entryCycles_spec, Earliest.lost_sum, fun _ _ _ _ _ => PressArray.mayEnter_spec,
    fun _ origin c fits => length_bubbles fits origin c⟩
  intro s k ref t w d go
  refine ⟨fun none_ => leads_of rfl w (passEntryEffect_none ref t none_), ?_⟩
  intro c n p e x st issuing ctx step r record m size inside qs loads valid may windows
  let a : PassAt := { k, ref, t, c, n, p, e, x, st }
  have runs {z : Dev} (effect : passEntryEffect a.k a.ref a.t d = z) : go z := leads_of rfl w effect
  have inService : a.InService d := ⟨issuing, ctx, step⟩
  have within : a.outside d = false ↔ inside := PassAt.outside_eq_false
  have free : a.held d = false ↔ may := PassAt.held_eq_false
  refine ⟨fun out => ?_, fun in_ bad => ?_, fun in_ sound => ⟨fun clean => ?_, fun dirty invalid => ?_, fun dirty ok held => ?_,
    fun dirty ok enters => yields_of rfl w ?_⟩⟩
  · exact runs (PassAt.effect_outside inService (eq_true_of_ne_false fun no => out (within.1 no)))
  · exact runs (PassAt.effect_poisoned inService (within.2 in_) bad)
  · exact runs (PassAt.effect_skipped inService (within.2 in_) sound clean)
  · exact runs (PassAt.effect_invalid inService (within.2 in_) sound dirty invalid)
  · exact runs (PassAt.effect_held inService (within.2 in_) sound dirty ok (eq_true_of_ne_false fun no => held (free.1 no)))
  · have entered := PassAt.effect_enters inService (within.2 in_) sound dirty ok (free.2 enters)
    exact entered ▸ a.counted_spec d

/-- Settles O42: a drain's rows leave the arrays alone, and a core whose arrays stand at a switch point releases them. -/
theorem drainsAndFills : Obligations.DrainsAndFills := by
  refine ⟨fun s k a none_ => ⟨fun w => ?_, fun w => ?_, fun op w => ?_⟩, fun s k a c n p e w running => ⟨fun nothing => ?_, ?drain⟩,
    fun s k a c n p e w running => ⟨fun nothing => ?_, fun boundary => ⟨fun free => yields_of rfl w ?_, fun busy => ?_⟩⟩,
    fun s k c n p e x op w issuing ctx => ⟨fun untested => ?_, fun tested => ?_⟩⟩
  · exact leads_of rfl w (drainEffect_none a none_)
  · exact leads_of rfl w (tileBoundaryEffect_none a none_)
  · exact leads_of rfl w (randomFillEffect_none op (Dev.issuing_of_running_none none_))
  · exact leads_of rfl w (drainEffect_noDrain running nothing)
  case drain =>
    intro j rest someContext drains someStep
    obtain ⟨x, ctx⟩ := Option.isSome_iff_exists.1 someContext
    obtain ⟨st, step⟩ := Option.isSome_iff_exists.1 someStep
    refine yields_of rfl w ?_
    obtain ⟨drained, -, queues, mem⟩ := s.dev.drainDone_spec k a x st e.draws j rest
    obtain ⟨switchMem, switchQueues⟩ := (s.dev.drainDone k a x st e.draws j rest).standSwitch_work k c n p
    rw [drainEffect_drains running ctx step drains]
    simp only [settle_queues, settle_core, settle_mem]
    refine ⟨switchQueues.trans queues, fun going0 going1 => ?_, fun otherStopped _ last closedA closedB noBoundary goesOn => ?_,
      fun x' ctx' still => ?_⟩
    · rw [Dev.standSwitch_not (Dev.drainDone_goesOn st e.draws j rest going0 going1), drained]
      exact ⟨rfl, rfl⟩
    · subst last
      obtain ⟨array0, array1, -⟩ :=
        Dev.standSwitch_stands (Dev.drainDone_stands (x := x) st e.draws j otherStopped closedA closedB noBoundary goesOn) c n p
      exact ⟨array0, array1⟩
    · cases ctx.symm.trans ctx'
      exact switchMem.trans (mem still)
  · exact leads_of rfl w (tileBoundaryEffect_noBoundary running nothing)
  · rw [tileBoundaryEffect_stops running boundary]
    have stands : ((s.dev.updCore k fun y => y.updArray a fun _ => { stopped := true }).core k).standsAtSwitch = true := by
      rw [Dev.standsAtSwitch_stopped, PressArray.working_eq_false.2 free]; rfl
    obtain ⟨array0, array1, mem, entry⟩ := Dev.standSwitch_stands stands c n p
    rw [settle_core, settle_mem, Dev.entry?_of_contexts (settle_contexts _)]
    exact ⟨array0, array1, mem, entry e⟩
  · have works : ((s.dev.core k).array (1 - a)).working = true := by
      rw [← Bool.not_eq_false]; exact fun idle => busy (PressArray.working_eq_false.1 idle)
    exact leads_of rfl w ((tileBoundaryEffect_stops running boundary).trans
      (Dev.standSwitch_not (by rw [Dev.standsAtSwitch_stopped, works]; rfl) c n p))
  · exact leads_of rfl w (randomFillEffect_untested op issuing ctx untested)
  · exact leads_of rfl w (by simp only [randomFillEffect, issuing, ctx, tested, Bool.not_true]; rfl)

/-- A Press core command in service that waits on nothing, in a step of its own. -/
def moverEntry : StepEntry := { (default : StepEntry) with state := .service }

/-- A context with that step alone in flight. -/
def moverContext : Context :=
  { latency := false, variant := 0, coreOffset := 0, manifest := default, seed := 0, planId := 0, digest := 0, sections := [], store := 0,
    block := 0, save := 0, scratch := 0, counters := 1, facts := default,
    steps := [{ number := 7, instance_ := 0, reduced := false, frames := [], entries := [moverEntry] }] }

/-- The device is out of reset, logical rank 0 takes no write (R470), and core 0 has that command in service and a 1 at the start of its
Press buffer. -/
def moverToDeadRank : State where
  pending := []
  dev :=
    { pwrgood := true, perstLow := false, lp := { lost := [0], dead := [0] },
      pw := { domains := [(.shell 0, { running := true, powered := true })] }, contexts := [(1, moverContext)],
      cores := [(0, { serving := some (1, 7, 0), buffer := [(0, 1#8)] })] }

/-- The byte moved to address 0. -/
def moverOut : MoverOp :=
  { toPress := false, press := 0, device := 0, bytes := 1, rows := 1, pressPitch := 0, devicePitch := 0, cacheable := false }

theorem moverToDeadRank_ready : ready (.dataMoverTransfer 0 moverOut [] []) moverToDeadRank := by decide +kernel

theorem moverToDeadRank_issuing : moverToDeadRank.dev.issuing 0 = some (1, 7, 0, moverEntry) := by decide +kernel

theorem moverToDeadRank_canonical : memoryCanonical moverToDeadRank := ⟨.nil, by simp [moverToDeadRank]⟩

/-- Refutes O43: the mover's run may go to a logical rank that met a command error while no spare was left. Writes to it are discarded
(R470), so the byte at 0 stays 0 when the 1 of the Press buffer is moved there. -/
theorem not_dataMover : ¬ Obligations.DataMover := by
  intro ⟨_, transfers⟩
  obtain ⟨-, inService⟩ := transfers moverToDeadRank 0 moverOut moverToDeadRank_ready
  obtain ⟨-, out, -, -⟩ := inService 1 7 0 moverEntry moverContext moverToDeadRank_issuing rfl
  obtain ⟨stored, reads⟩ := out rfl rfl (by decide)
  obtain ⟨-, moved, -⟩ := reads moverToDeadRank_canonical _ stored
  have byte := moved 0 (by decide)
  rw [settle_getByte] at byte
  have kept : (moverToDeadRank.dev.store moverOut.device ((moverToDeadRank.dev.core 0).bytes moverOut.press moverOut.bytes)).getByte
    (moverOut.device + 0) = 0#8 := by decide +kernel
  have one : (moverToDeadRank.dev.core 0).byte (moverOut.press + 0) = 1#8 := by decide +kernel
  exact absurd (kept.symm.trans (byte.trans one)) (by decide)

/-- Settles O44: each operation is one write to the registers of its core, whose values are taken from the registers before it. -/
theorem vectorOperations : Obligations.VectorOperations := by
  refine ⟨fun s k op w none_ => leads_of rfl w (vectorOperationEffect_none op none_),
    fun s k c n p e x st op w issuing ctx step => ?inService, fun _ _ _ _ _ _ _ => rfl, fun _ _ _ _ _ _ _ => rfl, rfl, vecFold_singleton,
    fun d v table rows width indices dst x ctx fits beyond => ?gather⟩
  case inService =>
    have effect := vectorOperationEffect_issues op issuing ctx step
    refine ⟨leads_of rfl w effect, fun dst m f fits elementwise => yields_of rfl w ?_⟩
    rw [effect]
    rcases elementwise with ⟨o, a, b, rfl, rfl⟩ | ⟨o, a, rfl, rfl⟩ | ⟨a, b, g, rfl, rfl⟩
    · exact s.dev.updCore_setRegList_spec k dst m _ fits
    · exact s.dev.updCore_setRegList_spec k dst m _ fits
    · exact s.dev.updCore_setRegList_spec k dst m _ fits
  case gather =>
    rw [Dev.vecOp_gather_beyond table width dst beyond]
    refine ⟨?_, fun i below => ?_⟩
    · rw [Dev.ctx?, Dev.updCore_contexts, ← Dev.ctx?, Dev.ctx?_updCtx_same, ctx]; rfl
    · rw [Dev.core_updCore_same, Core.reg_setRegList _ _ _ (by simpa using fits), dif_pos ⟨rfl, by simpa using below⟩]
      exact List.getElem_replicate _

/-- Settles O45: what is suspect is recorded first, and a first fault of a core that serves nothing raises its cause and frees its arrays. -/
theorem coreFaults : Obligations.CoreFaults := by
  refine ⟨fun s k f w dead => ?_, fun s k w => ⟨fun none_ => ?_, fun some_ => ?_⟩, fun s k f w live => ⟨?_, fun idle old => ?_⟩⟩
  · exact leads_of rfl w (pressCoreFaultEffect_dead f dead)
  · exact leads_of rfl w (watchdogTripEffect_none none_)
  · exact leads_of rfl w (watchdogTripEffect_running some_)
  · exact leads_of rfl w (pressCoreFaultEffect_live f live)
  · refine yields_of rfl w ?_
    have number : k < 32 := of_decide_eq_true (Bool.and_eq_true_iff.1 w.1).1
    obtain ⟨⟨_, _, _, same⟩, alive, suspect⟩ := s.dev.recordSuspect_spec k f
    have effect : pressCoreFaultEffect k f s.dev =
        ((s.dev.recordSuspect k f).coreFaultRaised k).updCore k fun x => { x.freshArrays with serving := none } := by
      rw [pressCoreFaultEffect_live f live, Dev.coreFault_first ((alive k).trans (Dev.coreAlive_of_liveCores live))]
      · rw [same]; exact idle
      · rw [same]; exact Dev.coreFaultsAgain_of_old k old
    obtain ⟨mem, contexts, fault, detail, _, status⟩ := (s.dev.recordSuspect k f).coreFaultRaised_work k
    obtain ⟨code, area⟩ := Dev.statusWord_bytes _ 0x31 0x08
    rw [effect]
    simp only [settle_core, settle_rd, settle_mem, settle_contexts, Dev.attentionBit, settle_attention, Dev.core_updCore_same,
      Dev.rd_updCore, Dev.updCore_mem, Dev.updCore_contexts, Dev.updCore_attention, status, detail, mem, contexts]
    refine ⟨trivial, rfl, rfl, fault, Nat.mod_eq_of_lt (by omega), code, area, fun a p named => ?_, by rw [same], fun _ => by rw [same]⟩
    rw [Dev.rd_coreFaultRaised _ _ rfl (.inl (by decide)), suspect a p named]

end Sys2Proof.PressFamily
end

section
/-! SUPPORT. Exact values and their encodings (R247, R249), sums and products (R251, R290), and the sum of a column (R250 to R252, R284). -/

namespace Sys2Proof.Machine

/-! ### Conversion of a finite value to its own format (R247, R249) -/

theorem bits_lt (v off w : Nat) : bits v off w < 2 ^ w := Nat.mod_lt _ (Nat.two_pow_pos w)

/-- A magnitude `m × 2^e` that a format holds exactly: at most `p` bits, and all of them used unless the exponent is the least. -/
def Fmt.Holds (f : Fmt) (m : Nat) (e : Int) : Prop :=
  m < 2 ^ f.p ∧ f.qmin ≤ e ∧ (e = f.qmin ∨ 2 ^ (f.p - 1) ≤ m)

/-- The grid of such a magnitude is its own exponent, and nothing is cut off. -/
theorem Fmt.grid_of_holds {f : Fmt} {m : Nat} {e : Int} (nonzero : m ≠ 0) (holds : f.Holds m e) : f.grid m e = (m, e, 0, 1) := by
  obtain ⟨fits, least, full⟩ := holds
  have below : Nat.log2 m < f.p := (Nat.log2_lt nonzero).2 fits
  have top : e = f.qmin ∨ f.p - 1 ≤ Nat.log2 m := full.imp_right (Nat.le_log2 nonzero).2
  have unit : max f.qmin (e + (Nat.log2 m : Int) + 1 - (f.p : Int)) = e := by omega
  simp [Fmt.grid, unit]

theorem Fmt.roundMag_of_holds {f : Fmt} {m : Nat} {e : Int} (holds : f.Holds m e) : f.roundMag m e = min f.inf (f.pack m e) := by
  by_cases zero : m = 0
  · obtain ⟨_, _, full⟩ := holds
    have least : e = f.qmin := full.resolve_right (by simp [zero])
    simp [Fmt.roundMag, Fmt.pack, zero, least]
  · simp [Fmt.roundMag, Fmt.grid_of_holds zero holds, zero, b2n]

/-- The bits below the sign are the exponent field over the fraction. -/
theorem Fmt.mod_eq_fields (f : Fmt) (n : Nat) :
    n % 2 ^ (f.p - 1 + f.w) = bits n (f.p - 1) f.w * 2 ^ (f.p - 1) + bits n 0 (f.p - 1) := by
  rw [Nat.pow_add, Nat.mod_mul, bits, bits, Nat.shiftRight_zero, Nat.shiftRight_eq_div_pow, Nat.add_comm, Nat.mul_comm]

/-- The largest exponent field is kept for infinities and NaN. -/
theorem Fmt.exponent_lt_of_finite {f : Fmt} {n : Nat} (finite : (f.decode n).isFinite = true) : bits n (f.p - 1) f.w + 1 < 2 ^ f.w := by
  have ordinary : bits n (f.p - 1) f.w ≠ 2 ^ f.w - 1 := fun special => by
    rw [Fmt.decode, if_pos special] at finite
    split at finite <;> cases finite
  have field := bits_lt n (f.p - 1) f.w
  omega

theorem Fmt.mod_lt_inf_of_finite {f : Fmt} {n : Nat} (finite : (f.decode n).isFinite = true) : n % 2 ^ (f.p - 1 + f.w) < f.inf := by
  have fraction := bits_lt n 0 (f.p - 1)
  have room : (bits n (f.p - 1) f.w + 1) * 2 ^ (f.p - 1) ≤ f.inf :=
    Nat.mul_le_mul_right _ (Nat.le_sub_one_of_lt (Fmt.exponent_lt_of_finite finite))
  rw [Nat.succ_mul] at room
  rw [Fmt.mod_eq_fields]
  omega

/-- A finite encoding is its sign bit over the packed form of a magnitude that the format holds. -/
theorem Fmt.decode_of_finite {f : Fmt} {n : Nat} (pos : 0 < f.p) (finite : (f.decode n).isFinite = true) :
    ∃ m e, f.decode n = .num (n.testBit (f.p - 1 + f.w)) m e ∧ f.Holds m e ∧ f.pack m e = n % 2 ^ (f.p - 1 + f.w) := by
  have exponent := Fmt.exponent_lt_of_finite finite
  have ordinary : bits n (f.p - 1) f.w ≠ 2 ^ f.w - 1 := by omega
  have fraction := bits_lt n 0 (f.p - 1)
  have hidden : 2 ^ f.p = 2 ^ (f.p - 1) + 2 ^ (f.p - 1) := by rw [← Nat.two_mul, Nat.mul_comm, Nat.two_pow_pred_mul_two pos]
  rw [Fmt.mod_eq_fields]
  by_cases subnormal : bits n (f.p - 1) f.w = 0
  · refine ⟨_, _, by rw [Fmt.decode, if_neg ordinary, if_pos subnormal], ⟨by omega, Int.le_refl _, .inl rfl⟩, ?_⟩
    simp [Fmt.pack, subnormal]
  · refine ⟨_, _, by rw [Fmt.decode, if_neg ordinary, if_neg subnormal], ⟨by omega, by omega, .inr (Nat.le_add_left ..)⟩, ?_⟩
    obtain ⟨x, field⟩ := Nat.exists_eq_succ_of_ne_zero subnormal
    have above : (f.qmin + (x.succ : Int) - 1 - f.qmin).toNat = x := by omega
    rw [field, Fmt.pack, above, Nat.succ_mul]
    omega

/-- The sign bit over the bits below it. -/
theorem Fmt.sign_add_mod {f : Fmt} {n : Nat} (pos : 0 < f.p) (fits : n < 2 ^ (f.p + f.w)) :
    f.sign (n.testBit (f.p - 1 + f.w)) + n % 2 ^ (f.p - 1 + f.w) = n := by
  have width : f.p + f.w = f.p - 1 + f.w + 1 := by omega
  have top : n / 2 ^ (f.p - 1 + f.w) < 2 := by
    rw [width, Nat.pow_succ] at fits
    exact Nat.div_lt_of_lt_mul fits
  have parts := Nat.div_add_mod n (2 ^ (f.p - 1 + f.w))
  rw [Fmt.sign, Nat.testBit_eq_decide_div_mod_eq, Nat.mod_eq_of_lt top]
  obtain clear | set : n / 2 ^ (f.p - 1 + f.w) = 0 ∨ n / 2 ^ (f.p - 1 + f.w) = 1 :=
    Nat.le_one_iff_eq_zero_or_eq_one.1 (Nat.le_of_lt_succ top)
  · simpa [clear] using parts
  · simpa [set] using parts

theorem Fmt.round_decode {f : Fmt} {n : Nat} (pos : 0 < f.p) (fits : n < 2 ^ (f.p + f.w)) (finite : (f.decode n).isFinite = true) :
    f.round (f.decode n) = n := by
  obtain ⟨m, e, value, holds, packed⟩ := Fmt.decode_of_finite pos finite
  calc f.round (f.decode n) = f.sign (n.testBit (f.p - 1 + f.w)) + f.roundMag m e := by rw [value, Fmt.round]
    _ = f.sign (n.testBit (f.p - 1 + f.w)) + n % 2 ^ (f.p - 1 + f.w) := by
      rw [Fmt.roundMag_of_holds holds, packed, Nat.min_eq_right (Nat.le_of_lt (Fmt.mod_lt_inf_of_finite finite))]
    _ = n := Fmt.sign_add_mod pos fits

/-! ### Exact sums and products (R249, R251, R290) -/

theorem FVal.add_comm (a b : FVal) : a.add b = b.add a := by
  cases a with
  | nan => cases b <;> rfl
  | inf s =>
    cases b with
    | inf t => by_cases same : s = t <;> simp [FVal.add, same, eq_comm]
    | _ => rfl
  | num s m e =>
    cases b with
    | num t n f =>
      have sign : (s && t && m == 0 && n == 0) = (t && s && n == 0 && m == 0) := by
        rw [Bool.and_comm s t, Bool.and_right_comm]
      simp only [FVal.add, Int.min_comm e f, Int.add_comm (scaled s m e _), sign]
    | _ => rfl

theorem FVal.mul_comm (a b : FVal) : a.mul b = b.mul a := by
  cases a with
  | nan => cases b <;> rfl
  | inf s => cases b <;> simp [FVal.mul, bne_comm]
  | num s m e => cases b <;> simp [FVal.mul, bne_comm, Nat.mul_comm, Int.add_comm]

theorem FVal.eq_nan_of_isNan {a : FVal} (h : a.isNan = true) : a = .nan := by
  cases a with
  | nan => rfl
  | _ => cases h

theorem FVal.nan_add (b : FVal) : FVal.nan.add b = .nan := by cases b <;> rfl

theorem FVal.nan_mul (b : FVal) : FVal.nan.mul b = .nan := by cases b <;> rfl

theorem FVal.add_inf_of_ne {s t : Bool} (h : s ≠ t) : FVal.add (.inf s) (.inf t) = .nan := if_neg h

/-- A sum of two zeros is −0 only when both are. -/
theorem FVal.zero_add_zero (s : Bool) (e : Int) (t : Bool) (f : Int) : FVal.add (.num s 0 e) (.num t 0 f) = .num (s && t) 0 0 := by
  simp [FVal.add, scaled]

theorem fadd_comm (a b : Nat) : fadd a b = fadd b a := congrArg rne32 (FVal.add_comm _ _)

theorem fmul_comm (a b : Nat) : fmul a b = fmul b a := congrArg rne32 (FVal.mul_comm _ _)

theorem fadd_of_isNan {a : Nat} (h : (f32v a).isNan = true) (b : Nat) : fadd a b = rne32 .nan := by
  rw [fadd, FVal.eq_nan_of_isNan h, FVal.nan_add]

theorem fmul_of_isNan {a : Nat} (h : (f32v a).isNan = true) (b : Nat) : fmul a b = rne32 .nan := by
  rw [fmul, FVal.eq_nan_of_isNan h, FVal.nan_mul]

/-! ### Weights, products and columns (R250, R252, R284, R292) -/

theorem toSigned_toNat {w : Nat} (x : BitVec w) : toSigned w x.toNat = x.toInt := by
  have half : 2 * x.toNat < 2 ^ w ↔ x.toNat < 2 ^ (w - 1) := by
    cases w with
    | zero => simp [BitVec.of_length_zero]
    | succ w => rw [Nat.pow_succ, Nat.add_sub_cancel]; omega
  simp only [toSigned, Nat.mod_eq_of_lt x.isLt, BitVec.toInt_eq_toNat_cond, half]

theorem expanded_int8 (packed : Nat → Byte) (scale : Nat → Nat) (k : Nat) : expanded 0 packed scale k = .ofInt (packed k).toInt :=
  congrArg FVal.ofInt (toSigned_toNat (packed k))

theorem expanded_fp8_nan {packed : Nat → Byte} {k : Nat} (h : packed k = 0x7F#8 ∨ packed k = 0xFF#8) (scale : Nat → Nat) :
    expanded 3 packed scale k = .nan := by
  obtain h | h := h <;> exact (congrArg (fun b : Byte => fp8 b.toNat) h).trans (by decide)

theorem WinDesc.structural_iff (w : WinDesc) (row column : Nat) :
    w.structural row column = true ↔ 1 < w.gpack ∧ row / w.kg ≠ column / w.og := by
  simp [WinDesc.structural]

theorem product_none_left (a : Option FVal) : product none a = 0 := rfl

theorem product_none_right (w : Option FVal) : product w none = 0 := by cases w <;> rfl

/-- One row more adds its product to the sum of the rows before it. -/
theorem columnSum_concat {ws l : List (Option FVal)} (rows : ws.length = l.length) (w a : Option FVal) :
    columnSum (ws ++ [w]) (l ++ [a]) = fadd (columnSum ws l) (product w a) := by
  simp only [columnSum, List.zip_append rows, List.foldl_append, List.zip_cons_cons, List.zip_nil_left, List.foldl_cons, List.foldl_nil]

theorem columnSum_nil (ws : List (Option FVal)) : columnSum ws [] = 0 := by rw [columnSum, List.zip_nil_right, List.foldl_nil]

end Sys2Proof.Machine
end

section
/-! The statements on formats and sums (R247 to R252, R284, R290), settled. -/

namespace Sys2Proof.NumericsFamily
open Sys2Proof.Machine Sys2Proof.Safety

/-- Settles O41: a finite encoding of any format packs a magnitude that the format holds exactly, so rounding gives it back; sums and
products are exact before their one rounding, and a column folds them row by row. -/
theorem pressArithmetic : Obligations.PressArithmetic :=
  ⟨fun _ fits => Fmt.round_decode (f := Fmt.f16) (by decide) fits,
    fun _ fits => Fmt.round_decode (f := Fmt.bf16) (by decide) fits,
    fun _ fits => Fmt.round_decode (f := Fmt.f32) (by decide) fits,
    fun a => ⟨product_none_left a, product_none_right a⟩,
    WinDesc.structural_iff,
    fun _ scale _ byte => expanded_fp8_nan byte scale,
    expanded_int8,
    fun a b => ⟨fadd_comm a b, fmul_comm a b⟩,
    fun _ b nan => ⟨fadd_of_isNan nan b, fmul_of_isNan nan b⟩,
    fun _ _ => FVal.add_inf_of_ne,
    FVal.zero_add_zero,
    columnSum_nil,
    fun _ _ w a rows => columnSum_concat rows w a⟩

end Sys2Proof.NumericsFamily
end

section
/-! SUPPORT. The plan commands (R307 to R319): each outcome of a load, a bind, an unbind and an unload, and what a store leaves alone. -/

namespace Sys2Proof.Machine

/-! ### Stores -/

theorem Dev.putBytes_contexts (bs : List Byte) : ∀ (d : Dev) (a : Nat), (d.putBytes a bs).contexts = d.contexts := by
  induction bs with
  | nil => exact fun _ _ => rfl
  | cons b bs ih => exact fun d a => (ih _ _).trans (by split <;> rfl)

/-- Beside its bytes a store changes poison marks, cached units, what a migration has written, and a count (R445, R447, R465, R467). -/
theorem Dev.afterStore_cases (d : Dev) (a n : Nat) :
    ∃ p k m, ({ d with poison := p, cache := k, lp := { d.lp with current := m } } : Dev).Noted (d.afterStore a n) := by
  unfold Dev.afterStore; dsimp only; split
  · exact ⟨_, _, _, .refl _⟩
  · exact ⟨_, _, _, Dev.count_noted _ _ _ _⟩

@[simp] theorem Dev.store_contexts (d : Dev) (a : Nat) (bs : List Byte) : (d.store a bs).contexts = d.contexts := by
  obtain ⟨p, k, m, noted⟩ := (d.putBytes a bs).afterStore_cases a bs.length
  exact noted.work.2.1.trans (d.putBytes_contexts bs a)

/-! ### PLAN_LOAD (R307 to R311) -/

/-- The package that a load has read from the host, and a flag of the load. -/
def Fetched.package (f : Fetched) : List Byte := f.data.take (le f.entry 24 8)
def Fetched.loadFlag (f : Fetched) (k : Nat) : Bool := (byteAt f.entry 8).testBit k

/-- A load completed with a code, and its refusals recorded (R311). -/
def Dev.refuseLoad (d : Dev) (q i : Nat) (f : Fetched) (rs : List (Nat × Refused)) (code : Nat) : Dev :=
  (d.recordRefusal f.context rs).complete q i code 0x0B

/-- A load completed with the variant that fits, admitted unless the load only checks (R310, R312). -/
def Dev.finishLoad (d : Dev) (q i : Nat) (f : Fetched) (facts : PlanFacts) (v : Nat) (k : Blocks) (e : Dev) : Dev :=
  let m := packageManifest f.package v
  (if f.loadFlag 0 then d else e.admitPlan f.context v f.package (f.loadFlag 1) (byteAt f.entry 10) facts k).complete q i 0 0x0B
    (v + 256 * m.wclass + 65536 * m.grid)

section
variable {d : Dev} {q i : Nat} {f : Fetched} (facts : PlanFacts) (h : d.takeCommand q i 0x0B01 = some f)
include h

theorem planLoadEffect_waits (earlier : d.earlierLoad f.order = true) : planLoadEffect q i facts d = d := by
  simp only [planLoadEffect, h, earlier, if_true]

variable (turn : d.earlierLoad f.order = false)
include turn

theorem planLoadEffect_inUse (used : (d.ctx? f.context).isSome = true) : planLoadEffect q i facts d = d.refuseLoad q i f [] 0x82 := by
  simp only [planLoadEffect, h, turn, used, Bool.false_eq_true, if_false, if_true]
  rfl

theorem planLoadEffect_partRead (free : d.ctx? f.context = none) (host : f.loadFlag 2 = false) (short : f.data.length < le f.entry 24 8) :
    planLoadEffect q i facts d = d := by
  rw [Fetched.loadFlag] at host
  simp [planLoadEffect, h, turn, free, host, short]

end

/-- A load whose turn it is, of a package that the host has sent whole, into a free context. -/
structure LoadRead (d : Dev) (q i : Nat) (f : Fetched) : Prop where
  command : d.takeCommand q i 0x0B01 = some f
  turn : d.earlierLoad f.order = false
  free : d.ctx? f.context = none
  host : f.loadFlag 2 = false
  whole : le f.entry 24 8 ≤ f.data.length

namespace LoadRead
variable {d : Dev} {q i : Nat} {f : Fetched} (h : LoadRead d q i f) (facts : PlanFacts)
include h

/-- The answers to such a load, in the order in which its checks are made. -/
theorem effect :
    let t := d.tryVariants f.package (f.loadFlag 1) facts (variantOrder f.package (byteAt f.entry 9))
    planLoadEffect q i facts d =
      if !formValid f.package (le f.entry 24 8) then d.refuseLoad q i f [] 0x81
      else if !d.packageSigned f.package then d.refuseLoad q i f [] 0x11
      else if !d.targetFits f.package then d.refuseLoad q i f [] 0x80
      else match t.2 with
        | none => d.refuseLoad q i f t.1 ((t.1.getLast?.map fun r => r.2.code).getD 0x81)
        | some (v, k, e) => d.finishLoad q i f facts v k e := by
  obtain ⟨command, turn, free, host, whole⟩ := h
  rw [Fetched.loadFlag] at host
  simp only [planLoadEffect, command, turn, free, host, Nat.not_lt.2 whole, Option.isSome_none, Bool.false_eq_true, Bool.false_and,
    decide_false, Bool.and_false, if_false]
  rfl

theorem effect_malformed (form : formValid f.package (le f.entry 24 8) = false) :
    planLoadEffect q i facts d = d.refuseLoad q i f [] 0x81 := by
  rw [h.effect, if_pos (by simp [form])]

variable (form : formValid f.package (le f.entry 24 8) = true)
include form

theorem effect_unsigned (signed : d.packageSigned f.package = false) : planLoadEffect q i facts d = d.refuseLoad q i f [] 0x11 := by
  rw [h.effect, if_neg (by simp [form]), if_pos (by simp [signed])]

variable (signed : d.packageSigned f.package = true)
include signed

theorem effect_otherTarget (target : d.targetFits f.package = false) : planLoadEffect q i facts d = d.refuseLoad q i f [] 0x80 := by
  rw [h.effect, if_neg (by simp [form]), if_neg (by simp [signed]), if_pos (by simp [target])]

theorem effect_fits (target : d.targetFits f.package = true) {v : Nat} {k : Blocks} {e : Dev} {rs : List (Nat × Refused)}
    (fits : d.tryVariants f.package (f.loadFlag 1) facts (variantOrder f.package (byteAt f.entry 9)) = (rs, some (v, k, e))) :
    planLoadEffect q i facts d = d.finishLoad q i f facts v k e := by
  rw [h.effect, if_neg (by simp [form]), if_neg (by simp [signed]), if_neg (by simp [target]), fits]

end LoadRead

/-! ### PLAN_BIND (R316) -/

theorem Dev.bindFails_free {d : Dev} {c : Nat} (h : d.ctx? c = none) (stream : Nat) : d.bindFails c stream = some 0x83 := by
  simp only [Dev.bindFails, h]

section
variable {d : Dev} {q i : Nat} {f : Fetched} (h : d.takeCommand q i 0x0B03 = some f)
include h

theorem planBindEffect_fails {code : Nat} (fails : d.bindFails f.context (le f.entry 8 2) = some code) :
    planBindEffect q i d = d.complete q i code 0x0B := by
  simp only [planBindEffect, h, fails]

theorem planBindEffect_binds {x : Context} (ctx : d.ctx? f.context = some x) (may : d.bindFails f.context (le f.entry 8 2) = none) :
    planBindEffect q i d = (d.bindStream f.context (le f.entry 8 2)
      (if (byteAt f.entry 10).testBit 0 then le f.entry 16 8 else x.seed) x).complete q i 0 0x0B x.freeSlot := by
  simp only [planBindEffect, h, may, ctx]

end

theorem Dev.initBiasTable_contexts (d : Dev) (x : Context) (slot : Nat) : (d.initBiasTable x slot).contexts = d.contexts :=
  List.foldlRecOn (motive := fun e : Dev => e.contexts = d.contexts) _ _ rfl fun e kept _ _ => (e.store_contexts _ _).trans kept

theorem Dev.ctx?_initBiasTable {d : Dev} {c : Nat} {x : Context} (h : d.ctx? c = some x) (slot : Nat) :
    (d.initBiasTable x slot).ctx? c = some x := by
  rwa [Dev.ctx?, Dev.initBiasTable_contexts]

/-- The device once context `c` has given a stream its slot, that which was free in `x`. -/
def Dev.slotTaken (d : Dev) (c stream seed : Nat) (x : Context) : Dev :=
  let e := d.initBiasTable x x.freeSlot
  e.updCtx c fun y => { y with bindings := y.bindings ++ [{ stream, slot := x.freeSlot, seed, biases := e.initialBiases y }] }

/-- What becomes of a context depends on that context alone. -/
theorem Dev.updCtx_congr {d : Dev} {c : Nat} {x : Context} {f g : Context → Context} (h : d.ctx? c = some x) (same : f x = g x) :
    d.updCtx c f = d.updCtx c g := by
  simp only [Dev.updCtx, h, same]

theorem Dev.slotTaken_eq {d : Dev} {c : Nat} {x : Context} (h : d.ctx? c = some x) (stream seed : Nat) :
    d.slotTaken c stream seed x =
      let e := d.initBiasTable x x.freeSlot
      e.updCtx c fun y => { y with bindings := y.bindings ++ [{ stream, slot := x.freeSlot, seed, biases := e.initialBiases x }] } :=
  Dev.updCtx_congr (Dev.ctx?_initBiasTable h _) rfl

theorem Dev.ctx?_slotTaken {d : Dev} {c : Nat} {x : Context} (h : d.ctx? c = some x) (stream seed : Nat) :
    (d.slotTaken c stream seed x).ctx? c = some { x with bindings := x.bindings ++
      [{ stream, slot := x.freeSlot, seed, biases := (d.initBiasTable x x.freeSlot).initialBiases x }] } := by
  rw [Dev.slotTaken, Dev.ctx?_updCtx_same, Dev.ctx?_initBiasTable h]
  rfl

/-- A stream entered in the first place of `plans.stream_contexts` that is 0. -/
def Dev.streamEntered (d : Dev) (c stream : Nat) : Dev :=
  match (List.range 4).find? fun k => d.rd (Reg.plansStreamContexts_context k) stream == 0 with
  | some k => d.wr (Reg.plansStreamContexts_context k) stream c
  | none => d

theorem Dev.streamEntered_of_first {d : Dev} {c stream k : Nat} (place : k < 4) (free : d.rd (Reg.plansStreamContexts_context k) stream = 0)
    (taken : ∀ j, j < k → d.rd (Reg.plansStreamContexts_context j) stream ≠ 0) :
    d.streamEntered c stream = d.wr (Reg.plansStreamContexts_context k) stream c := by
  have first : ((List.range 4).find? fun k => d.rd (Reg.plansStreamContexts_context k) stream == 0) = some k :=
    List.find?_range_eq_some.2 ⟨by simpa using free, List.mem_range.2 place, fun j below => by simpa using taken j below⟩
  rw [Dev.streamEntered, first]

/-- A bind is the slot, the place of its stream, and the track set of a plan that holds DETECT (R316, R366). -/
theorem Dev.bindStream_eq (d : Dev) (c stream seed : Nat) (x : Context) :
    d.bindStream c stream seed x =
      let g := d.slotTaken c stream seed x
      let e := if stream = 0xFFFF then g else g.streamEntered c stream
      if e.holdsDetect x then e.createTrackSet c stream else e := by
  unfold Dev.bindStream Dev.slotTaken Dev.streamEntered
  rfl

theorem Dev.bindStream_streamless {d : Dev} {c seed : Nat} {x : Context} (none_ : (d.slotTaken c 0xFFFF seed x).holdsDetect x = false) :
    d.bindStream c 0xFFFF seed x = d.slotTaken c 0xFFFF seed x := by
  simp only [Dev.bindStream_eq, if_true, none_, Bool.false_eq_true, if_false]

theorem Dev.bindStream_placed {d : Dev} {c stream seed k : Nat} {x : Context} (some_ : stream ≠ 0xFFFF) (place : k < 4)
    (free : (d.slotTaken c stream seed x).rd (Reg.plansStreamContexts_context k) stream = 0)
    (taken : ∀ j, j < k → (d.slotTaken c stream seed x).rd (Reg.plansStreamContexts_context j) stream ≠ 0) :
    d.bindStream c stream seed x =
      let h := (d.slotTaken c stream seed x).wr (Reg.plansStreamContexts_context k) stream c
      if h.holdsDetect x then h.createTrackSet c stream else h := by
  simp only [Dev.bindStream_eq, if_neg some_, Dev.streamEntered_of_first place free taken]

/-! ### PLAN_UNBIND (R318) -/

section
variable {d : Dev} {q i : Nat} {f : Fetched} (h : d.takeCommand q i 0x0B04 = some f)
include h

theorem planUnbindEffect_started (started : f.started = true) : planUnbindEffect q i d = d := by
  simp only [planUnbindEffect, h, started, if_true]

variable (begins : f.started = false)
include begins

theorem planUnbindEffect_free (free : d.ctx? f.context = none) : planUnbindEffect q i d = d.complete q i 0x86 0x0B := by
  simp [planUnbindEffect, h, begins, free]

variable {x : Context} (ctx : d.ctx? f.context = some x)
include ctx

theorem planUnbindEffect_notBound (out : x.binding? (le f.entry 8 2) = none) : planUnbindEffect q i d = d.complete q i 0x86 0x0B := by
  simp [planUnbindEffect, h, begins, ctx, out]

theorem planUnbindEffect_bound (bound : (x.binding? (le f.entry 8 2)).isSome = true) :
    planUnbindEffect q i d =
      let e := (d.startCommand q i).updCtx f.context fun x =>
        x.updBinding (le f.entry 8 2) fun b => { b with leaving := b.leaving ++ [(q, i)] }
      if x.steps = [] then e.settleUnbinds f.context else e := by
  simp [planUnbindEffect, h, begins, ctx, Option.isSome_iff_ne_none.1 bound]

end

/-! ### PLAN_UNLOAD (R319, R396) -/

section
variable {d : Dev} {q i : Nat} {f : Fetched} (h : d.takeCommand q i 0x0B02 = some f)
include h

theorem planUnloadEffect_started (started : f.started = true) : planUnloadEffect q i d = d := by
  simp only [planUnloadEffect, h, started, if_true]

variable (begins : f.started = false)
include begins

theorem planUnloadEffect_free (free : d.ctx? f.context = none) : planUnloadEffect q i d = d.complete q i 0x83 0x0B := by
  simp [planUnloadEffect, h, begins, free]

theorem planUnloadEffect_closes {x : Context} (ctx : d.ctx? f.context = some x) :
    planUnloadEffect q i d = thenAbandon (((d.startCommand q i).updCtx f.context fun x =>
      { x with unloading := x.unloading ++ [(q, i)], state := if x.state = .faulting then .faulting else .closing }).finishUnload f.context) := by
  simp [planUnloadEffect, h, begins, ctx]

end

end Sys2Proof.Machine
end

section
/-! SUPPORT. Suspending a command whose save record lies in a rank that takes no write (R412, R470). -/

namespace Sys2Proof.Machine

@[simp] theorem Dev.store_dead (d : Dev) (a : Nat) (bs : List Byte) : (d.store a bs).lp.dead = d.lp.dead := by
  obtain ⟨p, k, m, f, r, w, u, store⟩ := (d.putBytes a bs).afterStore_cases a bs.length
  obtain ⟨-, lp, -⟩ := Dev.putBytes_frame bs d a
  rw [Dev.store, store]
  change (d.putBytes a bs).lp.dead = d.lp.dead
  rw [lp]

/-- A byte of a rank that takes no write is after any store what it was before. -/
theorem Dev.getByte_store_dead {d : Dev} (a : Nat) (bs : List Byte) {c : Nat} (h : Memory.wf d.memFree d.mem)
    (dead : deadAt d.lp.dead c = true) : (d.store a bs).getByte c = d.getByte c := by
  have bytes : (d.store a bs).getByte c = (d.putBytes a bs).getByte c := by simp [Dev.store, Dev.getByte]
  rw [bytes, Dev.getByte_putBytes_dead bs d a c h dead]

/-- A command marked suspended, and its core freed. -/
def Dev.freedOf (d : Dev) (k c n p : Nat) : Dev :=
  (d.updEntry c n p fun e => { e with state := .suspended, atSwitch := false }).updCore k fun y => { y.freshArrays with serving := none }

theorem Dev.freedOf_sameMemory (d : Dev) (k c n p : Nat) : d.sameMemory (d.freedOf k c n p) := by
  obtain ⟨cs, change⟩ := d.updEntry_eq c n p fun e => { e with state := .suspended, atSwitch := false }
  rw [Dev.freedOf, change]
  exact ⟨rfl, rfl⟩

/-- The save record of a core's command written: its Press buffer, its vector engine and its resume record (R412). -/
def Dev.saveRecord (d : Dev) (k : Nat) (x : Context) (e : StepEntry) : Dev :=
  let a := x.saveAddress e.e.cell
  ((d.fresh.2.store a ((d.core k).bytes 0 x.manifest.pressBytes)).store (a + 4194304) (d.core k).vectorState).store (a + 4260096)
    (leBytes 256 d.fresh.1)

/-- Suspending a command that waits on nothing changes device memory by its save record alone. -/
theorem Dev.suspend_sameMemory {d : Dev} {c n p : Nat} {x : Context} {e : StepEntry} (k : Nat) (ctx : d.ctx? c = some x)
    (entry : d.entry? c n p = some e) (still : (e.wait.any fun w => !w.met) = false) :
    (d.saveRecord k x e).sameMemory (d.suspend k c n p) := by
  have suspended : d.suspend k c n p =
      (((d.saveRecord k x e).freedOf k c n p).count Reg.yardContextCounters_suspensions c).count Reg.yardContextCounters_saveBytes c
        (x.manifest.pressBytes + 65792 + 256) := by
    simp only [Dev.suspend, ctx, entry, still, Bool.false_eq_true, if_false, Dev.saveRecord, Dev.freedOf]
  rw [suspended]
  exact ((Dev.freedOf_sameMemory _ k c n p).trans (Dev.count_sameMemory _ _ c 1)).trans (Dev.count_sameMemory _ _ c _)

theorem Dev.getByte_saveRecord_dead {d : Dev} (k : Nat) (x : Context) (e : StepEntry) {a : Nat} (h : Memory.wf d.memFree d.mem)
    (dead : deadAt d.lp.dead a = true) : (d.saveRecord k x e).getByte a = d.getByte a := by
  have dead' : deadAt d.fresh.2.lp.dead a = true := dead
  have first := Dev.store_wf d.fresh.2 (x.saveAddress e.e.cell) ((d.core k).bytes 0 x.manifest.pressBytes) h
  have second := Dev.store_wf _ (x.saveAddress e.e.cell + 4194304) (d.core k).vectorState first
  rw [Dev.saveRecord, Dev.getByte_store_dead _ _ second (by simpa using dead'), Dev.getByte_store_dead _ _ first (by simpa using dead'),
    Dev.getByte_store_dead (d := d.fresh.2) _ _ h dead']
  rfl

end Sys2Proof.Machine
end

section
/-! The statements on plan commands and entries of a step (R307 to R320, R404 to R412), settled. -/

namespace Sys2Proof.PlanFamily
open Sys2Proof.Machine Sys2Proof.Safety Sys2Proof.PressFamily

/-- Settles O46: one equation of the effect for each answer of the four commands, and where a bound stream is entered. -/
theorem planCommands : Obligations.PlanCommands := by
  refine ⟨fun s q i facts f w h => ?load, fun s q i f w h => ?bind, fun d c stream seed x ctx => ?slot, fun s q i f w h => ?unbind,
    fun s q i f w h => ?unload⟩
  case load =>
    refine ⟨fun earlier => ?_, fun turn used => ?_, fun turn free host => ⟨fun short => ?_, fun whole => ?read⟩⟩
    · exact leads_of rfl w (planLoadEffect_waits facts h earlier)
    · exact leads_of rfl w (planLoadEffect_inUse facts h turn used)
    · exact leads_of rfl w (planLoadEffect_partRead facts h turn free host short)
    case read =>
      have read : LoadRead s.dev q i f := ⟨h, turn, free, host, whole⟩
      refine ⟨fun form => ?_, fun form signed => ?_, fun form signed target => ?_, fun v k e rs form signed target fits => ?_⟩
      · exact leads_of rfl w (read.effect_malformed facts form)
      · exact leads_of rfl w (read.effect_unsigned facts form signed)
      · exact leads_of rfl w (read.effect_otherTarget facts form signed target)
      · exact leads_of rfl w (read.effect_fits facts form signed target fits)
  case bind =>
    refine ⟨fun code fails => ?_, fun free => ?_, fun x ctx may => ?_⟩
    · exact leads_of rfl w (planBindEffect_fails h fails)
    · exact Dev.bindFails_free free _
    · exact leads_of rfl w (planBindEffect_binds h ctx may)
  case slot =>
    intro e g
    have slot : d.slotTaken c stream seed x = g := Dev.slotTaken_eq ctx stream seed
    refine ⟨fun streamless none_ => ?_, fun k some_ place free taken => ?_, ?_⟩
    · subst streamless
      rw [← slot] at none_ ⊢
      exact Dev.bindStream_streamless none_
    · rw [← slot] at free taken ⊢
      exact Dev.bindStream_placed some_ place free taken
    · rw [← slot, Dev.ctx?_slotTaken ctx]
      rfl
  case unbind =>
    refine ⟨fun started => ?_, fun begins free => ?_, fun x begins ctx => ⟨fun out => ?_, fun bound => ⟨fun rests => ?_, fun steps => ?_⟩⟩⟩
    · exact leads_of rfl w (planUnbindEffect_started h started)
    · exact leads_of rfl w (planUnbindEffect_free h begins free)
    · exact leads_of rfl w (planUnbindEffect_notBound h begins ctx out)
    · exact leads_of rfl w ((planUnbindEffect_bound h begins ctx bound).trans (if_pos rests))
    · exact leads_of rfl w ((planUnbindEffect_bound h begins ctx bound).trans (if_neg steps))
  case unload =>
    refine ⟨fun started => ?_, fun begins free => ?_, fun x begins ctx => ?_⟩
    · exact leads_of rfl w (planUnloadEffect_started h started)
    · exact leads_of rfl w (planUnloadEffect_free h begins free)
    · exact leads_of rfl w (planUnloadEffect_closes h begins ctx)

/-- A Press core command at a switch point, in a plan of one byte of Press buffer whose save block starts at 0. -/
def switchingEntry : StepEntry := { moverEntry with atSwitch := true }
def switchingContext : Context :=
  { moverContext with
    manifest := { moverContext.manifest with pressBytes := 1 }
    steps := [{ number := 7, instance_ := 0, reduced := false, frames := [], entries := [switchingEntry] }] }

/-- Logical rank 0 takes no write (R470), and core 0 has that command in service and a 1 at the start of its Press buffer. -/
def saveToDeadRank : Dev := { moverToDeadRank.dev with contexts := [(1, switchingContext)] }

theorem saveToDeadRank_wf : Memory.wf saveToDeadRank.memFree saveToDeadRank.mem := moverToDeadRank_canonical

/-- Refutes O48: a save block may lie in a logical rank that met a command error while no spare was left. Writes to it are discarded (R470),
so the save area does not hold the Press buffer: the byte at 0 stays 0 when a command is suspended whose Press buffer starts with a 1. -/
theorem not_yardEntries : ¬ Obligations.YardEntries := by
  intro h
  obtain ⟨-, -, -, -, -, suspends⟩ := h
  have entry : saveToDeadRank.entry? 1 7 0 = some switchingEntry := rfl
  obtain ⟨-, -, saved, -⟩ := suspends saveToDeadRank 0 1 7 0 switchingContext switchingEntry rfl entry rfl saveToDeadRank_wf (by decide)
  have byte := saved 0 (by decide)
  rw [(Dev.suspend_sameMemory 0 rfl entry rfl).getByte, Dev.getByte_saveRecord_dead 0 _ _ saveToDeadRank_wf (by decide)] at byte
  have kept : saveToDeadRank.getByte (switchingContext.saveAddress switchingEntry.e.cell + 0) = 0#8 := by decide
  have one : (saveToDeadRank.core 0).byte 0 = 1#8 := by decide
  exact absurd (kept.symm.trans (byte.trans one)) (by decide)

end Sys2Proof.PlanFamily
end

section
/-! SUPPORT. Tracks: suppression, assignment, what becomes of a track, ids of births, and the debounced state of a zone (R364, R369, R370, R377). -/

namespace Sys2Proof.Machine

/-! ### A stable insertion sort -/

theorem insertBy_perm {α : Type} (before : α → α → Bool) (a : α) (l : List α) : (insertBy before a l).Perm (a :: l) := by
  induction l with
  | nil => exact .refl _
  | cons b l ih =>
    simp only [insertBy]
    split
    · exact .refl _
    · exact (ih.cons b).trans (.swap a b l)

theorem isort_perm {α : Type} (before : α → α → Bool) (l : List α) : (isort before l).Perm l := by
  induction l with
  | nil => exact .refl _
  | cons a l ih => exact (insertBy_perm before a _).trans (ih.cons a)

/-! ### Suppression (R364) -/

/-- A box is not suppressed by an earlier kept one. -/
def Candidate.apart (b : DetectBody) (x y : Candidate) : Prop :=
  (b.agnostic = true ∨ x.cls = y.cls) → flt b.iou (iou y.box x.box) = false

/-- A candidate that no kept box suppresses is apart from each of them. -/
theorem Candidate.apart_of_kept {b : DetectBody} {c : Candidate} {kept : List Candidate}
    (free : ¬(kept.any fun k => (b.agnostic || k.cls == c.cls) && flt b.iou (iou c.box k.box)) = true) : ∀ k ∈ kept, k.apart b c := by
  intro k mem same
  have not := fun hides => free (List.any_eq_true.2 ⟨k, mem, hides⟩)
  simpa [same] using not

theorem suppress_length_le {b : DetectBody} (cs kept : List Candidate) (fits : kept.length ≤ b.keepMax) :
    (suppress b cs kept).1.length ≤ b.keepMax := by
  fun_induction suppress b cs kept with
  | case1 => exact fits
  | case2 => exact fits
  | case3 c cs kept room hidden ih => exact ih fits
  | case4 c cs kept room free ih => exact ih (by simp; omega)

theorem mem_suppress {b : DetectBody} {x : Candidate} (cs kept : List Candidate) (mem : x ∈ (suppress b cs kept).1) : x ∈ kept ∨ x ∈ cs := by
  fun_induction suppress b cs kept with
  | case1 => exact .inl mem
  | case2 => exact .inl mem
  | case3 c cs kept room hidden ih => exact (ih mem).imp_right (List.mem_cons_of_mem c)
  | case4 c cs kept room free ih =>
    rcases ih mem with taken | later
    · rcases List.mem_append.1 taken with old | new
      · exact .inl old
      · exact .inr (List.mem_singleton.1 new ▸ List.mem_cons_self)
    · exact .inr (List.mem_cons_of_mem c later)

theorem suppress_pairwise {b : DetectBody} (cs kept : List Candidate) (apart : kept.Pairwise (Candidate.apart b)) :
    (suppress b cs kept).1.Pairwise (Candidate.apart b) := by
  fun_induction suppress b cs kept with
  | case1 => exact apart
  | case2 => exact apart
  | case3 c cs kept room hidden ih => exact ih apart
  | case4 c cs kept room free ih =>
    refine ih (List.pairwise_append.2 ⟨apart, List.pairwise_singleton _ _, fun k mem x last => ?_⟩)
    cases List.mem_singleton.1 last
    exact Candidate.apart_of_kept free k mem

/-! ### Assignment (R369) -/

/-- A pair taken when both its track and its detection are free. -/
def takePair (acc : List Pair) (p : Pair) : List Pair := if acc.any fun q => q.id == p.id || q.det == p.det then acc else acc ++ [p]

theorem assign_eq (ps : List Pair) : assign ps = (isort pairBefore ps).foldl takePair [] := rfl

theorem takePair_cases (acc : List Pair) (p : Pair) :
    (takePair acc p = acc ∧ ∃ q ∈ acc, q.id = p.id ∨ q.det = p.det) ∨
      (takePair acc p = acc ++ [p] ∧ ∀ q ∈ acc, q.id ≠ p.id ∧ q.det ≠ p.det) := by
  unfold takePair
  split
  · next taken => exact .inl ⟨rfl, by simpa using taken⟩
  · next free => exact .inr ⟨rfl, by simpa using free⟩

theorem foldl_takePair_pairwise (l : List Pair) : ∀ {acc : List Pair}, acc.Pairwise (fun p q => p.id ≠ q.id ∧ p.det ≠ q.det) →
    (l.foldl takePair acc).Pairwise fun p q => p.id ≠ q.id ∧ p.det ≠ q.det := by
  induction l with
  | nil => exact id
  | cons p l ih =>
    intro acc apart
    refine ih ?_
    rcases takePair_cases acc p with ⟨same, -⟩ | ⟨added, free⟩
    · rwa [same]
    · rw [added]
      exact List.pairwise_append.2 ⟨apart, List.pairwise_singleton _ _, fun q mem r last => List.mem_singleton.1 last ▸ free q mem⟩

theorem mem_foldl_takePair (l : List Pair) : ∀ {acc : List Pair} {q : Pair}, q ∈ l.foldl takePair acc → q ∈ acc ∨ q ∈ l := by
  induction l with
  | nil => exact .inl
  | cons p l ih =>
    intro acc q mem
    rcases takePair_cases acc p with ⟨same, -⟩ | ⟨added, -⟩
    · rw [List.foldl_cons, same] at mem
      exact (ih mem).imp_right (List.mem_cons_of_mem p)
    · rw [List.foldl_cons, added] at mem
      rcases ih mem with taken | later
      · rcases List.mem_append.1 taken with old | new
        · exact .inl old
        · exact .inr (List.mem_singleton.1 new ▸ List.mem_cons_self)
      · exact .inr (List.mem_cons_of_mem p later)

/-- What is taken stays taken. -/
theorem mem_foldl_takePair_of_mem (l : List Pair) : ∀ {acc : List Pair} {q : Pair}, q ∈ acc → q ∈ l.foldl takePair acc := by
  induction l with
  | nil => exact id
  | cons p l ih =>
    intro acc q mem
    refine ih ?_
    rcases takePair_cases acc p with ⟨same, -⟩ | ⟨added, -⟩
    · rwa [same]
    · rw [added]; exact List.mem_append_left _ mem

/-- A pair is left out only where its track or its detection is taken. -/
theorem foldl_takePair_covers (l : List Pair) : ∀ {acc : List Pair} {p : Pair}, p ∈ l →
    ∃ q ∈ l.foldl takePair acc, q.id = p.id ∨ q.det = p.det := by
  induction l with
  | nil => simp
  | cons p l ih =>
    intro acc r mem
    rcases List.mem_cons.1 mem with rfl | later
    · rcases takePair_cases acc r with ⟨same, q, taken, clash⟩ | ⟨added, -⟩
      · exact ⟨q, mem_foldl_takePair_of_mem l (same.symm ▸ taken), clash⟩
      · exact ⟨r, mem_foldl_takePair_of_mem l (by simp [added]), .inl rfl⟩
    · exact ih later

/-! ### What becomes of a track (R370) -/

/-- A track with a detection goes on, with what the table of R370 gives for its state. -/
theorem Track.step_hit (p : Predicted) (x : Detection) (n : Noise) (confirm maxMiss u ts : Nat) :
    ∃ k, Track.step p (some x) n confirm maxMiss u ts = some k ∧ k.id = p.track.id ∧ k.cls = p.track.cls ∧ k.box = x.box ∧ k.lastUnit = u ∧
      (p.track.state = .tentative → k.hits = p.track.hits + 1 ∧ k.state = if confirm ≤ p.track.hits + 1 then .confirmed else .tentative) ∧
      (p.track.state = .confirmed → k.hits = p.track.hits + 1 ∧ k.misses = 0 ∧ k.state = .confirmed) ∧
      (p.track.state = .coasting → k.misses = 0 ∧ k.state = .confirmed) := by
  cases state : p.track.state with
  | tentative => simp [Track.step, state]
  | confirmed => simp [Track.step, state]
  | coasting => simp [Track.step, state]

/-- A track without a detection is deleted while tentative, coasts from confirmed, and coasts on up to max_miss. -/
theorem Track.step_miss (p : Predicted) (n : Noise) (confirm maxMiss u ts : Nat) :
    (p.track.state = .tentative → Track.step p none n confirm maxMiss u ts = none) ∧
    (p.track.state = .confirmed → Track.step p none n confirm maxMiss u ts = some { p.track with state := .coasting, misses := 1 }) ∧
    (p.track.state = .coasting → Track.step p none n confirm maxMiss u ts =
      if maxMiss < p.track.misses + 1 then none else some { p.track with misses := p.track.misses + 1 }) := by
  refine ⟨fun state => ?_, fun state => ?_, fun state => ?_⟩ <;> simp only [Track.step, state]

/-! ### Ids of births (R370) -/

/-- The id `k` places after `i` on the circle of 1 to 0xFFFFFFFF. -/
def idPlus (i k : Nat) : Nat := (i - 1 + k) % 0xFFFFFFFF + 1

theorem idPlus_range (i k : Nat) : 1 ≤ idPlus i k ∧ idPlus i k ≤ 0xFFFFFFFF := by
  unfold idPlus; omega

theorem idPlus_zero {i : Nat} (pos : 1 ≤ i) (fits : i ≤ 0xFFFFFFFF) : idPlus i 0 = i := by
  unfold idPlus; omega

theorem idAfter_idPlus (i k : Nat) : idAfter (idPlus i k) = idPlus i (k + 1) := by
  unfold idAfter idPlus; split <;> omega

theorem idPlus_inj {i k j : Nat} (hk : k < 0xFFFFFFFF) (hj : j < 0xFFFFFFFF) (same : idPlus i k = idPlus i j) : k = j := by
  unfold idPlus at same; omega

/-- The id found lies on the circle, and is free unless all the ids tried are in use. -/
theorem freeId_spec (ts : List Track) (i n : Nat) : ∀ k, ∃ m, freeId n ts (idPlus i k) = idPlus i m ∧
    ((∀ t ∈ ts, t.id ≠ idPlus i m) ∨ ∀ j < n, ∃ t ∈ ts, t.id = idPlus i (k + j)) := by
  induction n with
  | zero => exact fun k => ⟨k, rfl, .inr (by simp)⟩
  | succ n ih =>
    intro k
    simp only [freeId]
    split
    · next used =>
      have here : ∃ t ∈ ts, t.id = idPlus i k := by simpa using used
      obtain ⟨m, found, free | all⟩ := ih (k + 1)
      · exact ⟨m, by rw [idAfter_idPlus, found], .inl free⟩
      · refine ⟨m, by rw [idAfter_idPlus, found], .inr fun j hj => ?_⟩
        cases j with
        | zero => exact here
        | succ j => simpa [Nat.add_assoc, Nat.add_comm 1 j] using all j (by omega)
    · next free => exact ⟨k, rfl, .inl (by simpa using free)⟩

/-- Different members, numbered below `n`, are no more than a list holds. -/
theorem le_length_of_distinct {f : Nat → Nat} (n : Nat) : ∀ {l : List Nat}, (∀ j < n, ∀ k < n, f j = f k → j = k) → (∀ j < n, f j ∈ l) →
    n ≤ l.length := by
  induction n with
  | zero => exact fun _ _ => Nat.zero_le _
  | succ n ih =>
    intro l distinct members
    have last : f n ∈ l := members n (Nat.lt_succ_self n)
    have rest : n ≤ (l.erase (f n)).length := by
      refine ih (fun j hj k hk same => distinct j (Nat.lt_succ_of_lt hj) k (Nat.lt_succ_of_lt hk) same) fun j hj => ?_
      have other : f j ≠ f n := fun same => Nat.ne_of_lt hj (distinct j (Nat.lt_succ_of_lt hj) n (Nat.lt_succ_self n) same)
      exact (List.mem_erase_of_ne other).2 (members j (Nat.lt_succ_of_lt hj))
    have pos : 0 < l.length := List.length_pos_of_mem last
    rw [List.length_erase_of_mem last] at rest
    omega

/-- As many ids as there are tracks and one more are not all in use. -/
theorem not_all_used {ts : List Track} (few : ts.length < 0xFFFFFFFF) (i : Nat) :
    ¬∀ j < ts.length + 1, ∃ t ∈ ts, t.id = idPlus i j := by
  intro all
  have bound : ts.length + 1 ≤ (ts.map Track.id).length :=
    le_length_of_distinct (f := idPlus i) _ (fun j hj k hk same => idPlus_inj (by omega) (by omega) same) fun j hj => List.mem_map.2 (all j hj)
  rw [List.length_map] at bound
  omega

/-- The id of a birth is none in use. -/
theorem freeId_free {ts : List Track} {i : Nat} (pos : 1 ≤ i) (fits : i ≤ 0xFFFFFFFF) (few : ts.length ≤ 131072) :
    (∀ t ∈ ts, t.id ≠ freeId (ts.length + 1) ts i) ∧ 1 ≤ freeId (ts.length + 1) ts i ∧ freeId (ts.length + 1) ts i ≤ 0xFFFFFFFF := by
  obtain ⟨m, found, free⟩ := freeId_spec ts i (ts.length + 1) 0
  rw [idPlus_zero pos fits] at found
  rw [found]
  refine ⟨free.resolve_right fun all => not_all_used (ts := ts) (by omega) i (by simpa using all), idPlus_range i m⟩

/-! ### Inside or outside a zone (R377) -/

section
variable {r : RuleTrack} {now : Bool} (debounce time : Nat)

theorem RuleTrack.next_unknown (first : r.inside = none) :
    (r.next now debounce time).1.inside = some now ∧ (r.next now debounce time).2 = false := by
  simp [RuleTrack.next, first]

theorem RuleTrack.next_same (same : r.inside = some now) : r.next now debounce time = ({ r with other := 0 }, false) := by
  simp [RuleTrack.next, same]

theorem RuleTrack.next_other (other : r.inside = some !now) : r.next now debounce time =
    if debounce ≤ r.other + 1 then ({ inside := some now, other := 0, since := time, dwelt := false }, true)
    else ({ r with other := r.other + 1 }, false) := by
  simp [RuleTrack.next, other]

end

end Sys2Proof.Machine
end

section
/-! SUPPORT. What a frame's sealing and its rules leave alone: the steps of a context, and the queues (R375, R380 to R385, R389). -/

namespace Sys2Proof.Machine

/-! ### Contexts, by the operations that seal a batch (R389, R451 to R455) -/

@[simp] theorem Dev.count_contexts (d : Dev) (r : Reg) (i n : Nat) : (d.count r i n).contexts = d.contexts := (d.count_noted r i n).work.2.1

@[simp] theorem Dev.attend_contexts (d : Dev) (c : Cause) : (d.attend c).contexts = d.contexts := (d.attend_noted c).work.2.1

@[simp] theorem Dev.setPool_contexts (d : Dev) (q : Nat) (x : Pool) : (d.setPool q x).contexts = d.contexts := rfl

@[simp] theorem Dev.streamOnce_contexts (d : Dev) (area stream detail code codeArea context : Nat) :
    (d.streamOnce area stream detail code codeArea context).contexts = d.contexts := by
  obtain ⟨f, r, a, w, n, p, s, c, q, eq⟩ := d.streamOnce_received area stream detail code codeArea context
  rw [eq]

@[simp] theorem Dev.checkControl_contexts (d : Dev) (q : Nat) : (d.checkControl q).contexts = d.contexts := by
  unfold Dev.checkControl; dsimp only; split
  · exact (Dev.beginLasting_alerted _ _).frame.2.2.2.2
  · rfl

@[simp] theorem Dev.takeMany_contexts (n q k owner : Nat) : ∀ d : Dev, (Dev.takeMany n d q k owner).2.contexts = d.contexts := by
  induction n with
  | zero => exact fun _ => rfl
  | succ n ih => exact fun d => (ih _).trans (by unfold Dev.takeOne; dsimp only; split <;> rfl)

@[simp] theorem Dev.linkCells_contexts (l : List Nat) : ∀ d : Dev, (d.linkCells l).contexts = d.contexts := by
  induction l with
  | nil => exact fun _ => rfl
  | cons a l ih =>
    cases l with
    | nil => exact fun d => d.store_contexts _ _
    | cons b l => exact fun d => (ih _).trans (d.store_contexts _ _)

@[simp] theorem Dev.alloc_contexts (d : Dev) (q n owner : Nat) : (d.alloc q n owner).2.contexts = d.contexts := by
  unfold Dev.alloc; dsimp only
  split
  · simp
  generalize (if (d.checkControl q).cellChain q then max 1 (ceilDiv n 248) else 1) = want
  split
  · simp
  · dsimp only; split <;> simp

@[simp] theorem Dev.freeOne_contexts (d : Dev) (q a : Nat) : (d.freeOne q a).2.contexts = d.contexts := by
  unfold Dev.freeOne; split
  · simp
  · dsimp only; split <;> simp

@[simp] theorem Dev.freeChain_contexts (left q : Nat) : ∀ (d : Dev) (a : Nat), (Dev.freeChain left d q a).2.2.contexts = d.contexts := by
  induction left with
  | zero => exact fun _ _ => rfl
  | succ left ih =>
    intro d a
    unfold Dev.freeChain; dsimp only; split
    · simp
    split
    · simp
    · simp [ih]

@[simp] theorem Dev.giveOwn_contexts (d : Dev) (q a count : Nat) : (d.giveOwn q a count).contexts = d.contexts := by
  have given : (d.give q a count).2.2.contexts = d.contexts := by unfold Dev.give; dsimp only; split <;> simp
  unfold Dev.giveOwn; dsimp only; split <;> simp [given]

@[simp] theorem Dev.batchDead_contexts (d : Dev) (b : HeldBatch) : (d.batchDead b).contexts = d.contexts := by simp [Dev.batchDead]

@[simp] theorem Dev.batchLost_contexts (d : Dev) (s ctx : Nat) (clear : Bool) : (d.batchLost s ctx clear).contexts = d.contexts := by
  cases clear <;> simp [Dev.batchLost]

@[simp] theorem Dev.dropBatch_contexts (d : Dev) (b : HeldBatch) : (d.dropBatch b).contexts = d.contexts := Dev.giveOwn_contexts _ _ _ _

@[simp] theorem Dev.holdBatch_contexts (d : Dev) (b : HeldBatch) : (d.holdBatch b).contexts = d.contexts := by
  have offered : (if d.targetDead b then (if d.ringDead b then d.batchDead b else d).batchDead b
      else if d.ringDead b then d.batchDead b else d).contexts = d.contexts := by split <;> split <;> simp
  unfold Dev.holdBatch; dsimp only; split
  · exact (Dev.giveOwn_contexts _ _ _ _).trans offered
  · exact offered

@[simp] theorem Dev.seal_contexts (d : Dev) (s ctx seq : Nat) (bytes : List Byte) : (d.seal s ctx seq bytes).contexts = d.contexts := by
  have missed (q : Prop) [Decidable q] (e : Dev) : (if q then e.count Reg.pointsLcMisses else e).contexts = e.contexts := by split <;> simp
  unfold Dev.seal; dsimp only; split
  · simp
  split
  · simp [missed]
  split
  · simp [missed]
  · simp [missed]

/-! ### Contexts and queues kept -/

/-- Contexts and queues are as they were. -/
structure Dev.KeepsWork (d e : Dev) : Prop where
  contexts : e.contexts = d.contexts := by rfl
  queues : e.queues = d.queues := by rfl

theorem Dev.KeepsWork.trans {a b c : Dev} (h : a.KeepsWork b) (k : b.KeepsWork c) : a.KeepsWork c :=
  ⟨k.contexts.trans h.contexts, k.queues.trans h.queues⟩

theorem Dev.KeepsWork.foldl {α : Type} {f : Dev → α → Dev} (h : ∀ (d : Dev) (x : α), d.KeepsWork (f d x)) (l : List α) :
    ∀ d : Dev, d.KeepsWork (l.foldl f d) := by
  induction l with
  | nil => exact fun _ => {}
  | cons x l ih => exact fun d => (h d x).trans (ih _)

theorem Dev.Noted.keepsWork {d e : Dev} (h : d.Noted e) : d.KeepsWork e := ⟨h.work.2.1, h.work.2.2.1⟩

theorem Dev.store_keepsWork (d : Dev) (a : Nat) (bs : List Byte) : d.KeepsWork (d.store a bs) :=
  ⟨d.store_contexts a bs, (d.store_keepsDecode (p := Reg.decodeEngineState_finished) rfl a bs).queues⟩

theorem Dev.seal_keepsWork (d : Dev) (s ctx seq : Nat) (bytes : List Byte) : d.KeepsWork (d.seal s ctx seq bytes) :=
  ⟨d.seal_contexts s ctx seq bytes, (d.seal_keepsDecode (p := Reg.decodeEngineState_finished) rfl s ctx seq bytes).queues⟩

/-! ### Settings put in place, rules and actions (R375 to R381) -/

theorem Dev.setElem_keepsWork (d : Dev) (o : Obj) (i v : Nat) : d.KeepsWork (d.setElem o i v) :=
  Dev.KeepsWork.foldl (fun _ _ => {}) _ d

theorem Dev.swapSetting_keepsWork (d : Dev) (x : OldSetting) : d.KeepsWork (d.swapSetting x).1 := by
  cases x with
  | elem o i v => exact d.setElem_keepsWork o i v
  | watchList l n bs => exact (d.store_keepsWork _ bs).trans {}

theorem Dev.swapSettings_keepsWork (xs : List OldSetting) : ∀ d : Dev, d.KeepsWork (d.swapSettings xs).1 := by
  induction xs with
  | nil => exact fun _ => {}
  | cons x xs ih => exact fun d => (d.swapSetting_keepsWork x).trans (ih _)

theorem Dev.runRules_keepsWork (d : Dev) (c : Nat) (f : CalFrame) : d.KeepsWork (d.runRules c f).2 := by
  unfold Dev.runRules; dsimp only; split <;> exact {}

theorem Dev.driveLine_keepsWork (d : Dev) (a : Nat) : d.KeepsWork (d.driveLine a) := by
  unfold Dev.driveLine; dsimp only
  split
  · exact (d.count_noted _ _ _).keepsWork
  split
  · exact {}
  split
  · exact {}
  split
  · exact Dev.KeepsWork.trans (b := d.updDio _ _) {} (Dev.count_noted _ _ _ _).keepsWork
  · exact {}

theorem Dev.queueEvent_keepsWork (d : Dev) (f : CanFrame) : d.KeepsWork (d.queueEvent f) := by
  unfold Dev.queueEvent; split
  · exact {}
  · exact ((d.count_noted _ _ _).trans (Dev.attend_noted _ _)).keepsWork

theorem Dev.issueActions_keepsWork (d : Dev) (es : List Event) (unit time : Nat) : d.KeepsWork (d.issueActions es unit time) := by
  refine (Dev.KeepsWork.foldl (fun d a => ?_) _ d).trans (Dev.KeepsWork.foldl (fun d a => ?_) _ _)
  · split
    · exact d.driveLine_keepsWork _
    · exact {}
  · split
    · exact d.queueEvent_keepsWork _
    · exact {}

/-! ### Steps of a context -/

@[simp] theorem Dev.updCtx_queues (d : Dev) (c : Nat) (f : Context → Context) : (d.updCtx c f).queues = d.queues := by
  unfold Dev.updCtx; split <;> rfl

theorem Dev.step?_of_contexts {d e : Dev} (h : e.contexts = d.contexts) (c n : Nat) : e.step? c n = d.step? c n := by
  simp only [Dev.step?, Dev.ctx?, h]

/-- A step reads as it was changed. -/
theorem Dev.step?_updStep_same (d : Dev) (c n : Nat) {f : Step → Step} (h : ∀ s, (f s).number = s.number) :
    (d.updStep c n f).step? c n = (d.step? c n).map f := by
  simp only [Dev.step?, Dev.updStep, Dev.ctx?_updCtx_same]
  cases d.ctx? c with
  | none => rfl
  | some x => exact x.step?_updStep_same n h

theorem Dev.step?_updStepFrame (d : Dev) (c n i : Nat) (f : StepFrame → StepFrame) :
    (d.updStepFrame c n i f).step? c n = (d.step? c n).map fun s => { s with frames := s.frames.modify i f } :=
  d.step?_updStep_same c n fun _ => rfl

theorem Dev.step?_updEntry (d : Dev) (c n p : Nat) (f : StepEntry → StepEntry) :
    (d.updEntry c n p f).step? c n = (d.step? c n).map fun s => { s with entries := s.entries.modify p f } :=
  d.step?_updStep_same c n fun _ => rfl

/-- The steps of a context and the queues are as they were. -/
structure Dev.KeepsSteps (c : Nat) (d e : Dev) : Prop where
  steps : ∀ n, e.step? c n = d.step? c n
  queues : e.queues = d.queues

theorem Dev.KeepsSteps.trans {c : Nat} {a b e : Dev} (h : a.KeepsSteps c b) (k : b.KeepsSteps c e) : a.KeepsSteps c e :=
  ⟨fun n => (k.steps n).trans (h.steps n), k.queues.trans h.queues⟩

theorem Dev.KeepsWork.keepsSteps {d e : Dev} (h : d.KeepsWork e) (c : Nat) : d.KeepsSteps c e :=
  ⟨Dev.step?_of_contexts h.contexts c, h.queues⟩

theorem Dev.updCtx_keepsSteps (d : Dev) (c : Nat) {f : Context → Context} (h : ∀ x, (f x).steps = x.steps) : d.KeepsSteps c (d.updCtx c f) := by
  refine ⟨fun n => ?_, d.updCtx_queues c f⟩
  simp only [Dev.step?, Dev.ctx?_updCtx_same]
  cases d.ctx? c with
  | none => rfl
  | some x => simp [Context.step?, h]

@[simp] theorem settle_sliceJobs (d : Dev) : (settle d).sliceJobs = d.sliceJobs := by
  rcases settle_eq d with h | h <;> rw [h]
  rfl

/-! ### Sealing (R382, R385, R432) -/

theorem Dev.sealBatch_keepsSteps (d : Dev) (c : Nat) (f : CalFrame) (code area flags : Nat) (records : List (List Byte)) :
    d.KeepsSteps c (d.sealBatch c f code area flags records) := by
  refine (d.updCtx_keepsSteps c ?_).trans ((Dev.seal_keepsWork _ _ _ _ _).keepsSteps c)
  exact fun _ => rfl

theorem Dev.sealLate_keepsSteps (n c : Nat) : ∀ d : Dev, d.KeepsSteps c (d.sealLate n c) := by
  induction n with
  | zero => exact fun _ => ⟨fun _ => rfl, rfl⟩
  | succ n ih =>
    intro d
    unfold Dev.sealLate; split
    · exact ⟨fun _ => rfl, rfl⟩
    split
    · exact ⟨fun _ => rfl, rfl⟩
    · refine ((d.updCtx_keepsSteps c ?_).trans (Dev.sealBatch_keepsSteps _ c _ _ _ _ _)).trans (ih _)
      exact fun _ => rfl

/-- A frame sealed: its place in the step says so, the entries of the step and the queues are as they were. -/
theorem Dev.sealFrame_spec {d : Dev} {c n i : Nat} {s : Step} {f : StepFrame} (step : d.step? c n = some s) (frame : s.frames[i]? = some f)
    (events : List (List Byte)) :
    (d.sealFrame c n i events).step? c n = some { s with frames := s.frames.modify i fun f => { f with sealed := true } } ∧
      (d.sealFrame c n i events).queues = d.queues := by
  have found : ((d.step? c n).bind fun s => (s.frames[i]?).map fun f => (s, f)) = some (s, f) := by simp [step, frame]
  obtain ⟨b, batch, eq⟩ : ∃ b, d.KeepsSteps c b ∧
      d.sealFrame c n i events = (b.updStepFrame c n i fun f => { f with sealed := true }).sealAllLate c := by
    simp only [Dev.sealFrame, found]
    refine ⟨_, ?_, rfl⟩
    split <;> exact Dev.sealBatch_keepsSteps _ _ _ _ _ _ _
  have late := Dev.sealLate_keepsSteps (c := c)
  rw [eq]
  refine ⟨((late _ _).steps n).trans ?_, ((late _ _).queues.trans (Dev.updCtx_queues _ _ _)).trans batch.queues⟩
  rw [Dev.step?_updStepFrame, batch.steps, step]
  rfl

end Sys2Proof.Machine
end

section
/-! SUPPORT. DETECT and EVALUATE: each outcome of an operation on one frame (R361 to R371, R378 to R385). -/

namespace Sys2Proof.Machine

/-! ### DETECT -/

/-- The heads of the operation an engine has in service (R362). -/
def Dev.headsOf (d : Dev) (y : SliceAt) : List Head :=
  (List.range (parseDetect (d.getNat (y.x.store + y.entry.e.body) 32)).heads).map fun k =>
    parseHead (d.getNat (y.x.store + y.entry.e.body + 32 + 32 * k) 32)

/-- A DETECT of the step seals its frame's batch itself: the list has no EVALUATE entry (R384). -/
def Step.detectSeals (t : Step) : Bool := !(t.entries.any fun g => g.e.engine == 4)

theorem Step.detectSeals_iff (t : Step) : t.detectSeals = true ↔ ∀ g ∈ t.entries, g.e.engine ≠ 4 := by
  simp [Step.detectSeals]

/-- A frame detected, its batch sealed where DETECT does so, and the operation committed. -/
def Dev.detected (d : Dev) (e : Nat) (y : SliceAt) (i : Nat) (t : Step) (f : StepFrame) (slot : Nat) (lost : List Nat) : Dev :=
  let followed := if f.withheld then d else d.detectFrame y i f.frame slot lost
  ((if t.detectSeals then followed.sealFrame y.at_.context y.at_.step i [] else followed).commitSlice false e y).count
    Reg.trackerEngineState_committed e

theorem detectEffect_none {d : Dev} {e : Nat} (slot : Nat) (ecc : List EccEvent) (lost : List Nat) (h : d.sliceAt false e 1 = none) :
    detectEffect e slot ecc lost d = d := by simp only [detectEffect, h]

section
variable {d : Dev} {e slot i : Nat} {ecc : List EccEvent} {lost : List Nat} {y : SliceAt} {t : Step} {f : StepFrame}
  (taken : d.sliceAt false e 1 = some y) (ofFrame : y.entry.frame = some i)
  (step : (d.eccAndSlots ecc).step? y.at_.context y.at_.step = some t) (frame : t.frames[i]? = some f)
include taken ofFrame step frame

theorem detectEffect_eq : detectEffect e slot ecc lost d =
    if t.detectSeals && !y.x.mayLeave f.frame.stream f.frame.number then d.eccAndSlots ecc
    else if ((d.eccAndSlots ecc).headsOf y).any fun h => (d.eccAndSlots ecc).poisoned (slot + h.offset) (h.height * h.width * h.cpad * 2) then
      Dev.faultCtx { d.eccAndSlots ecc with sliceJobs := (d.eccAndSlots ecc).sliceJobs.erase (0x0D, e) } y.at_.context 0x82 0x14
    else (d.eccAndSlots ecc).detected e y i t f slot lost := by
  simp only [detectEffect, taken, ofFrame, step, frame]
  rfl

/-- Where DETECT seals the batch, it waits for those of earlier frames (R385). -/
theorem detectEffect_waits (seals : t.detectSeals = true) (waits : y.x.mayLeave f.frame.stream f.frame.number = false) :
    detectEffect e slot ecc lost d = d.eccAndSlots ecc := by
  rw [detectEffect_eq taken ofFrame step frame, seals, waits]; rfl

variable (turn : t.detectSeals = false ∨ y.x.mayLeave f.frame.stream f.frame.number = true)
include turn

/-- A head tensor that reads as poison faults the context (R465). -/
theorem detectEffect_poisoned
    (bad : ∃ h ∈ (d.eccAndSlots ecc).headsOf y, (d.eccAndSlots ecc).poisoned (slot + h.offset) (h.height * h.width * h.cpad * 2) = true) :
    detectEffect e slot ecc lost d =
      Dev.faultCtx { d.eccAndSlots ecc with sliceJobs := (d.eccAndSlots ecc).sliceJobs.erase (0x0D, e) } y.at_.context 0x82 0x14 := by
  have goes : (t.detectSeals && !y.x.mayLeave f.frame.stream f.frame.number) = false := by rcases turn with h | h <;> simp [h]
  rw [detectEffect_eq taken ofFrame step frame, goes, List.any_eq_true.2 bad]; rfl

theorem detectEffect_commits
    (sound : ∀ h ∈ (d.eccAndSlots ecc).headsOf y, (d.eccAndSlots ecc).poisoned (slot + h.offset) (h.height * h.width * h.cpad * 2) = false) :
    detectEffect e slot ecc lost d = (d.eccAndSlots ecc).detected e y i t f slot lost := by
  have goes : (t.detectSeals && !y.x.mayLeave f.frame.stream f.frame.number) = false := by rcases turn with h | h <;> simp [h]
  have reads : (((d.eccAndSlots ecc).headsOf y).any fun h =>
      (d.eccAndSlots ecc).poisoned (slot + h.offset) (h.height * h.width * h.cpad * 2)) = false := by simpa using sound
  rw [detectEffect_eq taken ofFrame step frame, goes, reads]; rfl

end

/-! ### EVALUATE -/

/-- The rules of a frame run by the settings its EVALUATE began with: the events, counted (R375, R378). -/
def Dev.ruled (d : Dev) (y : SliceAt) (f : StepFrame) : List Event × Dev :=
  let now := d.swapSettings y.entry.olds
  let r := if f.withheld then ([], now.1) else now.1.runRules y.at_.context f.frame
  (r.1, r.2.count Reg.pointsCounters_events 0 r.1.length)

/-- The time of an EVALUATE added to what a frame has found (R390). -/
def Dev.addTime (d : Dev) (c : Nat) (f : CalFrame) (es : List Event) (g : StepFrame) : StepFrame :=
  let tracks := ((d.trackSet? c f.stream).map fun t => t.tracks.length).getD 0
  { g with found := { g.found with te := g.found.te + evaluateTime tracks (d.rulesOf f.stream c).length (es.filterMap d.actionOf).length } }

/-- The frame of a step evaluated, up to the actions of its events (R378). -/
def Dev.acted (d : Dev) (y : SliceAt) (i : Nat) (f : StepFrame) : Dev :=
  let r := d.ruled y f
  (r.2.updStepFrame y.at_.context y.at_.step i (r.2.addTime y.at_.context f.frame r.1)).issueActions r.1 f.frame.sequence f.frame.timestamp

/-- The records of the events whose rules ask for one. -/
def Dev.recordsOf (d : Dev) (es : List Event) : List (List Byte) := (es.filter fun v => d.flag Reg.pointsRule_record v.rule).map eventRecord

/-- The settings of now stand again, and what a rule written meanwhile keeps is unknown again (R375). -/
def Dev.settingsBack (d : Dev) (olds news : List OldSetting) : Dev :=
  olds.foldl (fun d x => match x with
    | .elem .pointsRule k _ => d.forgetRule k
    | _ => d) (d.swapSettings news).1

theorem Dev.ruled_keepsWork (d : Dev) (y : SliceAt) (f : StepFrame) : d.KeepsWork (d.ruled y f).2 := by
  refine Dev.KeepsWork.trans ?_ (Dev.count_noted _ _ _ _).keepsWork
  split
  · exact Dev.swapSettings_keepsWork _ _
  · exact (Dev.swapSettings_keepsWork _ _).trans (Dev.runRules_keepsWork _ _ _)

theorem Dev.settingsBack_keepsWork (d : Dev) (olds news : List OldSetting) : d.KeepsWork (d.settingsBack olds news) := by
  refine (Dev.swapSettings_keepsWork _ _).trans (Dev.KeepsWork.foldl (fun d x => ?_) _ _)
  split <;> exact {}

theorem Dev.acted_spec {d : Dev} {y : SliceAt} {t : Step} (step : d.step? y.at_.context y.at_.step = some t) (i : Nat) (f : StepFrame) :
    (∃ g, (d.acted y i f).step? y.at_.context y.at_.step = some { t with frames := t.frames.modify i g }) ∧
      (d.acted y i f).queues = d.queues := by
  have ruled := d.ruled_keepsWork y f
  have acts := Dev.issueActions_keepsWork ((d.ruled y f).2.updStepFrame y.at_.context y.at_.step i
    ((d.ruled y f).2.addTime y.at_.context f.frame (d.ruled y f).1)) (d.ruled y f).1 f.frame.sequence f.frame.timestamp
  refine ⟨⟨(d.ruled y f).2.addTime y.at_.context f.frame (d.ruled y f).1, ?_⟩,
    acts.queues.trans ((Dev.updCtx_queues _ _ _).trans ruled.queues)⟩
  rw [Dev.acted, Dev.step?_of_contexts acts.contexts, Dev.step?_updStepFrame, Dev.step?_of_contexts ruled.contexts, step]
  rfl

/-- A committed operation: its engine is free, its entry done, and the queues are as they were (R361). -/
theorem Dev.commitSlice_spec {d : Dev} {y : SliceAt} {t : Step} (step : d.step? y.at_.context y.at_.step = some t) (points : Bool) (e : Nat) :
    (d.commitSlice points e y).sliceJobs.find? (sliceArea points, e) = none ∧ (d.commitSlice points e y).queues = d.queues ∧
      (d.commitSlice points e y).step? y.at_.context y.at_.step =
        some { t with entries := t.entries.modify y.at_.pos fun g => { g with engine := none, state := .done } } := by
  obtain ⟨cs, change⟩ := Dev.updEntry_eq { d with sliceJobs := d.sliceJobs.erase (sliceArea points, e) } y.at_.context y.at_.step y.at_.pos
    fun g => { g with engine := none, state := .done }
  refine ⟨?_, ?_, ?_⟩
  · rw [Dev.commitSlice, change]
    exact Tbl.find?_erase_same _ _
  · rw [Dev.commitSlice, change]
  · rw [Dev.commitSlice, Dev.step?_updEntry]
    exact congrArg (Option.map _) step

theorem evaluateEffect_none {d : Dev} {e : Nat} (ecc : List EccEvent) (h : d.sliceAt true e 1 = none) : evaluateEffect e ecc d = d := by
  simp only [evaluateEffect, h]

section
variable {d : Dev} {e i : Nat} {ecc : List EccEvent} {y : SliceAt} {t : Step} {f : StepFrame}
  (taken : d.sliceAt true e 1 = some y) (ofFrame : y.entry.frame = some i)
  (step : (d.eccAndSlots ecc).step? y.at_.context y.at_.step = some t) (frame : t.frames[i]? = some f)
include taken ofFrame step frame

/-- A frame whose turn has not come waits (R385). -/
theorem evaluateEffect_waits (waits : y.x.mayLeave f.frame.stream f.frame.number = false) : evaluateEffect e ecc d = d.eccAndSlots ecc := by
  simp [evaluateEffect, taken, ofFrame, step, frame, waits]

/-- A frame whose turn has come is evaluated and sealed, and its operation commits (R378, R382). -/
theorem evaluateEffect_turn (turn : y.x.mayLeave f.frame.stream f.frame.number = true) : evaluateEffect e ecc d =
    let a := (d.eccAndSlots ecc).acted y i f
    ((a.settingsBack y.entry.olds ((d.eccAndSlots ecc).swapSettings y.entry.olds).2).sealFrame y.at_.context y.at_.step i
      (a.recordsOf ((d.eccAndSlots ecc).ruled y f).1)).commitSlice true e y := by
  simp only [evaluateEffect, taken, ofFrame, step, frame, turn, Bool.not_true, Bool.false_eq_true, if_false]
  rfl

/-- The engine is freed, the frame sealed, the entry done, and the queues are as they were. -/
theorem evaluateEffect_commits (turn : y.x.mayLeave f.frame.stream f.frame.number = true) :
    (evaluateEffect e ecc d).sliceJobs.find? (0x0E, e) = none ∧ (evaluateEffect e ecc d).queues = (d.eccAndSlots ecc).queues ∧
      ∃ frames, (evaluateEffect e ecc d).step? y.at_.context y.at_.step =
          some { t with frames, entries := t.entries.modify y.at_.pos fun g => { g with engine := none, state := .done } } ∧
        (frames[i]?).map StepFrame.sealed = some true := by
  obtain ⟨⟨g, acted⟩, actedQueues⟩ := Dev.acted_spec step i f
  have back := ((d.eccAndSlots ecc).acted y i f).settingsBack_keepsWork y.entry.olds ((d.eccAndSlots ecc).swapSettings y.entry.olds).2
  obtain ⟨sealed, sealedQueues⟩ := Dev.sealFrame_spec (i := i) (f := g f) ((Dev.step?_of_contexts back.contexts _ _).trans acted)
    (by simp [frame]) (((d.eccAndSlots ecc).acted y i f).recordsOf ((d.eccAndSlots ecc).ruled y f).1)
  obtain ⟨free, queues, done⟩ := Dev.commitSlice_spec sealed true e
  rw [evaluateEffect_turn taken ofFrame step frame turn]
  exact ⟨free, ((queues.trans sealedQueues).trans back.queues).trans actedQueues, _, done, by simp [frame]⟩

end

end Sys2Proof.Machine
end

section
/-! The statements on the tracker and Points (R361 to R394), settled. -/

namespace Sys2Proof.TrackerFamily
open Sys2Proof.Machine Sys2Proof.Safety

/-- What a ready command yields holds of the device that its effect leads to. -/
theorem yields_effect {c : Instr} {f : Dev → Dev} {s : State} {P : Dev → Prop} (x : exec c s = act c f s) (w : ready c s)
    (h : yields c s P) : P (settle (f s.dev)) := by
  obtain ⟨t, step, -, holds⟩ := h
  rw [x, act_runs w.1 w.2] at step
  injection step with same
  rwa [← same] at holds

/-- A WATCH_LOAD of list 0 with one entry, of id 9 and 128 ones. -/
def loadOne : Fetched where
  index := 0
  entry := padTo 64 (leBytes 2 0x0D10 ++ List.replicate 8 0#8 ++ leBytes 2 1)
  data := leBytes 4 9 ++ List.replicate 12 0#8 ++ (List.range 128).flatMap fun _ => leBytes 2 0x3C00

/-- The tracker's region is where reset puts it, so entry 0 of list 0 lies in logical rank 48; that rank takes no write (R470). -/
def watchListDead : State where
  pending := []
  dev := { pwrgood := true, perstLow := false, lp := { lost := [48], dead := [48] },
           queues := [(0, { sqHead := 1, sqTail := 1, inflight := [loadOne] })] }

theorem watchListDead_ready : ready (.watchLoad 0 0) watchListDead := by decide +kernel

theorem watchListDead_taken : watchListDead.dev.takeCommand 0 0 0x0D10 = some loadOne := by decide +kernel

theorem loadOne_valid : ¬∃ k, k < 1 ∧ ((∃ v ∈ (watchEntry loadOne.data k).2, (f32v v).isFinite = false) ∨
    ∀ v ∈ (watchEntry loadOne.data k).2, (f32v v).isZero = true) := by decide +kernel

theorem loadOne_id : le loadOne.data (272 * 0) 4 = 9 := by decide +kernel

/-- The command has had its effect, and the entry's id reads 0 all the same. -/
theorem watchListDead_lost :
    (settle (watchLoadEffect 0 0 watchListDead.dev)).getNat (watchListDead.dev.watchAddress (byteAt loadOne.entry 8) 0) 4 = 0 := by
  decide +kernel

/-- Refutes O52: the tracker's region may reach a logical rank that met a command error while no spare was left. Writes to it are discarded
(R470), so WATCH_LOAD completes with OK and the id of entry 0 reads 0 where 9 was loaded. -/
theorem not_trackerEngines : ¬ Obligations.TrackerEngines := by
  intro h
  obtain ⟨-, -, -, -, -, loads, -⟩ := h
  obtain ⟨-, -, fits⟩ := loads watchListDead 0 0 loadOne watchListDead_ready watchListDead_taken
  obtain ⟨-, stored⟩ := fits (by decide) (by decide) (by decide +kernel)
  obtain ⟨-, ids, -⟩ := yields_effect rfl watchListDead_ready (stored loadOne_valid ⟨.nil, by simp [watchListDead]⟩)
  have id := (watchListDead_lost.symm.trans (ids 0 (by decide +kernel))).trans loadOne_id
  exact absurd id (by decide)

/-- Settles O53: one equation of the effect for each outcome of DETECT; EVALUATE changes its frame's place and its entry alone among steps;
suppression and assignment by induction on what is still to be taken; the id of a birth by counting the ids tried. -/
theorem tracksFollow : Obligations.TracksFollow := by
  refine ⟨fun s e a x l w => ⟨fun free => leads_of rfl w (detectEffect_none a x l free), fun y i t f taken ofFrame => ?detect⟩,
    fun s e x w => ⟨fun free => leads_of rfl w (evaluateEffect_none x free), fun y i t f taken ofFrame => ?evaluate⟩,
    fun b cs => ⟨suppress_length_le cs [] (Nat.zero_le _), fun c mem => (mem_suppress cs [] mem).resolve_left (List.not_mem_nil),
      suppress_pairwise cs [] .nil⟩,
    fun ps => ⟨foldl_takePair_pairwise _ .nil, fun p mem => ?made, fun p mem => ?covered⟩,
    fun p x n confirm maxMiss u ts => ⟨Track.step_hit p x n confirm maxMiss u ts, Track.step_miss p n confirm maxMiss u ts⟩,
    fun ts i pos fits few => freeId_free pos fits few,
    fun r now debounce time => ⟨RuleTrack.next_unknown debounce time, RuleTrack.next_same debounce time, fun other =>
      ⟨fun long => ?_, fun short => ?_⟩⟩⟩
  case detect =>
    intro d heads step frame seals
    have seals_iff : t.detectSeals = true ↔ seals := t.detectSeals_iff
    have seals_not : t.detectSeals = false ↔ ¬seals := by rw [← seals_iff, Bool.not_eq_true]
    refine ⟨fun sealing waits => ?_, fun turn bad => ?_, fun passing sound => ⟨fun withheld => ?_, fun given => ?_⟩,
      fun sealing turn sound given => ?_⟩
    · exact leads_of rfl w (detectEffect_waits taken ofFrame step frame (seals_iff.2 sealing) waits)
    · exact leads_of rfl w (detectEffect_poisoned taken ofFrame step frame (turn.imp_left seals_not.2) bad)
    · refine leads_of rfl w ((detectEffect_commits taken ofFrame step frame (.inl (seals_not.2 passing)) sound).trans ?_)
      simp only [Dev.detected, withheld, seals_not.2 passing]; rfl
    · refine leads_of rfl w ((detectEffect_commits taken ofFrame step frame (.inl (seals_not.2 passing)) sound).trans ?_)
      simp only [Dev.detected, given, seals_not.2 passing]; rfl
    · refine leads_of rfl w ((detectEffect_commits taken ofFrame step frame (.inr turn) sound).trans ?_)
      simp only [Dev.detected, given, seals_iff.2 sealing]; rfl
  case evaluate =>
    intro d step frame
    refine ⟨fun waits => leads_of rfl w (evaluateEffect_waits taken ofFrame step frame waits), fun turn => yields_of rfl w ?_⟩
    obtain ⟨free, queues, frames, done, sealed⟩ := evaluateEffect_commits taken ofFrame step frame turn
    rw [settle_sliceJobs, settle_queues, Dev.entry?_of_contexts (settle_contexts _), Dev.step?_of_contexts (settle_contexts _)]
    refine ⟨free, ?_, fun g entry => ?_, queues⟩
    · rw [done]; exact sealed
    · have at_ : t.entries[y.at_.pos]? = some g := by simpa [Dev.entry?, step] using entry
      simp [Dev.entry?, done, at_]
  case made =>
    exact (isort_perm pairBefore ps).mem_iff.1 ((mem_foldl_takePair _ mem).resolve_left List.not_mem_nil)
  case covered =>
    exact foldl_takePair_covers _ ((isort_perm pairBefore ps).mem_iff.2 mem)
  · rw [RuleTrack.next_other debounce time other, if_pos long]
    exact ⟨rfl, rfl⟩
  · rw [RuleTrack.next_other debounce time other, if_neg (Nat.not_le.2 short)]

end Sys2Proof.TrackerFamily
end

section
/-! SUPPORT. Counters of the Signal box: the queue of a counter, the release of its head, and what a signal and a wait come to (R421 to
R427). -/

namespace Sys2Proof.Machine

/-! ### Messages to other devices (R521) -/

/-- A message to a device changes its port and what was sent, nothing else. -/
theorem Dev.sendTo_eq (d : Dev) (e : Nat) (m : CouplingMessage) : ∃ x s, d.sendTo e m = { d with coup := x, sent := s } := by
  unfold Dev.sendTo Dev.coupSend; split
  · dsimp only; split <;> exact ⟨_, _, rfl⟩
  · exact ⟨_, _, rfl⟩

/-! ### Queues of counters -/

@[simp] theorem Dev.setCounterQueue_contexts (d : Dev) (k : Nat) (ws : List Waiter) : (d.setCounterQueue k ws).contexts = d.contexts := rfl

@[simp] theorem Dev.counterQueue_setCounterQueue_same (d : Dev) (k : Nat) (ws : List Waiter) :
    (d.setCounterQueue k ws).counterQueue k = ws := by
  unfold Dev.setCounterQueue Dev.counterQueue
  by_cases none_ : ws = []
  · simp [none_, Tbl.getD]
  · simp [none_]

theorem Dev.counterQueue_of_waiters {d e : Dev} (h : e.waiters = d.waiters) (k : Nat) : e.counterQueue k = d.counterQueue k := by
  rw [Dev.counterQueue, Dev.counterQueue, h]

/-- Looking for the end of a boost changes boosts alone. -/
theorem Dev.checkRemoteBoost_eq (d : Dev) (k : Nat) : ∃ b, d.checkRemoteBoost k = { d with boosted := b } := by
  unfold Dev.checkRemoteBoost; split <;> exact ⟨_, rfl⟩

/-! ### Releases (R424, R425) -/

/-- Nobody is at the head of a counter's queue whose need the count meets. -/
def Dev.headWaits (d : Dev) (k : Nat) : Prop :=
  ∀ w ws, d.counterQueue k = w :: ws → d.rd Reg.signalCounterState_count k < w.need

theorem Dev.headWaits_of_nil {d : Dev} {k : Nat} (h : d.counterQueue k = []) : d.headWaits k :=
  fun _ _ queue => nomatch h.symm.trans queue

theorem Dev.headWaits_of_cons {d : Dev} {k : Nat} {w : Waiter} {ws : List Waiter} (h : d.counterQueue k = w :: ws)
    (short : d.rd Reg.signalCounterState_count k < w.need) : d.headWaits k := by
  intro v vs queue
  cases h.symm.trans queue
  exact short

/-- Behind a head that waits nobody is released (R424). -/
theorem Dev.releaseHeads_of_headWaits {d : Dev} {k : Nat} (h : d.headWaits k) (n : Nat) : d.releaseHeads n k = d := by
  cases n with
  | zero => rfl
  | succ n =>
    unfold Dev.releaseHeads; split
    · rfl
    · next w ws queue => exact if_neg (Nat.not_le.2 (h w ws queue))

theorem Dev.decide_of_headWaits {d : Dev} {k : Nat} (h : d.headWaits k) : d.decide_ k = d := Dev.releaseHeads_of_headWaits h _

/-- The head of a counter's queue released: the count drops by its need, the others move up, and it proceeds. -/
def Dev.releaseHead (d : Dev) (k : Nat) (w : Waiter) (ws : List Waiter) : Dev :=
  (((d.wr Reg.signalCounterState_count k (d.rd Reg.signalCounterState_count k - w.need)).setCounterQueue k ws).checkRemoteBoost k).grantWho
    w.who

/-- A waiter that proceeds leaves fields and queues alone, and an entry that proceeds has its wait met. -/
theorem Dev.grantWho_spec (d : Dev) (w : Who) :
    (d.grantWho w).regs = d.regs ∧ (d.grantWho w).waiters = d.waiters ∧
      ∀ c n p e, w = .entry c n p → d.entry? c n p = some e →
        (d.grantWho w).entry? c n p = some { e with wait := e.wait.map fun a => { a with met := true } } := by
  cases w with
  | entry c n p =>
    refine ⟨(d.updEntry_work c n p _).2.2.2, ?_, fun c' n' p' e same entry => ?_⟩
    · obtain ⟨cs, change⟩ := d.updEntry_eq c n p fun e => { e with wait := e.wait.map fun a => { a with met := true } }
      rw [Dev.grantWho, change]
    · cases same
      exact Dev.entry?_updEntry_same entry _
  | remote e id =>
    obtain ⟨x, s, change⟩ := d.sendTo_eq e (.grant id)
    rw [Dev.grantWho, change]
    exact ⟨rfl, rfl, fun _ _ _ _ other => nomatch other⟩

theorem Dev.releaseHead_spec (d : Dev) (k : Nat) (w : Waiter) (ws : List Waiter) :
    (d.releaseHead k w ws).counterQueue k = ws ∧
      (d.releaseHead k w ws).rd Reg.signalCounterState_count k = d.rd Reg.signalCounterState_count k - w.need ∧
      ∀ c n p e, w.who = .entry c n p → d.entry? c n p = some e →
        (d.releaseHead k w ws).entry? c n p = some { e with wait := e.wait.map fun a => { a with met := true } } := by
  unfold Dev.releaseHead
  generalize taken : (d.wr Reg.signalCounterState_count k (d.rd Reg.signalCounterState_count k - w.need)).setCounterQueue k ws = g
  obtain ⟨b, boosts⟩ := g.checkRemoteBoost_eq k
  obtain ⟨regs, waiters, met⟩ := (g.checkRemoteBoost k).grantWho_spec w.who
  rw [boosts] at regs waiters met ⊢
  have queue : g.counterQueue k = ws := by rw [← taken, Dev.counterQueue_setCounterQueue_same]
  have count : g.rd Reg.signalCounterState_count k = d.rd Reg.signalCounterState_count k - w.need := by
    rw [← taken]; exact Dev.rd_wr_same d _ _ _
  have contexts : g.contexts = d.contexts := by rw [← taken]; rfl
  refine ⟨(Dev.counterQueue_of_waiters waiters k).trans queue, (Dev.rd_of_regs regs _ k).trans count, fun c n p e who entry => ?_⟩
  exact met c n p e who ((Dev.entry?_of_contexts (d := d) contexts c n p).trans entry)

/-- A head whose need is met is released, and the next one waits where what is left does not meet its need (R424). -/
theorem Dev.decide_of_met {d : Dev} {k : Nat} {w : Waiter} {ws : List Waiter} (queue : d.counterQueue k = w :: ws)
    (met : w.need ≤ d.rd Reg.signalCounterState_count k)
    (next : ∀ v, ws.head? = some v → d.rd Reg.signalCounterState_count k - w.need < v.need) : d.decide_ k = d.releaseHead k w ws := by
  obtain ⟨left, count, -⟩ := d.releaseHead_spec k w ws
  have waits : (d.releaseHead k w ws).headWaits k := by
    intro v vs queue'
    rw [count]
    exact next v (by rw [left.symm.trans queue']; rfl)
  rw [Dev.decide_, queue, List.length_cons, Dev.releaseHeads, queue]
  exact (if_pos met).trans (Dev.releaseHeads_of_headWaits waits _)

/-! ### Signals (R423, R427) -/

/-- A waiter as a signal finds it: where the window's owner gives the units, it boosts nobody any more (R418). -/
def Waiter.signalled (holder : Bool) (w : Waiter) : Waiter := if holder then { w with boosts := false } else w

@[simp] theorem Waiter.signalled_who (holder : Bool) (w : Waiter) : (w.signalled holder).who = w.who := by cases holder <;> rfl
@[simp] theorem Waiter.signalled_need (holder : Bool) (w : Waiter) : (w.signalled holder).need = w.need := by cases holder <;> rfl

/-- The device once the units of a signal that fits are in the count, before waiters take from it. -/
def Dev.addUnits (d : Dev) (k n : Nat) (holder : Bool) : Dev :=
  (if holder then
      { d.setCounterQueue k ((d.counterQueue k).map fun w => { w with boosts := false }) with
        boosted := d.boosted.filter fun b => counterKey b.1 b.2 != k }
    else d).wr Reg.signalCounterState_count k (d.rd Reg.signalCounterState_count k + n)

theorem Dev.addUnits_frame (d : Dev) (k n : Nat) (holder : Bool) :
    (d.addUnits k n holder).contexts = d.contexts ∧ (d.addUnits k n holder).mem = d.mem := by
  cases holder <;> exact ⟨rfl, rfl⟩

theorem Dev.counterQueue_addUnits (d : Dev) (k n : Nat) (holder : Bool) :
    (d.addUnits k n holder).counterQueue k = (d.counterQueue k).map (Waiter.signalled holder) := by
  cases holder with
  | false => exact (List.map_id _).symm
  | true => exact Dev.counterQueue_setCounterQueue_same d k _

theorem Dev.rd_addUnits (d : Dev) (k n : Nat) (holder : Bool) (r : Reg) (i : Nat) :
    (d.addUnits k n holder).rd r i =
      if Reg.signalCounterState_count = r ∧ k = i then d.rd Reg.signalCounterState_count k + n else d.rd r i := by
  cases holder <;> exact Dev.rd_wr _ _ _ _ _ _

theorem Dev.rd_addUnits_count (d : Dev) (k n : Nat) (holder : Bool) :
    (d.addUnits k n holder).rd Reg.signalCounterState_count k = d.rd Reg.signalCounterState_count k + n := by
  rw [Dev.rd_addUnits, if_pos ⟨rfl, rfl⟩]

/-- A signal that the counter carries adds its units and releases whom they serve (R423). -/
theorem Dev.applySignal_fits {d : Dev} {k n : Nat} (holder : Bool) (some_ : n ≠ 0)
    (fits : d.rd Reg.signalCounterState_count k + n ≤ 65535) : d.applySignal k n holder = (d.addUnits k n holder).decide_ k := by
  simp only [Dev.applySignal, if_neg some_, if_pos fits, Nat.min_eq_left fits]
  rfl

/-- A signal to a counter nobody waits on stays in its count. -/
theorem Dev.applySignal_unwaited {d : Dev} {k n : Nat} (holder : Bool) (queue : d.counterQueue k = [])
    (fits : d.rd Reg.signalCounterState_count k + n ≤ 65535) (some_ : n ≠ 0) : d.applySignal k n holder = d.addUnits k n holder := by
  rw [Dev.applySignal_fits holder some_ fits]
  exact Dev.decide_of_headWaits (Dev.headWaits_of_nil (by rw [Dev.counterQueue_addUnits, queue]; rfl))

theorem Dev.applySignal_unwaited_spec {d : Dev} {k n : Nat} (holder : Bool) (queue : d.counterQueue k = [])
    (fits : d.rd Reg.signalCounterState_count k + n ≤ 65535) :
    (∀ r i, (d.applySignal k n holder).rd r i =
        if Reg.signalCounterState_count = r ∧ k = i then d.rd Reg.signalCounterState_count k + n else d.rd r i) ∧
      (d.applySignal k n holder).counterQueue k = [] ∧ (d.applySignal k n holder).contexts = d.contexts ∧
      (d.applySignal k n holder).mem = d.mem := by
  by_cases none_ : n = 0
  · subst none_
    refine ⟨fun r i => ?_, queue, rfl, rfl⟩
    split
    · next same => rw [← same.1, ← same.2]; rfl
    · rfl
  · obtain ⟨contexts, mem⟩ := d.addUnits_frame k n holder
    rw [Dev.applySignal_unwaited holder queue fits none_]
    exact ⟨d.rd_addUnits k n holder, by rw [Dev.counterQueue_addUnits, queue]; rfl, contexts, mem⟩

section
variable {d : Dev} {k n : Nat} {w : Waiter} {ws : List Waiter} (holder : Bool) (queue : d.counterQueue k = w :: ws)
  (fits : d.rd Reg.signalCounterState_count k + n ≤ 65535)
include queue fits

theorem Dev.applySignal_short (short : d.rd Reg.signalCounterState_count k + n < w.need) (some_ : n ≠ 0) :
    d.applySignal k n holder = d.addUnits k n holder := by
  rw [Dev.applySignal_fits holder some_ fits]
  refine Dev.decide_of_headWaits (Dev.headWaits_of_cons (w := w.signalled holder) (ws := ws.map (Waiter.signalled holder)) ?_ ?_)
  · rw [Dev.counterQueue_addUnits, queue]; rfl
  · rwa [Dev.rd_addUnits_count, Waiter.signalled_need]

/-- Where the count does not reach the need of the head, it is kept for it and nobody is released (R424). -/
theorem Dev.applySignal_short_spec (short : d.rd Reg.signalCounterState_count k + n < w.need) :
    ((d.applySignal k n holder).counterQueue k).map Waiter.who = (w :: ws).map Waiter.who ∧
      (d.applySignal k n holder).rd Reg.signalCounterState_count k = d.rd Reg.signalCounterState_count k + n ∧
      (d.applySignal k n holder).contexts = d.contexts := by
  by_cases none_ : n = 0
  · subst none_
    exact ⟨congrArg _ queue, rfl, rfl⟩
  · rw [Dev.applySignal_short holder queue fits short none_, Dev.counterQueue_addUnits, queue, Dev.rd_addUnits_count]
    exact ⟨by simp, rfl, (d.addUnits_frame k n holder).1⟩

/-- Where it does, the head alone is released, as long as what is left does not meet the next need. -/
theorem Dev.applySignal_met (some_ : n ≠ 0) (met : w.need ≤ d.rd Reg.signalCounterState_count k + n)
    (next : ∀ v, ws.head? = some v → d.rd Reg.signalCounterState_count k + n - w.need < v.need) :
    d.applySignal k n holder = (d.addUnits k n holder).releaseHead k (w.signalled holder) (ws.map (Waiter.signalled holder)) := by
  rw [Dev.applySignal_fits holder some_ fits]
  refine Dev.decide_of_met ?_ ?_ fun v head => ?_
  · rw [Dev.counterQueue_addUnits, queue]; rfl
  · rwa [Dev.rd_addUnits_count, Waiter.signalled_need]
  · rw [List.head?_map] at head
    obtain ⟨u, first, rfl⟩ := Option.map_eq_some_iff.1 head
    rw [Dev.rd_addUnits_count, Waiter.signalled_need, Waiter.signalled_need]
    exact next u first

theorem Dev.applySignal_met_spec (some_ : n ≠ 0) (met : w.need ≤ d.rd Reg.signalCounterState_count k + n)
    (next : ∀ v, ws.head? = some v → d.rd Reg.signalCounterState_count k + n - w.need < v.need) :
    ((d.applySignal k n holder).counterQueue k).map Waiter.who = ws.map Waiter.who ∧
      (d.applySignal k n holder).rd Reg.signalCounterState_count k = d.rd Reg.signalCounterState_count k + n - w.need ∧
      ∀ c t p e, w.who = .entry c t p → d.entry? c t p = some e →
        ((d.applySignal k n holder).entry? c t p).map StepEntry.wait = some (e.wait.map fun a => { a with met := true }) := by
  rw [Dev.applySignal_met holder queue fits some_ met next]
  obtain ⟨left, count, proceeds⟩ := (d.addUnits k n holder).releaseHead_spec k (w.signalled holder) (ws.map (Waiter.signalled holder))
  rw [left, count, Dev.rd_addUnits_count, Waiter.signalled_need]
  refine ⟨by simp [Function.comp_def], rfl, fun c t p e who entry => ?_⟩
  rw [proceeds c t p e ((w.signalled_who holder).trans who)
    ((Dev.entry?_of_contexts (d.addUnits_frame k n holder).1 c t p).trans entry)]
  rfl

end

/-! ### Waits (R422, R424) -/

/-- An entry's wait at the tail of the queue of a counter of its own window, before the queue is looked at. -/
def Dev.joinQueue (d : Dev) (c t p n need : Nat) (latency : Bool) : Dev :=
  let e := d.updEntry c t p fun e => { e with wait := some { counter := n, need } }
  e.setCounterQueue (counterKey c n) (e.counterQueue (counterKey c n) ++
    [{ who := .entry c t p, need, boosts := latency && 224 ≤ n && ((e.ctx? c).any fun x => !x.latency) }])

/-- A counter number below 240 names a counter of the context's own window (R422). -/
theorem Dev.armWait_own {n : Nat} (own : n < 240) (d : Dev) (c t p need : Nat) (latency : Bool) :
    d.armWait c t p n need latency = (d.joinQueue c t p n need latency).decide_ (counterKey c n) := by
  simp only [Dev.armWait, Dev.resolve, if_pos own]
  rfl

theorem Dev.joinQueue_spec (d : Dev) (c t p n need : Nat) (latency : Bool) :
    (d.joinQueue c t p n need latency).regs = d.regs ∧
      (∃ w : Waiter, (d.joinQueue c t p n need latency).counterQueue (counterKey c n) = d.counterQueue (counterKey c n) ++ [w] ∧
        w.who = .entry c t p ∧ w.need = need) ∧
      ∀ e, d.entry? c t p = some e →
        (d.joinQueue c t p n need latency).entry? c t p = some { e with wait := some { counter := n, need } } := by
  obtain ⟨cs, change⟩ := d.updEntry_eq c t p fun e => { e with wait := some { counter := n, need } }
  have before := Dev.counterQueue_of_waiters (e := d.updEntry c t p fun e => { e with wait := some { counter := n, need } }) (d := d)
    (by rw [change]) (counterKey c n)
  refine ⟨(d.updEntry_work c t p _).2.2.2, ⟨_, (Dev.counterQueue_setCounterQueue_same _ _ _).trans (congrArg (· ++ _) before), rfl, rfl⟩,
    fun e entry => (Dev.entry?_of_contexts (Dev.setCounterQueue_contexts _ _ _) c t p).trans (Dev.entry?_updEntry_same entry _)⟩

section
variable {d : Dev} {c n need : Nat} (t p : Nat) (latency : Bool) (own : n < 240)
include own

/-- A wait with nobody before it that the count meets proceeds at once (R424). -/
theorem Dev.armWait_met {e : StepEntry} (entry : d.entry? c t p = some e) (queue : d.counterQueue (counterKey c n) = [])
    (met : need ≤ d.rd Reg.signalCounterState_count (counterKey c n)) :
    (d.armWait c t p n need latency).rd Reg.signalCounterState_count (counterKey c n) =
        d.rd Reg.signalCounterState_count (counterKey c n) - need ∧
      (d.armWait c t p n need latency).counterQueue (counterKey c n) = [] ∧
      ((d.armWait c t p n need latency).entry? c t p).map StepEntry.wait = some (some { counter := n, need, met := true }) := by
  obtain ⟨regs, ⟨w, joined, who, rfl⟩, waits⟩ := d.joinQueue_spec c t p n need latency
  rw [queue] at joined
  obtain ⟨left, count, proceeds⟩ := (d.joinQueue c t p n w.need latency).releaseHead_spec (counterKey c n) w []
  have same := Dev.rd_of_regs regs Reg.signalCounterState_count (counterKey c n)
  rw [d.armWait_own own, Dev.decide_of_met joined (Nat.le_trans met (Nat.le_of_eq same.symm)) (fun _ none_ => nomatch none_), count, left, same,
    proceeds c t p _ who (waits e entry)]
  exact ⟨rfl, rfl, rfl⟩

/-- A wait with a head before it that waits, or alone with too small a count, stays (R424). -/
theorem Dev.armWait_stays (head : d.headWaits (counterKey c n))
    (alone : d.counterQueue (counterKey c n) = [] → d.rd Reg.signalCounterState_count (counterKey c n) < need) :
    (∃ w : Waiter, (d.armWait c t p n need latency).counterQueue (counterKey c n) = d.counterQueue (counterKey c n) ++ [w] ∧
        w.who = .entry c t p ∧ w.need = need) ∧
      (d.armWait c t p n need latency).regs = d.regs := by
  obtain ⟨regs, ⟨w, joined, who, rfl⟩, -⟩ := d.joinQueue_spec c t p n need latency
  have same := Dev.rd_of_regs regs Reg.signalCounterState_count (counterKey c n)
  have waits : (d.joinQueue c t p n w.need latency).headWaits (counterKey c n) := by
    cases queue : d.counterQueue (counterKey c n) with
    | nil => exact Dev.headWaits_of_cons (joined.trans (by rw [queue]; rfl)) (Nat.lt_of_le_of_lt (Nat.le_of_eq same) (alone queue))
    | cons v vs => exact Dev.headWaits_of_cons (joined.trans (by rw [queue]; rfl)) (Nat.lt_of_le_of_lt (Nat.le_of_eq same) (head v vs queue))
  rw [d.armWait_own own, Dev.decide_of_headWaits waits]
  exact ⟨⟨w, joined, who, rfl⟩, regs⟩

end

/-! ### SIGNAL and WAIT -/

theorem signalEffect_idle {d : Dev} {k : Nat} (counter n : Nat) (h : d.issuing k = none) : signalEffect k counter n d = d := by
  simp only [signalEffect, h]

/-- A counter below 224 is the step's own, which no entry notes as given (R400). -/
theorem signalEffect_issues {d : Dev} {k c t p : Nat} {e : StepEntry} {counter : Nat} (n : Nat)
    (h : d.issuing k = some (c, t, p, e)) (own : counter < 224) :
    signalEffect k counter n d = (d.updEntry c t p id).signalFrom c ((d.updEntry c t p id).relocated c t counter) n := by
  have unnoted : ¬(224 ≤ counter ∧ counter < 240) := fun noted => Nat.not_le.2 own noted.1
  simp only [signalEffect, h, if_neg unnoted]
  rfl

theorem waitEffect_none {d : Dev} {k n : Nat} (counter : Nat) (h : d.running k = none ∨ n = 0) : waitEffect k counter n d = d := by
  unfold waitEffect; split
  · rfl
  · next running => exact if_pos (h.resolve_left fun none_ => nomatch none_.symm.trans running)

theorem waitEffect_running {d : Dev} {k n c t p : Nat} {e : StepEntry} (counter : Nat) (h : d.running k = some (c, t, p, e))
    (some_ : n ≠ 0) :
    waitEffect k counter n d = d.armWait c t p (d.relocated c t counter) n ((d.ctx? c).any Context.latency) := by
  simp only [waitEffect, h, if_neg some_]

end Sys2Proof.Machine
end

section
/-! SUPPORT. The commands of areas 0x10 and 0x11 (R403, R428, R435): each outcome of one, what a completion leaves alone, and the end of
quiescing. -/

namespace Sys2Proof.Machine

/-! ### Completions (R80, R84) -/

/-- `e` is `d` but for the queues and what was sent: all that a completion changes. -/
def Dev.Answered (d e : Dev) : Prop := ∃ qs s, e = { d with queues := qs, sent := s }

theorem Dev.Answered.refl (d : Dev) : d.Answered d := ⟨_, _, rfl⟩

theorem Dev.Answered.trans {a b c : Dev} (h : a.Answered b) (k : b.Answered c) : a.Answered c := by
  obtain ⟨qs, s, rfl⟩ := h
  obtain ⟨qs', s', rfl⟩ := k
  exact ⟨qs', s', rfl⟩

theorem Dev.Answered.foldl {α : Type} {f : Dev → α → Dev} (h : ∀ (d : Dev) (x : α), d.Answered (f d x)) (l : List α) :
    ∀ d : Dev, d.Answered (l.foldl f d) := by
  induction l with
  | nil => exact .refl
  | cons x l ih => exact fun d => (h d x).trans (ih _)

theorem Dev.setQueue_answered (d : Dev) (q : Nat) (x : Queue) : d.Answered (d.setQueue q x) := ⟨_, _, rfl⟩

theorem Dev.updFetched_answered (d : Dev) (q i : Nat) (g : Fetched → Fetched) : d.Answered (d.updFetched q i g) := ⟨_, _, rfl⟩

theorem Dev.updatePending_answered (d : Dev) (q : Nat) : d.Answered (d.updatePending q) := by
  unfold Dev.updatePending; dsimp only; split
  · exact d.setQueue_answered q _
  · split
    · exact d.setQueue_answered q _
    · exact .refl d

theorem Dev.flushRecords_answered (n q : Nat) : ∀ d : Dev, d.Answered (d.flushRecords n q) := by
  induction n with
  | zero => exact .refl
  | succ n ih =>
    intro d
    unfold Dev.flushRecords; split
    · split
      · exact Dev.Answered.trans ⟨_, _, rfl⟩ (ih _)
      · exact .refl d
    · exact .refl d

theorem Dev.flushQueue_answered (d : Dev) (q : Nat) : d.Answered (d.flushQueue q) := by
  unfold Dev.flushQueue; split
  · refine (d.flushRecords_answered (d.queue q).inflight.length q).trans (Dev.Answered.trans ?_ (Dev.updatePending_answered _ q))
    split
    · exact Dev.setQueue_answered _ q _
    · exact .refl _
  · exact .refl d

theorem Dev.complete_answered (d : Dev) (q i code area detail : Nat) : d.Answered (d.complete q i code area detail) :=
  (d.updFetched_answered q i _).trans (Dev.flushQueue_answered _ q)

/-! ### YARD_RUN (R403) -/

section
variable {d : Dev} {q i : Nat} {f : Fetched} (h : d.takeCommand q i 0x1001 = some f)
include h

theorem yardRunEffect_quiesced (stopped : d.rd Reg.yardState ≠ 0) : yardRunEffect q i d = d.complete q i 0x81 0x10 := by
  simp [yardRunEffect, h, stopped]

variable (runs : d.rd Reg.yardState = 0)
include runs

theorem yardRunEffect_free (free : d.ctx? f.context = none) : yardRunEffect q i d = d.complete q i 0x80 0x10 := by
  simp [yardRunEffect, h, runs, free]

variable {x : Context} (ctx : d.ctx? f.context = some x)
include ctx

theorem yardRunEffect_refused (cannot : x.manifest.maxStreams ≠ 0 ∨ 2 ^ 32 ≤ x.credit + le f.entry 8 4) :
    yardRunEffect q i d = d.complete q i 0x80 0x10 := by
  have refused : (x.manifest.maxStreams != 0 || decide (2 ^ 32 ≤ x.credit + le f.entry 8 4)) = true := by simpa using cannot
  simp only [yardRunEffect, h, runs, ctx, refused, if_true, bne_self_eq_false, Bool.false_eq_true, if_false]

theorem yardRunEffect_credits (streamless : x.manifest.maxStreams = 0) (room : x.credit + le f.entry 8 4 < 2 ^ 32) :
    yardRunEffect q i d = (d.updCtx f.context fun x => { x with credit := x.credit + le f.entry 8 4 }).complete q i 0 0x10
      (x.credit + le f.entry 8 4) := by
  have taken : (x.manifest.maxStreams != 0 || decide (2 ^ 32 ≤ x.credit + le f.entry 8 4)) = false := by
    simpa [streamless] using room
  simp only [yardRunEffect, h, runs, ctx, taken, bne_self_eq_false, Bool.false_eq_true, if_false]

end

/-! ### QUIESCE and END_QUIESCE (R435) -/

section
variable {d : Dev} {q i : Nat} {f : Fetched} (h : d.takeControl q i 0 = some f)
include h

theorem quiesceEffect_again (quiescing : d.rd Reg.yardState = 1) : quiesceEffect q i d = d.complete q i 0x81 0x10 := by
  simp [quiesceEffect, h, quiescing]

theorem quiesceEffect_begins (runs : d.rd Reg.yardState = 0) :
    quiesceEffect q i d =
      Dev.checkQuiesce { (d.wr Reg.yardState 0 1).startCommand q i with quiescing := d.quiescing ++ [(q, i)] } := by
  simp [quiesceEffect, h, runs]

end

/-- With no step in flight a quiescing device is quiescent, and the commands that waited for it complete. -/
theorem Dev.checkQuiesce_done {d : Dev} (none_ : d.stepsInFlight = 0) (quiescing : d.rd Reg.yardState = 1) :
    (Dev.wr { d with quiescing := [] } Reg.yardState 0 2).Answered d.checkQuiesce := by
  simp only [Dev.checkQuiesce, if_pos none_, if_pos quiescing]
  exact .foldl (fun d q => d.complete_answered _ _ _ _ _) _ _

theorem quiesceEffect_alone {d : Dev} {q i : Nat} {f : Fetched} (h : d.takeControl q i 0 = some f) (runs : d.rd Reg.yardState = 0)
    (none_ : d.contexts = []) :
    (quiesceEffect q i d).rd Reg.yardState = 2 ∧ (quiesceEffect q i d).quiescing = [] ∧ (quiesceEffect q i d).mem = d.mem := by
  rw [quiesceEffect_begins h runs]
  generalize begun : ({ (d.wr Reg.yardState 0 1).startCommand q i with quiescing := d.quiescing ++ [(q, i)] } : Dev) = e
  have still : e.stepsInFlight = 0 := by rw [← begun]; simp [Dev.stepsInFlight, Dev.startCommand, none_]
  have state : e.rd Reg.yardState = 1 := by rw [← begun]; exact Dev.rd_wr_same d Reg.yardState 0 1
  have mem : e.mem = d.mem := by rw [← begun]; rfl
  obtain ⟨qs, s, done⟩ := Dev.checkQuiesce_done still state
  rw [done]
  exact ⟨Dev.rd_wr_same _ Reg.yardState 0 2, rfl, mem⟩

theorem settle_quiescing (d : Dev) : (settle d).quiescing = d.quiescing := by
  rcases settle_eq d with h | h <;> rw [h]
  rfl

theorem endQuiesceEffect_runs {d : Dev} {q i : Nat} {f : Fetched} (h : d.takeControl q i 1 = some f) :
    endQuiesceEffect q i d = (d.wr Reg.yardState 0 0).complete q i 0 0x10 := by
  simp only [endQuiesceEffect, h]

/-! ### RESUME_HALTED (R435) -/

section
variable {d : Dev} {q i : Nat} {f : Fetched} (h : d.takeControl q i 2 = some f)
include h

theorem resumeHaltedEffect_free (free : d.ctx? f.context = none) : resumeHaltedEffect q i d = d.complete q i 0x80 0x10 := by
  simp only [resumeHaltedEffect, h, free]

variable {x : Context} (ctx : d.ctx? f.context = some x)
include ctx

theorem resumeHaltedEffect_refused (cannot : x.state ≠ .halted ∨ d.eligible x.manifest x.latency = []) :
    resumeHaltedEffect q i d = d.complete q i 0x80 0x10 := by
  have refused : (x.state != .halted || d.eligible x.manifest x.latency == []) = true := by simpa using cannot
  simp only [resumeHaltedEffect, h, ctx, refused, if_true]

theorem resumeHaltedEffect_resumes (halted : x.state = .halted) (some_ : d.eligible x.manifest x.latency ≠ []) :
    resumeHaltedEffect q i d =
      (d.updCtx f.context fun x => { x with state := if x.steps = [] then .idle else .active }).complete q i 0 0x10 := by
  simp [resumeHaltedEffect, h, ctx, halted, some_]

end

/-! ### SIGNAL_OP (R428) -/

theorem signalOpSignalEffect_signals {d : Dev} {q i : Nat} {f : Fetched} (h : d.takeSignalOp q i 0 = some f) :
    signalOpSignalEffect q i d = (d.applySignal (signalOpKey f) (le f.entry 12 2) false).complete q i 0 0x11
      (min 65535 (d.rd Reg.signalCounterState_count (signalOpKey f) + le f.entry 12 2)) := by
  simp only [signalOpSignalEffect, h]

section
variable {d : Dev} {q i : Nat} {f : Fetched} (h : d.takeSignalOp q i 1 = some f)
include h

theorem signalOpTakeEffect_takes (enough : le f.entry 12 2 ≤ d.rd Reg.signalCounterState_count (signalOpKey f)) :
    signalOpTakeEffect q i d =
      (d.wr Reg.signalCounterState_count (signalOpKey f) (d.rd Reg.signalCounterState_count (signalOpKey f) - le f.entry 12 2)).complete
        q i 0 0x11 (d.rd Reg.signalCounterState_count (signalOpKey f) - le f.entry 12 2) := by
  simp only [signalOpTakeEffect, h, if_pos enough]

theorem signalOpTakeEffect_misuse (few : d.rd Reg.signalCounterState_count (signalOpKey f) < le f.entry 12 2) :
    signalOpTakeEffect q i d =
      ((d.wr Reg.signalCounterState_misuse (signalOpKey f) 1).count Reg.signalCounters_misuses).complete q i 0x81 0x11
        (d.rd Reg.signalCounterState_count (signalOpKey f)) := by
  simp only [signalOpTakeEffect, h, if_neg (Nat.not_le.2 few)]
  rfl

end

theorem signalOpReadEffect_reads {d : Dev} {q i : Nat} {f : Fetched} (h : d.takeSignalOp q i 2 = some f) :
    signalOpReadEffect q i d = d.complete q i 0 0x11 (d.rd Reg.signalCounterState_count (signalOpKey f)) := by
  simp only [signalOpReadEffect, h]

end Sys2Proof.Machine
end

section
/-! SUPPORT. Messages of Coupling ports: taking one, remote signals and waits, grants, cancels and boosts (R414, R418, R422, R522). -/

namespace Sys2Proof.Machine

/-! ### Messages taken (R521) -/

@[simp] theorem Dev.ctx?_takeMessage (d : Dev) (p : Nat) (m : CouplingMessage) (c : Nat) : (d.takeMessage p m).ctx? c = d.ctx? c := rfl
@[simp] theorem Dev.peerOf_takeMessage (d : Dev) (p : Nat) (m : CouplingMessage) (r : Nat) : (d.takeMessage p m).peerOf r = d.peerOf r := rfl
@[simp] theorem Dev.mailbox_takeMessage (d : Dev) (p : Nat) (m : CouplingMessage) (i : Nat) : (d.takeMessage p m).mailbox i = d.mailbox i := rfl

@[simp] theorem Dev.coupPort_send (d : Dev) (x : Sent) (p : Nat) : (d.send x).coupPort p = d.coupPort p := rfl

@[simp] theorem Dev.coupPort_updCoup_same (d : Dev) (p : Nat) (f : CoupPort → CoupPort) : (d.updCoup p f).coupPort p = f (d.coupPort p) := by
  simp [Dev.coupPort, Dev.updCoup, Dev.setCoup]

theorem Dev.denied_takeMessage (d : Dev) (p : Nat) (m : CouplingMessage) : ((d.takeMessage p m).coupPort p).denied = (d.coupPort p).denied := by
  rw [Dev.takeMessage, Dev.coupPort_send, Dev.coupPort_updCoup_same]

/-! ### REMOTE_SIGNAL (R422, R522) -/

theorem remoteSignalEffect_other {d : Dev} {p : Nat} (h : ∀ c n k, d.nextMessage p .signal ≠ some (.signal c n k)) :
    remoteSignalEffect p d = d := by
  unfold remoteSignalEffect; split
  · next c n k next => exact absurd next (h c n k)
  · rfl

theorem Dev.signalHere_free (d : Dev) {c : Nat} (h : d.ctx? c = none) (e n k : Nat) :
    d.signalHere e c n k = d.count Reg.signalCounters_discarded := by
  simp [Dev.signalHere, h]

theorem Dev.signalHere_held (d : Dev) {c : Nat} (h : (d.ctx? c).isSome = true) (e n k : Nat) :
    d.signalHere e c n k = (d.hear (counterKey c n) e).applySignal (counterKey c n) k false := by
  rw [Dev.signalHere, if_neg (by simp [Option.isSome_iff_ne_none.1 h])]

section
variable {d : Dev} {p c n k : Nat} (h : d.nextMessage p .signal = some (.signal c n k))
include h

theorem remoteSignalEffect_signal : remoteSignalEffect p d = (d.takeMessage p (.signal c n k)).signalHere (d.peerOf p) c n k := by
  simp only [remoteSignalEffect, h]

theorem remoteSignalEffect_free (free : d.ctx? c = none) :
    remoteSignalEffect p d = (d.takeMessage p (.signal c n k)).count Reg.signalCounters_discarded :=
  (remoteSignalEffect_signal h).trans ((d.takeMessage p (.signal c n k)).signalHere_free free _ _ _)

theorem remoteSignalEffect_held (held : (d.ctx? c).isSome = true) :
    remoteSignalEffect p d =
      ((d.takeMessage p (.signal c n k)).hear (counterKey c n) (d.peerOf p)).applySignal (counterKey c n) k false :=
  (remoteSignalEffect_signal h).trans ((d.takeMessage p (.signal c n k)).signalHere_held held _ _ _)

end

/-! ### REMOTE_WAIT (R422, R522) -/

theorem remoteWaitEffect_other {d : Dev} {p : Nat} (h : ∀ i c n k, d.nextMessage p .signal ≠ some (.wait i c n k)) :
    remoteWaitEffect p d = d := by
  unfold remoteWaitEffect; split
  · next i c n k next => exact absurd next (h i c n k)
  · rfl

section
variable {d : Dev} {p i c n k : Nat} (h : d.nextMessage p .signal = some (.wait i c n k))
include h

theorem remoteWaitEffect_free (free : d.ctx? c = none) :
    remoteWaitEffect p d =
      ((d.takeMessage p (.wait i c n k)).count Reg.signalCounters_holderGone).sendTo (d.peerOf p) (.release i codeHolderGone) := by
  simp [remoteWaitEffect, h, free]

/-- The wait of another device joins the tail of its counter's queue, which is then looked at. -/
theorem remoteWaitEffect_held (held : (d.ctx? c).isSome = true) :
    remoteWaitEffect p d =
      let e := (d.takeMessage p (.wait i c n k)).hear (counterKey c n) (d.peerOf p)
      (e.setCounterQueue (counterKey c n) (e.counterQueue (counterKey c n) ++
        [{ who := .remote (d.peerOf p) i, need := k, boosts := false }])).decide_ (counterKey c n) := by
  simp [remoteWaitEffect, h, Option.isSome_iff_ne_none.1 held]

end

/-! ### GRANT (R414, R522) -/

theorem grantEffect_other {d : Dev} {p : Nat} (grant : ∀ i, d.nextMessage p .signal ≠ some (.grant i))
    (release : ∀ i c, d.nextMessage p .signal ≠ some (.release i c)) : grantEffect p d = d := by
  unfold grantEffect; split
  · next i next => exact absurd next (grant i)
  · next i c next => exact absurd next (release i c)
  · rfl

/-- The wait on device `e` that a grant or a release names. -/
def Dev.remoteWait? (d : Dev) (e i : Nat) : Option RemoteWait := d.remoteWaits.find? fun w => w.id == i && w.device == e

theorem Dev.remoteWait?_none {d : Dev} {e i : Nat} (h : ∀ w ∈ d.remoteWaits, w.id = i → w.device ≠ e) : d.remoteWait? e i = none :=
  List.find?_eq_none.2 fun w mem => by simpa using h w mem

section
variable {d : Dev} {p i : Nat} (h : d.nextMessage p .signal = some (.grant i))
include h

theorem grantEffect_grant_unknown (none_ : (d.takeMessage p (.grant i)).remoteWait? (d.peerOf p) i = none) :
    grantEffect p d = d.takeMessage p (.grant i) := by
  rw [Dev.remoteWait?] at none_
  simp only [grantEffect, h, Dev.peerOf_takeMessage, none_]

theorem grantEffect_grant_meets {w : RemoteWait} (waits : (d.takeMessage p (.grant i)).remoteWait? (d.peerOf p) i = some w) :
    grantEffect p d = Dev.updEntry { d.takeMessage p (.grant i) with
        remoteWaits := (d.takeMessage p (.grant i)).remoteWaits.filter fun v => v.id != i } w.context w.step w.pos fun e =>
      { e with wait := e.wait.map fun a => { a with met := true } } := by
  rw [Dev.remoteWait?] at waits
  simp only [grantEffect, h, Dev.peerOf_takeMessage, waits]

end

section
variable {d : Dev} {p i code : Nat} (h : d.nextMessage p .signal = some (.release i code))
include h

theorem grantEffect_release_unknown (none_ : (d.takeMessage p (.release i code)).remoteWait? (d.peerOf p) i = none) :
    grantEffect p d = d.takeMessage p (.release i code) := by
  rw [Dev.remoteWait?] at none_
  simp only [grantEffect, h, Dev.peerOf_takeMessage, none_]

variable {w : RemoteWait} (waits : (d.takeMessage p (.release i code)).remoteWait? (d.peerOf p) i = some w)
include waits

/-- A release of a wait that its entry still holds abandons the entry's step; any other only forgets the wait. -/
theorem grantEffect_release :
    grantEffect p d =
      let e := d.takeMessage p (.release i code)
      let r : Dev := { e with remoteWaits := e.remoteWaits.filter fun v => v.id != i }
      if !e.waitsRemotely w then r
      else (if code = codeHolderGone then r.count Reg.signalCounters_holderGone else r).abandonSteps
        [{ context := w.context, step := w.step, code, area := 0x11 }] := by
  rw [Dev.remoteWait?] at waits
  simp only [grantEffect, h, Dev.peerOf_takeMessage, waits]

end

/-! ### CANCEL (R414) -/

theorem cancelEffect_other {d : Dev} {p : Nat} (h : ∀ i, d.nextMessage p .control ≠ some (.cancel i)) : cancelEffect p d = d := by
  unfold cancelEffect; split
  · next i next => exact absurd next (h i)
  · rfl

/-- A waiter is the wait of device `e` numbered `i`. -/
def Who.isRemote (e i : Nat) : Who → Bool
  | .entry _ _ _ => false
  | .remote f j => f == e && j == i

theorem cancelEffect_cancel {d : Dev} {p i : Nat} (h : d.nextMessage p .control = some (.cancel i)) :
    cancelEffect p d = (d.takeMessage p (.cancel i)).withdraw (Who.isRemote (d.peerOf p) i) := by
  simp only [cancelEffect, h]
  rfl

/-! ### BOOST_REQUEST (R418) -/

theorem boostRequestEffect_other {d : Dev} {p : Nat} (h : ∀ c n, d.nextMessage p .control ≠ some (.boost c n)) :
    boostRequestEffect p d = d := by
  unfold boostRequestEffect; split
  · next c n next => exact absurd next (h c n)
  · rfl

/-- A waiter is a wait of device `e`. -/
def Who.ofDevice (e : Nat) : Who → Bool
  | .entry _ _ _ => false
  | .remote f _ => f == e

theorem Who.ofDevice_iff {e : Nat} {w : Who} : w.ofDevice e = true ↔ ∃ i, w = .remote e i := by
  cases w <;> simp [Who.ofDevice]

/-- A boost that device `e` asks for is due: it waits on the counter, whose best-effort holder is not boosted for it yet. -/
def Dev.boostDue (d : Dev) (e c n : Nat) : Bool :=
  ((d.counterQueue (counterKey c n)).any fun w => w.who.ofDevice e) && ((d.ctx? c).any fun x => !x.latency) && !d.boosted.contains (c, n)

theorem Dev.boostDue_iff {d : Dev} {e c n : Nat} : d.boostDue e c n = true ↔
    (∃ w ∈ d.counterQueue (counterKey c n), ∃ i, w.who = .remote e i) ∧ (∃ x, d.ctx? c = some x ∧ x.latency = false) ∧
      (c, n) ∉ d.boosted := by
  simp [Dev.boostDue, Who.ofDevice_iff, and_assoc, Option.any_eq_true]

theorem boostRequestEffect_boost {d : Dev} {p c n : Nat} (h : d.nextMessage p .control = some (.boost c n)) :
    boostRequestEffect p d =
      let e := d.takeMessage p (.boost c n)
      if e.boostDue (e.peerOf p) c n then { e with boosted := (c, n) :: e.boosted } else e := by
  simp only [boostRequestEffect, h]
  rfl

end Sys2Proof.Machine
end

section
/-! SUPPORT. Transfers between devices and the relay mailboxes (R4, R73, R520, R523, R524). -/

namespace Sys2Proof.Machine

/-! ### TRANSFER (R523, R524) -/

theorem transferEffect_idle {d : Dev} {k : Nat} (b : List Byte) (o : TransferOutcome) (h : d.issuing k = none) :
    transferEffect k b o d = d := by
  simp only [transferEffect, h]

section
variable {d : Dev} {k c n p : Nat} {e : StepEntry} {b : List Byte} (h : d.issuing k = some (c, n, p, e))
include h

theorem transferEffect_noRoute (o : TransferOutcome) (down : d.linkTo (transferRecord b).device = false) :
    transferEffect k b o d = d.abandonSteps [{ context := c, step := n, code := 0x81, area := 0x18 }] := by
  simp [transferEffect, h, down]

variable (up : d.linkTo (transferRecord b).device = true)
  (sound : d.poisoned (transferRecord b).source (transferRecord b).length = false)
include up sound

theorem transferEffect_completed :
    transferEffect k b .completed d =
      (Dev.sendUnits { d with free := d.free + 1 } (transferRecord b) ((transferRecord b).length / 256)).transferSignal c
        (transferRecord b) := by
  simp [transferEffect, h, up, sound]

theorem transferEffect_denied :
    transferEffect k b .denied d =
      (Dev.sendUnits { d with free := d.free + 1 } (transferRecord b) ((transferRecord b).length / 256)).abandonSteps
        [{ context := c, step := n, code := 0x80, area := 0x18 }] := by
  simp [transferEffect, h, up, sound]

theorem transferEffect_linkLost (m : Nat) :
    transferEffect k b (.linkLost m) d =
      (Dev.sendUnits { d with free := d.free + 1 } (transferRecord b) (min m ((transferRecord b).length / 256))).abandonSteps
        [{ context := c, step := n, code := codeLinkDown, area := 0x18 }] := by
  simp [transferEffect, h, up, sound]

end

/-! ### TRANSFER_UNIT_RECEIVED (R4, R523, R524) -/

theorem transferUnitReceivedEffect_none {d : Dev} {p : Nat} (h : d.nextMessage p .data = none) : transferUnitReceivedEffect p d = d := by
  simp only [transferUnitReceivedEffect, h]

/-- A unit taken and counted. -/
def Dev.unitTaken (d : Dev) (p start length address : Nat) (data : List Byte) : Dev :=
  (d.takeMessage p (.unit start length address data)).count Reg.couplingPortCounters_received p

section
variable (d : Dev) (p start length address : Nat) (data : List Byte)

theorem Dev.unitTaken_mem : (d.unitTaken p start length address data).mem = d.mem := (Dev.count_noted _ _ _ _).work.2.2.2

theorem Dev.rd_unitTaken {o : Obj} (other : Reg.couplingPortCounters_received.obj ≠ o) (off i : Nat) :
    (d.unitTaken p start length address data).rd ⟨o, off⟩ i = d.rd ⟨o, off⟩ i :=
  (Dev.rd_count_ne _ _ _ _ other off i).trans rfl

theorem Dev.peerOf_unitTaken (r : Nat) : (d.unitTaken p start length address data).peerOf r = d.peerOf r := by
  simp only [Dev.peerOf, Dev.ownNumber]
  rw [Dev.rd_unitTaken _ _ _ _ _ _ (by decide)]

theorem Dev.windowHolds_unitTaken (e a n : Nat) :
    (d.unitTaken p start length address data).windowHolds e a n = d.windowHolds e a n := by
  simp only [Dev.windowHolds]
  rw [Dev.rd_unitTaken _ _ _ _ _ _ (by decide), Dev.rd_unitTaken _ _ _ _ _ _ (by decide)]

end

section
variable {d : Dev} {p start length address : Nat} {data : List Byte}
  (h : d.nextMessage p .data = some (.unit start length address data))
include h

/-- A unit is stored where its window holds its transfer and the transfer holds it; any other denies the transfer. -/
theorem transferUnitReceivedEffect_unit :
    transferUnitReceivedEffect p d =
      let e := d.unitTaken p start length address data
      if d.windowHolds (d.peerOf p) start length && unitInside start length address data.length then
        (e.updCoup p fun x => { x with denied := false }).storeMapped address data
      else
        let f := e.updCoup p fun x => { x with denied := true }
        if address = start then f.count Reg.couplingPortCounters_denied p else f := by
  rw [← d.windowHolds_unitTaken p start length address data, ← d.peerOf_unitTaken p start length address data]
  simp only [transferUnitReceivedEffect, h]
  rfl

theorem transferUnitReceivedEffect_stored (window : d.windowHolds (d.peerOf p) start length = true)
    (inside : unitInside start length address data.length = true) :
    transferUnitReceivedEffect p d =
      ((d.unitTaken p start length address data).updCoup p fun x => { x with denied := false }).storeMapped address data := by
  rw [transferUnitReceivedEffect_unit h, if_pos (by rw [window, inside]; rfl)]

theorem transferUnitReceivedEffect_denied
    (out : (d.windowHolds (d.peerOf p) start length && unitInside start length address data.length) = false) :
    (transferUnitReceivedEffect p d).mem = d.mem ∧ ((transferUnitReceivedEffect p d).coupPort p).denied = true := by
  rw [transferUnitReceivedEffect_unit h, if_neg (by rw [out]; decide)]
  generalize denied : (d.unitTaken p start length address data).updCoup p (fun x => { x with denied := true }) = f
  have mem : f.mem = d.mem := by rw [← denied]; exact d.unitTaken_mem p start length address data
  have port : (f.coupPort p).denied = true := by rw [← denied, Dev.coupPort_updCoup_same]
  dsimp only
  split
  · obtain ⟨_, _, _, _, counted⟩ := f.count_noted Reg.couplingPortCounters_denied p 1
    rw [counted]
    exact ⟨mem, port⟩
  · exact ⟨mem, port⟩

end

theorem unitInside_iff {start length address n : Nat} :
    unitInside start length address n = true ↔ start ≤ address ∧ address + n ≤ start + length := by
  simp [unitInside]

section
variable {d : Dev} {p c n k : Nat} (h : d.nextMessage p .data = some (.transferSignal c n k))
include h

theorem transferUnitReceivedEffect_signal_denied (denied : (d.coupPort p).denied = true) :
    transferUnitReceivedEffect p d = d.takeMessage p (.transferSignal c n k) := by
  simp only [transferUnitReceivedEffect, h, Dev.denied_takeMessage, denied, if_true]

theorem transferUnitReceivedEffect_signal (passed : (d.coupPort p).denied = false) :
    transferUnitReceivedEffect p d = (d.takeMessage p (.transferSignal c n k)).signalHere (d.peerOf p) c n k := by
  simp [transferUnitReceivedEffect, h, Dev.denied_takeMessage, passed]

end

/-! ### RELAY_DOORBELL (R73, R520) -/

theorem relayDoorbellEffect_closed {d : Dev} {m : Nat} (closed : d.barOpen = false) :
    relayDoorbellEffect m d = d.send .unsupportedRequest := by
  simp [relayDoorbellEffect, closed]

section
variable {d : Dev} {m : Nat} (reached : d.barOpen = true)
include reached

theorem relayDoorbellEffect_absent (absent : d.mailboxExists m = false) : relayDoorbellEffect m d = d := by
  simp [relayDoorbellEffect, reached, absent]

variable (there : d.mailboxExists m = true)
include there

theorem relayDoorbellEffect_busy (busy : (d.mailbox m).busy = true) :
    relayDoorbellEffect m d = d.setMailbox m { d.mailbox m with overrun := true } := by
  simp [relayDoorbellEffect, Dev.ringDoorbell, reached, there, busy]

/-- The device once an idle mailbox has taken the frame in its request region. -/
def Dev.frameTaken (d : Dev) (m : Nat) : Dev := d.setMailbox m { d.mailbox m with busy := true, queued := some (d.mailbox m).frame }

variable (idle : (d.mailbox m).busy = false)
include idle

theorem relayDoorbellEffect_early (early : d.ep.firmwareReady = false) : relayDoorbellEffect m d = d.frameTaken m := by
  simp [relayDoorbellEffect, Dev.ringDoorbell, Dev.frameTaken, reached, there, idle, early]

variable (firmware : d.ep.firmwareReady = true)
include firmware

theorem relayDoorbellEffect_ready : relayDoorbellEffect m d = (d.frameTaken m).forwardRelay m := by
  simp [relayDoorbellEffect, Dev.ringDoorbell, Dev.frameTaken, reached, there, idle, firmware]

theorem relayDoorbellEffect_up (up : d.linkTo m = true) :
    relayDoorbellEffect m d = (d.frameTaken m).sendTo m (.relayRequest (d.mailbox m).frame) := by
  rw [relayDoorbellEffect_ready reached there idle firmware, Dev.forwardRelay, Dev.frameTaken, Dev.mailbox_setMailbox_same]
  exact if_pos up

theorem relayDoorbellEffect_down (down : d.linkTo m = false) : relayDoorbellEffect m d = (d.frameTaken m).relayLinkDown m := by
  rw [relayDoorbellEffect_ready reached there idle firmware, Dev.forwardRelay, Dev.frameTaken, Dev.mailbox_setMailbox_same]
  exact if_neg (ne_true_of_eq_false down)

end

/-! ### Relayed requests and replies (R520) -/

theorem relayReplyReceivedEffect_other {d : Dev} {p : Nat} (h : ∀ b, d.nextMessage p .control ≠ some (.relayReply b)) :
    relayReplyReceivedEffect p d = d := by
  unfold relayReplyReceivedEffect; split
  · next b next => exact absurd next (h b)
  · rfl

section
variable {d : Dev} {p : Nat} {b : List Byte} (h : d.nextMessage p .control = some (.relayReply b))
include h

theorem relayReplyReceivedEffect_unasked (unasked : d.peerOf p = 0 ∨ (d.mailbox (d.peerOf p)).busy = false) :
    relayReplyReceivedEffect p d = d.takeMessage p (.relayReply b) := by
  simp only [relayReplyReceivedEffect, h, Dev.mailbox_takeMessage]
  exact if_pos (by simpa using unasked)

theorem relayReplyReceivedEffect_fills (relay : d.peerOf p ≠ 0) (busy : (d.mailbox (d.peerOf p)).busy = true) :
    relayReplyReceivedEffect p d =
      let e := (d.takeMessage p (.relayReply b)).completeMailbox (d.peerOf p) b
      e.setMailbox (d.peerOf p) { e.mailbox (d.peerOf p) with mirror := mirrorOf (le b 4 4) } := by
  simp [relayReplyReceivedEffect, h, relay, busy]

end

@[simp] theorem Dev.mailbox_completeMailbox_same (d : Dev) (m : Nat) (reply : List Byte) :
    (d.completeMailbox m reply).mailbox m = { d.mailbox m with reply, queued := none, busy := false, doneTag := le reply 2 2 } :=
  d.mailbox_setMailbox_same m _

@[simp] theorem settle_mailbox (d : Dev) (m : Nat) : (settle d).mailbox m = d.mailbox m := by
  rcases settle_eq d with h | h <;> rw [h]
  rfl

@[simp] theorem settle_mailboxPending (d : Dev) : (settle d).ep.mailboxPending = d.ep.mailboxPending := by
  rcases settle_eq d with h | h <;> rw [h]
  rfl

@[simp] theorem settle_coupPort (d : Dev) (p : Nat) : (settle d).coupPort p = d.coupPort p := by
  rcases settle_eq d with h | h <;> rw [h]
  rfl

theorem relayRequestReceivedEffect_other {d : Dev} {p : Nat} (h : ∀ r, d.nextMessage p .control ≠ some (.relayRequest r)) :
    relayRequestReceivedEffect p d = d := by
  unfold relayRequestReceivedEffect; split
  · next r next => exact absurd next (h r)
  · rfl

section
variable {d : Dev} {p : Nat} {r : Request} (h : d.nextMessage p .control = some (.relayRequest r))
include h

theorem relayRequestReceivedEffect_waits (unserved : d.dictReady = false) : relayRequestReceivedEffect p d = d := by
  simp [relayRequestReceivedEffect, h, unserved]

theorem relayRequestReceivedEffect_performs (served : d.dictReady = true) :
    relayRequestReceivedEffect p d = (d.takeMessage p (.relayRequest r)).byRelay (d.peerOf p) r := by
  simp [relayRequestReceivedEffect, h, served]

end

end Sys2Proof.Machine
end

section
/-! The statements on the Yard, the Signal box and messages between devices (R396 to R437, R520 to R524), settled. -/

namespace Sys2Proof.SignalBoxFamily
open Sys2Proof.Machine Sys2Proof.Safety Sys2Proof.PressFamily

/-- A step in flight numbered 7, whose entry waits for one unit of counter 0 and has not been armed. -/
def waitingStep : Step :=
  { number := 7, instance_ := 0, reduced := false, frames := [],
    entries := [{ (default : StepEntry) with e := { (default : ListEntry) with waitCount := 1 } }] }

/-- A context with that step, a unit of credit and no command lists, whose next number is 7 again. -/
def repeatingContext : Context := { moverContext with steps := [waitingStep], dispatched := 7, credit := 1, placement := [0] }

/-- The device is out of reset and runs that context, whose depth is 2. -/
def repeatedNumber : State where
  pending := []
  dev := Dev.wr { pwrgood := true, perstLow := false, contexts := [(1, repeatingContext)] } Reg.yardContextConfig_depth 1 2

theorem repeatedNumber_ready : ready (.stepDispatch 1) repeatedNumber := by decide +kernel

theorem repeatedNumber_may : repeatedNumber.dev.mayDispatch 1 = true := by decide +kernel

theorem repeatedNumber_due : repeatedNumber.dev.stepDue 1 repeatingContext = true := by decide +kernel

/-- The step that was in flight is not among those in flight afterwards: its entry has been armed. -/
theorem repeatedNumber_armed : ∃ y, (settle (stepDispatchEffect 1 repeatedNumber.dev)).ctx? 1 = some y ∧ waitingStep ∉ y.steps :=
  ⟨_, rfl, by decide +kernel⟩

/-- Refutes O47: the statement speaks of every state, also of one in which a step in flight bears the number that its context gives next. The
new step then shares that number, so placing it arms the waits of the older one too, which is not in flight as it was: the clause does not ask
that the number be new. -/
theorem not_yardFrames : ¬ Obligations.YardFrames := by
  intro h
  obtain ⟨-, -, dispatches, -, -, -⟩ := h
  obtain ⟨-, inContext⟩ := dispatches repeatedNumber 1 repeatedNumber_ready
  obtain ⟨-, -, begins⟩ := inContext repeatingContext rfl
  obtain ⟨t, step, -, y, ctx, -, -, -, -, kept, -⟩ := begins repeatedNumber_may repeatedNumber_due rfl rfl rfl rfl
  cases (act_runs repeatedNumber_ready.1 repeatedNumber_ready.2).symm.trans step
  obtain ⟨z, ctx', armed⟩ := repeatedNumber_armed
  have same : y = z := Option.some.inj (ctx.symm.trans ctx')
  exact armed (same ▸ kept waitingStep (List.mem_singleton.2 rfl))

/-- Settles O50: with nobody in the queue no head is released, so the units stay in the count. -/
theorem signalsAdd : Obligations.SignalsAdd := by
  refine ⟨fun d k n h queue fits => ?_, fun d k h g queue fits => ?_, fun s k counter n w => ⟨fun idle => ?_, fun c t p e issuing own => ?_⟩⟩
  · obtain ⟨rd, -, contexts, mem⟩ := Dev.applySignal_unwaited_spec h queue fits
    exact ⟨(rd _ k).trans (if_pos ⟨rfl, rfl⟩), fun r i other => (rd r i).trans (if_neg fun same => other ⟨same.1.symm, same.2.symm⟩),
      contexts, mem⟩
  · obtain ⟨first, queue', -, -⟩ := Dev.applySignal_unwaited_spec (n := 1) h queue (by omega)
    have one := (first Reg.signalCounterState_count k).trans (if_pos ⟨rfl, rfl⟩)
    obtain ⟨second, -, -, -⟩ := Dev.applySignal_unwaited_spec (n := 1) g queue' (by omega)
    rw [second, if_pos ⟨rfl, rfl⟩, one]
  · exact leads_of rfl w (signalEffect_idle counter n idle)
  · exact leads_of rfl w (signalEffect_issues n issuing own)

/-- Settles O51: only the head of a queue is looked at, and what it leaves is looked at again for the next one. -/
theorem waitsAreServedInOrder : Obligations.WaitsAreServedInOrder := by
  refine ⟨fun d c t p n need e l own entry queue met => Dev.armWait_met t p l own entry queue met,
    fun d c t p n need l own head alone => Dev.armWait_stays t p l own head alone,
    fun d k n w ws h queue fits => ⟨fun short => Dev.applySignal_short_spec h queue fits short, fun pos met next =>
      Dev.applySignal_met_spec h queue fits (Nat.pos_iff_ne_zero.1 pos) met next⟩,
    fun s k counter n w => ⟨fun none_ => ?_, fun c t p e running some_ => ?_⟩⟩
  · exact leads_of rfl w (waitEffect_none counter none_)
  · exact leads_of rfl w (waitEffect_running counter running some_)

/-- Settles O49: one equation of the effect for each answer of the commands; with no context no step is in flight, so quiescing ends as it
begins. -/
theorem yardCommands : Obligations.YardCommands := by
  refine ⟨fun s q i f w h => ?run, fun s q i f w h => ?quiesce, fun s q i f w h => ?_, fun s q i f w h => ?resume, fun s q i f => ?signalOp⟩
  case run =>
    refine ⟨fun stopped => ?_, fun runs free => ?_, fun x runs ctx => ⟨fun cannot => ?_, fun streamless room => ?_⟩⟩
    · exact leads_of rfl w (yardRunEffect_quiesced h stopped)
    · exact leads_of rfl w (yardRunEffect_free h runs free)
    · exact leads_of rfl w (yardRunEffect_refused h runs ctx cannot)
    · exact leads_of rfl w (yardRunEffect_credits h runs ctx streamless room)
  case quiesce =>
    refine ⟨fun quiescing => ?_, fun runs => ?_, fun runs none_ _ => yields_of rfl w ?_⟩
    · exact leads_of rfl w (quiesceEffect_again h quiescing)
    · exact leads_of rfl w (quiesceEffect_begins h runs)
    · rw [settle_rd, settle_quiescing, settle_mem]
      exact quiesceEffect_alone h runs none_
  · exact leads_of rfl w (endQuiesceEffect_runs h)
  case resume =>
    refine ⟨fun free => ?_, fun x ctx => ⟨fun cannot => ?_, fun halted some_ => ?_⟩⟩
    · exact leads_of rfl w (resumeHaltedEffect_free h free)
    · exact leads_of rfl w (resumeHaltedEffect_refused h ctx cannot)
    · exact leads_of rfl w (resumeHaltedEffect_resumes h ctx halted some_)
  case signalOp =>
    refine ⟨fun w h => ?_, fun w h => ⟨fun enough => ?_, fun few => ?_⟩, fun w h => ?_⟩
    · exact leads_of rfl w (signalOpSignalEffect_signals h)
    · exact leads_of rfl w (signalOpTakeEffect_takes h enough)
    · exact leads_of rfl w (signalOpTakeEffect_misuse h few)
    · exact leads_of rfl w (signalOpReadEffect_reads h)

/-- Settles O59: each command looks at the first message of one class and leaves every other to its own command; what it does then is one
equation of the effect for each case. -/
theorem couplingMessages : Obligations.CouplingMessages := by
  refine ⟨fun s p w => ?remoteSignal, fun s p w => ?remoteWait, fun s p w => ?grant, fun s p w => ?cancel, fun s p w => ?boost,
    fun s k b o w => ?transfer, fun s p w => ?unit, fun s m w => ?doorbell, fun s p w => ?reply, fun s p w => ?request⟩
  case remoteSignal =>
    refine ⟨fun other => ?_, fun c n k h => ⟨fun free => ?_, fun held => ?_⟩⟩
    · exact leads_of rfl w (remoteSignalEffect_other other)
    · exact leads_of rfl w (remoteSignalEffect_free h free)
    · exact leads_of rfl w (remoteSignalEffect_held h held)
  case remoteWait =>
    refine ⟨fun other => ?_, fun i c n k h => ⟨fun free => ?_, fun held => ?_⟩⟩
    · exact leads_of rfl w (remoteWaitEffect_other other)
    · exact leads_of rfl w (remoteWaitEffect_free h free)
    · exact leads_of rfl w (remoteWaitEffect_held h held)
  case grant =>
    refine ⟨fun grant release => ?_, fun i h => ⟨fun unknown => ?_, fun v waits => ?_⟩, fun i code h => ⟨fun unknown => ?_, fun v waits =>
      ⟨fun dead => ?_, fun live => ?_⟩⟩⟩
    · exact leads_of rfl w (grantEffect_other grant release)
    · exact leads_of rfl w (grantEffect_grant_unknown h (Dev.remoteWait?_none unknown))
    · exact leads_of rfl w (grantEffect_grant_meets h waits)
    · exact leads_of rfl w (grantEffect_release_unknown h (Dev.remoteWait?_none unknown))
    · exact leads_of rfl w ((grantEffect_release h waits).trans (if_pos (by rw [dead]; rfl)))
    · exact leads_of rfl w ((grantEffect_release h waits).trans (if_neg (by rw [live]; decide)))
  case cancel =>
    refine ⟨fun other => ?_, fun i h => ?_⟩
    · exact leads_of rfl w (cancelEffect_other other)
    · exact leads_of rfl w (cancelEffect_cancel h)
  case boost =>
    refine ⟨fun other => leads_of rfl w (boostRequestEffect_other other), fun c n h => ?_⟩
    intro d due
    have due_iff : d.boostDue (d.peerOf p) c n = true ↔ due := Dev.boostDue_iff
    refine ⟨fun no => ?_, fun yes => ?_⟩
    · exact leads_of rfl w ((boostRequestEffect_boost h).trans (if_neg (mt due_iff.1 no)))
    · exact leads_of rfl w ((boostRequestEffect_boost h).trans (if_pos (due_iff.2 yes)))
  case transfer =>
    refine ⟨fun idle => leads_of rfl w (transferEffect_idle b o idle), fun c n i e h => ⟨fun down => ?_, fun up sound => ⟨fun how => ?_,
      fun how => ?_, fun m how => ?_⟩⟩⟩
    · exact leads_of rfl w (transferEffect_noRoute h o down)
    · subst how
      exact leads_of rfl w (transferEffect_completed h up sound)
    · subst how
      exact leads_of rfl w (transferEffect_denied h up sound)
    · subst how
      exact leads_of rfl w (transferEffect_linkLost h up sound m)
  case unit =>
    refine ⟨fun none_ => leads_of rfl w (transferUnitReceivedEffect_none none_), fun start length address data h => ⟨fun window low high => ?_,
      fun out => yields_of rfl w ?_⟩, fun c n k h => ⟨fun denied => ?_, fun passed => ?_⟩⟩
    · exact leads_of rfl w (transferUnitReceivedEffect_stored h window (unitInside_iff.2 ⟨low, high⟩))
    · rw [settle_mem, settle_coupPort]
      refine transferUnitReceivedEffect_denied h (Bool.and_eq_false_iff.2 (out.imp_right fun beyond => ?_))
      rw [← Bool.not_eq_true, unitInside_iff]
      omega
    · exact leads_of rfl w (transferUnitReceivedEffect_signal_denied h denied)
    · exact leads_of rfl w (transferUnitReceivedEffect_signal h passed)
  case doorbell =>
    refine ⟨fun closed => ?_, fun reached absent => ?_, fun reached there busy => ?_, fun reached there idle => ⟨fun early => ?_,
      fun firmware up => ?_, fun firmware down => ?_⟩⟩
    · exact leads_of rfl w (relayDoorbellEffect_closed closed)
    · exact leads_of rfl w (relayDoorbellEffect_absent reached absent)
    · exact leads_of rfl w (relayDoorbellEffect_busy reached there busy)
    · exact leads_of rfl w (relayDoorbellEffect_early reached there idle early)
    · exact leads_of rfl w (relayDoorbellEffect_up reached there idle firmware up)
    · exact leads_of rfl w (relayDoorbellEffect_down reached there idle firmware down)
  case reply =>
    refine ⟨fun other => leads_of rfl w (relayReplyReceivedEffect_other other), fun b h => ⟨fun relay busy => yields_of rfl w ?_,
      fun unasked => ?_⟩⟩
    · rw [relayReplyReceivedEffect_fills h relay busy, settle_mailbox, settle_mailboxPending, settle_mem, Dev.mailbox_setMailbox_same,
        Dev.mailbox_completeMailbox_same]
      exact ⟨rfl, rfl, rfl, rfl, rfl, rfl⟩
    · exact leads_of rfl w (relayReplyReceivedEffect_unasked h unasked)
  case request =>
    refine ⟨fun other => leads_of rfl w (relayRequestReceivedEffect_other other), fun r h => ⟨fun unserved => ?_, fun served => ?_⟩⟩
    · exact leads_of rfl w (relayRequestReceivedEffect_waits h unserved)
    · exact leads_of rfl w (relayRequestReceivedEffect_performs h served)

end Sys2Proof.SignalBoxFamily
end

section
/-! SUPPORT. The whole machine: what a command can answer, and which commands have no effect while the device is held. -/

namespace Sys2Proof.Machine
open Sys2Proof.Safety

/-- No meaning ends in a fault, only an ill-formed command is refused, and the queue stays as it is. -/
theorem act_answers (c : Instr) (f : Dev → Dev) (s : State) :
    (∀ r, act c f s ≠ .fault r) ∧ (∀ r, act c f s = .refused r ↔ c.wf = false ∧ r = .illFormed) ∧
      ∀ t, act c f s = .next t → t.pending = s.pending := by
  rcases act_cases c f s with ⟨w, e⟩ | ⟨w, _, e⟩ | ⟨w, _, e⟩
  · simp [e, w, eq_comm]
  · simp [e, w, eq_comm]
  · simp [e, w, eq_comm]

/-- A well-formed command answers a next state. -/
theorem exec_next {c : Instr} (w : c.wf = true) (s : State) : ∃ t, exec c s = .next t := by
  obtain ⟨f, e⟩ := exec_is_act c
  rcases act_cases c f s with ⟨w', _⟩ | ⟨_, _, e'⟩ | ⟨_, _, e'⟩
  · simp [w] at w'
  · exact ⟨_, (e s).trans e'⟩
  · exact ⟨_, (e s).trans e'⟩

/-- A well-formed command for a block that does not run leaves the state as it is. -/
theorem exec_held {c : Instr} {s : State} (w : c.wf = true) (r : s.dev.runs c = false) : exec c s = .next s := by
  obtain ⟨f, e⟩ := exec_is_act c
  rw [e, act_held w r]

/-- Without PWRGOOD only the commands of the rails run (R569). -/
theorem Dev.runs_noPower {d : Dev} (h : d.pwrgood = false) (c : Instr) : d.runs c = atPower c := by simp [Dev.runs, h]

/-- Under PERST_N or a thermal trip only the always-on island runs (R509, R569). -/
theorem Dev.runs_inReset {d : Dev} {c : Instr} (power : d.pwrgood = true) (h : d.perstLow = true ∨ d.pw.tripped = true)
    (off : alwaysOn c = false) : d.runs c = false := by
  have held : (d.perstLow || d.pw.tripped) = true := by simpa using h
  simp [Dev.runs, power, held, off]

end Sys2Proof.Machine
end

section
/-! The statements on the machine as a whole, settled. -/

namespace Sys2Proof.WholeMachine
open Sys2Proof.Machine Sys2Proof.Safety

/-- Settles O1: the two cases of the queue, as `step` distinguishes them. -/
theorem stepRunsFront : Obligations.StepRunsFront := ⟨fun _ _ _ => rfl, fun _ => rfl⟩

/-- Settles O2: every command has the shape of `act`, and a step runs the front command or lets the clock tick. -/
theorem stepsContinue : Obligations.StepsContinue := by
  refine ⟨fun c s => ?_, fun s waiting => ?_⟩
  · obtain ⟨f, e⟩ := exec_is_act c
    rw [e]; exact act_answers c f s
  · obtain ⟨d, pending⟩ := s
    cases pending with
    | nil => exact ⟨_, stepRunsFront.2 d, waiting⟩
    | cons c rest =>
      obtain ⟨front, others⟩ := List.forall_mem_cons.1 waiting
      obtain ⟨t, e⟩ := exec_next front { dev := d, pending := rest }
      obtain ⟨f, x⟩ := exec_is_act c
      refine ⟨t, (stepRunsFront.1 c rest d).trans e, ?_⟩
      have queue : t.pending = rest := (act_answers c f _).2.2 t ((x _).symm.trans e)
      rw [wellFormedQueue, queue]
      exact others

/-- Settles O4: at power-on every queue is empty and nothing is pending, so the wire stands at its level, low. -/
theorem resetIsGood : Obligations.ResetIsGood := by
  refine ⟨?wire, ⟨.nil, ?memory⟩, rfl, rfl, rfl⟩
  case wire => decide
  case memory => simp [State.reset]

/-- Settles O5: a command that acts on a block that is held has no effect, and `runs` says which blocks are held. -/
theorem heldInReset : Obligations.HeldInReset := by
  refine ⟨fun c s off w other => exec_held w ?_, fun c s held power w other => exec_held w (Dev.runs_inReset power held other)⟩
  rw [Dev.runs_noPower off, other]

end Sys2Proof.WholeMachine
end

section
/-! SUPPORT. Causes raised and ended, the rail and the margin, sensors and the trip (R503 to R509). -/

namespace Sys2Proof.Machine

/-! ### Fields that causes leave alone (R53, R54) -/

theorem Dev.rd_wr_off_ne (d : Dev) (r p : Reg) (i v j : Nat) (h : r.obj ≠ p.obj ∨ r.off ≠ p.off) : (d.wr r i v).rd p j = d.rd p j := by
  rw [Dev.rd_wr, if_neg]
  rintro ⟨rfl, -⟩
  exact h.elim (· rfl) (· rfl)

theorem Dev.rd_attend (d : Dev) (c : Cause) (r : Reg) (i : Nat) (n : r.obj.ofAttention = false) : (d.attend c).rd r i = d.rd r i :=
  d.rd_attend_ne c n r.off i

theorem Dev.rd_beginLasting (d : Dev) (c : Cause) (r : Reg) (i : Nat) (n : r.obj.ofAttention = false) :
    (d.beginLasting c).rd r i = d.rd r i := (d.beginLasting_alerted c).2 r.obj r.off i n

@[simp] theorem Dev.rd_endLasting (d : Dev) (p : Lasting → Bool) (r : Reg) (i : Nat) : (d.endLasting p).rd r i = d.rd r i := Dev.rd_of_regs rfl r i
@[simp] theorem Dev.updPw_mem (d : Dev) (f : Power → Power) : (d.updPw f).mem = d.mem := rfl
@[simp] theorem Dev.updPw_pw (d : Dev) (f : Power → Power) : (d.updPw f).pw = f d.pw := rfl
@[simp] theorem Dev.rd_updPw (d : Dev) (f : Power → Power) (r : Reg) (i : Nat) : (d.updPw f).rd r i = d.rd r i := Dev.rd_of_regs rfl r i

/-! ### What causes and counts leave alone of the rest -/

/-- `e` is `d` but for fields of objects, free values drawn, the attention log, lasting causes, the ledger and what was sent: all that the
control of power and heat changes beside its own record. -/
def Dev.Reported (d e : Dev) : Prop :=
  ∃ f r a w l g n, e = { d with free := f, regs := r, attention := a, logWrapped := w, lasting := l, ledger := g, sent := n }

theorem Dev.Reported.refl (d : Dev) : d.Reported d := ⟨_, _, _, _, _, _, _, rfl⟩

theorem Dev.Reported.trans {a b c : Dev} (h : a.Reported b) (k : b.Reported c) : a.Reported c := by
  obtain ⟨f, r, x, w, l, g, n, rfl⟩ := h
  obtain ⟨f', r', x', w', l', g', n', rfl⟩ := k
  exact ⟨f', r', x', w', l', g', n', rfl⟩

theorem Dev.Noted.reported {d e : Dev} (h : d.Noted e) : d.Reported e := by
  obtain ⟨f, r, a, w, rfl⟩ := h
  exact ⟨f, r, a, w, _, _, _, rfl⟩

theorem Dev.Logged.reported {d e : Dev} (h : d.Logged e) : d.Reported e := by
  obtain ⟨⟨f, r, l, rfl⟩, -⟩ := h
  exact ⟨f, r, _, _, _, l, _, rfl⟩

theorem Dev.Alerted.reported {d e : Dev} (h : d.Alerted e) : d.Reported e := by
  obtain ⟨⟨l, f, r, a, w, rfl⟩, -⟩ := h
  exact ⟨f, r, a, w, l, _, _, rfl⟩

theorem Dev.wr_reported (d : Dev) (r : Reg) (i v : Nat) : d.Reported (d.wr r i v) := (d.wr_noted r i v).reported
theorem Dev.count_reported (d : Dev) (r : Reg) (i n : Nat) : d.Reported (d.count r i n) := (d.count_noted r i n).reported
theorem Dev.attend_reported (d : Dev) (c : Cause) : d.Reported (d.attend c) := (d.attend_noted c).reported
theorem Dev.beginLasting_reported (d : Dev) (c : Cause) : d.Reported (d.beginLasting c) := (d.beginLasting_alerted c).reported
theorem Dev.endLasting_reported (d : Dev) (p : Lasting → Bool) : d.Reported (d.endLasting p) := ⟨_, _, _, _, _, _, _, rfl⟩
theorem Dev.send_reported (d : Dev) (x : Sent) : d.Reported (d.send x) := ⟨_, _, _, _, _, _, _, rfl⟩

theorem settle_eq_ep (d : Dev) : ∃ x n, settle d = { d with ep := { d.ep with intaWire := x }, sent := n } := by
  rcases settle_eq d with h | h <;> rw [h]
  · exact ⟨_, _, rfl⟩
  · exact ⟨_, _, rfl⟩

@[simp] theorem settle_pw (d : Dev) : (settle d).pw = d.pw := by
  obtain ⟨x, n, h⟩ := settle_eq_ep d; rw [h]

@[simp] theorem settle_attentionBit (d : Dev) (b : Nat) : (settle d).attentionBit b = d.attentionBit b := by
  rw [Dev.attentionBit, settle_attention, Dev.attentionBit]

/-- What was sent before the wire settled stays sent. -/
theorem mem_sent_settle {d : Dev} {x : Sent} (h : x ∈ d.sent) : x ∈ (settle d).sent := by
  rcases settle_eq d with e | e <;> rw [e]
  · exact h
  · exact List.mem_cons_of_mem _ h

theorem Dev.Reported.frame {d e : Dev} (h : d.Reported e) : e.pw = d.pw ∧ e.mem = d.mem ∧ e.now = d.now ∧ e.contexts = d.contexts := by
  obtain ⟨f, r, a, w, l, g, n, rfl⟩ := h
  exact ⟨rfl, rfl, rfl, rfl⟩

/-- A lasting cause that is not there sets its bit as it begins. -/
theorem Dev.attentionBit_beginLasting {d : Dev} {c : Cause} {b : Nat} (hb : 8 ≤ b) (hb' : b ≤ 15) (hc : 8 ≤ c.bit)
    (h : d.attentionBit b = true) : (d.beginLasting c).attentionBit b = true := by
  have one (d : Dev) {c : Cause} (hc : 8 ≤ c.bit) (h : d.attentionBit b = true) : (d.record c).attentionBit b = true := by
    rw [d.attentionBit_record hc hb hb', h, Bool.true_or]
  rcases d.beginLasting_cases c with ⟨-, e⟩ | e <;> rw [e]
  · exact h
  · rcases Dev.attend_cases { d with lasting := c.lasting :: d.lasting } c with k | k <;> rw [k]
    · exact one _ hc h
    · exact one _ (show 8 ≤ Bit.log by decide) (one _ hc h)

/-! ### The rail (R489, R503) -/

@[simp] theorem pointVt_obj (p : Nat) : (pointVt p).obj = .powerAvsState := by
  rcases p with _ | _ | _ | _ | _ <;> rfl

theorem pointVt_off_lt (p : Nat) : (pointVt p).off < 64 := by
  rcases p with _ | _ | _ | _ | _
  case succ.succ.succ.succ => show 48 < 64; decide
  all_goals decide

/-- The voltage of a point stands beside the margin and the counts of its object. -/
theorem Dev.rd_wr_pointVt_ne (d : Dev) (p v : Nat) {off : Nat} (h : 64 ≤ off) (i : Nat) :
    (d.wr (pointVt p) 0 v).rd ⟨.powerAvsState, off⟩ i = d.rd ⟨.powerAvsState, off⟩ i :=
  d.rd_wr_off_ne _ _ _ _ _ (.inr (by have := pointVt_off_lt p; dsimp only; omega))

theorem Dev.rd_pointVt_wr_ne (d : Dev) (p v : Nat) {off : Nat} (h : 64 ≤ off) (i : Nat) :
    (d.wr ⟨.powerAvsState, off⟩ i v).rd (pointVt p) 0 = d.rd (pointVt p) 0 :=
  d.rd_wr_off_ne _ _ _ _ _ (.inr (by have := pointVt_off_lt p; dsimp only; omega))

theorem Dev.rd_setRail (d : Dev) (mv : Nat) (ok : Bool) (r : Reg) (i : Nat) (n : r.obj.ofAttention = false) :
    (d.setRail mv ok).rd r i = d.rd r i := by
  cases ok with
  | true => rfl
  | false => exact Dev.rd_beginLasting _ _ r i n

/-- The rail after a write that AVSBus takes or does not take. -/
def Power.railWritten (p : Power) (mv : Nat) (ok : Bool) : Power := { p with rail := if ok then mv else p.rail, avsFailed := !ok }

theorem Dev.setRail_reported (d : Dev) (mv : Nat) (ok : Bool) : Dev.Reported { d with pw := d.pw.railWritten mv ok } (d.setRail mv ok) := by
  cases ok with
  | true => exact (Dev.endLasting_reported (d.updPw fun p => p.railWritten mv true) _).trans (Dev.send_reported _ _)
  | false => exact Dev.beginLasting_reported _ _

theorem Dev.attentionBit_setRail {d : Dev} (mv : Nat) (ok : Bool) (h : d.attentionBit Bit.power = true) :
    (d.setRail mv ok).attentionBit Bit.power = true := by
  cases ok with
  | true => exact h
  | false => exact Dev.attentionBit_beginLasting (show 8 ≤ Bit.power by decide) (by decide) (show 8 ≤ avsCause.bit by decide) h

/-! ### AVS_TRIM and the margin (R503 to R505) -/

theorem Dev.rd_recordVoltages (d : Dev) (r : Reg) (i : Nat) (n : r.obj.ofLedger = false) : d.recordVoltages.rd r i = d.rd r i :=
  (d.appendLedger_logged _ _ _ _ _).rd r i n

theorem Dev.recordVoltages_reported (d : Dev) : d.Reported d.recordVoltages := (d.appendLedger_logged _ _ _ _ _).reported

theorem Dev.monitorAlarm_spec (d : Dev) (ok : Bool) :
    let w := d.monitorAlarm ok
    w.rd (pointVt d.point) = pointVnom d.point ∧ w.rd Reg.powerAvsState_margin = min 40 (d.rd Reg.powerAvsState_margin + 10) ∧
    w.pw.rail = (if ok then pointVnom d.point else d.pw.rail) ∧ w.attentionBit Bit.power = true := by
  have above : 64 ≤ Reg.powerAvsState_margin.off := by decide
  refine ⟨?voltage, ?margin, ?rail, Dev.attentionBit_attend _ (show 8 ≤ Bit.power by decide) (show Bit.power ≤ 15 by decide)⟩
  case voltage =>
    have beside : Reg.powerAvsState_alarms.obj ≠ (pointVt d.point).obj ∨ Reg.powerAvsState_alarms.off ≠ (pointVt d.point).off := by
      have := pointVt_off_lt d.point
      exact .inr (by dsimp only; omega)
    simp only [Dev.monitorAlarm]
    rw [Dev.rd_attend _ _ _ _ (by rw [pointVt_obj]; rfl), Dev.rd_recordVoltages _ _ _ (by rw [pointVt_obj]; rfl), Dev.rd_updPw,
      Dev.rd_count_off_ne _ _ _ _ _ _ beside, Dev.rd_pointVt_wr_ne _ _ _ above, Dev.rd_setRail _ _ _ _ _ (by rw [pointVt_obj]; rfl),
      Dev.rd_wr_same]
  case margin =>
    simp only [Dev.monitorAlarm]
    rw [Dev.rd_attend _ _ _ _ rfl, Dev.rd_recordVoltages _ _ _ rfl, Dev.rd_updPw, Dev.rd_count_off_ne _ _ _ _ _ _ (.inr (by decide)),
      Dev.rd_wr_same, Dev.rd_setRail _ _ _ _ _ rfl, Dev.rd_wr_pointVt_ne _ _ _ above]
  case rail =>
    simp only [Dev.monitorAlarm]
    rw [(Dev.attend_reported _ _).frame.1, (Dev.recordVoltages_reported _).frame.1, Dev.updPw, (Dev.count_reported _ _ _ _).frame.1,
      (Dev.wr_reported _ _ _ _).frame.1, (Dev.setRail_reported _ _ _).frame.1]
    rfl

/-- The count of readings with slack moves on (R503). -/
def Dev.slackNoted (d : Dev) (least : Int) : Dev :=
  d.updPw fun w => { w with slackOk := run w.slackOk (decide ((d.rd Reg.powerAvsState_margin : Int) + 15 ≤ least)) }

@[simp] theorem Dev.rd_slackNoted (d : Dev) (least : Int) (r : Reg) (i : Nat) : (d.slackNoted least).rd r i = d.rd r i := Dev.rd_updPw _ _ r i
@[simp] theorem Dev.point_slackNoted (d : Dev) (least : Int) : (d.slackNoted least).point = d.point := Dev.rd_slackNoted d least _ _
theorem Dev.rail_slackNoted (d : Dev) (least : Int) : (d.slackNoted least).pw.rail = d.pw.rail := rfl

theorem Dev.slackOk_slackNoted (d : Dev) (least : Int) : (d.slackNoted least).pw.slackOk =
    if (d.rd Reg.powerAvsState_margin : Int) + 15 ≤ least then d.pw.slackOk + 1 else 0 := by simp [Dev.slackNoted, Dev.updPw, run]

/-- The voltage of the point in force trimmed, where AVSBus takes it (R503). -/
def Dev.trimTo (d : Dev) (mv : Nat) (ok : Bool) : Dev :=
  if ok then (d.wr (pointVt d.point) 0 mv).setRail mv true else d.setRail mv false

theorem Dev.trimTo_spec (d : Dev) (mv : Nat) (ok : Bool) :
    (d.trimTo mv ok).rd (pointVt d.point) = (if ok then mv else d.rd (pointVt d.point)) ∧
    (d.trimTo mv ok).rd Reg.powerAvsState_margin = d.rd Reg.powerAvsState_margin ∧
    (d.trimTo mv ok).pw = d.pw.railWritten mv ok := by
  have voltage : (pointVt d.point).obj.ofAttention = false := by rw [pointVt_obj]; rfl
  cases ok with
  | true =>
    rw [Dev.trimTo, if_pos rfl, if_pos rfl, Dev.rd_setRail _ _ _ _ _ voltage, Dev.rd_setRail _ _ _ _ _ rfl, Dev.rd_wr_same,
      Dev.rd_wr_pointVt_ne _ _ _ (by decide), (Dev.setRail_reported _ _ _).frame.1]
    exact ⟨rfl, rfl, rfl⟩
  | false =>
    rw [Dev.trimTo, if_neg Bool.false_ne_true, if_neg Bool.false_ne_true, Dev.rd_setRail _ _ _ _ _ voltage, Dev.rd_setRail _ _ _ _ _ rfl,
      (Dev.setRail_reported _ _ _).frame.1]
    exact ⟨rfl, rfl, rfl⟩

/-- A fold by `min` gives the least of its start and the list. -/
theorem foldl_min_eq_of_le {least : Int} (l : List Int) : ∀ a : Int, least = a ∨ least ∈ l → least ≤ a → (∀ x ∈ l, least ≤ x) →
    l.foldl min a = least := by
  induction l with
  | nil => rintro a (rfl | mem) - -; exacts [rfl, nomatch mem]
  | cons b l ih =>
    intro a mem le below
    obtain ⟨head, rest⟩ := List.forall_mem_cons.1 below
    refine ih (min a b) ?_ (le_min le head) rest
    rcases mem with rfl | mem
    · exact .inl (min_eq_left head).symm
    · rcases List.mem_cons.1 mem with rfl | mem
      · exact .inl (min_eq_right le).symm
      · exact .inr mem

theorem foldl_min_headD {l : List Int} {least : Int} (mem : least ∈ l) (h : ∀ x ∈ l, least ≤ x) : l.foldl min (l.headD 0) = least := by
  cases l with
  | nil => cases mem
  | cons a l => exact foldl_min_eq_of_le _ a (.inr mem) (h a List.mem_cons_self) h

section
variable {d : Dev} {slacks : List Int} {least : Int} (ok : Bool) (mem : least ∈ slacks) (h : ∀ x ∈ slacks, least ≤ x)
include mem h

theorem avsTrimEffect_alarm (low : least < 0) : avsTrimEffect slacks ok d = (d.slackNoted least).monitorAlarm ok := by
  simp only [avsTrimEffect, foldl_min_headD mem h]
  rw [if_pos low]; rfl

theorem avsTrimEffect_rises (pos : 0 ≤ least) (low : least < d.rd Reg.powerAvsState_margin) : avsTrimEffect slacks ok d =
    if d.rd (pointVt d.point) + 5 ≤ pointVnom d.point then (d.slackNoted least).trimTo (d.rd (pointVt d.point) + 5) ok
    else d.slackNoted least := by
  simp only [avsTrimEffect, foldl_min_headD mem h]
  rw [if_neg (Int.not_lt.2 pos), if_pos low]; rfl

theorem avsTrimEffect_falls (high : d.rd Reg.powerAvsState_margin ≤ least) : avsTrimEffect slacks ok d =
    if 100 ≤ (d.slackNoted least).pw.slackOk ∧ pointVnom d.point - 100 + 5 ≤ d.rd (pointVt d.point) then
      (d.slackNoted least).trimTo (d.rd (pointVt d.point) - 5) ok
    else d.slackNoted least := by
  simp only [avsTrimEffect, foldl_min_headD mem h]
  rw [if_neg (by omega), if_neg (Int.not_lt.2 high)]; rfl

end

theorem marginNarrowingEffect_early {d : Dev} (h : d.rd Reg.powerAvsState_hours < d.pw.quietFrom + 8760) : marginNarrowingEffect d = d :=
  if_pos h

theorem marginNarrowingEffect_spec {d : Dev} (h : d.pw.quietFrom + 8760 ≤ d.rd Reg.powerAvsState_hours) :
    let w := marginNarrowingEffect d
    w.rd Reg.powerAvsState_margin = max 10 (d.rd Reg.powerAvsState_margin - 5) ∧ w.pw.quietFrom = d.pw.quietFrom + 8760 ∧ w.mem = d.mem := by
  simp only [marginNarrowingEffect]
  rw [if_neg (Nat.not_lt.2 h)]
  obtain ⟨pw, mem, -⟩ := (Dev.recordVoltages_reported ((d.wr Reg.powerAvsState_margin 0 (max 10 (d.rd Reg.powerAvsState_margin - 5))).updPw
    fun w => { w with quietFrom := w.quietFrom + 8760 })).frame
  exact ⟨(Dev.rd_recordVoltages _ _ _ rfl).trans (Dev.rd_wr_same _ _ _ _), by rw [pw]; rfl, mem⟩

end Sys2Proof.Machine
end

section
/-! SUPPORT. Heat: a sensor's reading, the hottest one, what is judged from them, and the trip (R506 to R509). -/

namespace Sys2Proof.Machine

/-! ### One sensor's reading (R506) -/

/-- The tick since which a sensor has read `v`. -/
def Dev.readingSince (d : Dev) (k : Nat) (v : Int) : Nat :=
  match d.pw.sensors.find? k with
  | some o => if o.1 = v then o.2 else d.now
  | none => d.now

def Dev.readingNoted (d : Dev) (k : Nat) (v : Int) : Dev := d.updPw fun p => { p with sensors := p.sensors.put k (v, d.readingSince k v) }

/-- A reading that no working sensor gives: beyond the range, or the same for a second while the sensor is powered. -/
def Dev.readingBad (d : Dev) (k : Nat) (v : Int) : Prop :=
  v < -640 ∨ 2400 < v ∨ (d.readingSince k v + secondTicks ≤ d.now ∧ (d.readingNoted k v).sensorPowered k)

def Dev.sensorFails (d : Dev) (k : Nat) : Dev :=
  let e := d.wr Reg.thermalSensor k 0x8000
  if e.pw.failed.contains k then e
  else ((e.updPw fun p => { p with failed := k :: p.failed }).count Reg.thermalCounters_failed).beginLasting (sensorCause k)

def Dev.sensorWorks (d : Dev) (k : Nat) (v : Int) : Dev :=
  Dev.endLasting ((d.wr Reg.thermalSensor k (ofSigned 16 v)).updPw fun p => { p with failed := p.failed.filter (· != k) })
    fun l => l == (sensorCause k).lasting

theorem Dev.rd_readingNoted (d : Dev) (k : Nat) (v : Int) (r : Reg) (i : Nat) : (d.readingNoted k v).rd r i = d.rd r i := Dev.rd_updPw _ _ r i
theorem Dev.readingNoted_mem (d : Dev) (k : Nat) (v : Int) : (d.readingNoted k v).mem = d.mem := rfl

theorem Dev.takeSensor_bad {d : Dev} {k : Nat} {v : Int} (h : d.readingBad k v) : d.takeSensor k v = (d.readingNoted k v).sensorFails k :=
  if_pos h

theorem Dev.takeSensor_good {d : Dev} {k : Nat} {v : Int} (h : ¬d.readingBad k v) : d.takeSensor k v = (d.readingNoted k v).sensorWorks k v :=
  if_neg h

/-- A new reading within the range is not a bad one. -/
theorem Dev.readingBad_new {d : Dev} {k : Nat} {v : Int} (low : -640 ≤ v) (high : v ≤ 2400)
    (new : ∀ o, d.pw.sensors.find? k = some o → o.1 ≠ v) : ¬d.readingBad k v := by
  have since : d.readingSince k v = d.now := by
    unfold Dev.readingSince; split
    · next o h => exact if_neg (new o h)
    · rfl
  have second : 0 < secondTicks := by decide
  rintro (bad | bad | ⟨bad, -⟩) <;> omega

theorem Dev.sensorWorks_spec (d : Dev) (k : Nat) (v : Int) :
    (d.sensorWorks k v).rd Reg.thermalSensor k = ofSigned 16 v ∧ k ∉ (d.sensorWorks k v).pw.failed ∧ (d.sensorWorks k v).mem = d.mem ∧
      ∀ j, j ≠ k → (d.sensorWorks k v).rd Reg.thermalSensor j = d.rd Reg.thermalSensor j := by
  refine ⟨Dev.rd_wr_same _ _ _ _, ?_, rfl, fun j h => ?_⟩
  · exact fun mem => absurd (List.mem_filter.1 mem).2 (by simp)
  · exact (Dev.rd_wr d _ _ _ _ _).trans (if_neg fun e => h e.2.symm)

theorem Dev.sensorFails_spec (d : Dev) (k : Nat) :
    (d.sensorFails k).rd Reg.thermalSensor k = 0x8000 ∧ k ∈ (d.sensorFails k).pw.failed ∧
      (k ∉ d.pw.failed → (sensorCause k).lasting ∈ (d.sensorFails k).lasting) ∧ (d.sensorFails k).mem = d.mem ∧
      ∀ j, j ≠ k → (d.sensorFails k).rd Reg.thermalSensor j = d.rd Reg.thermalSensor j := by
  have other (j : Nat) (h : j ≠ k) : (d.wr Reg.thermalSensor k 0x8000).rd Reg.thermalSensor j = d.rd Reg.thermalSensor j :=
    (Dev.rd_wr d _ _ _ _ _).trans (if_neg fun e => h e.2.symm)
  unfold Dev.sensorFails; dsimp only; split
  case isTrue failed =>
    have mem : k ∈ d.pw.failed := by simpa using failed
    exact ⟨Dev.rd_wr_same _ _ _ _, mem, fun n => absurd mem n, rfl, other⟩
  case isFalse =>
    have rd (j : Nat) := (Dev.rd_beginLasting (((d.wr Reg.thermalSensor k 0x8000).updPw fun p => { p with failed := k :: p.failed }).count
      Reg.thermalCounters_failed) (sensorCause k) Reg.thermalSensor j rfl).trans
      (Dev.rd_count_ne _ Reg.thermalCounters_failed 0 1 (o := .thermalSensor) (by decide) _ _)
    obtain ⟨pw, mem, -⟩ := ((Dev.count_reported ((d.wr Reg.thermalSensor k 0x8000).updPw fun p => { p with failed := k :: p.failed })
      Reg.thermalCounters_failed 0 1).trans (Dev.beginLasting_reported _ (sensorCause k))).frame
    refine ⟨(rd k).trans (Dev.rd_wr_same _ _ _ _), ?_, fun _ => Dev.lasting_mem_beginLasting _ _, mem, fun j h => (rd j).trans (other j h)⟩
    rw [pw]; exact List.mem_cons_self

/-! ### What is judged from the readings (R506 to R508) -/

/-- Objects that hold the readings and the hottest of them. -/
def Obj.ofHeat (o : Obj) : Bool := o == .thermalSensor || o == .thermalHottest

/-- From `d` to `e` causes are raised and ended and counted, and the readings and the hottest of them stay. -/
structure Dev.KeepsHeat (d e : Dev) : Prop where
  reported : d.Reported e
  rd : ∀ r i, r.obj.ofHeat = true → e.rd r i = d.rd r i

theorem Dev.KeepsHeat.refl (d : Dev) : d.KeepsHeat d := ⟨.refl d, fun _ _ _ => rfl⟩

theorem Dev.KeepsHeat.trans {a b c : Dev} (h : a.KeepsHeat b) (k : b.KeepsHeat c) : a.KeepsHeat c :=
  ⟨h.reported.trans k.reported, fun r i n => (k.rd r i n).trans (h.rd r i n)⟩

theorem Dev.KeepsHeat.foldl {α : Type} {f : Dev → α → Dev} (h : ∀ (d : Dev) (x : α), d.KeepsHeat (f d x)) (l : List α) :
    ∀ d : Dev, d.KeepsHeat (l.foldl f d) := by
  induction l with
  | nil => exact .refl
  | cons x l ih => exact fun d => (h d x).trans (ih _)

theorem Dev.beginLasting_keepsHeat (d : Dev) (c : Cause) : d.KeepsHeat (d.beginLasting c) := by
  refine ⟨d.beginLasting_reported c, fun r i n => d.rd_beginLasting c r i ?_⟩
  simp only [Obj.ofHeat, Bool.or_eq_true, beq_iff_eq] at n
  rcases n with o | o <;> rw [o] <;> decide

theorem Dev.endLasting_keepsHeat (d : Dev) (p : Lasting → Bool) : d.KeepsHeat (d.endLasting p) := ⟨d.endLasting_reported p, fun _ _ _ => rfl⟩

theorem Dev.count_keepsHeat (d : Dev) {r : Reg} (h : r.obj.ofHeat = false) (i n : Nat) : d.KeepsHeat (d.count r i n) :=
  ⟨d.count_reported r i n, fun p j m => d.rd_count_off_ne r p i n j (.inl fun e => by rw [e, m] at h; cases h)⟩

def Dev.sensorValue (d : Dev) (k : Nat) : Int := toSigned 16 (d.rd Reg.thermalSensor k)

/-- One sensor more in the search for the hottest. -/
def Dev.hotter (d : Dev) (best : Option (Nat × Int)) (k : Nat) : Option (Nat × Int) :=
  match best with
  | some b => if b.2 < d.sensorValue k then some (k, d.sensorValue k) else best
  | none => some (k, d.sensorValue k)

theorem Dev.hottestOf_eq (d : Dev) (ks : List Nat) : d.hottestOf ks = (ks.filter fun k => !d.pw.failed.contains k).foldl d.hotter none := rfl

theorem Dev.hotter_spec (d : Dev) (best : Option (Nat × Int)) (k : Nat) : ∃ b, d.hotter best k = some b ∧ (best = some b ∨ b.1 = k) ∧
    d.sensorValue k ≤ b.2 ∧ ∀ a, best = some a → a.2 ≤ b.2 := by
  cases best with
  | none => exact ⟨_, rfl, .inr rfl, le_refl _, fun _ h => nomatch h⟩
  | some a =>
    by_cases h : a.2 < d.sensorValue k
    · exact ⟨_, if_pos h, .inr rfl, le_refl _, by rintro _ ⟨⟩; exact h.le⟩
    · exact ⟨a, if_neg h, .inl rfl, Int.not_lt.1 h, by rintro _ ⟨⟩; exact le_refl _⟩

theorem Dev.foldl_hotter {d : Dev} {h : Nat × Int} (ks : List Nat) : ∀ {best : Option (Nat × Int)}, ks.foldl d.hotter best = some h →
    (best = some h ∨ h.1 ∈ ks) ∧ (∀ b, best = some b → b.2 ≤ h.2) ∧ ∀ k ∈ ks, d.sensorValue k ≤ h.2 := by
  induction ks with
  | nil =>
    rintro best rfl
    exact ⟨.inl rfl, by rintro b ⟨⟩; exact le_refl _, fun _ m => nomatch m⟩
  | cons k ks ih =>
    intro best e
    obtain ⟨b, eb, from_, here, above⟩ := d.hotter_spec best k
    rw [List.foldl_cons, eb] at e
    obtain ⟨place, most, all⟩ := ih e
    have step := most b rfl
    refine ⟨?_, fun a ha => (above a ha).trans step, List.forall_mem_cons.2 ⟨here.trans step, all⟩⟩
    rcases place with p | p
    · injection p with p; subst p
      exact from_.imp_right fun e => List.mem_cons.2 (.inl e)
    · exact .inr (List.mem_cons_of_mem _ p)

theorem Dev.hottestOf_spec {d : Dev} {ks : List Nat} {h : Nat × Int} (e : d.hottestOf ks = some h) :
    h.1 ∉ d.pw.failed ∧ ∀ k ∈ ks, k ∉ d.pw.failed → d.sensorValue k ≤ h.2 := by
  obtain ⟨place, -, all⟩ := Dev.foldl_hotter _ ((d.hottestOf_eq ks).symm.trans e)
  refine ⟨?_, fun k mem works => all k (List.mem_filter.2 ⟨mem, by simpa using works⟩)⟩
  rcases place with n | mem
  · cases n
  · simpa using (List.mem_filter.1 mem).2

theorem Dev.hottestOf_congr {d e : Dev} (pw : e.pw = d.pw) (rd : ∀ k, e.rd Reg.thermalSensor k = d.rd Reg.thermalSensor k) (ks : List Nat) :
    e.hottestOf ks = d.hottestOf ks := by
  simp only [Dev.hottestOf, pw, rd]

theorem Dev.actingHot_congr {d e : Dev} (pw : e.pw = d.pw) (rd : ∀ k, e.rd Reg.thermalSensor k = d.rd Reg.thermalSensor k) :
    e.actingHot = d.actingHot := by
  have dead : e.deadRegions = d.deadRegions := by simp only [Dev.deadRegions, pw]
  unfold Dev.actingHot
  rw [Dev.hottestOf_congr pw rd, dead, pw]

def Dev.regionsJudged (d : Dev) : Dev :=
  (List.range 5).foldl (fun e g =>
    if d.deadRegions.contains g then e.beginLasting (regionCause g) else e.endLasting fun l => l == (regionCause g).lasting) d

def Dev.hottestNoted (d : Dev) : Dev :=
  match d.hottestOf (List.range 72) with
  | some h => (d.wr Reg.thermalHottest_tHot 0 (ofSigned 16 h.2)).wr Reg.thermalHottest_sensor 0 h.1
  | none => d

def Dev.warnJudged (d : Dev) : Dev :=
  if toSigned 16 (d.rd Reg.thermalWarn) * 16 ≤ d.actingHot ∧ !d.lasting.contains warnCause.lasting then
    (d.count Reg.thermalCounters_warns).beginLasting warnCause
  else if d.actingHot ≤ toSigned 16 (d.rd Reg.thermalWarn) * 16 - 32 then d.endLasting fun l => l == warnCause.lasting
  else d

def Dev.throttleJudged (d : Dev) (t : Int) : Dev :=
  if 1680 ≤ t ∧ !d.pw.throttling then
    Dev.beginLasting ((d.updPw fun p => { p with throttling := true }).count Reg.thermalCounters_throttles) throttleCause
  else d

theorem Dev.judgeHeat_eq (d : Dev) :
    d.judgeHeat = d.regionsJudged.hottestNoted.warnJudged.throttleJudged d.regionsJudged.hottestNoted.actingHot := (rfl)

theorem Dev.regionsJudged_keepsHeat (d : Dev) : d.KeepsHeat d.regionsJudged := by
  refine .foldl (fun e g => ?_) _ d
  split
  · exact e.beginLasting_keepsHeat _
  · exact e.endLasting_keepsHeat _

theorem Dev.warnJudged_keepsHeat (d : Dev) : d.KeepsHeat d.warnJudged := by
  unfold Dev.warnJudged; split
  · exact (d.count_keepsHeat rfl _ _).trans (Dev.beginLasting_keepsHeat _ _)
  · split
    · exact d.endLasting_keepsHeat _
    · exact .refl d

theorem Dev.throttleJudged_spec (d : Dev) (t : Int) :
    (∀ r i, r.obj.ofHeat = true → (d.throttleJudged t).rd r i = d.rd r i) ∧ (1680 ≤ t → (d.throttleJudged t).pw.throttling = true) := by
  unfold Dev.throttleJudged; split
  case isTrue h =>
    have k := (Dev.count_keepsHeat (d.updPw fun p => { p with throttling := true }) (r := Reg.thermalCounters_throttles) rfl 0 1).trans
      (Dev.beginLasting_keepsHeat _ throttleCause)
    exact ⟨k.rd, fun _ => by rw [k.reported.frame.1]; rfl⟩
  case isFalse h => exact ⟨fun _ _ _ => rfl, fun hot => by simpa [hot] using h⟩

/-- Where a sensor works, the hottest one and its reading are noted, and at 105 degrees the device throttles. -/
theorem Dev.judgeHeat_spec {d : Dev} {h : Nat × Int} (e : d.hottestOf (List.range 72) = some h) :
    d.judgeHeat.rd Reg.thermalHottest_tHot = ofSigned 16 h.2 ∧ d.judgeHeat.rd Reg.thermalHottest_sensor = h.1 ∧
      (1680 ≤ d.actingHot → d.judgeHeat.pw.throttling = true) := by
  have a := d.regionsJudged_keepsHeat
  have noted : d.regionsJudged.hottestNoted =
      (d.regionsJudged.wr Reg.thermalHottest_tHot 0 (ofSigned 16 h.2)).wr Reg.thermalHottest_sensor 0 h.1 := by
    rw [Dev.hottestNoted, Dev.hottestOf_congr a.reported.frame.1 (fun k => a.rd _ _ rfl), e]
  have w := d.regionsJudged.hottestNoted.warnJudged_keepsHeat
  obtain ⟨rd, throttles⟩ := d.regionsJudged.hottestNoted.warnJudged.throttleJudged_spec d.regionsJudged.hottestNoted.actingHot
  have hot : d.regionsJudged.hottestNoted.actingHot = d.actingHot := by
    refine Dev.actingHot_congr (by rw [noted]; exact a.reported.frame.1) fun k => ?_
    rw [noted, Dev.rd_wr_off_ne _ _ _ _ _ _ (.inl (by decide)), Dev.rd_wr_off_ne _ _ _ _ _ _ (.inl (by decide))]
    exact a.rd _ _ rfl
  rw [Dev.judgeHeat_eq, rd _ _ rfl, rd _ _ rfl, w.rd _ _ rfl, w.rd _ _ rfl]
  refine ⟨?_, ?_, fun high => throttles (hot ▸ high)⟩
  · rw [noted, Dev.rd_wr_off_ne _ _ _ _ _ _ (.inr (by decide)), Dev.rd_wr_same]
  · rw [noted, Dev.rd_wr_same]

/-! ### The trip (R509) -/

/-- One port's notice of the reset: it leaves the port as one that comes up again without training. -/
def Dev.noticeSent (d : Dev) (p : Nat) : Dev :=
  if d.rd Reg.couplingPortState_state p = 2 then
    ((d.send (.coupling p .resetNotice)).wr Reg.couplingPortState_state p 4).setCoup p
      { badLanes := (d.coupPort p).badLanes, lastTry := d.now, resuming := true }
  else d

theorem Dev.sendNotices_eq (d : Dev) : d.sendNotices = (List.range 3).foldl Dev.noticeSent d := rfl

theorem Dev.noticeSent_frame (d : Dev) (p : Nat) : (d.noticeSent p).mem = d.mem ∧ (d.noticeSent p).pw = d.pw ∧
    ∀ r i, r.obj ≠ .couplingPortState → (d.noticeSent p).rd r i = d.rd r i := by
  unfold Dev.noticeSent; split
  · exact ⟨rfl, rfl, fun r i n => Dev.rd_wr_obj_ne _ _ _ _ n.symm _ _⟩
  · exact ⟨rfl, rfl, fun _ _ _ => rfl⟩

/-- Reset notices leave memory, the record of power and heat and the pages' settings alone. -/
theorem Dev.sendNotices_frame (d : Dev) : d.sendNotices.mem = d.mem ∧ d.sendNotices.pw = d.pw ∧
    ∀ r i, r.obj ≠ .couplingPortState → d.sendNotices.rd r i = d.rd r i := by
  rw [Dev.sendNotices_eq]
  induction List.range 3 generalizing d with
  | nil => exact ⟨rfl, rfl, fun _ _ _ => rfl⟩
  | cons p l ih =>
    obtain ⟨mem, pw, rd⟩ := ih (d.noticeSent p)
    obtain ⟨mem', pw', rd'⟩ := d.noticeSent_frame p
    exact ⟨mem.trans mem', pw.trans pw', fun r i n => (rd r i n).trans (rd' r i n)⟩

/-- Everything sent by a fold of sends has left the device, and nothing else changes. -/
theorem Dev.foldl_send {α : Type} (f : α → Sent) (l : List α) : ∀ d : Dev, d.Reported (l.foldl (fun e i => e.send (f i)) d) ∧
    (∀ i ∈ l, f i ∈ (l.foldl (fun e i => e.send (f i)) d).sent) ∧ ∀ x ∈ d.sent, x ∈ (l.foldl (fun e i => e.send (f i)) d).sent := by
  induction l with
  | nil => exact fun d => ⟨.refl d, by simp, fun _ m => m⟩
  | cons a l ih =>
    intro d
    obtain ⟨rest, sent, kept⟩ := ih (d.send (f a))
    exact ⟨(d.send_reported _).trans rest, List.forall_mem_cons.2 ⟨kept _ List.mem_cons_self, sent⟩,
      fun x m => kept x (List.mem_cons_of_mem _ m)⟩

theorem Dev.domain_of_tripped {d : Dev} (h : d.pw.tripped = true) (none_ : d.pw.domains = []) (x : Domain) : (d.domain x).running = false := by
  cases x <;> simp [Dev.domain, h, none_, Tbl.getD]

theorem Dev.trip_again {d : Dev} (h : d.pw.tripped = true) : d.trip = d := if_pos h

/-- Every clock outside the always-on island has stopped, and the other devices have been told. -/
def Dev.clocksStopped (d : Dev) : Dev := d.sendNotices.updPw fun p => { p with tripped := true, domains := [], wanted := [] }

/-- The pages that a trip turns off. -/
def Dev.tripPages (d : Dev) : List Nat := (List.range 8).filter fun i => d.flag Reg.powerVrmPage_enable i && d.flag Reg.powerVrmPage_tripOff i

theorem Dev.trip_first {d : Dev} (h : d.pw.tripped = false) :
    d.trip = d.clocksStopped.tripPages.foldl (fun e i => e.send (.operationOff i)) (d.clocksStopped.send .thermTrip) := by
  rw [Dev.trip, if_neg (by simp [h])]; rfl

theorem Dev.tripPages_clocksStopped (d : Dev) : d.clocksStopped.tripPages = d.tripPages := by
  obtain ⟨-, -, rd⟩ := d.sendNotices_frame
  have same (r : Reg) (i : Nat) (n : r.obj ≠ .couplingPortState) : d.clocksStopped.flag r i = d.flag r i := by
    rw [Dev.flag, Dev.clocksStopped, Dev.rd_updPw, rd r i n, Dev.flag]
  simp only [Dev.tripPages, same _ _ (show Reg.powerVrmPage_enable.obj ≠ .couplingPortState by decide),
    same _ _ (show Reg.powerVrmPage_tripOff.obj ≠ .couplingPortState by decide)]

theorem Dev.clocksStopped_frame (d : Dev) : d.clocksStopped.pw.tripped = true ∧ d.clocksStopped.pw.domains = [] ∧ d.clocksStopped.mem = d.mem := by
  rw [Dev.clocksStopped, Dev.updPw_pw, Dev.updPw_mem]
  exact ⟨rfl, rfl, d.sendNotices_frame.1⟩

theorem Dev.trip_spec {d : Dev} (h : d.pw.tripped = false) :
    d.trip.pw.tripped = true ∧ d.trip.pw.domains = [] ∧ .thermTrip ∈ d.trip.sent ∧ d.trip.mem = d.mem ∧
      ∀ i, i < 8 → d.flag Reg.powerVrmPage_enable i = true → d.flag Reg.powerVrmPage_tripOff i = true → .operationOff i ∈ d.trip.sent := by
  obtain ⟨tripped, domains, mem⟩ := d.clocksStopped_frame
  obtain ⟨rest, off, kept⟩ := Dev.foldl_send Sent.operationOff d.tripPages (d.clocksStopped.send .thermTrip)
  obtain ⟨samePw, sameMem, -⟩ := ((d.clocksStopped.send_reported .thermTrip).trans rest).frame
  rw [Dev.trip_first h, Dev.tripPages_clocksStopped, samePw, sameMem]
  refine ⟨tripped, domains, kept _ List.mem_cons_self, mem, fun i hi on turned => off i (List.mem_filter.2 ⟨List.mem_range.2 hi, ?_⟩)⟩
  exact Bool.and_eq_true_iff.2 ⟨on, turned⟩

theorem thermalTripEffect_none {d : Dev} {k : Nat} (h : k ∈ d.pw.failed ∨ d.pw.tripped = true) : thermalTripEffect k d = d := by
  unfold thermalTripEffect; split
  · rfl
  · next works => exact Dev.trip_again (h.resolve_left (by simpa using works))

theorem thermalTripEffect_trips {d : Dev} {k : Nat} (h : k ∉ d.pw.failed) : thermalTripEffect k d = d.trip := if_neg (by simpa using h)

end Sys2Proof.Machine
end

section
/-! The statement on the rail and heat (R503 to R509), settled. -/

namespace Sys2Proof.RailFamily
open Sys2Proof.Machine Sys2Proof.Safety

/-- Settles O57: which of the three things a reading of slack does, by its place beside 0 and the margin; a sensor that works or fails; the
hottest sensor by the fold that finds it; and the trip. -/
theorem railAndHeat : Obligations.RailAndHeat := by
  refine ⟨?trim, ?margin, ?sensor, ?hottest, ?sample, ?trip⟩
  case trim =>
    intro s slacks ok least w mem below v nom m
    have alarm (low : least < 0) := avsTrimEffect_alarm (d := s.dev) ok mem below low
    have rises (pos : 0 ≤ least) (low : least < m) := avsTrimEffect_rises (d := s.dev) ok mem below pos low
    have falls (high : m ≤ least) := avsTrimEffect_falls (d := s.dev) ok mem below high
    have noted := s.dev.slackOk_slackNoted least
    have alarmed := (s.dev.slackNoted least).monitorAlarm_spec ok
    have trimmed (mv : Nat) := (s.dev.slackNoted least).trimTo_spec mv ok
    simp only [Dev.point_slackNoted, Dev.rd_slackNoted, Dev.rail_slackNoted] at alarmed trimmed
    refine ⟨fun low => yields_of rfl w ?_, fun pos low => yields_of rfl w ?_, fun high => yields_of rfl w ?_, fun lo hi => yields_of rfl w ?_⟩
    · rw [settle_rd, settle_rd, settle_pw, settle_attentionBit, alarm low]
      exact alarmed
    · have less : ¬(m : Int) + 15 ≤ least := by omega
      rw [settle_rd, settle_rd, settle_pw, rises pos low]
      split
      case isTrue fits =>
        obtain ⟨voltage, margin, pw⟩ := trimmed (v + 5)
        rw [pw]
        refine ⟨margin, noted.trans (if_neg less), voltage.trans ?_, ?_⟩
        · cases ok <;> simp [v, nom, fits]
        · cases ok <;> simp [v, nom, fits, Power.railWritten, Dev.rail_slackNoted]
      case isFalse full =>
        rw [Dev.rd_slackNoted, Dev.rd_slackNoted, Dev.rail_slackNoted]
        exact ⟨rfl, noted.trans (if_neg less), (if_neg fun e => full e.2).symm, (if_neg fun e => full e.2).symm⟩
    · rw [settle_rd, settle_rd, settle_pw, falls high]
      split
      case isTrue due =>
        obtain ⟨voltage, margin, pw⟩ := trimmed (v - 5)
        rw [pw]
        have slack : (m : Int) + 15 ≤ least := by
          by_contra less
          rw [noted, if_neg less] at due
          omega
        have enough : 100 ≤ s.dev.pw.slackOk + 1 := by
          rw [noted, if_pos slack] at due
          exact due.1
        refine ⟨margin, noted, voltage.trans ?_⟩
        cases ok <;> simp [v, nom, slack, enough, due.2]
      case isFalse early =>
        rw [Dev.rd_slackNoted, Dev.rd_slackNoted]
        refine ⟨rfl, noted, (if_neg fun e => early ⟨?_, e.2.2.2⟩).symm⟩
        rw [noted, if_pos e.2.1]; exact e.2.2.1
    · rw [settle_rd]
      have voltage (mv : Nat) : ((s.dev.slackNoted least).trimTo mv ok).rd (pointVt s.dev.point) = if ok then mv else v := (trimmed mv).1
      rcases lt_or_ge least 0 with low | pos
      · rw [alarm low, alarmed.1]
        exact ⟨Nat.sub_le _ _, le_refl _⟩
      rcases lt_or_ge least m with low | high
      · rw [rises pos low]
        split
        · rw [voltage]; split <;> omega
        · rw [Dev.rd_slackNoted]; exact ⟨lo, hi⟩
      · rw [falls high]
        split
        · rw [voltage]; split <;> omega
        · rw [Dev.rd_slackNoted]; exact ⟨lo, hi⟩
  case margin =>
    refine fun s => ⟨fun w => ⟨fun early => leads_of rfl w (marginNarrowingEffect_early early), fun due => yields_of rfl w ?_⟩,
      fun w => ⟨fun early => leads_of rfl w (if_pos early), fun due => leads_of rfl w (if_neg (Nat.not_lt.2 due))⟩⟩
    rw [settle_rd, settle_pw, settle_mem]
    exact marginNarrowingEffect_spec due
  case sensor =>
    intro d k v
    obtain ⟨works, working, workMem, workOther⟩ := (d.readingNoted k v).sensorWorks_spec k v
    obtain ⟨fails, failed, cause, failMem, failOther⟩ := (d.readingNoted k v).sensorFails_spec k
    simp only [Dev.rd_readingNoted, Dev.readingNoted_mem] at workMem workOther failMem failOther
    refine ⟨fun low high new => ?_, fun out => ?_, ?_⟩
    · rw [Dev.takeSensor_good (Dev.readingBad_new low high new)]
      exact ⟨works, working⟩
    · rw [Dev.takeSensor_bad (out.imp_right .inl)]
      refine ⟨fails, failed, fun new => ?_⟩
      rw [List.any_beq']
      simpa using cause new
    · by_cases bad : d.readingBad k v
      · rw [Dev.takeSensor_bad bad]
        exact ⟨failMem, failOther⟩
      · rw [Dev.takeSensor_good bad]
        exact ⟨workMem, workOther⟩
  case hottest =>
    intro d h e
    obtain ⟨hot, sensor, throttles⟩ := Dev.judgeHeat_spec e
    obtain ⟨works, all⟩ := Dev.hottestOf_spec e
    exact ⟨hot, sensor, throttles, works, fun k hk => all k (List.mem_range.2 hk)⟩
  case sample =>
    intro s vs w
    refine ⟨fun some_ => leads_of rfl w ?_, fun all => leads_of rfl w ?_⟩
    · simp only [thermalSampleEffect]
      rw [if_neg (Nat.not_le.2 some_)]
    · simp only [thermalSampleEffect]
      rw [if_pos all]
  case trip =>
    intro s k w
    refine ⟨fun h => leads_of rfl w (thermalTripEffect_none h), fun works fresh => yields_of rfl w ?_⟩
    rw [thermalTripEffect_trips works]
    obtain ⟨tripped, domains, pin, mem, pages⟩ := Dev.trip_spec fresh
    exact ⟨by rw [settle_pw, tripped], Dev.domain_of_tripped (by rw [settle_pw, tripped]) (by rw [settle_pw, domains]), mem_sent_settle pin,
      by rw [settle_mem, mem], fun i hi on off => mem_sent_settle (pages i hi on off)⟩

end Sys2Proof.RailFamily
end

section
/-! SUPPORT. Coupling ports: blocks, lanes, training, the loss of a link, waiters withdrawn and credits (R514 to R530). -/

namespace Sys2Proof.Machine

/-! ### Ports and their records -/

theorem Dev.portIsUp_iff {d : Dev} {p : Nat} : d.portIsUp p = true ↔ d.rd Reg.couplingPortState_state p = 2 := by
  simp [Dev.portIsUp, Dev.portState, portUp]

theorem Dev.Reported.coupling {d e : Dev} (h : d.Reported e) :
    (∀ p, e.coupPort p = d.coupPort p) ∧ e.waiters = d.waiters ∧ e.remoteWaits = d.remoteWaits := by
  obtain ⟨f, r, a, w, l, g, n, rfl⟩ := h
  exact ⟨fun _ => rfl, rfl, rfl⟩

theorem Dev.rd_setCoup (d : Dev) (p : Nat) (x : CoupPort) (r : Reg) (i : Nat) : (d.setCoup p x).rd r i = d.rd r i := Dev.rd_of_regs rfl r i
theorem Dev.rd_updCoup (d : Dev) (p : Nat) (f : CoupPort → CoupPort) (r : Reg) (i : Nat) : (d.updCoup p f).rd r i = d.rd r i :=
  d.rd_setCoup p _ r i

@[simp] theorem Dev.coupPort_wr (d : Dev) (r : Reg) (i v p : Nat) : (d.wr r i v).coupPort p = d.coupPort p := rfl
@[simp] theorem Dev.coupPort_count (d : Dev) (r : Reg) (i n p : Nat) : (d.count r i n).coupPort p = d.coupPort p :=
  (d.count_reported r i n).coupling.1 p
@[simp] theorem Dev.coupPort_setCoup_same (d : Dev) (p : Nat) (x : CoupPort) : (d.setCoup p x).coupPort p = x := by
  simp [Dev.coupPort, Dev.setCoup]

/-- A port's fields other than the one written. -/
theorem Dev.rd_wr_state_ne (d : Dev) (p v : Nat) {off off' : Nat} (h : off ≠ off') (i : Nat) :
    (d.wr ⟨.couplingPortState, off⟩ p v).rd ⟨.couplingPortState, off'⟩ i = d.rd ⟨.couplingPortState, off'⟩ i :=
  d.rd_wr_off_ne _ _ _ _ _ (.inr h)

@[simp] theorem settle_portState (d : Dev) (p : Nat) : (settle d).portState p = d.portState p := settle_rd d _ p
@[simp] theorem settle_portIsUp (d : Dev) (p : Nat) : (settle d).portIsUp p = d.portIsUp p := by rw [Dev.portIsUp, settle_portState, Dev.portIsUp]
@[simp] theorem settle_flag (d : Dev) (r : Reg) (i : Nat) : (settle d).flag r i = d.flag r i := by rw [Dev.flag, settle_rd, Dev.flag]
@[simp] theorem settle_waiters (d : Dev) : (settle d).waiters = d.waiters := by
  obtain ⟨x, n, h⟩ := settle_eq_ep d; rw [h]

/-! ### A port that is not up (R515, R516, R521, R525) -/

section
variable {d : Dev} {p : Nat} (down : d.portIsUp p = false)
include down

theorem Dev.portDown_of_down (s : Nat) : d.portDown p s = d := if_pos (by simp [down])
theorem codeBlockReceivedEffect_down (g : Bool) (n : Nat) (ms : List CouplingMessage) : codeBlockReceivedEffect p g n ms d = d :=
  if_pos (by simp [down])
theorem laneRepairEffect_down (l : Nat) : laneRepairEffect p l d = d := if_pos (by simp [down])
theorem creditReturnEffect_down (c : CoupClass) : creditReturnEffect p c d = d := if_pos (by simp [down])
theorem resetNoticeEffect_down : resetNoticeEffect p d = d := by
  have none_ : d.nextMessage p .control = none := if_neg (by simp [down])
  simp only [resetNoticeEffect, none_]

end

/-! ### Code blocks (R515) -/

theorem codeBlockReceivedEffect_good {d : Dev} {p n : Nat} {ms : List CouplingMessage} (up : d.portIsUp p = true)
    (plain : ∀ m ∈ ms, isNotice m = false) : codeBlockReceivedEffect p true n ms d =
      (d.count Reg.couplingPortCounters_symbolErrors p n).updCoup p fun x => { x with badRun := 0, inbox := x.inbox ++ ms } := by
  have notices : ms.filter isNotice = [] := List.filter_eq_nil_iff.2 fun m mem => by simp [plain m mem]
  have rest : (ms.filter fun m => !isNotice m) = ms := List.filter_eq_self.2 fun m mem => by simp [plain m mem]
  simp only [codeBlockReceivedEffect, up, notices, rest]
  rfl

/-- A bad block, counted as an error of symbols and as a replay. -/
def Dev.blockBad (d : Dev) (p n : Nat) : Dev :=
  ((d.count Reg.couplingPortCounters_symbolErrors p n).updCoup p fun x => { x with badRun := (d.coupPort p).badRun + 1 }).count
    Reg.couplingPortCounters_replays p

theorem codeBlockReceivedEffect_bad {d : Dev} {p n : Nat} {ms : List CouplingMessage} (up : d.portIsUp p = true) :
    codeBlockReceivedEffect p false n ms d = if 7 ≤ (d.coupPort p).badRun then (d.blockBad p n).portDown p portIsDown else d.blockBad p n := by
  simp only [codeBlockReceivedEffect, up, Dev.coupPort_count, Dev.blockBad, Nat.add_le_add_iff_right (m := 7) (n := 1) |>.symm]
  rfl

/-! ### Lanes (R516, R530) -/

theorem laneRepairEffect_idle {d : Dev} {p l : Nat} (h : (d.rd Reg.couplingPortState_lanes p).testBit l = false) : laneRepairEffect p l d = d :=
  if_pos (by simp [h])

section
variable {d : Dev} {p l : Nat} (up : d.portIsUp p = true) (serves : (d.rd Reg.couplingPortState_lanes p).testBit l = true)
include up serves

theorem laneRepairEffect_last (used : d.flag Reg.couplingPortState_spareUsed p = true) :
    laneRepairEffect p l d = (d.updCoup p fun x => { x with badLanes := l :: x.badLanes }).portDown p portIsDown := by
  have flag : (d.updCoup p fun x => { x with badLanes := l :: x.badLanes }).flag Reg.couplingPortState_spareUsed p = true := by
    rw [Dev.flag, Dev.rd_updCoup]; exact used
  simp only [laneRepairEffect]
  rw [if_neg (by simp [up, serves]), if_pos flag]

/-- The spare in the place of a lane found failed. -/
def Dev.spareServes (d : Dev) (p l : Nat) : Dev :=
  let e := d.updCoup p fun x => { x with badLanes := l :: x.badLanes }
  (e.setFlag Reg.couplingPortState_spareUsed p true).wr Reg.couplingPortState_lanes p (laneMask (goodLanes (l :: (d.coupPort p).badLanes)))

theorem laneRepairEffect_spare (free : d.flag Reg.couplingPortState_spareUsed p = false) :
    laneRepairEffect p l d =
      ((d.spareServes p l).appendLedger 2 .couplingLane p l).attend { bit := Bit.link, area := 0x18, detail := 0xF0 + p } := by
  have flag : (d.updCoup p fun x => { x with badLanes := l :: x.badLanes }).flag Reg.couplingPortState_spareUsed p = false := by
    rw [Dev.flag, Dev.rd_updCoup]; exact free
  simp only [laneRepairEffect]
  rw [if_neg (by simp [up, serves]), if_neg (by simp [flag]), Dev.spareServes, Dev.coupPort_updCoup_same]

end

theorem Dev.spareServes_spec {d : Dev} {p : Nat} (l : Nat) (up : d.portIsUp p = true) :
    let w := ((d.spareServes p l).appendLedger 2 .couplingLane p l).attend { bit := Bit.link, area := 0x18, detail := 0xF0 + p }
    w.flag Reg.couplingPortState_spareUsed p = true ∧ w.portIsUp p = true ∧ w.attentionBit Bit.link = true ∧
    w.rd Reg.couplingPortState_lanes p = laneMask (goodLanes (l :: (d.coupPort p).badLanes)) ∧
    (w.coupPort p).inbox = (d.coupPort p).inbox ∧ w.waiters = d.waiters ∧ w.mem = d.mem := by
  intro w
  have r : (d.spareServes p l).Reported w := (Dev.appendLedger_logged _ _ _ _ _ _).reported.trans (Dev.attend_reported _ _)
  have rd (off : Nat) : w.rd ⟨.couplingPortState, off⟩ p = (d.spareServes p l).rd ⟨.couplingPortState, off⟩ p :=
    (Dev.rd_attend _ _ _ _ rfl).trans ((Dev.appendLedger_logged _ _ _ _ _ _).rd _ _ rfl)
  obtain ⟨port, waiters, -⟩ := r.coupling
  refine ⟨?_, ?_, Dev.attentionBit_attend _ (show 8 ≤ Bit.link by decide) (show Bit.link ≤ 15 by decide), ?_, ?_, waiters, r.frame.2.1⟩
  · rw [Dev.flag, rd, Dev.spareServes, Dev.rd_wr_state_ne _ _ _ (by decide), Dev.setFlag, Dev.rd_wr_same]; rfl
  · rw [Dev.portIsUp_iff, rd, Dev.spareServes, Dev.rd_wr_state_ne _ _ _ (by decide), Dev.setFlag, Dev.rd_wr_state_ne _ _ _ (by decide),
      Dev.rd_updCoup]
    exact Dev.portIsUp_iff.1 up
  · rw [rd, Dev.spareServes, Dev.rd_wr_same]
  · rw [port, Dev.spareServes, Dev.coupPort_wr, Dev.setFlag, Dev.coupPort_wr, Dev.coupPort_updCoup_same]

/-! ### Training (R516, R519, R527) -/

/-- A port whose other end has answered its training. -/
def Dev.portTrains (d : Dev) (p : Nat) : Prop :=
  d.portState p = 1 ∨ d.portState p = 3 ∨ (d.portState p = 4 ∧ (d.coupPort p).resuming = true)

theorem Dev.portTrains_iff (d : Dev) (p : Nat) : (d.portState p == portTraining || d.portState p == portMismatch ||
    (d.portState p == portIsDown && (d.coupPort p).resuming)) = true ↔ d.portTrains p := by
  simp [Dev.portTrains, portTraining, portMismatch, portIsDown, or_assoc]

/-- Who answers is who R518 expects there. -/
def Dev.answerFits (d : Dev) (p i z n : Nat) : Prop :=
  i = d.rd Reg.couplingSystem_identifier ∧ z = d.rd Reg.couplingSystem_size ∧ n = (d.ownNumber + p + 1) % 4

theorem portTrainedEffect_idle {d : Dev} {p : Nat} (i z n : Nat) (h : ¬d.portTrains p) : portTrainedEffect p i z n d = d :=
  if_neg fun e => h ((d.portTrains_iff p).1 e)

theorem portTrainedEffect_mismatch {d : Dev} {p i z n : Nat} (h : d.portTrains p) (other : ¬d.answerFits p i z n) :
    portTrainedEffect p i z n d = (d.wr Reg.couplingPortState_state p 3).updCoup p fun x => { x with resuming := false } :=
  (if_pos ((d.portTrains_iff p).2 h)).trans (if_neg other)

theorem portTrainedEffect_up {d : Dev} {p i z n : Nat} (h : d.portTrains p) (fits : d.answerFits p i z n) :
    portTrainedEffect p i z n d = (((d.wr Reg.couplingPortState_state p 2).wr Reg.couplingPortState_peer p n).setCoup p
      { badLanes := (d.coupPort p).badLanes, lastTry := (d.coupPort p).lastTry }).endLasting (isPortCause p) :=
  (if_pos ((d.portTrains_iff p).2 h)).trans (if_pos fits)

theorem portTrainedEffect_up_spec {d : Dev} {p i z n : Nat} (h : d.portTrains p) (fits : d.answerFits p i z n) :
    let w := portTrainedEffect p i z n d
    w.portIsUp p = true ∧ w.rd Reg.couplingPortState_peer p = n ∧ (w.coupPort p).control = 32 ∧ (w.coupPort p).signal = 64 ∧
    (w.coupPort p).inbox = [] ∧ (w.coupPort p).waiting = [] ∧ (w.lasting.any (isPortCause p)) = false ∧ w.mem = d.mem := by
  have port (e : Dev) (x : CoupPort) (q : Lasting → Bool) : ((e.setCoup p x).endLasting q).coupPort p = x := e.coupPort_setCoup_same p x
  simp only [portTrainedEffect_up h fits, port]
  refine ⟨?_, ?_, trivial, trivial, trivial, trivial, ?_, rfl⟩
  · rw [Dev.portIsUp_iff, Dev.rd_endLasting, Dev.rd_setCoup, Dev.rd_wr_state_ne _ _ _ (by decide), Dev.rd_wr_same]
  · rw [Dev.rd_endLasting, Dev.rd_setCoup, Dev.rd_wr_same]
  · simp [Dev.endLasting]

def Dev.retryDue (d : Dev) (p : Nat) : Prop :=
  d.portState p = 4 ∧ (d.coupPort p).resuming = false ∧ (d.coupPort p).lastTry + secondTicks ≤ d.now

theorem Dev.retryDue_iff (d : Dev) (p : Nat) : (d.portState p == portIsDown && !(d.coupPort p).resuming &&
    decide ((d.coupPort p).lastTry + secondTicks ≤ d.now)) = true ↔ d.retryDue p := by
  simp [Dev.retryDue, portIsDown, and_assoc]

theorem portTrainRetryEffect_idle {d : Dev} {p : Nat} (h : ¬d.retryDue p) : portTrainRetryEffect p d = d :=
  if_neg fun e => h ((d.retryDue_iff p).1 e)

theorem portTrainRetryEffect_due {d : Dev} {p : Nat} (h : d.retryDue p) : portTrainRetryEffect p d = d.trainPort p :=
  if_pos ((d.retryDue_iff p).2 h)

theorem Dev.trainPort_spec (d : Dev) (p : Nat) : ((d.trainPort p).coupPort p).lastTry = d.now ∧
    (d.trainPort p).portState p = (if (goodLanes (d.coupPort p).badLanes).length < 8 then 4 else 1) ∧ (d.trainPort p).mem = d.mem := by
  unfold Dev.trainPort; dsimp only; split
  · rw [Dev.coupPort_wr, Dev.coupPort_updCoup_same, Dev.portState, Dev.rd_wr_same]
    exact ⟨rfl, rfl, rfl⟩
  · rw [Dev.setFlag, Dev.coupPort_wr, Dev.coupPort_wr, Dev.coupPort_wr, Dev.coupPort_updCoup_same, Dev.portState,
      Dev.rd_wr_state_ne _ _ _ (by decide), Dev.rd_wr_state_ne _ _ _ (by decide), Dev.rd_wr_same]
    exact ⟨rfl, rfl, rfl⟩

/-! ### The loss of a link (R525, R526) -/

theorem Dev.withdraw_of_nil {d : Dev} (h : d.waiters = []) (gone : Who → Bool) : d.withdraw gone = d := by simp [Dev.withdraw, h]
theorem Dev.peerCounters_of_nil {d : Dev} (h : d.waiters = []) (e : Nat) : d.peerCounters e = [] := by simp [Dev.peerCounters, h]
theorem Dev.abandonSteps_nil (d : Dev) : d.abandonSteps [] = d := by
  unfold Dev.abandonSteps
  cases [].length + d.waiterCount <;> rfl

theorem Dev.remoteWaits_eta {d : Dev} (h : d.remoteWaits = []) : ({ d with remoteWaits := [] } : Dev) = d := by rw [← h]

/-- A port's new state noted, and the link counted as lost. -/
def Dev.portMarked (d : Dev) (p s : Nat) : Dev := (d.wr Reg.couplingPortState_state p s).count Reg.couplingPortState_downs p

theorem Dev.portMarked_reported (d : Dev) (p s : Nat) : d.Reported (d.portMarked p s) := (d.wr_reported _ _ _).trans (Dev.count_reported _ _ _ _)

/-- A port's messages discarded, and those of them counted that R526 counts. -/
def Dev.portEmptied (d : Dev) (p : Nat) : Dev :=
  (d.setCoup p { badLanes := (d.coupPort p).badLanes, lastTry := d.now }).count Reg.couplingPortCounters_discarded p
    (((d.coupPort p).inbox ++ (d.coupPort p).waiting).filter countedLost).length

/-- The relay to a device that is lost replies that the link is down (R520). -/
def Dev.relayEnded (d : Dev) (e : Nat) : Dev := if 1 ≤ e && (d.mailbox e).busy then d.relayLinkDown e else d

def downCause (p s : Nat) : Cause := { bit := Bit.link, area := 0x18, detail := p + 16 * s }

theorem Dev.portDown_unwaited {d : Dev} {p s : Nat} (up : d.portIsUp p = true) (waiters : d.waiters = []) (remote : d.remoteWaits = []) :
    d.portDown p s = (((d.portMarked p s).portEmptied p).relayEnded (d.peerOf p)).beginLasting (downCause p s) := by
  obtain ⟨-, sameWaiters, sameRemote⟩ := (d.portMarked_reported p s).coupling
  have unwaited := sameWaiters.trans waiters
  have remote' := sameRemote.trans remote
  unfold Dev.portDown
  rw [if_neg (by simp [up])]
  rw [Dev.portMarked] at unwaited remote'
  simp only [remote', List.filter_nil, List.map_nil, Dev.remoteWaits_eta remote', Dev.withdraw_of_nil unwaited, Dev.peerCounters_of_nil unwaited,
    List.foldl_nil, Dev.abandonSteps_nil]
  rfl

/-- The relay's reply changes its mailbox and the endpoint's pending bit alone. -/
theorem Dev.relayEnded_frame (d : Dev) (e : Nat) : (∀ r i, (d.relayEnded e).rd r i = d.rd r i) ∧
    (∀ p, (d.relayEnded e).coupPort p = d.coupPort p) ∧ (d.relayEnded e).contexts = d.contexts ∧ (d.relayEnded e).mem = d.mem := by
  have change : ∃ m x, d.relayEnded e = { d with mailboxes := m, ep := x } := by
    unfold Dev.relayEnded Dev.relayLinkDown
    split
    · split <;> exact ⟨_, _, rfl⟩
    · exact ⟨_, _, rfl⟩
  obtain ⟨m, x, h⟩ := change
  rw [h]
  exact ⟨fun r i => Dev.rd_of_regs rfl r i, fun _ => rfl, rfl, rfl⟩

theorem Dev.portEmptied_spec (d : Dev) (p : Nat) : ((d.portEmptied p).coupPort p).inbox = [] ∧ ((d.portEmptied p).coupPort p).waiting = [] ∧
    (d.portEmptied p).portState p = d.portState p ∧ (d.portEmptied p).contexts = d.contexts ∧ (d.portEmptied p).mem = d.mem := by
  obtain ⟨-, mem, -, contexts⟩ := (Dev.count_reported (d.setCoup p { badLanes := (d.coupPort p).badLanes, lastTry := d.now })
    Reg.couplingPortCounters_discarded p (((d.coupPort p).inbox ++ (d.coupPort p).waiting).filter countedLost).length).frame
  have port : (d.portEmptied p).coupPort p = { badLanes := (d.coupPort p).badLanes, lastTry := d.now } := by
    rw [Dev.portEmptied, Dev.coupPort_count, Dev.coupPort_setCoup_same]
  refine ⟨by rw [port], by rw [port], ?_, contexts, mem⟩
  rw [Dev.portState, Dev.portEmptied, Dev.rd_count_off_ne _ _ _ _ _ _ (.inl (by decide)), Dev.rd_setCoup, Dev.portState]

theorem Dev.portMarked_state (d : Dev) (p s : Nat) : (d.portMarked p s).portState p = s := by
  rw [Dev.portState, Dev.portMarked, Dev.rd_count_off_ne _ _ _ _ _ _ (.inr (by decide)), Dev.rd_wr_same]

theorem Dev.portDown_unwaited_spec {d : Dev} {p s : Nat} (up : d.portIsUp p = true) (waiters : d.waiters = []) (remote : d.remoteWaits = []) :
    let w := d.portDown p s
    w.portState p = s ∧ (w.coupPort p).inbox = [] ∧ (w.coupPort p).waiting = [] ∧ (downCause p s).lasting ∈ w.lasting ∧
      w.contexts = d.contexts ∧ w.mem = d.mem := by
  rw [Dev.portDown_unwaited up waiters remote]
  intro w
  obtain ⟨inbox, waiting, state, contexts, mem⟩ := (d.portMarked p s).portEmptied_spec p
  obtain ⟨-, mem', -, contexts'⟩ := (d.portMarked_reported p s).frame
  obtain ⟨relayRd, relayPort, relayContexts, relayMem⟩ := ((d.portMarked p s).portEmptied p).relayEnded_frame (d.peerOf p)
  have r := Dev.beginLasting_reported (((d.portMarked p s).portEmptied p).relayEnded (d.peerOf p)) (downCause p s)
  obtain ⟨-, lastMem, -, lastContexts⟩ := r.frame
  have port := (r.coupling.1 p).trans (relayPort p)
  have rd : w.portState p = _ :=
    (Dev.rd_beginLasting _ (downCause p s) Reg.couplingPortState_state p rfl).trans (relayRd Reg.couplingPortState_state p)
  exact ⟨rd.trans (state.trans (d.portMarked_state p s)), (congrArg CoupPort.inbox port).trans inbox, (congrArg CoupPort.waiting port).trans waiting,
    Dev.lasting_mem_beginLasting _ _, lastContexts.trans (relayContexts.trans (contexts.trans contexts')),
    lastMem.trans (relayMem.trans (mem.trans mem'))⟩

/-! ### Reset notices (R525) -/

theorem resetNoticeEffect_other {d : Dev} {p : Nat} (h : d.nextMessage p .control ≠ some .resetNotice) : resetNoticeEffect p d = d := by
  unfold resetNoticeEffect; split
  · next notice => exact absurd notice h
  · rfl

theorem resetNoticeEffect_notice {d : Dev} {p : Nat} (h : d.nextMessage p .control = some .resetNotice) :
    resetNoticeEffect p d = (d.takeMessage p .resetNotice).portDown p portIsDown := by simp only [resetNoticeEffect, h]

/-! ### Waiters withdrawn (R414) -/

theorem Tbl.find?_erase_ne {κ α : Type} [DecidableEq κ] (t : Tbl κ α) {k j : κ} (h : k ≠ j) : (t.erase k).find? j = t.find? j := by
  induction t with
  | nil => rfl
  | cons e t ih =>
    by_cases here : e.1 = k
    · rw [Tbl.erase, List.filter_cons_of_neg (by simpa using here), Tbl.find?, if_neg (here ▸ h)]; exact ih
    · rw [Tbl.erase, List.filter_cons_of_pos (by simpa using here), Tbl.find?, Tbl.find?]; exact if_congr Iff.rfl rfl ih

theorem Tbl.mem_of_find? {κ α : Type} [DecidableEq κ] {t : Tbl κ α} {k : κ} {a : α} (h : t.find? k = some a) : (k, a) ∈ t := by
  induction t with
  | nil => cases h
  | cons e t ih =>
    rw [Tbl.find?] at h
    split at h
    · next same => cases h; rw [← same]; exact List.mem_cons_self
    · exact List.mem_cons_of_mem _ (ih h)

theorem Dev.counterQueue_setCounterQueue_ne (d : Dev) {k j : Nat} (ws : List Waiter) (h : k ≠ j) :
    (d.setCounterQueue k ws).counterQueue j = d.counterQueue j := by
  unfold Dev.setCounterQueue Dev.counterQueue
  dsimp only; split
  · rw [Tbl.getD, Tbl.find?_erase_ne _ h, Tbl.getD]
  · exact Tbl.getD_put_ne _ _ _ h

/-- Releasing the head of a counter's queue leaves every other queue alone. -/
theorem Dev.counterQueue_releaseHead_ne (d : Dev) {k j : Nat} (w : Waiter) (ws : List Waiter) (h : k ≠ j) :
    (d.releaseHead k w ws).counterQueue j = d.counterQueue j := by
  unfold Dev.releaseHead
  rw [Dev.counterQueue_of_waiters (Dev.grantWho_spec _ _).2.1]
  obtain ⟨b, boosts⟩ := Dev.checkRemoteBoost_eq
    ((d.wr Reg.signalCounterState_count k (d.rd Reg.signalCounterState_count k - w.need)).setCounterQueue k ws) k
  rw [boosts]
  exact Dev.counterQueue_setCounterQueue_ne _ ws h

/-- Every waiter on a counter is one that stays. -/
def Dev.allStay (gone : Who → Bool) (d : Dev) (k : Nat) : Prop := ∀ w ∈ d.counterQueue k, gone w.who = false

theorem Dev.allStay_releaseHeads {gone : Who → Bool} (n k j : Nat) : ∀ {d : Dev}, d.allStay gone j → (d.releaseHeads n k).allStay gone j := by
  induction n with
  | zero => exact fun h => h
  | succ n ih =>
    intro d h
    unfold Dev.releaseHeads; split
    · exact h
    next w ws queue =>
    split
    · refine ih (d := d.releaseHead k w ws) ?_
      unfold Dev.allStay
      by_cases same : k = j
      · subst same
        rw [(d.releaseHead_spec k w ws).1]
        exact fun v mem => h v (queue ▸ List.mem_cons_of_mem _ mem)
      · rw [Dev.counterQueue_releaseHead_ne _ _ _ same]
        exact h
    · exact h

/-- One counter's waiters withdrawn, and the heads behind them decided. -/
def Dev.withdrawAt (gone : Who → Bool) (d : Dev) (k : Nat) : Dev :=
  ((d.setCounterQueue k ((d.counterQueue k).filter fun w => !gone w.who)).checkRemoteBoost k).decide_ k

theorem Dev.withdraw_eq (d : Dev) (gone : Who → Bool) : d.withdraw gone =
    ((d.waiters.filter fun e => e.2.any fun w => gone w.who).map (·.1)).foldl (Dev.withdrawAt gone) d := rfl

theorem Dev.allStay_withdrawAt (gone : Who → Bool) (d : Dev) (k j : Nat) (h : k = j ∨ d.allStay gone j) : (d.withdrawAt gone k).allStay gone j := by
  refine Dev.allStay_releaseHeads _ k j ?_
  obtain ⟨b, boosts⟩ := (d.setCounterQueue k ((d.counterQueue k).filter fun w => !gone w.who)).checkRemoteBoost_eq k
  unfold Dev.allStay
  rw [boosts]
  show ∀ w ∈ (d.setCounterQueue k _).counterQueue j, _
  by_cases same : k = j
  · subst same
    rw [Dev.counterQueue_setCounterQueue_same]
    exact fun w mem => by simpa using (List.mem_filter.1 mem).2
  · rw [Dev.counterQueue_setCounterQueue_ne _ _ same]
    exact h.resolve_left same

theorem Dev.allStay_foldl_withdrawAt (gone : Who → Bool) (j : Nat) (ks : List Nat) : ∀ d : Dev, j ∈ ks ∨ d.allStay gone j →
    (ks.foldl (Dev.withdrawAt gone) d).allStay gone j := by
  induction ks with
  | nil => exact fun d h => h.resolve_left (by simp)
  | cons k ks ih =>
    intro d h
    refine ih _ ?_
    by_cases later : j ∈ ks
    · exact .inl later
    · exact .inr (d.allStay_withdrawAt gone k j (h.imp_left fun mem => ((List.mem_cons.1 mem).resolve_right later).symm))

/-- A waiter that is to leave is in one of the queues that are gone through. -/
theorem Dev.allStay_withdraw (d : Dev) (gone : Who → Bool) (k : Nat) : (d.withdraw gone).allStay gone k := by
  rw [Dev.withdraw_eq]
  refine Dev.allStay_foldl_withdrawAt gone k _ d ?_
  by_cases stay : d.allStay gone k
  · exact .inr stay
  refine .inl ?_
  unfold Dev.allStay at stay
  push Not at stay
  obtain ⟨w, mem, leaves⟩ := stay
  cases found : d.waiters.find? k with
  | none =>
    rw [Dev.counterQueue, Tbl.getD, found] at mem
    cases mem
  | some ws =>
    rw [Dev.counterQueue, Tbl.getD, found] at mem
    refine List.mem_map.2 ⟨(k, ws), List.mem_filter.2 ⟨Tbl.mem_of_find? found, List.any_eq_true.2 ⟨w, mem, ?_⟩⟩, rfl⟩
    simpa using leaves

/-! ### Credits (R521) -/

/-- One credit more of a class, up to what its receive buffer gives. -/
def CoupPort.credited (x : CoupPort) (c : CoupClass) : CoupPort :=
  match c with
  | .control => { x with control := min 32 (x.control + 1) }
  | .signal => { x with signal := min 64 (x.signal + 1) }
  | .data => x

theorem creditReturnEffect_up {d : Dev} {p : Nat} (up : d.portIsUp p = true) (c : CoupClass) :
    creditReturnEffect p c d = (d.updCoup p fun x => x.credited c).drainClass (d.coupPort p).waiting.length p c := by
  have waiting : ((d.updCoup p fun x => x.credited c).coupPort p).waiting = (d.coupPort p).waiting := by
    rw [Dev.coupPort_updCoup_same]; cases c <;> rfl
  rw [← waiting]
  simp only [creditReturnEffect]
  rw [if_neg (by simp [up])]
  rfl

theorem Dev.drainClass_none {d : Dev} {p : Nat} {c : CoupClass} (h : ∀ m ∈ (d.coupPort p).waiting, msgClass m ≠ c) (n : Nat) :
    d.drainClass n p c = d := by
  have none_ : ((d.coupPort p).waiting.find? fun m => msgClass m == c) = none := List.find?_eq_none.2 fun m mem => by simpa using h m mem
  cases n with
  | zero => rfl
  | succ n => simp only [Dev.drainClass, none_]

theorem Dev.drainClass_noCredit {d : Dev} {p : Nat} {c : CoupClass} (h : (d.coupPort p).credit c = 0) (n : Nat) : d.drainClass n p c = d := by
  cases n with
  | zero => rfl
  | succ n =>
    unfold Dev.drainClass; dsimp only; split
    · rfl
    · exact if_pos h

theorem Dev.drainClass_head {d : Dev} {p : Nat} {m : CouplingMessage} {rest : List CouplingMessage} (h : (d.coupPort p).waiting = m :: rest)
    (credit : (d.coupPort p).credit (msgClass m) ≠ 0) (n : Nat) : d.drainClass (n + 1) p (msgClass m) =
      Dev.drainClass n ((d.setCoup p { (d.coupPort p).spend (msgClass m) with waiting := rest }).send (.coupling p m)) p (msgClass m) := by
  have first : ((d.coupPort p).waiting.find? fun w => msgClass w == msgClass m) = some m := by rw [h, List.find?_cons_of_pos (by simp)]
  have erased : (d.coupPort p).waiting.erase m = rest := by rw [h, List.erase_cons_head]
  rw [Dev.drainClass]
  simp only [first, erased]
  exact if_neg credit

/-- The credit that returns sends the oldest message of its class that waits, where it is the port's first. -/
theorem creditReturnEffect_sends {d : Dev} {p : Nat} {m : CouplingMessage} {rest : List CouplingMessage} (up : d.portIsUp p = true)
    (waiting : (d.coupPort p).waiting = m :: rest) (notData : msgClass m ≠ .data) (none_ : (d.coupPort p).credit (msgClass m) = 0) :
    let w := creditReturnEffect p (msgClass m) d
    (w.coupPort p).waiting = rest ∧ (w.coupPort p).credit (msgClass m) = 0 ∧ .coupling p m ∈ w.sent := by
  have port := d.coupPort_updCoup_same p fun x => x.credited (msgClass m)
  have head : ((d.updCoup p fun x => x.credited (msgClass m)).coupPort p).waiting = m :: rest := by
    rw [port, ← waiting]; cases msgClass m <;> rfl
  have one : ((d.coupPort p).credited (msgClass m)).credit (msgClass m) = 1 := by
    generalize msgClass m = c at notData none_ ⊢
    cases c with
    | control => exact (congrArg (fun k => min 32 (k + 1)) none_).trans rfl
    | signal => exact (congrArg (fun k => min 64 (k + 1)) none_).trans rfl
    | data => exact absurd rfl notData
  have spent (x : CoupPort) (h : x.credit (msgClass m) = 1) : ({ x.spend (msgClass m) with waiting := rest } : CoupPort).credit (msgClass m) = 0 := by
    generalize msgClass m = c at notData h ⊢
    cases c with
    | control => exact (congrArg (· - 1) h).trans rfl
    | signal => exact (congrArg (· - 1) h).trans rfl
    | data => exact absurd rfl notData
  rw [creditReturnEffect_up up, waiting, List.length_cons, Dev.drainClass_head head (by rw [port, one]; decide), Dev.drainClass_noCredit]
  · simp only [Dev.coupPort_send, Dev.coupPort_setCoup_same]
    exact ⟨trivial, spent _ (by rw [port, one]), List.mem_cons_self⟩
  · rw [Dev.coupPort_send, Dev.coupPort_setCoup_same]
    exact spent _ (by rw [port, one])

theorem Dev.coupSend_waits {d : Dev} {p : Nat} {m : CouplingMessage}
    (h : (d.coupPort p).credit (msgClass m) = 0 ∨ ∃ w ∈ (d.coupPort p).waiting, msgClass w = msgClass m) :
    d.coupSend p m = d.setCoup p { d.coupPort p with waiting := (d.coupPort p).waiting ++ [m] } :=
  if_pos (by simpa using h)

theorem Dev.coupSend_goes {d : Dev} {p : Nat} {m : CouplingMessage} (credit : (d.coupPort p).credit (msgClass m) ≠ 0)
    (first : ∀ w ∈ (d.coupPort p).waiting, msgClass w ≠ msgClass m) :
    d.coupSend p m = (d.setCoup p ((d.coupPort p).spend (msgClass m))).send (.coupling p m) :=
  if_neg (by simpa [credit] using first)

theorem CoupPort.credit_spend {x : CoupPort} {c : CoupClass} (h : x.credit c ≠ 0) :
    (x.spend c).credit c + (if c = .data then 0 else 1) = x.credit c := by
  cases c with
  | control => exact Nat.sub_add_cancel (Nat.pos_of_ne_zero h)
  | signal => exact Nat.sub_add_cancel (Nat.pos_of_ne_zero h)
  | data => rfl

end Sys2Proof.Machine
end

section
/-! The statement on Coupling ports (R514 to R530), settled. -/

namespace Sys2Proof.CouplingFamily
open Sys2Proof.Machine Sys2Proof.Safety

/-- Settles O58, one clause of each operation of a port at a time; that no waiter withdrawn stays in a queue is the invariant `allStay` of
the queues gone through. -/
theorem couplingPorts : Obligations.CouplingPorts := by
  refine ⟨?down, ?blocks, ?lanes, ?trained, ?retry, ?lost, fun d gone k => d.allStay_withdraw gone k, ?credits,
    fun d p m => ⟨fun h => ?waits, fun credit first => ?goes⟩⟩
  case down =>
    intro s p down
    exact ⟨fun g n ms w => leads_of rfl w (codeBlockReceivedEffect_down down g n ms), fun l w => leads_of rfl w (laneRepairEffect_down down l),
      fun w => leads_of rfl w (Dev.portDown_of_down down _), fun c w => leads_of rfl w (creditReturnEffect_down down c),
      fun w => leads_of rfl w (resetNoticeEffect_down down)⟩
  case blocks =>
    intro s p n ms up
    refine ⟨fun w plain => leads_of rfl w (codeBlockReceivedEffect_good up plain), fun w => ⟨fun few => leads_of rfl w ?_, fun many => leads_of rfl w ?_⟩⟩
    · exact (codeBlockReceivedEffect_bad up).trans (if_neg (by omega))
    · exact (codeBlockReceivedEffect_bad up).trans (if_pos many)
  case lanes =>
    intro s p l w
    refine ⟨fun idle => leads_of rfl w (laneRepairEffect_idle idle), fun up serves => ⟨fun used => ?_, fun free => yields_of rfl w ?_⟩⟩
    · exact leads_of rfl w (laneRepairEffect_last up serves used)
    · rw [laneRepairEffect_spare up serves free]
      rw [settle_flag, settle_portIsUp, settle_attentionBit, settle_rd, settle_coupPort, settle_waiters, settle_mem]
      exact Dev.spareServes_spec l up
  case trained =>
    intro s p i z n w
    refine ⟨fun idle => leads_of rfl w (portTrainedEffect_idle i z n idle), fun trains other => leads_of rfl w (portTrainedEffect_mismatch trains other),
      fun trains fits => yields_of rfl w ?_⟩
    have spec := portTrainedEffect_up_spec trains fits
    simpa only [Dev.portIsUp, Dev.portState, settle_rd, settle_coupPort, settle_lasting, settle_mem] using spec
  case retry =>
    intro s p w
    refine ⟨fun early => leads_of rfl w (portTrainRetryEffect_idle early), fun due => yields_of rfl w ?_⟩
    rw [portTrainRetryEffect_due due, settle_coupPort, Dev.portState, settle_rd, settle_mem]
    exact s.dev.trainPort_spec p
  case lost =>
    intro s p up
    refine ⟨fun w => ⟨leads_of rfl w rfl, fun waiters remote => yields_of rfl w ?_⟩, fun w => ⟨fun h => ?_, fun h => ?_⟩⟩
    · obtain ⟨state, inbox, waiting, cause, contexts, mem⟩ := Dev.portDown_unwaited_spec (s := portIsDown) up waiters remote
      rw [blockLockLossEffect, settle_portState, settle_coupPort, settle_lasting, settle_contexts, settle_mem]
      exact ⟨state, inbox, waiting, List.any_eq_true.2 ⟨_, cause, beq_iff_eq.2 rfl⟩, contexts, mem⟩
    · exact leads_of rfl w (resetNoticeEffect_other h)
    · exact leads_of rfl w (resetNoticeEffect_notice h)
  case credits =>
    intro s p c w up
    refine ⟨fun none_ => leads_of rfl w ?_, fun m rest waiting class_ notData credit => yields_of rfl w ?_⟩
    · have waiting : ((s.dev.updCoup p fun x => x.credited c).coupPort p).waiting = (s.dev.coupPort p).waiting := by
        rw [Dev.coupPort_updCoup_same]; cases c <;> rfl
      rw [creditReturnEffect_up up, Dev.drainClass_none (by rwa [waiting])]
      rfl
    · subst class_
      obtain ⟨left, spent, sent⟩ := creditReturnEffect_sends up waiting notData credit
      rw [settle_coupPort]
      exact ⟨left, spent, mem_sent_settle sent⟩
  case waits =>
    rw [Dev.coupSend_waits h]
    exact ⟨rfl, by rw [Dev.coupPort_setCoup_same]⟩
  case goes =>
    rw [Dev.coupSend_goes credit first, Dev.coupPort_send, Dev.coupPort_setCoup_same]
    exact ⟨rfl, CoupPort.credit_spend credit⟩

end Sys2Proof.CouplingFamily
end

section
/-! SUPPORT. The Gauge and the bubble law: what an epoch keeps, and what bubbles remove (R479 to R497). -/

namespace Sys2Proof.Machine

/-! ### The bubble law (R482) -/

/-- A fraction of a class, in 64ths up to 60, that removes `x` of its work `a`, or the most. -/
def fractionFor (x a : Rat) : Nat := min 60 (64 * x / a).ceil.toNat

theorem fractionFor_le (x a : Rat) : fractionFor x a ≤ 60 := Nat.min_le_left _ _

/-- A fraction below 60 removes enough. -/
theorem le_fractionFor {x a : Rat} (pos : 0 < a) (less : fractionFor x a < 60) : x ≤ (fractionFor x a : Rat) / 64 * a := by
  have toNat : fractionFor x a = (64 * x / a).ceil.toNat := by unfold fractionFor at less ⊢; omega
  have up : 64 * x / a ≤ ((64 * x / a).ceil.toNat : Rat) := by
    have ceil : 64 * x / a ≤ ((64 * x / a).ceil : Rat) := Rat.le_ceil
    have nat : ((64 * x / a).ceil : Rat) ≤ ((64 * x / a).ceil.toNat : Rat) := by exact_mod_cast Int.self_le_toNat _
    exact ceil.trans nat
  rw [toNat]
  rw [div_le_iff₀ pos] at up
  linarith

/-- One 64th less would not remove enough. -/
theorem fractionFor_lt {x a : Rat} (pos : 0 < a) (some_ : fractionFor x a ≠ 0) : ((fractionFor x a : Rat) - 1) / 64 * a < x := by
  have least : (fractionFor x a : Rat) ≤ ((64 * x / a).ceil.toNat : Rat) := by exact_mod_cast Nat.min_le_right _ _
  have ceilPos : 0 < (64 * x / a).ceil := by unfold fractionFor at some_; omega
  have cast : ((64 * x / a).ceil.toNat : Rat) = ((64 * x / a).ceil : Rat) := by exact_mod_cast Int.toNat_of_nonneg ceilPos.le
  have down : ((64 * x / a).ceil : Rat) < 64 * x / a + 1 := Rat.ceil_lt
  have step : (fractionFor x a : Rat) - 1 < 64 * x / a := by linarith
  rw [lt_div_iff₀ pos] at step
  linarith

/-- What is to be removed, where that is more than nothing. -/
def excess (p cap : Rat) (kBe kLc : Nat) (aBe aLc : Rat) : Rat := p + removed kBe kLc aBe aLc - cap

/-- The two fractions that remove `x`: best-effort work first, latency-critical work for what is left. -/
def beFraction (x aBe : Rat) : Nat := if x = 0 then 0 else if aBe = 0 then 60 else fractionFor x aBe
def lcFraction (x2 aLc : Rat) : Nat := if x2 ≤ 0 then 0 else if aLc = 0 then 0 else fractionFor x2 aLc

theorem bubbleTargets_eq (p cap : Rat) (kBe kLc : Nat) (aBe aLc : Rat) : bubbleTargets p cap kBe kLc aBe aLc =
    let x := max 0 (excess p cap kBe kLc aBe aLc)
    (beFraction x aBe, lcFraction (x - (beFraction x aBe : Rat) / 64 * aBe) aLc) := (rfl)

theorem beFraction_le (x aBe : Rat) : beFraction x aBe ≤ 60 := by
  unfold beFraction; split
  · exact Nat.zero_le _
  · split
    · exact le_refl _
    · exact fractionFor_le _ _

theorem lcFraction_le (x aLc : Rat) : lcFraction x aLc ≤ 60 := by
  unfold lcFraction; split
  · exact Nat.zero_le _
  · split
    · exact Nat.zero_le _
    · exact fractionFor_le _ _

theorem le_beFraction {x aBe : Rat} (nonneg : 0 ≤ aBe) (less : beFraction x aBe < 60) : x ≤ (beFraction x aBe : Rat) / 64 * aBe := by
  unfold beFraction at less ⊢
  by_cases zero : x = 0
  · simp [zero]
  · rw [if_neg zero] at less ⊢
    by_cases none_ : aBe = 0
    · rw [if_pos none_] at less; omega
    · rw [if_neg none_] at less ⊢
      exact le_fractionFor (lt_of_le_of_ne nonneg (Ne.symm none_)) less

theorem beFraction_lt {x aBe : Rat} (pos : 0 < aBe) (some_ : beFraction x aBe ≠ 0) : ((beFraction x aBe : Rat) - 1) / 64 * aBe < x := by
  unfold beFraction at some_ ⊢
  by_cases zero : x = 0
  · exact absurd (if_pos zero) some_
  · rw [if_neg zero, if_neg (ne_of_gt pos)] at some_ ⊢
    exact fractionFor_lt pos some_

theorem le_lcFraction {x aLc : Rat} (pos : 0 < aLc) (less : lcFraction x aLc < 60) : x ≤ (lcFraction x aLc : Rat) / 64 * aLc := by
  unfold lcFraction at less ⊢
  by_cases none_ : x ≤ 0
  · simp [none_]
  · rw [if_neg none_, if_neg (ne_of_gt pos)] at less ⊢
    exact le_fractionFor pos less

/-- Latency-critical work gets bubbles only while best-effort work has all it can have. -/
theorem beFraction_of_lcFraction {x aBe aLc : Rat} (nonneg : 0 ≤ aBe)
    (some_ : lcFraction (x - (beFraction x aBe : Rat) / 64 * aBe) aLc ≠ 0) : beFraction x aBe = 60 := by
  by_contra other
  have enough := le_beFraction (x := x) nonneg (Nat.lt_of_le_of_ne (beFraction_le x aBe) other)
  exact some_ (if_pos (by linarith))

/-- The bubble law as R482 gives it. -/
theorem bubbleTargets_spec (p cap aBe aLc : Rat) (kBe kLc : Nat) (be : 0 ≤ aBe) :
    let x := excess p cap kBe kLc aBe aLc
    let t := bubbleTargets p cap kBe kLc aBe aLc
    t.1 ≤ 60 ∧ t.2 ≤ 60 ∧ (x ≤ 0 → t = (0, 0)) ∧ (t.2 ≠ 0 → t.1 = 60) ∧ (t.1 < 60 → x ≤ (t.1 : Rat) / 64 * aBe) ∧
      (0 < aLc → t.2 < 60 → x ≤ removed t.1 t.2 aBe aLc) ∧ (0 < aBe → t.1 ≠ 0 → ((t.1 : Rat) - 1) / 64 * aBe < x) := by
  intro x t
  have targets : t = _ := bubbleTargets_eq p cap kBe kLc aBe aLc
  rw [targets]
  dsimp only
  have above : x ≤ max 0 x := le_max_right _ _
  refine ⟨beFraction_le _ _, lcFraction_le _ _, fun none_ => ?_, beFraction_of_lcFraction be, fun less => above.trans (le_beFraction be less),
    fun pos less => ?_, fun pos some_ => ?_⟩
  · have zero : max 0 x = 0 := max_eq_left none_
    have all : beFraction 0 aBe = 0 := if_pos rfl
    change (beFraction (max 0 x) aBe, _) = _
    simp [zero, all, lcFraction, x]
  · have left := le_lcFraction pos less
    unfold removed
    linarith
  · have cut := beFraction_lt pos some_
    have positive : max 0 x ≠ 0 := fun zero => some_ (if_pos zero)
    have same : max 0 x = x := by
      rcases le_total x 0 with le | le
      · exact absurd (max_eq_left le) positive
      · exact max_eq_right le
    exact cut.trans_eq same

end Sys2Proof.Machine
end

section
/-! SUPPORT. What an epoch of the Gauge keeps of its estimate and of memory (R479 to R497). -/

namespace Sys2Proof.Machine

/-- From `d` to `e` the estimate's object, the epochs' history and memory stay. -/
structure Dev.KeepsEpoch (d e : Dev) : Prop where
  mem : e.mem = d.mem
  hist : e.pw.hist = d.pw.hist
  rd : ∀ r i, r.obj = .powerEstimate → e.rd r i = d.rd r i

theorem Dev.KeepsEpoch.refl (d : Dev) : d.KeepsEpoch d := ⟨rfl, rfl, fun _ _ _ => rfl⟩

theorem Dev.KeepsEpoch.trans {a b c : Dev} (h : a.KeepsEpoch b) (k : b.KeepsEpoch c) : a.KeepsEpoch c :=
  ⟨k.mem.trans h.mem, k.hist.trans h.hist, fun r i n => (k.rd r i n).trans (h.rd r i n)⟩

theorem Dev.KeepsEpoch.foldl {α : Type} {f : Dev → α → Dev} (h : ∀ (d : Dev) (x : α), d.KeepsEpoch (f d x)) (l : List α) :
    ∀ d : Dev, d.KeepsEpoch (l.foldl f d) := by
  induction l with
  | nil => exact .refl
  | cons x l ih => exact fun d => (h d x).trans (ih _)

/-- A stage that may do one more thing. -/
theorem Dev.KeepsEpoch.ite {d a b : Dev} {c : Prop} [Decidable c] (yes : d.KeepsEpoch a) (no : d.KeepsEpoch b) :
    d.KeepsEpoch (if c then a else b) := by
  split
  exacts [yes, no]

theorem Dev.wr_keepsEpoch (d : Dev) {r : Reg} (h : r.obj ≠ .powerEstimate) (i v : Nat) : d.KeepsEpoch (d.wr r i v) :=
  ⟨rfl, rfl, fun _ _ n => d.rd_wr_off_ne _ _ _ _ _ (.inl fun e => h (e.trans n))⟩

theorem Dev.count_keepsEpoch (d : Dev) {r : Reg} (h : r.obj ≠ .powerEstimate) (i n : Nat) : d.KeepsEpoch (d.count r i n) :=
  ⟨(d.count_reported r i n).frame.2.1, by rw [(d.count_reported r i n).frame.1],
    fun _ _ k => d.rd_count_off_ne _ _ _ _ _ (.inl fun e => h (e.trans k))⟩

theorem Dev.updPw_keepsEpoch (d : Dev) {f : Power → Power} (h : (f d.pw).hist = d.pw.hist) : d.KeepsEpoch (d.updPw f) :=
  ⟨rfl, h, fun _ _ _ => d.rd_updPw _ _ _⟩

theorem Dev.updDomain_keepsEpoch (d : Dev) (x : Domain) (f : DomainState → DomainState) : d.KeepsEpoch (d.updDomain x f) :=
  ⟨rfl, rfl, fun r i _ => Dev.rd_of_regs rfl r i⟩

theorem Dev.beginLasting_keepsEpoch (d : Dev) (c : Cause) : d.KeepsEpoch (d.beginLasting c) := by
  obtain ⟨pw, mem, -⟩ := (d.beginLasting_reported c).frame
  exact ⟨mem, by rw [pw], fun r i n => d.rd_beginLasting c r i (by rw [n]; rfl)⟩

theorem Dev.endLasting_keepsEpoch (d : Dev) (p : Lasting → Bool) : d.KeepsEpoch (d.endLasting p) := ⟨rfl, rfl, fun r i _ => d.rd_endLasting p r i⟩

/-- A flag set and its lasting cause begun, or cleared and ended. -/
theorem Dev.flag_begin_keepsEpoch (d : Dev) {r : Reg} (h : r.obj ≠ .powerEstimate) (b : Bool) (c : Cause) :
    d.KeepsEpoch ((d.setFlag r 0 b).beginLasting c) := (d.wr_keepsEpoch h 0 (b2n b)).trans (Dev.beginLasting_keepsEpoch _ c)

theorem Dev.flag_end_keepsEpoch (d : Dev) {r : Reg} (h : r.obj ≠ .powerEstimate) (b : Bool) (p : Lasting → Bool) :
    d.KeepsEpoch ((d.setFlag r 0 b).endLasting p) := (d.wr_keepsEpoch h 0 (b2n b)).trans (Dev.endLasting_keepsEpoch _ p)

/-! ### The stages -/

/-- A domain with a command waits for its wake once, and is counted where its core's work is latency-critical. -/
def Dev.wakeWanted (d : Dev) (x : Domain) (lc : Bool) : Dev :=
  let d := d.updPw fun p => { p with wanted := p.wanted ++ [(x, lc)] }
  match x with
  | .arrays _ => if lc then d.count Reg.powerCounters_wakeWaits else d
  | .shell k => if lc && (d.domain (.arrays k)).running then d.count Reg.powerCounters_wakeWaits else d
  | _ => d

theorem Dev.wakeWanted_keepsEpoch (d : Dev) (x : Domain) (lc : Bool) : d.KeepsEpoch (d.wakeWanted x lc) := by
  have wanted := d.updPw_keepsEpoch (f := fun p => { p with wanted := p.wanted ++ [(x, lc)] }) rfl
  have counted := wanted.trans (Dev.count_keepsEpoch _ (r := Reg.powerCounters_wakeWaits) (by decide) 0 1)
  unfold Dev.wakeWanted
  cases x with
  | arrays k => dsimp only; split; exacts [counted, wanted]
  | shell k => dsimp only; split; exacts [counted, wanted]
  | _ => exact wanted

/-- A domain with a command is no longer idle. -/
def Dev.idleEnded (d : Dev) (x : Domain) : Dev :=
  if (d.domain x).idleSince.isSome then d.updDomain x fun s => { s with idleSince := none } else d

def Dev.unwanted (d : Dev) (x : Domain) : Dev := d.updPw fun p => { p with wanted := p.wanted.filter fun w => w.1 != x }

/-- One domain noticed (R477, R478). -/
def Dev.noticeDomain (d : Dev) (x : Domain) : Dev :=
  match d.domainWork x with
  | some lc =>
    if (d.domain x).running || (d.domain x).readyAt.isSome || (d.idleEnded x).pw.wanted.any (fun w => w.1 == x) then d.idleEnded x
    else (d.idleEnded x).wakeWanted x lc
  | none =>
    if (d.domain x).running && (d.domain x).idleSince.isNone then
      (d.unwanted x).updDomain x fun s => { s with idleSince := some (d.unwanted x).now }
    else d.unwanted x

theorem Dev.noticeDomains_eq (d : Dev) : d.noticeDomains = allDomains.foldl Dev.noticeDomain d := (rfl)

theorem Dev.noticeDomain_keepsEpoch (d : Dev) (x : Domain) : d.KeepsEpoch (d.noticeDomain x) := by
  have busy : d.KeepsEpoch (d.idleEnded x) := .ite (d.updDomain_keepsEpoch _ _) (.refl d)
  have idle : d.KeepsEpoch (d.unwanted x) := d.updPw_keepsEpoch rfl
  unfold Dev.noticeDomain
  split
  · exact .ite busy (busy.trans (Dev.wakeWanted_keepsEpoch _ _ _))
  · exact .ite (idle.trans (Dev.updDomain_keepsEpoch _ _ _)) idle

theorem Dev.noticeDomains_keepsEpoch (d : Dev) : d.KeepsEpoch d.noticeDomains :=
  d.noticeDomains_eq ▸ Dev.KeepsEpoch.foldl Dev.noticeDomain_keepsEpoch _ d

theorem Dev.noteDemand_keepsEpoch (d : Dev) (v : Nat) : d.KeepsEpoch (d.noteDemand v) := d.updPw_keepsEpoch rfl

/-- The thermal limit and the ceiling moved (R507). -/
theorem Dev.limit_keepsEpoch (d : Dev) (v : Rat) (c : Nat) :
    d.KeepsEpoch ((d.setWatts Reg.thermalHottest_pTh v).wr Reg.powerOpState_ceiling 0 c) :=
  (d.wr_keepsEpoch (by decide) 0 _).trans (Dev.wr_keepsEpoch _ (by decide) 0 c)

theorem Dev.throttle_keepsEpoch (d : Dev) (p : Rat) : d.KeepsEpoch (d.throttle p) := by
  unfold Dev.throttle
  dsimp only
  split
  · have hot := (d.count_keepsEpoch (r := Reg.thermalCounters_throttledEpochs) (by decide) 0 1).trans
      (Dev.updPw_keepsEpoch _ (f := fun p => { p with hotFor := p.hotFor + 1, coolFor := 0 }) rfl)
    split
    · exact hot.trans (Dev.limit_keepsEpoch _ _ _)
    · exact hot
  · split
    · have cool := d.updPw_keepsEpoch (f := fun p => { p with hotFor := 0, coolFor := d.pw.coolFor + 1 }) rfl
      have recovered : d.KeepsEpoch (if d.pw.coolFor + 1 = 39063 then
          Dev.endLasting ((d.updPw fun p => { p with hotFor := 0, coolFor := d.pw.coolFor + 1 }).updPw fun p => { p with throttling := false })
            fun l => l == throttleCause.lasting
          else d.updPw fun p => { p with hotFor := 0, coolFor := d.pw.coolFor + 1 }) := by
        split
        · exact (cool.trans (Dev.updPw_keepsEpoch _ rfl)).trans (Dev.endLasting_keepsEpoch _ _)
        · exact cool
      split
      · exact recovered.trans (Dev.limit_keepsEpoch _ _ _)
      · exact recovered
    · exact d.updPw_keepsEpoch rfl

/-- One wake admitted, or held (R485). -/
def admitWake (acc : Dev × Slope) (w : Domain × Bool) : Dev × Slope :=
  if acc.1.pw.fits (acc.2.pred + acc.1.wakeStep w.1) then
    ((acc.1.unwanted w.1).updDomain w.1 fun x => { x with readyAt := some (acc.1.now + wakeTicks w.1 (acc.1.domain w.1).powered) },
      { acc.2 with pred := acc.2.pred + acc.1.wakeStep w.1 })
  else (acc.1, { acc.2 with held := acc.2.held + 1 })

theorem Dev.admitWakes_eq (d : Dev) (s : Slope) (latency : Bool) :
    d.admitWakes s latency = (d.pw.wanted.filter fun w => w.2 == latency).foldl admitWake (d, s) := (rfl)

theorem admitWake_keepsEpoch (acc : Dev × Slope) (w : Domain × Bool) : acc.1.KeepsEpoch (admitWake acc w).1 := by
  unfold admitWake
  split
  · have dropped : acc.1.KeepsEpoch (acc.1.unwanted w.1) := acc.1.updPw_keepsEpoch rfl
    dsimp only
    exact dropped.trans (Dev.updDomain_keepsEpoch _ _ _)
  · exact .refl acc.1

theorem foldl_admitWake_keepsEpoch (l : List (Domain × Bool)) : ∀ acc : Dev × Slope, acc.1.KeepsEpoch (l.foldl admitWake acc).1 := by
  induction l with
  | nil => exact fun acc => .refl acc.1
  | cons w l ih => exact fun acc => (admitWake_keepsEpoch acc w).trans (ih _)

theorem Dev.admitWakes_keepsEpoch (d : Dev) (s : Slope) (latency : Bool) : d.KeepsEpoch (d.admitWakes s latency).1 :=
  d.admitWakes_eq s latency ▸ foldl_admitWake_keepsEpoch _ (d, s)

theorem Dev.limitSlope_keepsEpoch (d : Dev) (p : Rat) (t : Nat × Nat) (aBe aLc : Rat) : d.KeepsEpoch (d.limitSlope p t aBe aLc) := by
  unfold Dev.limitSlope
  dsimp only
  exact (((((d.admitWakes_keepsEpoch _ true).trans (Dev.admitWakes_keepsEpoch _ _ false)).trans
    (Dev.wr_keepsEpoch _ (r := Reg.powerOpState_kBe) (by decide) 0 _)).trans
    (Dev.wr_keepsEpoch _ (r := Reg.powerOpState_kLc) (by decide) 0 _)).trans (Dev.updPw_keepsEpoch _ rfl)).trans
    (Dev.count_keepsEpoch _ (r := Reg.powerCounters_slopeHeld) (by decide) 0 _)

theorem Dev.moveWindows_keepsEpoch (d : Dev) (beyond : Bool) : d.KeepsEpoch (d.moveWindows beyond) := by
  have flagged (e : Dev) (b : Bool) := e.wr_keepsEpoch (r := Reg.powerOpState_capped) (by decide) 0 (b2n b)
  have moved (f : Power → Power) (h : (f d.pw).hist = d.pw.hist) (a b c : Bool) (n : Nat) : d.KeepsEpoch
      (if a then (d.updPw f).setFlag Reg.powerOpState_capped 0 true
        else if 3907 ≤ (d.updPw f).pw.uncappedFor then (d.updPw f).setFlag Reg.powerOpState_capped 0 false else d.updPw f) :=
    (d.updPw_keepsEpoch h).trans (.ite (flagged _ true) (.ite (flagged _ false) (.refl _)))
  have counted (e : Dev) : e.KeepsEpoch (if 0 < d.rd Reg.powerOpState_kLc then e.count Reg.powerCounters_lcEpochs else e) :=
    .ite (e.count_keepsEpoch (by decide) 0 1) (.refl e)
  have held (e : Dev) : e.KeepsEpoch (if e.headroom then e else e.count Reg.powerCounters_heldEpochs) :=
    .ite (.refl e) (e.count_keepsEpoch (by decide) 0 1)
  exact ((moved _ rfl _ false false 0).trans (counted _)).trans (held _)

theorem Dev.stopBestEffort_keepsEpoch (d : Dev) (cap : Rat) : d.KeepsEpoch (d.stopBestEffort cap) := by
  refine (d.updPw_keepsEpoch (f := fun p => { p with below := decide (cap ≤ d.watts Reg.powerDemand_floor) }) rfl).trans ?_
  exact .ite (.ite (Dev.flag_end_keepsEpoch _ (by decide) _ _) (.refl _)) (.ite (Dev.flag_begin_keepsEpoch _ (by decide) _ _) (.refl _))

theorem Dev.checkUnreachable_keepsEpoch (d : Dev) : d.KeepsEpoch d.checkUnreachable :=
  .ite (.ite (d.flag_end_keepsEpoch (by decide) _ _) (.refl _)) (.ite (d.flag_begin_keepsEpoch (by decide) _ _) (.refl _))

theorem Dev.changeDecided_keepsEpoch (d : Dev) (q : Nat) :
    d.KeepsEpoch ((d.updPw fun w => { w with changeTo := some q }).setFlag Reg.powerOpState_changing 0 true) :=
  (d.updPw_keepsEpoch rfl).trans (Dev.wr_keepsEpoch _ (by decide) 0 _)

theorem Dev.decidePoint_keepsEpoch (d : Dev) (p cap aBe aLc : Rat) : d.KeepsEpoch (d.decidePoint p cap aBe aLc) :=
  .ite (.refl d) (.ite (d.changeDecided_keepsEpoch _) (.ite (d.changeDecided_keepsEpoch _) (.refl d)))

/-! ### The epoch -/

/-- The estimate's fields written (R480 to R483) and the history and the means moved on. -/
def Dev.estimated (d : Dev) (pEst pCtl aBe aLc : Rat) : Dev :=
  (((((((d.setWatts Reg.powerEstimate_pEst pEst).setWatts Reg.powerEstimate_pCtl pCtl).setWatts Reg.powerEstimate_capEff d.capEff).setWatts
    Reg.powerEstimate_aBe aBe).setWatts Reg.powerEstimate_aLc aLc).setWatts Reg.powerEstimate_headroom (d.capEff - pCtl)).updPw fun p =>
      { p with hist := (f32Of pEst :: p.hist).take 4, sumEst := p.sumEst + pEst, countEst := p.countEst + 1 })

theorem Dev.rd_setWatts_ne (d : Dev) (r p : Reg) (v : Rat) (h : r.off ≠ p.off) : (d.setWatts r v).rd p = d.rd p :=
  d.rd_wr_off_ne _ _ _ _ _ (.inr h)

theorem Dev.estimated_spec (d : Dev) (pEst pCtl aBe aLc : Rat) :
    (d.estimated pEst pCtl aBe aLc).rd Reg.powerEstimate_pEst = f32Of pEst ∧
    (d.estimated pEst pCtl aBe aLc).rd Reg.powerEstimate_pCtl = f32Of pCtl ∧
    (d.estimated pEst pCtl aBe aLc).pw.hist = (f32Of pEst :: d.pw.hist).take 4 ∧ (d.estimated pEst pCtl aBe aLc).mem = d.mem := by
  refine ⟨?_, ?_, rfl, rfl⟩
  · rw [Dev.estimated, Dev.rd_updPw, Dev.rd_setWatts_ne, Dev.rd_setWatts_ne, Dev.rd_setWatts_ne, Dev.rd_setWatts_ne, Dev.rd_setWatts_ne,
      Dev.setWatts, Dev.rd_wr_same]
    all_goals decide
  · rw [Dev.estimated, Dev.rd_updPw, Dev.rd_setWatts_ne, Dev.rd_setWatts_ne, Dev.rd_setWatts_ne, Dev.rd_setWatts_ne,
      Dev.setWatts, Dev.rd_wr_same]
    all_goals decide

/-- What an epoch does before the estimate is written, and after. -/
def Dev.beforeEstimate (d : Dev) (v : Nat) (pCtl : Rat) : Dev := (d.noticeDomains.noteDemand v).throttle pCtl

def Dev.afterEstimate (d : Dev) (pEst pCtl cap aBe aLc : Rat) (t : Nat × Nat) : Dev :=
  ((((d.limitSlope pEst (d.epochTargets t) aBe aLc).moveWindows (decide (cap < pCtl))).stopBestEffort cap).checkUnreachable).decidePoint
    pCtl cap aBe aLc

theorem gaugeEpochEffect_eq (es : List Activity) (zs : List ZoneLoad) (d : Dev) : gaugeEpochEffect es zs d =
    let kb := d.rd Reg.powerOpState_kBe
    let kl := d.rd Reg.powerOpState_kLc
    let p := d.watts Reg.powerEstimateGain * d.rawPower es zs + d.watts Reg.powerEstimateOffset
    let aBe := d.unbubbled es false kb
    let aLc := d.unbubbled es true kl
    let e := d.beforeEstimate (f32Of (d.controlled p + removed kb kl aBe aLc +
      (d.noticeDomains.pointFactor (d.noticeDomains.rd Reg.powerOpMax) / d.noticeDomains.pointFactor d.noticeDomains.point - 1) * (aBe + aLc)))
      (d.controlled p)
    (e.estimated p (d.controlled p) aBe aLc).afterEstimate p (d.controlled p) e.capEff aBe aLc
      (bubbleTargets (d.controlled p) e.capEff kb kl aBe aLc) := (rfl)

theorem Dev.beforeEstimate_keepsEpoch (d : Dev) (v : Nat) (pCtl : Rat) : d.KeepsEpoch (d.beforeEstimate v pCtl) :=
  (d.noticeDomains_keepsEpoch.trans (Dev.noteDemand_keepsEpoch _ _)).trans (Dev.throttle_keepsEpoch _ _)

theorem Dev.afterEstimate_keepsEpoch (d : Dev) (pEst pCtl cap aBe aLc : Rat) (t : Nat × Nat) :
    d.KeepsEpoch (d.afterEstimate pEst pCtl cap aBe aLc t) :=
  ((((d.limitSlope_keepsEpoch _ _ _ _).trans (Dev.moveWindows_keepsEpoch _ _)).trans (Dev.stopBestEffort_keepsEpoch _ _)).trans
    (Dev.checkUnreachable_keepsEpoch _)).trans (Dev.decidePoint_keepsEpoch _ _ _ _ _)

theorem gaugeEpochEffect_spec (es : List Activity) (zs : List ZoneLoad) (d : Dev) :
    let p := d.watts Reg.powerEstimateGain * d.rawPower es zs + d.watts Reg.powerEstimateOffset
    let w := gaugeEpochEffect es zs d
    w.rd Reg.powerEstimate_pEst = f32Of p ∧ w.rd Reg.powerEstimate_pCtl = f32Of (d.controlled p) ∧
      w.pw.hist = (f32Of p :: d.pw.hist).take 4 ∧ w.mem = d.mem := by
  intro p w
  obtain ⟨e, cap, aBe, aLc, t, kept, eq⟩ : ∃ e cap aBe aLc t, d.KeepsEpoch e ∧
      w = (e.estimated p (d.controlled p) aBe aLc).afterEstimate p (d.controlled p) cap aBe aLc t :=
    ⟨_, _, _, _, _, d.beforeEstimate_keepsEpoch _ _, gaugeEpochEffect_eq es zs d⟩
  rw [eq]
  have rest := (e.estimated p (d.controlled p) aBe aLc).afterEstimate_keepsEpoch p (d.controlled p) cap aBe aLc t
  obtain ⟨est, ctl, hist, mem⟩ := e.estimated_spec p (d.controlled p) aBe aLc
  exact ⟨(rest.rd _ _ rfl).trans est, (rest.rd _ _ rfl).trans ctl, by rw [rest.hist, hist, kept.hist], by rw [rest.mem, mem, kept.mem]⟩

end Sys2Proof.Machine
end

section
/-! SUPPORT. Domains, changes of the operating point, demands and readings of power (R477, R478, R489, R492, R499 to R501). -/

namespace Sys2Proof.Machine

/-! ### Domains (R477, R478) -/

/-- A domain reads the power record, fields of ports and the endpoint's memory state. -/
theorem Dev.domain_congr {d e : Dev} (pw : e.pw = d.pw) (regs : e.regs = d.regs) (ep : e.ep.memoryReady = d.ep.memoryReady) (x : Domain) :
    e.domain x = d.domain x := by
  have rd (r : Reg) (i : Nat) : e.rd r i = d.rd r i := Dev.rd_of_regs regs r i
  simp only [Dev.domain, Dev.flag, rd, pw, ep]

theorem Dev.domain_updDomain_ne (d : Dev) {x y : Domain} (f : DomainState → DomainState) (h : y ≠ x) :
    (d.updDomain x f).domain y = d.domain y := by
  have other : (d.pw.domains.put x (f (d.domain x))).getD y {} = d.pw.domains.getD y {} := Tbl.getD_put_ne _ _ _ (Ne.symm h)
  cases y with
  | coupling p => rfl
  | ethernet p => rfl
  | phy n => rfl
  | _ => exact other

/-- A domain that runs without work is no port's and not the PHY's. -/
theorem Dev.domain_updDomain_idle {d : Dev} {x : Domain} (f : DomainState → DomainState) (running : (d.domain x).running = true)
    (work : d.domainWork x = none) : (d.updDomain x f).domain x = f (d.domain x) := by
  have stored : (d.pw.domains.put x (f (d.domain x))).getD x {} = f (d.domain x) := Tbl.getD_put_same _ _ _ _
  cases x with
  | coupling p =>
    have on : d.flag Reg.couplingPortEnable p = true := (Bool.and_eq_true_iff.1 running).1
    simp [Dev.domainWork, on] at work
  | ethernet p =>
    have on : d.flag Reg.junctionPortEnable p = true := (Bool.and_eq_true_iff.1 running).1
    simp [Dev.domainWork, on] at work
  | phy n =>
    have on : d.ep.memoryReady = true := (Bool.and_eq_true_iff.1 running).1
    simp [Dev.domainWork, on] at work
  | _ => exact stored

theorem philoxSelftest_true : philoxSelftest = true := by decide +kernel

theorem domainReadyEffect_early {x : Domain} {g : Bool} {d : Dev} (h : ∀ t, (d.domain x).readyAt = some t → d.now < t) :
    domainReadyEffect x g d = d := by
  unfold domainReadyEffect
  split
  · next t e => exact if_neg (Nat.not_le.2 (h t e))
  · rfl

theorem domainReadyEffect_ready {x : Domain} (g : Bool) {d : Dev} {t : Nat} (e : (d.domain x).readyAt = some t) (due : t ≤ d.now) :
    domainReadyEffect x g d =
      if x = .random && !(d.domain x).powered then
        (d.updDomain x fun _ => { running := true, powered := true }).checkRandom g
      else d.updDomain x fun _ => { running := true, powered := true } := by
  simp only [domainReadyEffect, e]
  rw [if_pos due]

theorem Dev.checkRandom_good (d : Dev) : d.checkRandom true = d.setFlag Reg.randomSelftest 0 true := by
  simp [Dev.checkRandom, philoxSelftest_true]

theorem Dev.checkRandom_bad (d : Dev) :
    d.checkRandom false = (d.setFlag Reg.randomSelftest 0 false).attend { bit := Bit.fault, area := 0x0A, detail := 1 } := by
  simp [Dev.checkRandom]

/-- A domain is due to stop its clock (R477). -/
def Dev.stopDue (d : Dev) (x : Domain) : Prop :=
  (d.domain x).running = true ∧ d.domainWork x = none ∧ d.standby x = false ∧
    ∃ t, (d.domain x).idleSince = some t ∧ t * 8 + d.rd Reg.powerIdleOffUs * 25 ≤ d.now * 8

/-- The clock of a domain stopped, and P_pred with it. -/
def Dev.clockStopped (d : Dev) (x : Domain) (v : Rat) : Dev :=
  (d.updPw fun p => { p with pred := f32Of v }).updDomain x fun _ =>
    { running := false, powered := !(d.updPw fun p => { p with pred := f32Of v }).mayPowerOff x }

theorem idleClockStopEffect_eq (x : Domain) (d : Dev) : idleClockStopEffect x d =
    let v := ratOf d.pw.pred - d.wakeStep x
    if !(d.domain x).running || (d.domainWork x).isSome || d.standby x ||
        !((d.domain x).idleSince.any fun t => t * 8 + d.rd Reg.powerIdleOffUs * 25 ≤ d.now * 8) then d
    else if !d.pw.fits v then d.count Reg.powerCounters_slopeHeld
    else
      match x with
      | .arrays k => (d.clockStopped x v).updCore k Core.freshArrays
      | .shell k => { (d.clockStopped x v).updCore k (fun y => y.lose (d.clockStopped x v).free) with free := (d.clockStopped x v).free + 1 }
      | _ => d.clockStopped x v := (rfl)

theorem Dev.not_stopDue_iff (d : Dev) (x : Domain) : ¬d.stopDue x ↔
    (!(d.domain x).running || (d.domainWork x).isSome || d.standby x ||
      !((d.domain x).idleSince.any fun t => t * 8 + d.rd Reg.powerIdleOffUs * 25 ≤ d.now * 8)) = true := by
  rw [← Bool.not_eq_false, not_iff_not]
  simp [Dev.stopDue, and_assoc, Option.any_eq_true]

theorem Dev.stopDue.not_early {d : Dev} {x : Domain} (due : d.stopDue x) :
    ¬(!(d.domain x).running || (d.domainWork x).isSome || d.standby x ||
      !((d.domain x).idleSince.any fun t => t * 8 + d.rd Reg.powerIdleOffUs * 25 ≤ d.now * 8)) = true :=
  fun early => (d.not_stopDue_iff x).2 early due

theorem idleClockStopEffect_stops {x : Domain} {d : Dev} (due : d.stopDue x) (fits : d.pw.fits (ratOf d.pw.pred - d.wakeStep x) = true) :
    ∃ cores free, idleClockStopEffect x d = { d.clockStopped x (ratOf d.pw.pred - d.wakeStep x) with cores, free } := by
  rw [idleClockStopEffect_eq]
  dsimp only
  rw [if_neg due.not_early, if_neg (by simp [fits])]
  cases x with
  | arrays k => exact ⟨_, _, rfl⟩
  | shell k => exact ⟨_, _, rfl⟩
  | _ => exact ⟨_, _, rfl⟩

theorem Dev.clockStopped_spec {d : Dev} {x : Domain} (v : Rat) (due : d.stopDue x) :
    ((d.clockStopped x v).domain x).running = false ∧ (∀ y, y ≠ x → (d.clockStopped x v).domain y = d.domain y) ∧
      (d.clockStopped x v).regs = d.regs ∧ (d.clockStopped x v).mem = d.mem ∧ (d.clockStopped x v).contexts = d.contexts := by
  obtain ⟨running, work, -, -⟩ := due
  have pred (y : Domain) : (d.updPw fun p => { p with pred := f32Of v }).domain y = d.domain y := by cases y <;> rfl
  have idle : (d.updPw fun p => { p with pred := f32Of v }).domainWork x = d.domainWork x := by cases x <;> rfl
  refine ⟨?_, fun y h => ?_, rfl, rfl, rfl⟩
  · rw [Dev.clockStopped, Dev.domain_updDomain_idle _ (by rw [pred, running]) (by rw [idle, work])]
  · rw [Dev.clockStopped, Dev.domain_updDomain_ne _ _ h, pred]

theorem settle_domain (d : Dev) (x : Domain) : (settle d).domain x = d.domain x := by
  obtain ⟨w, n, h⟩ := settle_eq_ep d
  rw [h]
  exact Dev.domain_congr rfl rfl rfl x

/-! ### Changes of the operating point (R489) -/

theorem settle_point (d : Dev) : (settle d).point = d.point := settle_rd d _ _

/-- The power record as the new point is entered. -/
def Power.entered (p : Power) : Power := { p with changeTo := none, highFor := 0, lowFor := 0 }

theorem Dev.enterPoint_pw (d : Dev) (q : Nat) : (d.enterPoint q).pw = d.pw.entered := by
  rw [Dev.enterPoint, (Dev.attend_reported _ _).frame.1, Dev.updPw, (Dev.count_reported _ _ _ _).frame.1]
  rfl

theorem Dev.enterPoint_mem (d : Dev) (q : Nat) : (d.enterPoint q).mem = d.mem := by
  rw [Dev.enterPoint, (Dev.attend_reported _ _).frame.2.1, Dev.updPw_mem, (Dev.count_reported _ _ _ _).frame.2.1]
  rfl

theorem Dev.rd_enterPoint_ne (d : Dev) (q : Nat) (r : Reg) (i : Nat) (n : r.obj.ofAttention = false)
    (h : r.off ≠ 0 ∧ r.off ≠ 7 ∧ r.off ≠ 32) : (d.enterPoint q).rd r i = d.rd r i := by
  obtain ⟨point, changing, changes⟩ := h
  rw [Dev.enterPoint, Dev.rd_attend _ _ _ _ n, Dev.rd_updPw, Dev.rd_count_off_ne _ _ _ _ _ _ (.inr (Ne.symm changes)), Dev.setFlag,
    Dev.rd_wr_off_ne _ _ _ _ _ _ (.inr (Ne.symm changing)), Dev.rd_wr_off_ne _ _ _ _ _ _ (.inr (Ne.symm point))]

theorem Dev.point_enterPoint (d : Dev) (q : Nat) : (d.enterPoint q).point = q := by
  rw [Dev.point, Dev.enterPoint, Dev.rd_attend _ _ _ _ rfl, Dev.rd_updPw, Dev.rd_count_off_ne _ _ _ _ _ _ (.inr (by decide)), Dev.setFlag,
    Dev.rd_wr_off_ne _ _ _ _ _ _ (.inr (by decide)), Dev.rd_wr_same]

theorem Dev.attentionBit_enterPoint (d : Dev) (q : Nat) : (d.enterPoint q).attentionBit Bit.power = true :=
  Dev.attentionBit_attend _ (show 8 ≤ Bit.power by decide) (show Bit.power ≤ 15 by decide)

/-- The two fractions written. -/
def Dev.setFractions (d : Dev) (t : Nat × Nat) : Dev := (d.wr Reg.powerOpState_kBe 0 t.1).wr Reg.powerOpState_kLc 0 t.2

theorem Dev.rd_setFractions_kBe (d : Dev) (t : Nat × Nat) : (d.setFractions t).rd Reg.powerOpState_kBe = t.1 := by
  rw [Dev.setFractions, Dev.rd_wr_off_ne _ _ _ _ _ _ (.inr (by decide)), Dev.rd_wr_same]

theorem Dev.rd_setFractions_kLc (d : Dev) (t : Nat × Nat) : (d.setFractions t).rd Reg.powerOpState_kLc = t.2 := Dev.rd_wr_same _ _ _ _

theorem Dev.rd_setFractions_ne (d : Dev) (t : Nat × Nat) (r : Reg) (i : Nat) (h : r.obj ≠ .powerOpState) : (d.setFractions t).rd r i = d.rd r i := by
  rw [Dev.setFractions, Dev.rd_wr_off_ne _ _ _ _ _ _ (.inl h.symm), Dev.rd_wr_off_ne _ _ _ _ _ _ (.inl h.symm)]

theorem operatingPointChangeEffect_none {ok : Bool} {d : Dev} (h : d.pw.changeTo = none) : operatingPointChangeEffect ok d = d := by
  simp only [operatingPointChangeEffect, h]

section
variable {d : Dev} {q : Nat} (decided : d.pw.changeTo = some q)
include decided

theorem operatingPointChangeEffect_down (ok : Bool) (down : d.point < q) : operatingPointChangeEffect ok d =
    if (d.lowerTargets q).2 then
      ((d.setFractions (d.lowerTargets q).1).enterPoint q).setRail (d.rd (pointVt q)) ok
    else d := by
  have volts (t : Nat × Nat) : (d.setFractions t).rd (pointVt q) = d.rd (pointVt q) :=
    d.rd_setFractions_ne t _ _ (by rw [pointVt_obj]; decide)
  rw [← volts (d.lowerTargets q).1]
  simp only [operatingPointChangeEffect, decided]
  rw [if_pos down]
  cases (d.lowerTargets q).2 <;> rfl

theorem operatingPointChangeEffect_up (up : q ≤ d.point) : ∃ t,
    operatingPointChangeEffect true d = ((d.setRail (d.rd (pointVt q)) true).setFractions t).enterPoint q := by
  simp only [operatingPointChangeEffect, decided]
  rw [if_neg (Nat.not_lt.2 up), if_neg (by decide)]
  exact ⟨_, rfl⟩

theorem operatingPointChangeEffect_unconfirmed (up : q ≤ d.point) : operatingPointChangeEffect false d =
    ((d.setRail (d.rd (pointVt q)) false).updPw fun w => { w with changeTo := none }).setFlag Reg.powerOpState_changing 0 false := by
  simp only [operatingPointChangeEffect, decided]
  rw [if_neg (Nat.not_lt.2 up), if_pos (by decide)]

theorem operatingPointChangeEffect_up_spec (up : q ≤ d.point) :
    let w := operatingPointChangeEffect true d
    w.point = q ∧ w.pw.changeTo = none ∧ w.pw.rail = d.rd (pointVt q) ∧ w.attentionBit Bit.power = true ∧ w.mem = d.mem := by
  intro w
  obtain ⟨t, eq⟩ : ∃ t, w = _ := operatingPointChangeEffect_up decided up
  have pw : w.pw = (d.pw.railWritten (d.rd (pointVt q)) true).entered := by
    rw [eq, Dev.enterPoint_pw, Dev.setFractions, Dev.wr_pw, Dev.wr_pw, (d.setRail_reported _ _).frame.1]
  have mem : w.mem = d.mem := by
    rw [eq, Dev.enterPoint_mem, Dev.setFractions, Dev.wr_mem, Dev.wr_mem, (d.setRail_reported _ _).frame.2.1]
  refine ⟨eq ▸ Dev.point_enterPoint _ _, by rw [pw]; rfl, by rw [pw]; rfl, eq ▸ Dev.attentionBit_enterPoint _ _, mem⟩

theorem operatingPointChangeEffect_unconfirmed_spec (up : q ≤ d.point) :
    let w := operatingPointChangeEffect false d
    w.point = d.point ∧ w.pw.changeTo = none ∧ w.pw.rail = d.pw.rail ∧ w.pw.avsFailed = true ∧ avsCause.lasting ∈ w.lasting := by
  intro w
  have eq : w = _ := operatingPointChangeEffect_unconfirmed decided up
  have pw : w.pw = { d.pw.railWritten (d.rd (pointVt q)) false with changeTo := none } := by
    rw [eq, Dev.setFlag_pw, Dev.updPw_pw, (d.setRail_reported _ _).frame.1]
  have point : w.point = d.point := by
    rw [eq, Dev.point, Dev.setFlag, Dev.rd_wr_off_ne _ _ _ _ _ _ (.inr (by decide)), Dev.rd_updPw, Dev.rd_setRail _ _ _ _ _ rfl, Dev.point]
  have cause : avsCause.lasting ∈ (d.setRail (d.rd (pointVt q)) false).lasting := Dev.lasting_mem_beginLasting _ _
  exact ⟨point, by rw [pw], by rw [pw]; rfl, by rw [pw]; rfl, eq ▸ cause⟩

theorem operatingPointChangeEffect_down_spec (ok : Bool) (down : d.point < q) (fits : (d.lowerTargets q).2 = true) :
    let w := operatingPointChangeEffect ok d
    w.point = q ∧ w.rd Reg.powerOpState_kBe = (d.lowerTargets q).1.1 ∧ w.rd Reg.powerOpState_kLc = (d.lowerTargets q).1.2 ∧
      w.pw.changeTo = none ∧ w.pw.rail = (if ok then d.rd (pointVt q) else d.pw.rail) ∧ w.attentionBit Bit.power = true := by
  intro w
  have eq : w = _ := (operatingPointChangeEffect_down decided ok down).trans (if_pos fits)
  have pw : w.pw = d.pw.entered.railWritten (d.rd (pointVt q)) ok := by
    rw [eq, (Dev.setRail_reported _ _ _).frame.1, Dev.enterPoint_pw]; rfl
  refine ⟨?_, ?_, ?_, by rw [pw]; rfl, by rw [pw]; rfl, eq ▸ Dev.attentionBit_setRail _ _ (Dev.attentionBit_enterPoint _ _)⟩
  · rw [eq, Dev.point, Dev.rd_setRail _ _ _ _ _ rfl, ← Dev.point, Dev.point_enterPoint]
  · rw [eq, Dev.rd_setRail _ _ _ _ _ rfl, Dev.rd_enterPoint_ne _ _ _ _ rfl (by decide), Dev.rd_setFractions_kBe]
  · rw [eq, Dev.rd_setRail _ _ _ _ _ rfl, Dev.rd_enterPoint_ne _ _ _ _ rfl (by decide), Dev.rd_setFractions_kLc]

end

/-! ### The rack budget and measured power (R492 to R501) -/

theorem demandPublishEffect_spec (v : Nat) (d : Dev) :
    let w := demandPublishEffect v d
    w.rd Reg.powerDemand_demand = d.pw.demands.foldl (fun a e => fmax a e.2) fzero ∧
    w.rd Reg.powerDemand_sequence = (d.rd Reg.powerDemand_sequence + 1) % 2 ^ 32 ∧
    (∀ r i, r.obj ≠ .powerDemand → w.rd r i = d.rd r i) ∧ w.pw = d.pw ∧ w.mem = d.mem := by
  refine ⟨?_, Dev.rd_wr_same _ _ _ _, fun r i h => ?_, rfl, rfl⟩
  · rw [demandPublishEffect, Dev.rd_wr_off_ne _ _ _ _ _ _ (.inr (by decide)), Dev.setWatts,
      Dev.rd_wr_off_ne _ _ _ _ _ _ (.inr (by decide)), Dev.rd_wr_same]
  · rw [demandPublishEffect, Dev.rd_wr_off_ne _ _ _ _ _ _ (.inl h.symm), Dev.setWatts,
      Dev.rd_wr_off_ne _ _ _ _ _ _ (.inl h.symm), Dev.rd_wr_off_ne _ _ _ _ _ _ (.inl h.symm)]

/-- The means of the estimate since the last reading taken (R481, R500). -/
def Dev.meanTaken (d : Dev) : Dev := d.updPw fun p => { p with sumEst := 0, countEst := 0 }

def Dev.meanEstimate (d : Dev) : Rat :=
  if d.pw.countEst = 0 then d.watts Reg.powerEstimate_pEst else d.pw.sumEst / (d.pw.countEst : Nat)

/-- A page that did not answer (R502). -/
def Dev.readingMissing (d : Dev) : Dev :=
  let d := (d.updPw fun p => { p with missing := p.missing + 1 }).count Reg.powerCounters_missing
  if d.pw.missing = 64 then d.beginLasting missingCause else d

/-- The reading and the mean disagree (R500). -/
def disagrees (got mean : Rat) : Bool := decide (max got mean < 5 * (if mean ≤ got then got - mean else mean - got))

theorem disagrees_iff (got mean : Rat) : disagrees got mean = true ↔ max got mean < 5 * (got - mean) ∨ max got mean < 5 * (mean - got) := by
  unfold disagrees
  rw [decide_eq_true_iff]
  split
  case isTrue le => exact ⟨.inl, fun h => h.elim id fun h => by linarith⟩
  case isFalse gt => exact ⟨.inr, fun h => h.elim (fun h => by linarith) id⟩

/-- The power record after a reading. -/
def Power.readingTaken (p : Power) (got mean : Rat) (bad : Bool) : Power :=
  { p with missing := 0, disagree := run p.disagree bad, readings := ((f32Of got, f32Of mean) :: p.readings).take 64 }

/-- The stages of a reading: it is noted, a disagreement is counted, and 64 of them in a row are raised. -/
def Dev.powerNoted (d : Dev) (got mean : Rat) (bad : Bool) : Dev :=
  (((d.setWatts Reg.powerEstimate_pMeas got).setWatts Reg.powerEstimate_eMean mean).updPw
    fun p => p.readingTaken got mean bad).endLasting fun l => l == missingCause.lasting
def Dev.disagreementCounted (d : Dev) (bad : Bool) : Dev := if bad then d.count Reg.powerCounters_disagreeing else d
def Dev.disagreementJudged (d : Dev) : Dev :=
  if 64 ≤ d.pw.disagree && !d.flag Reg.powerOpState_disagreement then
    (d.setFlag Reg.powerOpState_disagreement 0 true).beginLasting disagreeCause
  else d

def Dev.readingTaken (d : Dev) (got mean : Rat) (bad : Bool) : Dev :=
  ((d.powerNoted got mean bad).disagreementCounted bad).disagreementJudged

def Dev.measured (d : Dev) (pages : List (Nat × Nat)) : Rat :=
  sumRat (d.summedPages.map fun i => ratOf (((pages.find? fun e => e.1 == i).map (·.2)).getD 0))

theorem vrmReadEffect_eq (pages : List (Nat × Nat)) (d : Dev) : vrmReadEffect pages d =
    if d.summedPages = [] then d.meanTaken
    else if !d.summedPages.all fun i => pages.any fun e => e.1 == i then d.meanTaken.readingMissing
    else d.meanTaken.readingTaken (d.measured pages) d.meanEstimate (disagrees (d.measured pages) d.meanEstimate) := (rfl)

theorem Dev.readingMissing_spec (d : Dev) : d.readingMissing.rd Reg.powerEstimate_pMeas = d.rd Reg.powerEstimate_pMeas ∧
    d.readingMissing.pw = { d.pw with missing := d.pw.missing + 1 } := by
  have counted := (Dev.count_reported (d.updPw fun p => { p with missing := p.missing + 1 }) Reg.powerCounters_missing 0 1).frame.1
  have rd : ((d.updPw fun p => { p with missing := p.missing + 1 }).count Reg.powerCounters_missing).rd Reg.powerEstimate_pMeas =
      d.rd Reg.powerEstimate_pMeas := by
    rw [Dev.rd_count_off_ne _ _ _ _ _ _ (.inl (by decide)), Dev.rd_updPw]
  unfold Dev.readingMissing
  dsimp only
  split
  · rw [Dev.rd_beginLasting _ _ _ _ rfl, rd, (Dev.beginLasting_reported _ _).frame.1, counted]
    exact ⟨rfl, rfl⟩
  · exact ⟨rd, counted⟩

/-- After a reading: what was measured, the mean, and the run of disagreements. -/
theorem Dev.readingTaken_spec (d : Dev) (got mean : Rat) (bad : Bool) :
    (d.readingTaken got mean bad).rd Reg.powerEstimate_pMeas = f32Of got ∧
    (d.readingTaken got mean bad).rd Reg.powerEstimate_eMean = f32Of mean ∧
    (d.readingTaken got mean bad).pw = d.pw.readingTaken got mean bad := by
  have counted (e : Dev) : e.KeepsEpoch (e.disagreementCounted bad) ∧ (e.disagreementCounted bad).pw = e.pw := by
    unfold Dev.disagreementCounted
    split
    · exact ⟨e.count_keepsEpoch (by decide) 0 1, (e.count_reported _ _ _).frame.1⟩
    · exact ⟨.refl e, rfl⟩
  have judged (e : Dev) : e.KeepsEpoch e.disagreementJudged ∧ e.disagreementJudged.pw = e.pw := by
    unfold Dev.disagreementJudged
    split
    · exact ⟨e.flag_begin_keepsEpoch (by decide) _ _, (Dev.beginLasting_reported _ _).frame.1⟩
    · exact ⟨.refl e, rfl⟩
  obtain ⟨countedKept, countedPw⟩ := counted (d.powerNoted got mean bad)
  obtain ⟨judgedKept, judgedPw⟩ := judged ((d.powerNoted got mean bad).disagreementCounted bad)
  have pMeas : (d.powerNoted got mean bad).rd Reg.powerEstimate_pMeas = f32Of got := by
    rw [Dev.powerNoted, Dev.rd_endLasting, Dev.rd_updPw, Dev.rd_setWatts_ne _ _ _ _ (by decide), Dev.setWatts, Dev.rd_wr_same]
  have eMean : (d.powerNoted got mean bad).rd Reg.powerEstimate_eMean = f32Of mean := by
    rw [Dev.powerNoted, Dev.rd_endLasting, Dev.rd_updPw, Dev.setWatts, Dev.rd_wr_same]
  have kept := countedKept.trans judgedKept
  exact ⟨(kept.rd _ _ rfl).trans pMeas, (kept.rd _ _ rfl).trans eMean, judgedPw.trans countedPw⟩

/-! ### Recalibration (R501) -/

section
variable {d : Dev} {q i : Nat} {f : Fetched} (h : d.takeCommand q i 0x1601 = some f)
include h

/-- The sums of the readings and of their means without the offset. -/
def Dev.readSum (d : Dev) : Rat := sumRat (d.pw.readings.map fun e => ratOf e.1) - 64 * d.watts Reg.powerEstimateOffset
def Dev.meanSum (d : Dev) : Rat := sumRat (d.pw.readings.map fun e => ratOf e.2) - 64 * d.watts Reg.powerEstimateOffset
def Dev.fittedGain (d : Dev) : Rat := min 2 (max (1 / 2) (d.watts Reg.powerEstimateGain * d.readSum / d.meanSum))

theorem powerRecalibrateFitEffect_eq : powerRecalibrateFitEffect q i d =
    if byteAt f.entry 8 != 0 then d
    else if d.pw.readings.length < 64 ∨ d.meanSum ≤ 0 then d.complete q i 0x80 0x16
    else ((d.wr Reg.powerEstimateGain 0 (f32Of d.fittedGain)).endDisagreement).complete q i 0 0x16 (f32Of d.fittedGain) := by
  simp only [powerRecalibrateFitEffect, h]
  rfl

theorem powerRecalibrateEndEffect_eq : powerRecalibrateEndEffect q i d =
    if byteAt f.entry 8 != 1 then d else d.endDisagreement.complete q i 0 0x16 := by
  simp only [powerRecalibrateEndEffect, h]

end

end Sys2Proof.Machine
end
section
/-! SUPPORT. The statement about the control of power, settled (R477 to R502). -/

namespace Sys2Proof.PowerFamily
open Sys2Proof.Machine Sys2Proof.Safety

/-- Settles O56, clause by clause: each effect as its cases and stages give it, and what those stages leave alone. -/
theorem powerControl : Obligations.PowerControl := by
  refine ⟨fun s es zs h => yields_of rfl h ?epoch, fun p cap aBe aLc kBe kLc be _ => bubbleTargets_spec p cap aBe aLc kBe kLc be,
    fun s x g h => ?wake, fun s x h => ?stop, fun s ok h => ⟨?unchanged, fun q decided => ⟨?up, ?unconfirmed, ?down⟩⟩, fun s h => ?lease,
    fun s v h => yields_of rfl h ?demand, fun s pages h => ?reading, fun s q i f taken => ⟨fun h => ?fit, fun h => ?ended⟩⟩
  case epoch =>
    rw [settle_rd, settle_rd, settle_pw, settle_mem]
    exact gaugeEpochEffect_spec es zs s.dev
  case wake =>
    refine ⟨fun early => leads_of rfl h (domainReadyEffect_early early), fun t at_ due => ?_⟩
    have eff := domainReadyEffect_ready g at_ due
    refine ⟨fun other => leads_of rfl h (eff.trans (if_neg ?_)), fun random off => ?_⟩
    · rcases other with other | on
      · simp [other]
      · simp [on]
    · rw [off, if_pos (by simp [random])] at eff
      refine ⟨?_, ?_⟩ <;> rintro rfl
      · exact leads_of rfl h (eff.trans (Dev.checkRandom_good _))
      · exact leads_of rfl h (eff.trans (Dev.checkRandom_bad _))
  case stop =>
    refine ⟨fun early => leads_of rfl h ?_, fun due held => leads_of rfl h ?_, fun due fits => yields_of rfl h ?_⟩
    · exact (idleClockStopEffect_eq x s.dev).trans (if_pos ((s.dev.not_stopDue_iff x).1 early))
    · exact (idleClockStopEffect_eq x s.dev).trans ((if_neg (Dev.stopDue.not_early due)).trans (if_pos (by simp [held])))
    · obtain ⟨cores, free, eq⟩ := idleClockStopEffect_stops due fits
      obtain ⟨stopped, others, regs, mem, contexts⟩ := s.dev.clockStopped_spec (ratOf s.dev.pw.pred - s.dev.wakeStep x) due
      rw [eq]
      have domain (y : Domain) : (settle { s.dev.clockStopped x (ratOf s.dev.pw.pred - s.dev.wakeStep x) with cores, free }).domain y =
          (s.dev.clockStopped x (ratOf s.dev.pw.pred - s.dev.wakeStep x)).domain y :=
        (settle_domain _ y).trans (Dev.domain_congr rfl rfl rfl y)
      rw [settle_regs, settle_mem, settle_contexts, domain]
      exact ⟨stopped, fun y hy => (domain y).trans (others y hy), regs, mem, contexts⟩
  case unchanged => exact fun none_ => leads_of rfl h (operatingPointChangeEffect_none none_)
  case up =>
    rintro up rfl
    refine yields_of rfl h ?_
    rw [settle_point, settle_pw, settle_attentionBit, settle_mem]
    exact operatingPointChangeEffect_up_spec decided up
  case unconfirmed =>
    rintro up rfl
    refine yields_of rfl h ?_
    rw [settle_point, settle_pw, settle_lasting]
    obtain ⟨point, to_, rail, failed, cause⟩ := operatingPointChangeEffect_unconfirmed_spec decided up
    exact ⟨point, to_, rail, failed, List.any_eq_true.2 ⟨_, cause, beq_self_eq_true _⟩⟩
  case down =>
    intro down r aBe aLc kb kl rest other t
    refine ⟨fun held => leads_of rfl h ?_, fun fits => yields_of rfl h ?_⟩
    · have held' : (s.dev.lowerTargets q).2 = false := held
      exact (operatingPointChangeEffect_down decided ok down).trans (if_neg (by simp [held']))
    · rw [settle_point, settle_rd, settle_rd, settle_pw, settle_attentionBit]
      exact operatingPointChangeEffect_down_spec decided ok down fits
  case lease =>
    refine ⟨fun early => leads_of rfl h (if_pos ?_), fun lapses => leads_of rfl h (if_neg ?_)⟩
    · by_contra other
      simp only [not_or, Nat.not_lt, Bool.not_eq_true] at other
      exact early other
    · simpa only [not_or, Nat.not_lt, Bool.not_eq_true] using lapses
  case demand =>
    obtain ⟨demand, sequence, others, pw, mem⟩ := demandPublishEffect_spec v s.dev
    rw [settle_rd, settle_rd, settle_pw, settle_mem]
    exact ⟨demand, sequence, fun r i n => (settle_rd _ r i).trans (others r i n), pw, mem⟩
  case reading =>
    have eff := vrmReadEffect_eq pages s.dev
    refine ⟨fun none_ => leads_of rfl h (eff.trans (if_pos none_)), fun lacks => yields_of rfl h ?_, ?_⟩
    · obtain ⟨i, mem, absent⟩ := lacks
      rw [if_neg (List.ne_nil_of_mem mem), if_pos ?_] at eff
      · obtain ⟨pMeas, pw⟩ := s.dev.meanTaken.readingMissing_spec
        rw [settle_rd, settle_pw, eff, pMeas, pw]
        exact ⟨Dev.rd_updPw _ _ _ _, rfl, rfl, rfl⟩
      · have lacking : (s.dev.summedPages.all fun i => pages.any fun e => e.1 == i) = false :=
          List.all_eq_false.2 ⟨i, mem, by simpa using fun v m => absent (i, v) m rfl⟩
        rw [lacking]; rfl
    · intro some_ all mean got
      refine yields_of rfl h ?_
      rw [if_neg some_, if_neg ?_] at eff
      · obtain ⟨pMeas, eMean, pw⟩ := s.dev.meanTaken.readingTaken_spec got mean (disagrees got mean)
        change _ = s.dev.meanTaken.readingTaken got mean (disagrees got mean) at eff
        rw [settle_rd, settle_rd, settle_pw, eff, pw]
        refine ⟨pMeas, eMean, ?_⟩
        refine ⟨rfl, rfl, fun bad => ?_, fun low high => ?_⟩
        · exact if_pos ((disagrees_iff got mean).2 bad)
        · exact if_neg fun bad => ((disagrees_iff got mean).1 bad).elim (not_lt.2 low) (not_lt.2 high)
      · have answered : (s.dev.summedPages.all fun i => pages.any fun e => e.1 == i) = true :=
          List.all_eq_true.2 fun i mem => by simpa using all i mem
        rw [answered]; decide
  case fit =>
    have eff := powerRecalibrateFitEffect_eq taken
    refine ⟨fun other => leads_of rfl h (eff.trans (if_pos (by simpa using other))), fun fit few => leads_of rfl h ?_, fun fit enough pos =>
      ⟨s.dev.fittedGain, ?_, min_le_left _ _, fun low high => ?_, leads_of rfl h ?_⟩⟩
    · exact eff.trans ((if_neg (by simp [fit])).trans (if_pos few))
    · exact le_min (by norm_num) (le_max_left _ _)
    · exact (congrArg _ (max_eq_right low)).trans (min_eq_right high)
    · exact eff.trans ((if_neg (by simp [fit])).trans (if_neg (not_or.2 ⟨Nat.not_lt.2 enough, not_le.2 pos⟩)))
  case ended =>
    have eff := powerRecalibrateEndEffect_eq taken
    exact ⟨fun other => leads_of rfl h (eff.trans (if_pos (by simpa using other))),
      fun end_ => leads_of rfl h (eff.trans (if_neg (by simp [end_])))⟩

end Sys2Proof.PowerFamily
end

section
/-! SUPPORT. Buffers of a pool: their classes, the one taken, the one returned (R449, R451, R454). -/

namespace Sys2Proof.Machine

/-! ### Lists of allocated buffers -/

theorem le_nthFree (l : List Nat) : ∀ j, j ≤ nthFree l j := by
  induction l with
  | nil => exact fun j => le_refl j
  | cons a l ih =>
    intro j
    unfold nthFree
    split
    · exact (Nat.le_succ j).trans (ih _)
    · exact le_refl j

theorem nthFree_le (l : List Nat) : ∀ j, nthFree l j ≤ j + l.length := by
  induction l with
  | nil => exact fun j => le_refl j
  | cons a l ih =>
    intro j
    unfold nthFree
    split
    · exact (ih _).trans (by rw [List.length_cons]; omega)
    · exact Nat.le_add_right _ _

/-- What is picked is free. -/
theorem nthFree_not_mem {l : List Nat} (rising : l.Pairwise (· < ·)) : ∀ j, nthFree l j ∉ l := by
  induction l with
  | nil => exact fun j => List.not_mem_nil
  | cons a l ih =>
    intro j
    obtain ⟨above, rising⟩ := List.pairwise_cons.1 rising
    unfold nthFree
    split
    case isTrue le =>
      have beyond := le_nthFree l (j + 1)
      exact List.not_mem_cons_of_ne_of_not_mem (by omega) (ih rising _)
    case isFalse gt => exact List.not_mem_cons_of_ne_of_not_mem (by omega) fun mem => absurd (above _ mem) (by omega)

theorem mem_insertAlloc {l : List (Nat × Nat)} {b o : Nat} (x : Nat × Nat) : x ∈ insertAlloc l b o ↔ x = (b, o) ∨ x ∈ l := by
  induction l with
  | nil => simp [insertAlloc]
  | cons e l ih =>
    unfold insertAlloc
    split
    · simp
    · rw [List.mem_cons, ih, List.mem_cons]
      exact or_left_comm

theorem insertAlloc_rising {l : List (Nat × Nat)} {b : Nat} (o : Nat) (rising : (l.map (·.1)).Pairwise (· < ·)) (new : ∀ o', (b, o') ∉ l) :
    ((insertAlloc l b o).map (·.1)).Pairwise (· < ·) := by
  induction l with
  | nil => exact List.pairwise_singleton _ _
  | cons e l ih =>
    obtain ⟨a, o'⟩ := e
    rw [List.map_cons, List.pairwise_cons] at rising
    obtain ⟨above, rising⟩ := rising
    have other : b ≠ a := fun same => new o' (by rw [same]; exact List.mem_cons_self)
    unfold insertAlloc
    split
    case isTrue lt =>
      simp only [List.map_cons, List.pairwise_cons, List.forall_mem_cons]
      exact ⟨⟨lt, fun c mem => lt.trans (above c mem)⟩, above, rising⟩
    case isFalse ge =>
      rw [List.map_cons, List.pairwise_cons]
      refine ⟨fun c mem => ?_, ih rising fun o'' mem => new o'' (List.mem_cons_of_mem _ mem)⟩
      obtain ⟨x, xmem, rfl⟩ := List.mem_map.1 mem
      rcases (mem_insertAlloc x).1 xmem with rfl | old
      · dsimp only; omega
      · exact above _ (List.mem_map_of_mem old)

/-! ### Classes (R449) -/

theorem Dev.classFirst_succ (d : Dev) (p k : Nat) : d.classFirst p (k + 1) = d.classFirst p k + d.classCount p k := by
  simp [Dev.classFirst, List.range_succ]

/-- The buffers of a class come before those of a later one. -/
theorem Dev.classFirst_add_le (d : Dev) (p : Nat) {k j : Nat} (h : k < j) : d.classFirst p k + d.classCount p k ≤ d.classFirst p j := by
  induction j, h using Nat.le_induction with
  | base => rw [d.classFirst_succ]
  | succ j _ ih => rw [d.classFirst_succ]; omega

/-- A buffer lies in one class. -/
theorem Dev.classOf_eq {d : Dev} {p k b : Nat} (hk : k < 8) (low : d.classFirst p k ≤ b) (high : b < d.classFirst p k + d.classCount p k) :
    d.classOf p b = k := by
  unfold Dev.classOf
  rcases found : (List.range 8).find? fun j => d.classFirst p j ≤ b && b < d.classFirst p j + d.classCount p j with _ | j
  · have none_ := List.find?_eq_none.1 found k (List.mem_range.2 hk)
    simp [low, high] at none_
  · have here := List.find?_some found
    rw [Bool.and_eq_true_iff, decide_eq_true_iff, decide_eq_true_iff] at here
    rcases Nat.lt_trichotomy j k with lt | rfl | gt
    · have := d.classFirst_add_le p lt; omega
    · rfl
    · have := d.classFirst_add_le p gt; omega

theorem Dev.classFirst_classOf_le (d : Dev) (p b : Nat) : d.classFirst p (d.classOf p b) ≤ b := by
  unfold Dev.classOf
  rcases found : (List.range 8).find? fun j => d.classFirst p j ≤ b && b < d.classFirst p j + d.classCount p j with _ | j
  · exact Nat.zero_le _
  · have here := List.find?_some found
    rw [Bool.and_eq_true_iff, decide_eq_true_iff, decide_eq_true_iff] at here
    exact here.1

theorem Dev.classFor_spec {d : Dev} {p n k : Nat} (kind : d.cellChain p = false) (h : d.classFor p n = some k) : k < 8 ∧ n ≤ d.classSize p k := by
  rw [Dev.classFor, kind, if_neg Bool.false_ne_true] at h
  have holds := List.find?_some h
  rw [Bool.and_eq_true_iff, decide_eq_true_iff] at holds
  exact ⟨List.mem_range.1 (List.mem_of_find?_eq_some h), holds.2⟩

/-- Buffers of a class as offsets within it, in rising order. -/
def Dev.takenIn (d : Dev) (p k : Nat) : List Nat :=
  ((d.pool p).allocated.filter fun e => d.classOf p e.1 == k).map fun e => e.1 - d.classFirst p k

theorem Dev.takenIn_length (d : Dev) (p k : Nat) : d.freeIn p k = d.classCount p k - (d.takenIn p k).length := by
  rw [Dev.takenIn, List.length_map, Dev.freeIn]

theorem Dev.takenIn_rising {d : Dev} {p : Nat} (k : Nat) (rising : ((d.pool p).allocated.map (·.1)).Pairwise (· < ·)) :
    (d.takenIn p k).Pairwise (· < ·) := by
  have kept := (List.pairwise_map.1 rising).filter fun e => d.classOf p e.1 == k
  refine List.pairwise_map.2 (kept.imp_of_mem fun {a b} ha _ lt => ?_)
  have class_ : d.classOf p a.1 = k := by simpa using (List.mem_filter.1 ha).2
  have first := d.classFirst_classOf_le p a.1
  rw [class_] at first
  omega

theorem Dev.mem_takenIn {d : Dev} {p k b o : Nat} (mem : (b, o) ∈ (d.pool p).allocated) (class_ : d.classOf p b = k) :
    b - d.classFirst p k ∈ d.takenIn p k :=
  List.mem_map.2 ⟨(b, o), List.mem_filter.2 ⟨mem, by simpa using class_⟩, rfl⟩

/-! ### What does not move a pool's buffers -/

/-- The layout of the pools is the same. -/
structure Dev.SameLayout (d e : Dev) : Prop where
  rd : ∀ r i, r.obj = .sidingsPoolConfig → e.rd r i = d.rd r i

namespace Dev.SameLayout
variable {d e : Dev} (h : d.SameLayout e)
include h

theorem cellChain (p : Nat) : e.cellChain p = d.cellChain p := by rw [Dev.cellChain, h.rd _ _ rfl, Dev.cellChain]
theorem classSize (p : Nat) : e.classSize p = d.classSize p := by
  funext k; rw [Dev.classSize, h.rd _ _ rfl, h.cellChain, Dev.classSize]
theorem classCount (p : Nat) : e.classCount p = d.classCount p := by
  funext k; rw [Dev.classCount, h.rd _ _ rfl, h.classSize, Dev.classCount]
theorem classFirst (p : Nat) : e.classFirst p = d.classFirst p := by
  funext k; rw [Dev.classFirst, h.classCount, Dev.classFirst]
theorem classBase (p : Nat) : e.classBase p = d.classBase p := by
  funext k; rw [Dev.classBase, h.classCount, h.classSize, h.rd _ _ rfl, Dev.classBase]
theorem classFor (p n : Nat) : e.classFor p n = d.classFor p n := by rw [Dev.classFor, h.cellChain, h.classSize, Dev.classFor]
theorem classOf (p b : Nat) : e.classOf p b = d.classOf p b := by rw [Dev.classOf, h.classFirst, h.classCount, Dev.classOf]
theorem bufferAddress (p b : Nat) : e.bufferAddress p b = d.bufferAddress p b := by
  rw [Dev.bufferAddress, h.classOf, h.classFirst, h.classBase, h.classSize, Dev.bufferAddress]
theorem bufferAt (p a : Nat) : e.bufferAt p a = d.bufferAt p a := by
  rw [Dev.bufferAt, h.classFirst, h.classBase, h.classSize, h.classCount, Dev.bufferAt]

end Dev.SameLayout

theorem Dev.SameLayout.trans {d e f : Dev} (h : d.SameLayout e) (k : e.SameLayout f) : d.SameLayout f :=
  ⟨fun r i n => (k.rd r i n).trans (h.rd r i n)⟩

@[simp] theorem Dev.pool_setPool_same (d : Dev) (p : Nat) (x : Pool) : (d.setPool p x).pool p = x := Tbl.getD_put_same _ _ _ _
theorem Dev.pool_setPool_ne (d : Dev) {p q : Nat} (x : Pool) (h : q ≠ p) : (d.setPool p x).pool q = d.pool q :=
  Tbl.getD_put_ne _ _ _ (Ne.symm h)
@[simp] theorem Dev.rd_setPool (d : Dev) (p : Nat) (x : Pool) (r : Reg) (i : Nat) : (d.setPool p x).rd r i = d.rd r i := Dev.rd_of_regs rfl r i

@[simp] theorem Dev.setPool_mem (d : Dev) (p : Nat) (x : Pool) : (d.setPool p x).mem = d.mem := rfl

theorem Dev.Reported.pool {d e : Dev} (h : d.Reported e) (p : Nat) : e.pool p = d.pool p := by
  obtain ⟨f, r, a, w, l, g, n, rfl⟩ := h
  rfl

/-- A poisoned control region breaks the pool and changes nothing else of it. -/
theorem Dev.checkControl_cases (d : Dev) (p : Nat) : d.checkControl p = d ∨
    d.checkControl p = (d.setPool p { d.pool p with broken := true }).beginLasting
      { bit := Bit.memory, code := 0x82, area := 0x14, detail := 0x100 + p } := by
  unfold Dev.checkControl
  dsimp only
  split
  · exact .inr rfl
  · exact .inl rfl

theorem Dev.checkControl_sameLayout (d : Dev) (p : Nat) : d.SameLayout (d.checkControl p) := by
  rcases d.checkControl_cases p with e | e <;> rw [e]
  · exact ⟨fun _ _ _ => rfl⟩
  · exact ⟨fun r i n => by rw [Dev.rd_beginLasting _ _ _ _ (by rw [n]; rfl), Dev.rd_setPool]⟩

theorem Dev.checkControl_allocated (d : Dev) (p : Nat) : ((d.checkControl p).pool p).allocated = (d.pool p).allocated := by
  rcases d.checkControl_cases p with e | e <;> rw [e]
  rw [(Dev.beginLasting_reported _ _).pool, Dev.pool_setPool_same]

theorem Dev.checkControl_mem (d : Dev) (p : Nat) : (d.checkControl p).mem = d.mem := by
  rcases d.checkControl_cases p with e | e <;> rw [e]
  exact (Dev.beginLasting_reported _ _).frame.2.1

theorem Dev.checkControl_pool_ne (d : Dev) {p q : Nat} (h : q ≠ p) : (d.checkControl p).pool q = d.pool q := by
  rcases d.checkControl_cases p with e | e <;> rw [e]
  rw [(Dev.beginLasting_reported _ _).pool, Dev.pool_setPool_ne _ _ h]

/-! ### One buffer taken (R451) -/

/-- The free buffer a request gets: its offset among the free ones of the class, and the state after it is drawn. -/
def Dev.pick (d : Dev) (p k : Nat) : Nat × Dev := if d.freeIn p k ≤ 1 then (0, d) else (d.fresh.1 % d.freeIn p k, d.fresh.2)

def Dev.pickedBuffer (d : Dev) (p k : Nat) : Nat := d.classFirst p k + nthFree (d.takenIn p k) (d.pick p k).1

theorem Dev.takeOne_eq (d : Dev) (p k owner : Nat) : d.takeOne p k owner = (d.pickedBuffer p k, (d.pick p k).2.setPool p
    { (d.pick p k).2.pool p with allocated := insertAlloc ((d.pick p k).2.pool p).allocated (d.pickedBuffer p k) owner }) := (rfl)

theorem Dev.pick_lt {d : Dev} {p k : Nat} (h : 1 ≤ d.freeIn p k) : (d.pick p k).1 < d.freeIn p k := by
  unfold Dev.pick
  split
  · exact h
  · exact Nat.mod_lt _ h

theorem Dev.pick_frame (d : Dev) (p k : Nat) : (∀ q, (d.pick p k).2.pool q = d.pool q) ∧ (d.pick p k).2.mem = d.mem ∧
    ∀ r i, (d.pick p k).2.rd r i = d.rd r i := by
  unfold Dev.pick
  split
  · exact ⟨fun _ => rfl, rfl, fun _ _ => rfl⟩
  · exact ⟨fun _ => rfl, rfl, fun r i => Dev.rd_of_regs rfl r i⟩

/-- The buffer picked is one of the class, and free. -/
theorem Dev.pickedBuffer_spec {d : Dev} {p k : Nat} (hk : k < 8) (free : 1 ≤ d.freeIn p k)
    (rising : ((d.pool p).allocated.map (·.1)).Pairwise (· < ·)) :
    d.classFirst p k ≤ d.pickedBuffer p k ∧ d.pickedBuffer p k < d.classFirst p k + d.classCount p k ∧
      ∀ o, (d.pickedBuffer p k, o) ∉ (d.pool p).allocated := by
  have low : d.classFirst p k ≤ d.pickedBuffer p k := Nat.le_add_right _ _
  have high : d.pickedBuffer p k < d.classFirst p k + d.classCount p k := by
    have picked := Dev.pick_lt free
    have beyond := nthFree_le (d.takenIn p k) (d.pick p k).1
    rw [d.takenIn_length] at free picked
    unfold Dev.pickedBuffer
    omega
  refine ⟨low, high, fun o mem => nthFree_not_mem (Dev.takenIn_rising k rising) (d.pick p k).1 ?_⟩
  have taken := Dev.mem_takenIn mem (Dev.classOf_eq hk low high)
  rwa [Dev.pickedBuffer, Nat.add_sub_cancel_left] at taken

/-! ### An allocation (R451 to R453) -/

/-- The free-ring cache and the fewest free buffers after an allocation of one. -/
def Dev.ringed (d : Dev) (p free : Nat) : Dev :=
  d.setPool p { d.pool p with fewest := min (d.pool p).fewest (free - 1), ring := ringTake (d.pool p).ring free 1 }

theorem Dev.ringed_sameLayout (d : Dev) (p free : Nat) : d.SameLayout (d.ringed p free) := ⟨fun _ _ _ => Dev.rd_setPool _ _ _ _ _⟩

theorem Dev.takeOne_sameLayout (d : Dev) (p k owner : Nat) : d.SameLayout (d.takeOne p k owner).2 :=
  ⟨fun r i _ => (Dev.rd_setPool _ _ _ _ _).trans ((d.pick_frame p k).2.2 r i)⟩

/-- The state after one buffer is taken, and its address. -/
def Dev.allocOne (d : Dev) (p k owner : Nat) : Alloc × Dev :=
  (.ok (((d.takeOne p k owner).2.ringed p (d.poolFree p)).bufferAddress p (d.pickedBuffer p k)),
    (d.takeOne p k owner).2.ringed p (d.poolFree p))

/-- A pool of buffers that gives one gives the one picked. -/
theorem Dev.alloc_of_buffers {d : Dev} {p : Nat} (n owner : Nat) (kind : d.cellChain p = false) : d.alloc p n owner =
    match d.classFor p n with
    | none => (.fail 0x80, d.checkControl p)
    | some k =>
      if !((d.checkControl p).pool p).on || !(d.checkControl p).mayTake p k owner 1 then
        (.fail 0x20, (d.checkControl p).count Reg.sidingsPoolCounters_poolEmpty p)
      else (d.checkControl p).allocOne p k owner := by
  have checked := d.checkControl_sameLayout p
  have buffers : (d.checkControl p).cellChain p = false := (checked.cellChain p).trans kind
  have after (k : Nat) : (((d.checkControl p).takeOne p k owner).2.ringed p ((d.checkControl p).poolFree p)).cellChain p = false :=
    ((((d.checkControl p).takeOne_sameLayout p k owner).trans (Dev.ringed_sameLayout _ p _)).cellChain p).trans buffers
  simp only [Dev.alloc, buffers, checked.classFor, Bool.false_eq_true, if_false]
  cases d.classFor p n with
  | none => rfl
  | some k =>
    dsimp only
    split
    · rfl
    · change (_, if (((d.checkControl p).takeOne p k owner).2.ringed p ((d.checkControl p).poolFree p)).cellChain p = true then _ else _) = _
      rw [after k]
      rfl

theorem Dev.allocOne_spec {d e : Dev} {p k a : Nat} (owner : Nat) (hk : k < 8) (free : 1 ≤ d.freeIn p k)
    (rising : ((d.pool p).allocated.map (·.1)).Pairwise (· < ·)) (h : d.allocOne p k owner = (.ok a, e)) :
    (∃ b, d.classFirst p k ≤ b ∧ b < d.classFirst p k + d.classCount p k ∧
      a = d.classBase p k + (b - d.classFirst p k) * d.classSize p k ∧ (∀ o, (b, o) ∉ (d.pool p).allocated) ∧
      ∀ x, x ∈ (e.pool p).allocated ↔ x = (b, owner) ∨ x ∈ (d.pool p).allocated) ∧
    ((e.pool p).allocated.map (·.1)).Pairwise (· < ·) ∧ (∀ r, r ≠ p → e.pool r = d.pool r) ∧ e.mem = d.mem := by
  obtain ⟨low, high, new⟩ := Dev.pickedBuffer_spec hk free rising
  obtain ⟨pools, mem, -⟩ := d.pick_frame p k
  have layout := (d.takeOne_sameLayout p k owner).trans (Dev.ringed_sameLayout _ p (d.poolFree p))
  obtain ⟨address, rfl⟩ := Prod.mk.injEq .. ▸ h
  injection address with address
  have allocated : (((d.takeOne p k owner).2.ringed p (d.poolFree p)).pool p).allocated =
      insertAlloc (d.pool p).allocated (d.pickedBuffer p k) owner := by
    rw [Dev.ringed, Dev.pool_setPool_same, d.takeOne_eq, Dev.pool_setPool_same, pools]
  rw [allocated]
  refine ⟨⟨d.pickedBuffer p k, low, high, ?_, new, mem_insertAlloc⟩, insertAlloc_rising owner rising new, fun r other => ?_, ?_⟩
  · rw [← address, layout.bufferAddress, Dev.bufferAddress, Dev.classOf_eq hk low high]
  · rw [Dev.ringed, Dev.pool_setPool_ne _ _ other, d.takeOne_eq, Dev.pool_setPool_ne _ _ other, pools]
  · rw [Dev.ringed, Dev.setPool_mem, d.takeOne_eq, Dev.setPool_mem, mem]

/-- An allocation from a size-class pool (R451). -/
theorem Dev.alloc_spec {d e : Dev} {p n owner a : Nat} (kind : d.cellChain p = false)
    (rising : ((d.pool p).allocated.map (·.1)).Pairwise (· < ·)) (h : d.alloc p n owner = (.ok a, e)) :
    (∃ k b, d.classFor p n = some k ∧ n ≤ d.classSize p k ∧ d.classFirst p k ≤ b ∧ b < d.classFirst p k + d.classCount p k ∧
      a = d.classBase p k + (b - d.classFirst p k) * d.classSize p k ∧ (∀ o, (b, o) ∉ (d.pool p).allocated) ∧
      ∀ x, x ∈ (e.pool p).allocated ↔ x = (b, owner) ∨ x ∈ (d.pool p).allocated) ∧
    ((e.pool p).allocated.map (·.1)).Pairwise (· < ·) ∧ (∀ r, r ≠ p → e.pool r = d.pool r) ∧ e.mem = d.mem := by
  have layout := d.checkControl_sameLayout p
  have same := d.checkControl_allocated p
  rw [Dev.alloc_of_buffers n owner kind] at h
  rcases class_ : d.classFor p n with _ | k <;> rw [class_] at h
  · cases h
  dsimp only at h
  split at h
  · cases h
  next may =>
    obtain ⟨hk, size⟩ := Dev.classFor_spec kind class_
    have free : 1 ≤ (d.checkControl p).freeIn p k := by
      simp only [Bool.or_eq_true, Bool.not_eq_true', not_or, Bool.not_eq_false, Dev.mayTake, Bool.and_eq_true, decide_eq_true_eq] at may
      exact may.2.1.1
    obtain ⟨⟨b, low, high, address, new, mem_⟩, rises, others, mem⟩ := Dev.allocOne_spec owner hk free (same.symm ▸ rising) h
    rw [layout.classFirst] at low high address
    rw [layout.classCount] at high
    rw [layout.classBase, layout.classSize] at address
    rw [same] at new mem_
    exact ⟨⟨k, b, rfl, size, low, high, address, new, mem_⟩, rises, fun r other => (others r other).trans (d.checkControl_pool_ne other),
      mem.trans (d.checkControl_mem p)⟩

/-! ### A return (R454) -/

theorem Dev.freeOne_bad {d : Dev} {p a : Nat} (h : d.bufferAt p a = none) :
    d.freeOne p a = (some 0x21, d.count Reg.sidingsPoolCounters_badPointer p) := by simp only [Dev.freeOne, h]

/-- The pool without a buffer. -/
def Pool.without (x : Pool) (b : Nat) : Pool :=
  { x with allocated := x.allocated.filter fun e => e.1 != b, ring := min 256 (x.ring + 1) }

theorem Dev.freeOne_at {d : Dev} {p a b : Nat} (h : d.bufferAt p a = some b) : d.freeOne p a =
    if (d.pool p).allocated.any fun e => e.1 == b then (none, d.setPool p ((d.pool p).without b))
    else (some 0x22, d.count Reg.sidingsPoolCounters_doubleFree p) := by
  simp only [Dev.freeOne, h]
  rfl

theorem Pool.not_mem_without (x : Pool) (b o : Nat) : (b, o) ∉ (x.without b).allocated := fun mem =>
  absurd (List.mem_filter.1 mem).2 (by simp)

/-- A buffer returned is free, and its second return is refused. -/
theorem Dev.freeOne_spec {d e : Dev} {p a : Nat} (h : d.freeOne p a = (none, e)) :
    (∃ b, d.bufferAt p a = some b ∧ (∃ o, (b, o) ∈ (d.pool p).allocated) ∧ ∀ o, (b, o) ∉ (e.pool p).allocated) ∧
    (e.freeOne p a).1 = some 0x22 ∧ ((e.freeOne p a).2.pool p) = e.pool p := by
  rcases at_ : d.bufferAt p a with _ | b
  · rw [Dev.freeOne_bad at_] at h; cases h
  rw [Dev.freeOne_at at_] at h
  split at h
  case isFalse => cases h
  next held =>
    obtain ⟨-, rfl⟩ := Prod.mk.injEq .. ▸ h
    obtain ⟨⟨b', o⟩, mem, same⟩ := List.any_eq_true.1 held
    obtain rfl : b' = b := by simpa using same
    have gone (o : Nat) : (b', o) ∉ ((d.setPool p ((d.pool p).without b')).pool p).allocated := by
      rw [Dev.pool_setPool_same]; exact Pool.not_mem_without _ _ _
    have again : (d.setPool p ((d.pool p).without b')).bufferAt p a = some b' :=
      (Dev.SameLayout.bufferAt ⟨fun r i _ => Dev.rd_setPool _ _ _ r i⟩ p a).trans at_
    have twice := (Dev.freeOne_at again).trans (if_neg fun held => by
      obtain ⟨⟨c, o⟩, mem, same⟩ := List.any_eq_true.1 held
      obtain rfl : c = b' := by simpa using same
      exact gone o mem)
    refine ⟨⟨b', rfl, ⟨o, mem⟩, gone⟩, by rw [twice], ?_⟩
    rw [twice]
    exact (Dev.count_reported _ _ _ _).pool p

end Sys2Proof.Machine
end

section
/-! SUPPORT. The address map of LPDDR6 is one-to-one (R460). -/

namespace Sys2Proof.Machine

/-- The fields of a unit within its rank give the unit, in every order. -/
theorem mapFields_injective {order v w : Nat} (hv : v < 2 ^ 22) (hw : w < 2 ^ 22) (same : mapFields order v = mapFields order w) : v = w := by
  simp only [mapFields, bits, Nat.shiftRight_eq_div_pow] at same
  split at same
  all_goals
    simp only [Prod.mk.injEq] at same
    obtain ⟨row, bank, col⟩ := same
    omega

theorem mapFields_bank_lt (order v : Nat) : (mapFields order v).2.1 < 16 := by
  unfold mapFields
  split <;> exact bits_lt _ _ 4

/-- The bank of a raw bank number whose bits are turned by `turn` (R460). -/
def turnedBank (turn : Nat → Bool) (raw : Nat) : Nat :=
  (List.range 4).foldl (fun b k => b + ((raw.testBit k).xor (turn k)).toNat * 2 ^ k) 0

theorem turnedBank_eq (turn : Nat → Bool) (raw : Nat) : turnedBank turn raw = ((raw.testBit 0).xor (turn 0)).toNat +
    2 * ((raw.testBit 1).xor (turn 1)).toNat + 4 * ((raw.testBit 2).xor (turn 2)).toNat + 8 * ((raw.testBit 3).xor (turn 3)).toNat := by
  simp [turnedBank, List.range_succ]
  omega

theorem boolToNat_inj : ∀ {x y : Bool}, x.toNat = y.toNat → x = y := by decide

/-- Turned bits tell the raw ones. -/
theorem turnedBank_injective {turn : Nat → Bool} {raw raw' : Nat} (h : raw < 16) (h' : raw' < 16)
    (same : turnedBank turn raw = turnedBank turn raw') : raw = raw' := by
  have bit (k : Nat) (eq : ((raw.testBit k).xor (turn k)).toNat = ((raw'.testBit k).xor (turn k)).toNat) : raw.testBit k = raw'.testBit k :=
    Bool.xor_left_inj.1 (boolToNat_inj eq)
  have at_most (k : Nat) : ((raw.testBit k).xor (turn k)).toNat ≤ 1 ∧ ((raw'.testBit k).xor (turn k)).toNat ≤ 1 :=
    ⟨Bool.toNat_le _, Bool.toNat_le _⟩
  rw [turnedBank_eq, turnedBank_eq] at same
  have b0 := at_most 0
  have b1 := at_most 1
  have b2 := at_most 2
  have b3 := at_most 3
  refine Nat.eq_of_testBit_eq fun k => ?_
  rcases Nat.lt_or_ge k 4 with low | high
  · refine bit k ?_
    interval_cases k <;> omega
  · have big : 16 ≤ 2 ^ k := Nat.pow_le_pow_right (n := 2) (by decide) high
    rw [Nat.testBit_lt_two_pow (h.trans_le big), Nat.testBit_lt_two_pow (h'.trans_le big)]

/-- Whether a row turns bit `k` of the bank. -/
def Dev.bankTurn (d : Dev) (row k : Nat) : Bool := parity (row &&& d.rd (Reg.lpddr6Map_mask k)) == 1

theorem Dev.dramPlace_eq (d : Dev) (a : Nat) : d.dramPlace a =
    { channel := d.rd Reg.lpddr6Remap_channel (a / 256 % 60), rank := d.rd Reg.lpddr6Remap_rank (a / 256 % 60),
      bank := turnedBank (d.bankTurn (mapFields (d.rd Reg.lpddr6Map_order) (a / 256 / 60)).1) (mapFields (d.rd Reg.lpddr6Map_order) (a / 256 / 60)).2.1,
      row := (mapFields (d.rd Reg.lpddr6Map_order) (a / 256 / 60)).1, col := (mapFields (d.rd Reg.lpddr6Map_order) (a / 256 / 60)).2.2 } := (rfl)

theorem unit_lt {a : Nat} (h : a < lpddrEnd) : a / 256 / 60 < 2 ^ 22 := by
  unfold lpddrEnd at h
  omega

/-- Two addresses with one place lie in one unit (R460). -/
theorem Dev.dramPlace_injective {d : Dev} {a b : Nat} (ha : a < lpddrEnd) (hb : b < lpddrEnd)
    (map : ∀ k j, k < 60 → j < 60 → d.rd Reg.lpddr6Remap_channel k = d.rd Reg.lpddr6Remap_channel j →
      d.rd Reg.lpddr6Remap_rank k = d.rd Reg.lpddr6Remap_rank j → k = j)
    (same : d.dramPlace a = d.dramPlace b) : a / 256 = b / 256 := by
  rw [d.dramPlace_eq, d.dramPlace_eq] at same
  obtain ⟨channel, rank, bank, row, col⟩ := DramPlace.mk.injEq .. ▸ same
  have logical := map _ _ (Nat.mod_lt _ (by decide)) (Nat.mod_lt _ (by decide)) channel rank
  rw [row] at bank
  have raw := turnedBank_injective (mapFields_bank_lt _ _) (mapFields_bank_lt _ _) bank
  have fields := mapFields_injective (unit_lt ha) (unit_lt hb) (Prod.ext row (Prod.ext raw col))
  omega

end Sys2Proof.Machine
end

section
/-! SUPPORT. Ranks of LPDDR6: what its log, the ledger and poison leave alone, and the migration of a rank (R463 to R467). -/

namespace Sys2Proof.Machine

/-! ### What entries and causes leave of the ranks -/

/-- From `d` to `e` memory, the contexts, the migrations and the remap entries stay. -/
structure Dev.KeepsRanks (d e : Dev) : Prop where
  mem : e.mem = d.mem
  contexts : e.contexts = d.contexts
  current : e.lp.current = d.lp.current
  queued : e.lp.queued = d.lp.queued
  remap : ∀ r i, r.obj = .lpddr6Remap → e.rd r i = d.rd r i

theorem Dev.KeepsRanks.refl (d : Dev) : d.KeepsRanks d := ⟨rfl, rfl, rfl, rfl, fun _ _ _ => rfl⟩

theorem Dev.KeepsRanks.trans {a b c : Dev} (h : a.KeepsRanks b) (k : b.KeepsRanks c) : a.KeepsRanks c :=
  ⟨k.mem.trans h.mem, k.contexts.trans h.contexts, k.current.trans h.current, k.queued.trans h.queued,
    fun r i n => (k.remap r i n).trans (h.remap r i n)⟩

theorem Dev.KeepsRanks.foldl {α : Type} {f : Dev → α → Dev} (h : ∀ (d : Dev) (x : α), d.KeepsRanks (f d x)) (l : List α) :
    ∀ d : Dev, d.KeepsRanks (l.foldl f d) := by
  induction l with
  | nil => exact .refl
  | cons x l ih => exact fun d => (h d x).trans (ih _)

theorem Dev.Reported.keepsRanks {d e : Dev} (h : d.Reported e) (rd : ∀ r i, r.obj = .lpddr6Remap → e.rd r i = d.rd r i) : d.KeepsRanks e := by
  obtain ⟨f, r, a, w, l, g, n, rfl⟩ := h
  exact ⟨rfl, rfl, rfl, rfl, rd⟩

theorem Dev.Reported.poison {d e : Dev} (h : d.Reported e) : e.poison = d.poison := by
  obtain ⟨f, r, a, w, l, g, n, rfl⟩ := h
  rfl

theorem Dev.wr_keepsRanks (d : Dev) {r : Reg} (h : r.obj ≠ .lpddr6Remap) (i v : Nat) : d.KeepsRanks (d.wr r i v) :=
  (d.wr_reported r i v).keepsRanks fun _ _ n => d.rd_wr_off_ne _ _ _ _ _ (.inl fun e => h (e.trans n))

theorem Dev.count_keepsRanks (d : Dev) {r : Reg} (h : r.obj ≠ .lpddr6Remap) (i n : Nat) : d.KeepsRanks (d.count r i n) :=
  (d.count_reported r i n).keepsRanks fun _ _ k => d.rd_count_off_ne _ _ _ _ _ (.inl fun e => h (e.trans k))

theorem Dev.attend_keepsRanks (d : Dev) (c : Cause) : d.KeepsRanks (d.attend c) :=
  (d.attend_reported c).keepsRanks fun r i n => d.rd_attend c r i (by rw [n]; rfl)

/-- The state of the log of LPDDR6 replaced. -/
def Dev.withLog (d : Dev) (wrapped : Bool) (raised : Option Nat) : Dev := { d with lp := { d.lp with logWrapped := wrapped, logRaised := raised } }

theorem Dev.withLog_keepsRanks (d : Dev) (wrapped : Bool) (raised : Option Nat) : d.KeepsRanks (d.withLog wrapped raised) :=
  ⟨rfl, rfl, rfl, rfl, fun r i _ => Dev.rd_of_regs rfl r i⟩

/-- The entry of the log written (R473). -/
def Dev.lpddrEntry (d : Dev) (kind lr address units : Nat) : Dev :=
  let h := d.rd Reg.lpddr6LogHead
  let i := h % 1024
  let d : Dev := d.withLog (d.lp.logWrapped || h + 1 == 2 ^ 32) d.lp.logRaised
  let d := d.wr Reg.lpddr6LogHead 0 ((h + 1) % 2 ^ 32)
  let d := ((d.wr Reg.lpddr6Log_sequence i h).wr Reg.lpddr6Log_kind i kind).wr Reg.lpddr6Log_logical i lr
  let d := (d.wr Reg.lpddr6Log_channel i (d.rd Reg.lpddr6Remap_channel lr)).wr Reg.lpddr6Log_rank i (d.rd Reg.lpddr6Remap_rank lr)
  (d.wr Reg.lpddr6Log_address i address).wr Reg.lpddr6Log_units i units

/-- An entry of the log is written, or lost and counted, with LOG or without (R473, R597). -/
theorem Dev.lpddrLog_cases (d : Dev) (kind lr address units : Nat) : d.lpddrLog kind lr address units = d.lpddrEntry kind lr address units ∨
    d.lpddrLog kind lr address units = d.count Reg.lpddr6LogLost ∨
    d.lpddrLog kind lr address units = ((d.count Reg.lpddr6LogLost).withLog (d.count Reg.lpddr6LogLost).lp.logWrapped
      (some (d.count Reg.lpddr6LogLost).now)).attend { bit := Bit.log, area := 0x15 } := by
  unfold Dev.lpddrLog
  dsimp only
  split
  · split
    · exact .inr (.inr rfl)
    · exact .inr (.inl rfl)
  · exact .inl rfl

theorem Dev.lpddrEntry_keepsRanks (d : Dev) (kind lr address units : Nat) : d.KeepsRanks (d.lpddrEntry kind lr address units) := by
  have entry {e : Dev} (h : d.KeepsRanks e) (r : Reg) (n : r.obj ≠ .lpddr6Remap) (i v : Nat) : d.KeepsRanks (e.wr r i v) :=
    h.trans (e.wr_keepsRanks n i v)
  exact entry (entry (entry (entry (entry (entry (entry (entry (d.withLog_keepsRanks _ _) _ (by decide) _ _) _ (by decide) _ _) _ (by decide) _ _)
    _ (by decide) _ _) _ (by decide) _ _) _ (by decide) _ _) _ (by decide) _ _) _ (by decide) _ _

theorem Dev.lpddrLog_keepsRanks (d : Dev) (kind lr address units : Nat) : d.KeepsRanks (d.lpddrLog kind lr address units) := by
  have counted := d.count_keepsRanks (r := Reg.lpddr6LogLost) (by decide) 0 1
  rcases d.lpddrLog_cases kind lr address units with e | e | e <;> rw [e]
  · exact d.lpddrEntry_keepsRanks _ _ _ _
  · exact counted
  · exact (counted.trans (Dev.withLog_keepsRanks _ _ _)).trans (Dev.attend_keepsRanks _ _)

theorem Dev.lpddrLog_poison (d : Dev) (kind lr address units : Nat) : (d.lpddrLog kind lr address units).poison = d.poison := by
  have counted := (d.count_reported Reg.lpddr6LogLost 0 1).poison
  rcases d.lpddrLog_cases kind lr address units with e | e | e <;> rw [e]
  · simp only [Dev.lpddrEntry, Dev.wr_poison, Dev.withLog]
  · exact counted
  · exact (Dev.attend_reported _ _).poison.trans counted

theorem Dev.memoryRank_keepsRanks (d : Dev) (lr : Nat) : d.KeepsRanks (d.memoryRank lr) := d.attend_keepsRanks _
theorem Dev.memoryRank_poison (d : Dev) (lr : Nat) : (d.memoryRank lr).poison = d.poison := (d.attend_reported _).poison

theorem Dev.retireRank_cases (d : Dev) (lr : Nat) : d.retireRank lr = d ∨
    d.retireRank lr = d.appendLedger 2 .lpddrRank (d.rd Reg.lpddr6Remap_channel lr * 2 + d.rd Reg.lpddr6Remap_rank lr) 0 := by
  unfold Dev.retireRank
  dsimp only
  split
  · exact .inl rfl
  · exact .inr rfl

theorem Dev.retireRank_keepsRanks (d : Dev) (lr : Nat) : d.KeepsRanks (d.retireRank lr) := by
  rcases d.retireRank_cases lr with e | e <;> rw [e]
  · exact .refl d
  · have logged := d.appendLedger_logged 2 .lpddrRank (d.rd Reg.lpddr6Remap_channel lr * 2 + d.rd Reg.lpddr6Remap_rank lr) 0 []
    exact logged.reported.keepsRanks fun r i n => logged.rd r i (by rw [n]; rfl)

theorem Dev.retireRank_poison (d : Dev) (lr : Nat) : (d.retireRank lr).poison = d.poison := by
  rcases d.retireRank_cases lr with e | e <;> rw [e]
  exact (d.appendLedger_logged _ _ _ _ _).reported.poison

/-! ### Poison (R447, R465) -/

def Dev.withPoison (d : Dev) (u : Nat) : Dev := { d with poison := u :: d.poison }

theorem Dev.poisonAt_cases (d : Dev) (a : Nat) : d.poisonAt a = d ∧ poisonUnit a ∈ d.poison ∨ d.poisonAt a = d.withPoison (poisonUnit a) ∨
    d.poisonAt a = (d.withPoison (poisonUnit a)).lpddrLog 4 (poisonUnit a / 256 % 60) (poisonUnit a) 1 := by
  unfold Dev.poisonAt
  dsimp only
  split
  case isTrue known => exact .inl ⟨rfl, by simpa using known⟩
  case isFalse =>
    split
    · exact .inr (.inr rfl)
    · exact .inr (.inl rfl)

theorem Dev.withPoison_keepsRanks (d : Dev) (u : Nat) : d.KeepsRanks (d.withPoison u) :=
  ⟨rfl, rfl, rfl, rfl, fun r i _ => Dev.rd_of_regs rfl r i⟩

theorem Dev.poisonAt_keepsRanks (d : Dev) (a : Nat) : d.KeepsRanks (d.poisonAt a) := by
  rcases d.poisonAt_cases a with ⟨e, -⟩ | e | e <;> rw [e]
  · exact .refl d
  · exact d.withPoison_keepsRanks _
  · exact (d.withPoison_keepsRanks _).trans (Dev.lpddrLog_keepsRanks _ _ _ _ _)

/-- A unit poisoned, with those that were. -/
theorem Dev.mem_poison_poisonAt (d : Dev) (a : Nat) : poisonUnit a ∈ (d.poisonAt a).poison ∧ ∀ u ∈ d.poison, u ∈ (d.poisonAt a).poison := by
  rcases d.poisonAt_cases a with ⟨e, known⟩ | e | e <;> rw [e]
  · exact ⟨known, fun _ m => m⟩
  · exact ⟨List.mem_cons_self, fun _ m => List.mem_cons_of_mem _ m⟩
  · rw [Dev.lpddrLog_poison]
    exact ⟨List.mem_cons_self, fun _ m => List.mem_cons_of_mem _ m⟩

/-- Units of a rank poisoned (R467). -/
def Dev.poisonUnits (d : Dev) (rank : Nat) (vs : List Nat) : Dev := vs.foldl (fun d v => d.poisonAt ((v * 60 + rank) * 256)) d

theorem Dev.poisonUnits_keepsRanks (d : Dev) (rank : Nat) (vs : List Nat) : d.KeepsRanks (d.poisonUnits rank vs) :=
  Dev.KeepsRanks.foldl (fun d v => d.poisonAt_keepsRanks ((v * 60 + rank) * 256)) vs d

theorem Dev.mem_poison_poisonUnits (rank : Nat) (vs : List Nat) : ∀ d : Dev, (∀ u ∈ d.poison, u ∈ (d.poisonUnits rank vs).poison) ∧
    ∀ v ∈ vs, poisonUnit ((v * 60 + rank) * 256) ∈ (d.poisonUnits rank vs).poison := by
  induction vs with
  | nil => exact fun d => ⟨fun _ m => m, fun _ m => nomatch m⟩
  | cons v vs ih =>
    intro d
    obtain ⟨here, before⟩ := d.mem_poison_poisonAt ((v * 60 + rank) * 256)
    obtain ⟨kept, rest⟩ := ih (d.poisonAt ((v * 60 + rank) * 256))
    exact ⟨fun u m => kept u (before u m), List.forall_mem_cons.2 ⟨kept _ here, rest⟩⟩

/-! ### Refresh (R463) -/

@[simp] theorem Dev.rank_setRank_same (d : Dev) (e : Nat) (r : Rank) : (d.setRank e r).rank e = r := Tbl.getD_put_same _ _ _ _
theorem Dev.rank_setRank_ne (d : Dev) {e j : Nat} (r : Rank) (h : j ≠ e) : (d.setRank e r).rank j = d.rank j := Tbl.getD_put_ne _ _ _ (Ne.symm h)

theorem settle_lp (d : Dev) : (settle d).lp = d.lp := by
  obtain ⟨w, n, h⟩ := settle_eq_ep d; rw [h]

theorem settle_rank (d : Dev) (e : Nat) : (settle d).rank e = d.rank e := by rw [Dev.rank, settle_lp, Dev.rank]

theorem refreshDueEffect_idle (e : Nat) (d : Dev) : refreshDueEffect e false d = d := rfl

theorem refreshDueEffect_postponed {e : Nat} {d : Dev} (h : (d.rank e).postponed < 8) : refreshDueEffect e true d =
    (d.setRank e { d.rank e with postponed := (d.rank e).postponed + 1 }).count Reg.lpddr6RankCounters_postponed e := if_pos h

theorem refreshDueEffect_forced {e : Nat} {d : Dev} (h : 8 ≤ (d.rank e).postponed) :
    refreshDueEffect e true d = d.count Reg.lpddr6RankCounters_forced e := if_neg (Nat.not_lt.2 h)

theorem rankTemperatureReadEffect_interval (e : Nat) (t : Int) (d : Dev) :
    ((rankTemperatureReadEffect e t d).rank e).interval = if 85 < t then 1952 else 3904 := by
  rw [rankTemperatureReadEffect, Dev.rank_setRank_same]
  simp [Rank.interval]

/-! ### Migration (R466, R467) -/

theorem Dev.queueMigration_free {d : Dev} {lr e : Nat} {rest : List Nat} (busy : d.rankBusy lr = false) (free : d.freeSpares = e :: rest) :
    d.queueMigration lr = Dev.wr { d with lp := { d.lp with queued := d.lp.queued ++ [(lr, e)] } } Reg.lpddr6Remap_state e 4 := by
  simp only [Dev.queueMigration, busy, Bool.false_eq_true, if_false, free]

section
variable {d : Dev} {q i : Nat} {f : Fetched} (taken : d.takeCommand q i 0x1501 = some f)
include taken

theorem rankRetireEffect_eq : rankRetireEffect q i d =
    if d.rankBusy (byteAt f.entry 8) then d.complete q i 0x81 0x15
    else if d.freeSpares = [] then d.complete q i 0x80 0x15
    else (d.queueMigration (byteAt f.entry 8)).complete q i 0 0x15 ((d.queueMigration (byteAt f.entry 8)).lp.queued.length - 1) := by
  simp only [rankRetireEffect, taken]

end

/-- The migration of a rank to a spare begun (R467). -/
def Dev.migrating (d : Dev) (lr e : Nat) (rest : List (Nat × Nat)) : Dev :=
  (Dev.wr { d with lp := { d.lp with current := some { rank := lr, target := e }, queued := rest } } Reg.lpddr6Remap_state lr 2).wr
    Reg.lpddr6Remap_state e 3

theorem migrationStartEffect_none {d : Dev} (h : d.lp.current ≠ none ∨ d.lp.queued = []) : migrationStartEffect d = d := by
  unfold migrationStartEffect
  split
  case h_1 lr e rest current queued => exact (h.elim (absurd current) fun none_ => by rw [none_] at queued; cases queued)
  case h_2 => rfl

theorem migrationStartEffect_starts {d : Dev} {lr e : Nat} {rest : List (Nat × Nat)} (current : d.lp.current = none)
    (queued : d.lp.queued = (lr, e) :: rest) :
    migrationStartEffect d = (((d.migrating lr e rest).retireRank lr).lpddrLog 5 lr 0 (2 ^ 22)).memoryRank lr := by
  simp only [migrationStartEffect, current, queued]
  rfl

theorem Dev.migrating_spec (d : Dev) {lr e : Nat} (rest : List (Nat × Nat)) (other : lr ≠ e) :
    (d.migrating lr e rest).rd Reg.lpddr6Remap_state lr = 2 ∧ (d.migrating lr e rest).rd Reg.lpddr6Remap_state e = 3 ∧
    ∀ r i, r ≠ Reg.lpddr6Remap_state → (d.migrating lr e rest).rd r i = d.rd r i := by
  have base (r : Reg) (i : Nat) : Dev.rd { d with lp := { d.lp with current := some { rank := lr, target := e }, queued := rest } } r i =
      d.rd r i := Dev.rd_of_regs rfl r i
  refine ⟨?_, Dev.rd_wr_same _ _ _ _, fun r i n => ?_⟩
  · rw [Dev.migrating, Dev.rd_wr, if_neg fun e => other e.2.symm, Dev.rd_wr_same]
  · rw [Dev.migrating, Dev.rd_wr, if_neg fun e => n e.1.symm, Dev.rd_wr, if_neg fun e => n e.1.symm, base]

theorem migrationStartEffect_spec {d : Dev} {lr e : Nat} {rest : List (Nat × Nat)} (current : d.lp.current = none)
    (queued : d.lp.queued = (lr, e) :: rest) (other : lr ≠ e) :
    let w := migrationStartEffect d
    w.lp.current = some { rank := lr, target := e } ∧ w.lp.queued = rest ∧ w.rd Reg.lpddr6Remap_state lr = 2 ∧
      w.rd Reg.lpddr6Remap_state e = 3 ∧ w.attentionBit Bit.memory = true ∧ w.mem = d.mem ∧
      ∀ k, w.rd Reg.lpddr6Remap_channel k = d.rd Reg.lpddr6Remap_channel k ∧ w.rd Reg.lpddr6Remap_rank k = d.rd Reg.lpddr6Remap_rank k := by
  intro w
  have eq : w = _ := migrationStartEffect_starts current queued
  have kept : (d.migrating lr e rest).KeepsRanks w := eq ▸ (((d.migrating lr e rest).retireRank_keepsRanks lr).trans
    (Dev.lpddrLog_keepsRanks _ _ _ _ _)).trans (Dev.memoryRank_keepsRanks _ _)
  obtain ⟨from_, to_, same⟩ := d.migrating_spec rest other
  refine ⟨kept.current, kept.queued, (kept.remap _ _ rfl).trans from_, (kept.remap _ _ rfl).trans to_, ?_, kept.mem, fun k => ?_⟩
  · rw [eq]
    exact Dev.attentionBit_attend _ (show 8 ≤ Bit.memory by decide) (show Bit.memory ≤ 15 by decide)
  · exact ⟨(kept.remap _ _ rfl).trans (same _ _ (by decide)), (kept.remap _ _ rfl).trans (same _ _ (by decide))⟩

/-- The remap entries of a rank and its spare exchanged, and their states (R467, R472). -/
def Dev.remapped (d : Dev) (rank target : Nat) : Dev :=
  let old := (d.rd Reg.lpddr6Remap_channel rank, d.rd Reg.lpddr6Remap_rank rank)
  let d := (d.wr Reg.lpddr6Remap_channel rank (d.rd Reg.lpddr6Remap_channel target)).wr Reg.lpddr6Remap_rank rank
    (d.rd Reg.lpddr6Remap_rank target)
  let d := (d.wr Reg.lpddr6Remap_channel target old.1).wr Reg.lpddr6Remap_rank target old.2
  (d.wr Reg.lpddr6Remap_state rank 1).wr Reg.lpddr6Remap_state target 5

theorem Dev.remapped_spec (d : Dev) {rank target : Nat} (other : rank ≠ target) :
    (d.remapped rank target).rd Reg.lpddr6Remap_channel rank = d.rd Reg.lpddr6Remap_channel target ∧
    (d.remapped rank target).rd Reg.lpddr6Remap_rank rank = d.rd Reg.lpddr6Remap_rank target ∧
    (d.remapped rank target).rd Reg.lpddr6Remap_channel target = d.rd Reg.lpddr6Remap_channel rank ∧
    (d.remapped rank target).rd Reg.lpddr6Remap_rank target = d.rd Reg.lpddr6Remap_rank rank ∧
    (d.remapped rank target).rd Reg.lpddr6Remap_state rank = 1 ∧ (d.remapped rank target).rd Reg.lpddr6Remap_state target = 5 := by
  simp [Dev.remapped, Dev.rd_wr, other, Ne.symm other]

theorem Dev.remapped_reported (d : Dev) (rank target : Nat) : d.Reported (d.remapped rank target) := by
  unfold Dev.remapped
  exact (((((d.wr_reported _ _ _).trans (Dev.wr_reported _ _ _ _)).trans (Dev.wr_reported _ _ _ _)).trans (Dev.wr_reported _ _ _ _)).trans
    (Dev.wr_reported _ _ _ _)).trans (Dev.wr_reported _ _ _ _)

/-- No migration runs, and the counts of the two ranks are exchanged. -/
def Dev.migrationEnded (d : Dev) (rank target : Nat) : Dev :=
  { d with lp := { d.lp with current := none, ranks := (d.lp.ranks.put rank (d.rank target)).put target (d.rank rank) } }

def Dev.migrated (d : Dev) (rank target : Nat) : Dev := (d.remapped rank target).migrationEnded rank target

theorem Dev.Reported.lp {d e : Dev} (h : d.Reported e) : e.lp = d.lp := by
  obtain ⟨f, r, a, w, l, g, n, rfl⟩ := h
  rfl

theorem Dev.migrated_frame (d : Dev) (rank target : Nat) : (d.migrated rank target).mem = d.mem ∧ (d.migrated rank target).contexts = d.contexts ∧
    (d.migrated rank target).lp.current = none ∧ (d.migrated rank target).lp.queued = d.lp.queued ∧
    (d.migrated rank target).poison = d.poison ∧ ∀ r i, (d.migrated rank target).rd r i = (d.remapped rank target).rd r i := by
  have kept := d.remapped_reported rank target
  obtain ⟨-, mem, -, contexts⟩ := kept.frame
  have queued : (d.remapped rank target).lp.queued = d.lp.queued := by rw [kept.lp]
  have poison := kept.poison
  unfold Dev.migrated
  generalize d.remapped rank target = e at *
  exact ⟨mem, contexts, rfl, queued, poison, fun r i => Dev.rd_of_regs rfl r i⟩

theorem migrationDoneEffect_none {d : Dev} (l : List Nat) (h : d.lp.current = none) : migrationDoneEffect l d = d := by
  simp only [migrationDoneEffect, h]

theorem migrationDoneEffect_done {d : Dev} {m : Migration} (l : List Nat) (h : d.lp.current = some m) : migrationDoneEffect l d =
    (((((d.poisonUnits m.rank (l.filter fun v => !m.written.contains v)).retireRank m.rank).migrated m.rank m.target).lpddrLog 6 m.rank 0 (2 ^ 22)).memoryRank m.rank) := by
  simp only [migrationDoneEffect, h]
  rfl

theorem migrationDoneEffect_spec {d : Dev} {m : Migration} (l : List Nat) (current : d.lp.current = some m) (other : m.rank ≠ m.target) :
    let w := migrationDoneEffect l d
    w.contexts = d.contexts ∧
    w.lp.current = none ∧ w.lp.queued = d.lp.queued ∧ w.mem = d.mem ∧ (l = [] → w.poison = d.poison) ∧
      (∀ v ∈ l, v ∉ m.written → poisonUnit ((v * 60 + m.rank) * 256) ∈ w.poison) ∧
      w.rd Reg.lpddr6Remap_channel m.rank = d.rd Reg.lpddr6Remap_channel m.target ∧
      w.rd Reg.lpddr6Remap_rank m.rank = d.rd Reg.lpddr6Remap_rank m.target ∧
      w.rd Reg.lpddr6Remap_channel m.target = d.rd Reg.lpddr6Remap_channel m.rank ∧
      w.rd Reg.lpddr6Remap_rank m.target = d.rd Reg.lpddr6Remap_rank m.rank ∧
      w.rd Reg.lpddr6Remap_state m.rank = 1 ∧ w.rd Reg.lpddr6Remap_state m.target = 5 := by
  intro w
  have eq : w = _ := migrationDoneEffect_done l current
  obtain ⟨-, kept⟩ := Dev.mem_poison_poisonUnits m.rank (l.filter fun v => !m.written.contains v) d
  have before := (d.poisonUnits_keepsRanks m.rank (l.filter fun v => !m.written.contains v)).trans (Dev.retireRank_keepsRanks _ m.rank)
  have units := Dev.retireRank_poison (d.poisonUnits m.rank (l.filter fun v => !m.written.contains v)) m.rank
  have nothing : l = [] → d.poisonUnits m.rank (l.filter fun v => !m.written.contains v) = d := by rintro rfl; rfl
  generalize d.poisonUnits m.rank (l.filter fun v => !m.written.contains v) = p at *
  generalize p.retireRank m.rank = e at *
  obtain ⟨mem, contexts, ended, queued, poison, rd⟩ := e.migrated_frame m.rank m.target
  obtain ⟨c1, r1, c2, r2, s1, s2⟩ := e.remapped_spec other
  generalize e.migrated m.rank m.target = g at *
  have after : g.KeepsRanks w := eq ▸ (g.lpddrLog_keepsRanks _ _ _ _).trans (Dev.memoryRank_keepsRanks _ _)
  have all : w.poison = p.poison := by rw [eq, Dev.memoryRank_poison, Dev.lpddrLog_poison, poison, units]
  have entry (r : Reg) (i : Nat) (n : r.obj = .lpddr6Remap) : w.rd r i = (e.remapped m.rank m.target).rd r i :=
    (after.remap r i n).trans (rd r i)
  have old (r : Reg) (i : Nat) (n : r.obj = .lpddr6Remap) : e.rd r i = d.rd r i := before.remap r i n
  refine ⟨after.contexts.trans (contexts.trans before.contexts), after.current.trans ended, after.queued.trans (queued.trans before.queued),
    after.mem.trans (mem.trans before.mem), fun none_ => by rw [all, nothing none_], fun v mem new => ?_,
    ((entry _ _ rfl).trans c1).trans (old _ _ rfl), ((entry _ _ rfl).trans r1).trans (old _ _ rfl),
    ((entry _ _ rfl).trans c2).trans (old _ _ rfl), ((entry _ _ rfl).trans r2).trans (old _ _ rfl), (entry _ _ rfl).trans s1,
    (entry _ _ rfl).trans s2⟩
  rw [all]
  exact kept v (List.mem_filter.2 ⟨mem, by simpa using new⟩)

/-- Without contexts no slot is lost (R355). -/
theorem Dev.reportLost_of_contexts {d : Dev} (old : Dev) (h : d.contexts = []) : d.reportLost old = d := by
  have none_ : d.slotsHit old = [] := by rw [Dev.slotsHit, h]; rfl
  rw [Dev.reportLost, none_]
  rfl

end Sys2Proof.Machine
end

section
/-! SUPPORT. The statement about pools and ranks, settled (R449 to R467). -/

namespace Sys2Proof.PoolsFamily
open Sys2Proof.Machine Sys2Proof.Safety

/-- Settles O55, clause by clause: each effect as its cases give it, the lemmas about buffers, the map, and what the log of LPDDR6 keeps. -/
theorem poolsAndRanks : Obligations.PoolsAndRanks := by
  refine ⟨fun s q i x f h taken => ?alloc, fun d e p n owner a kind rising h => Dev.alloc_spec kind rising h,
    fun s q i x f h taken => ?free, fun d e p a h => Dev.freeOne_spec h, fun s p l h => ?refill,
    fun d a b ha hb map same => Dev.dramPlace_injective ha hb map same, fun s e n busy t => ⟨fun h => ?due, fun h => ?makeUp, fun h => ?hot⟩,
    fun s q i f h taken => ?retire, fun s h => ?start, fun s l h => ?done⟩
  case alloc =>
    refine ⟨fun off => leads_of rfl h ?_, fun w on => ⟨fun a ok => leads_of rfl h ?_, fun code failed => leads_of rfl h ?_⟩⟩
    · simp only [poolAllocEffect, taken, off, Bool.not_false, if_true]
    · simp only [poolAllocEffect, taken, on, Bool.not_true, Bool.false_eq_true, if_false, ok]
    · simp only [poolAllocEffect, taken, on, Bool.not_true, Bool.false_eq_true, if_false, failed]
  case free =>
    refine ⟨fun none_ => leads_of rfl h ?_, fun p holds => ⟨fun code n w gives => leads_of rfl h ?_, fun n w gives => leads_of rfl h ?_⟩⟩
    · simp only [poolFreeEffect, taken, none_]
    · simp only [poolFreeEffect, taken, holds, gives, Option.getD_some]
    · simp only [poolFreeEffect, taken, holds, gives, Option.getD_none]
  case refill =>
    refine ⟨fun stays => leads_of rfl h ?_, fun on low => leads_of rfl h ?_, fun on high => leads_of rfl h ?_⟩
    · simp only [freeRingRefillEffect]
      rcases stays with off | ⟨low, high⟩
      · rw [off]; rfl
      · rw [if_neg (Nat.not_lt.2 low), if_neg (Nat.not_lt.2 high), ite_self]
    · simp only [freeRingRefillEffect]
      rw [on, if_neg (by decide), if_pos low]
    · simp only [freeRingRefillEffect]
      rw [on, if_neg (by decide), if_neg (by omega), if_pos high]
  case due =>
    refine ⟨?_, ?_, ?_⟩
    · rintro rfl
      exact leads_of rfl h (refreshDueEffect_idle e s.dev)
    · rintro rfl few
      exact leads_of rfl h (refreshDueEffect_postponed few)
    · rintro rfl many
      exact leads_of rfl h (refreshDueEffect_forced many)
  case makeUp => exact ⟨fun none_ => leads_of rfl h (if_pos none_), fun some_ => leads_of rfl h (if_neg some_)⟩
  case hot =>
    refine yields_of rfl h ?_
    rw [settle_rank, settle_regs, settle_mem]
    refine ⟨rankTemperatureReadEffect_interval e t s.dev, ?_, fun j other => ?_, rfl, rfl⟩
    · rw [rankTemperatureReadEffect, Dev.rank_setRank_same]
    · rw [settle_rank, rankTemperatureReadEffect, Dev.rank_setRank_ne _ _ other]
  case retire =>
    have eff := rankRetireEffect_eq taken
    refine ⟨fun busy => leads_of rfl h ?_, fun ready_ none_ => leads_of rfl h ?_, fun e rest ready_ free => leads_of rfl h ?_⟩
    · exact eff.trans (if_pos busy)
    · exact eff.trans ((if_neg (ne_true_of_eq_false ready_)).trans (if_pos none_))
    · rw [eff, if_neg (ne_true_of_eq_false ready_), if_neg (by rw [free]; exact List.cons_ne_nil _ _), Dev.queueMigration_free ready_ free,
        Dev.wr_lp, List.length_append, List.length_singleton, Nat.add_sub_cancel]
  case start =>
    refine ⟨fun none_ => leads_of rfl h (migrationStartEffect_none none_), fun lr e rest current queued low high => yields_of rfl h ?_⟩
    simp only [settle_lp, settle_rd, settle_attentionBit, settle_mem]
    exact migrationStartEffect_spec current queued (by omega)
  case done =>
    refine ⟨fun none_ => leads_of rfl h ?_, fun m current low high contexts => yields_of rfl h ?_⟩
    · rw [migrationDoneSlots, migrationDoneEffect_none l none_]
    · obtain ⟨kept, spec⟩ := migrationDoneEffect_spec l current (show m.rank ≠ m.target by omega)
      rw [migrationDoneSlots, Dev.reportLost_of_contexts _ (kept.trans contexts)]
      simp only [settle_lp, settle_rd, settle_mem, settle_poison]
      exact spec

end Sys2Proof.PoolsFamily
end

section
/-! SUPPORT. Reports of the trust functions: their lengths (R546, R551, R556). -/

namespace Sys2Proof.Machine

@[simp] theorem length_leBytes (n : Nat) : ∀ v, (leBytes n v).length = n := by
  induction n with
  | zero => exact fun _ => rfl
  | succ n ih => exact fun v => congrArg (· + 1) (ih _)

@[simp] theorem length_beBytes (n v : Nat) : (beBytes n v).length = n := by rw [beBytes, List.length_reverse, length_leBytes]

@[simp] theorem length_padTo (n : Nat) (bs : List Byte) : (padTo n bs).length = n := by
  rw [padTo, List.length_take, List.length_append, List.length_replicate]
  omega

/-- An entry of the ledger has 1,024 bytes (R546). -/
theorem LedgerEntry.length_bytes (e : LedgerEntry) : e.bytes.length = 1024 := by
  simp only [LedgerEntry.bytes, List.length_append, length_leBytes, length_beBytes, length_padTo, List.length_singleton]

theorem length_flatMap_const {α : Type} (f : α → List Byte) (n : Nat) (h : ∀ a, (f a).length = n) (l : List α) :
    (l.flatMap f).length = n * l.length := by
  rw [List.length_flatMap, List.map_congr_left fun a _ => h a, List.map_const', List.sum_replicate, smul_eq_mul, Nat.mul_comm]

/-- A half of the ledger's region has 2 MiB (R556). -/
theorem length_halfBytes (es : List LedgerEntry) : (halfBytes es).length = 2097152 := by
  rw [halfBytes, List.length_take, List.length_append, List.length_replicate, length_flatMap_const _ 1024 LedgerEntry.length_bytes]
  omega

/-- An entry of the context table has 96 bytes (R551). -/
theorem Dev.length_attestContext (d : Dev) (c : Nat) : (d.attestContext c).length = 96 := by
  unfold Dev.attestContext
  dsimp only
  cases d.ctx? c <;> simp

/-- The bytes ATTEST writes: the report, its signature and the context table (R551). -/
def Dev.attestBytes (d : Dev) (nonce : List Byte) : List Byte :=
  let table := (List.range 64).flatMap d.attestContext
  let report := d.attestReport nonce table
  report ++ padTo 512 (Config.identitySign (Config.sha512 report)) ++ table

theorem Dev.attestBytes_spec (d : Dev) (nonce : List Byte) : (d.attestBytes nonce).length = 7680 ∧
    (d.attestBytes nonce).drop 1536 = (List.range 64).flatMap d.attestContext := by
  have report (table : List Byte) : (d.attestReport nonce table).length = 1024 := length_padTo _ _
  refine ⟨?_, List.drop_left' ?_⟩
  · simp only [Dev.attestBytes, List.length_append, report, length_padTo, length_flatMap_const _ 96 d.length_attestContext, List.length_range]
  · rw [List.length_append, report, length_padTo]

end Sys2Proof.Machine
end

section
/-! SUPPORT. Boot stages, slots and staging: what each does, and what completions, reports and relays leave alone (R533, R543 to R545,
R552 to R555). -/

namespace Sys2Proof.Machine

/-! ### What leaves the boot alone -/

/-- From `d` to `e` the flash and what boot found, memory, the boot's state and whether firmware is ready stay. -/
structure Dev.KeepsBoot (d e : Dev) : Prop where
  boot : e.boot = d.boot
  mem : e.mem = d.mem
  ready : e.ep.firmwareReady = d.ep.firmwareReady
  rd : ∀ r i, r.obj = .bootState → e.rd r i = d.rd r i

theorem Dev.KeepsBoot.refl (d : Dev) : d.KeepsBoot d := ⟨rfl, rfl, rfl, fun _ _ _ => rfl⟩

theorem Dev.KeepsBoot.trans {a b c : Dev} (h : a.KeepsBoot b) (k : b.KeepsBoot c) : a.KeepsBoot c :=
  ⟨k.boot.trans h.boot, k.mem.trans h.mem, k.ready.trans h.ready, fun r i n => (k.rd r i n).trans (h.rd r i n)⟩

theorem Dev.KeepsBoot.foldl {α : Type} {f : Dev → α → Dev} (h : ∀ (d : Dev) (x : α), d.KeepsBoot (f d x)) (l : List α) :
    ∀ d : Dev, d.KeepsBoot (l.foldl f d) := by
  induction l with
  | nil => exact .refl
  | cons x l ih => exact fun d => (h d x).trans (ih _)

theorem Dev.KeepsBoot.ite {d a b : Dev} {c : Prop} [Decidable c] (yes : d.KeepsBoot a) (no : d.KeepsBoot b) :
    d.KeepsBoot (if c then a else b) := by
  split
  exacts [yes, no]

theorem Dev.Reported.keepsBoot {d e : Dev} (h : d.Reported e) (rd : ∀ r i, r.obj = .bootState → e.rd r i = d.rd r i) : d.KeepsBoot e := by
  obtain ⟨f, r, a, w, l, g, n, rfl⟩ := h
  exact ⟨rfl, rfl, rfl, rd⟩

theorem Dev.wr_keepsBoot (d : Dev) {r : Reg} (h : r.obj ≠ .bootState) (i v : Nat) : d.KeepsBoot (d.wr r i v) :=
  (d.wr_reported r i v).keepsBoot fun _ _ n => d.rd_wr_off_ne _ _ _ _ _ (.inl fun e => h (e.trans n))

theorem Dev.attend_keepsBoot (d : Dev) (c : Cause) : d.KeepsBoot (d.attend c) :=
  (d.attend_reported c).keepsBoot fun r i n => d.rd_attend c r i (by rw [n]; rfl)

theorem Dev.beginLasting_keepsBoot (d : Dev) (c : Cause) : d.KeepsBoot (d.beginLasting c) :=
  (d.beginLasting_reported c).keepsBoot fun r i n => d.rd_beginLasting c r i (by rw [n]; rfl)

theorem Dev.appendLedger_keepsBoot (d : Dev) (kind : Nat) (t : UnitType) (unit sub : Nat) (data : List Byte) :
    d.KeepsBoot (d.appendLedger kind t unit sub data) :=
  (d.appendLedger_logged kind t unit sub data).reported.keepsBoot fun r i n =>
    (d.appendLedger_logged kind t unit sub data).rd r i (by rw [n]; rfl)

theorem Dev.endBoot_keepsBoot (d : Dev) (q i code detail : Nat) : d.KeepsBoot (d.endBoot q i code detail) := by
  have done : d.Answered (d.endBoot q i code detail) := d.complete_answered q i code 0x1A detail
  obtain ⟨qs, s, e⟩ := done
  rw [e]
  exact ⟨rfl, rfl, rfl, fun r i _ => Dev.rd_of_regs rfl r i⟩

theorem Dev.showSlots_keepsBoot (d : Dev) : d.KeepsBoot d.showSlots := by
  have field {e : Dev} (h : d.KeepsBoot e) (r : Reg) (n : r.obj ≠ .bootState) (v : Nat) : d.KeepsBoot (e.wr r 0 v) :=
    h.trans (e.wr_keepsBoot n 0 v)
  exact field (field (field (field (field (field (.refl d) Reg.bootFirmware_slot (by decide) _) Reg.bootFirmware_other (by decide) _)
    Reg.bootFirmware_trialLeft (by decide) _) Reg.bootFirmware_version (by decide) _) Reg.bootFirmware_security (by decide) _)
    Reg.bootFirmware_stagedVersion (by decide) _

theorem Dev.forwardRelay_keepsBoot (d : Dev) (m : Nat) : d.KeepsBoot (d.forwardRelay m) := by
  unfold Dev.forwardRelay
  split
  · exact .refl d
  · split
    · obtain ⟨x, s, e⟩ := d.sendTo_eq m (.relayRequest _)
      rw [e]
      exact ⟨rfl, rfl, rfl, fun r i _ => Dev.rd_of_regs rfl r i⟩
    · unfold Dev.relayLinkDown
      split
      · exact ⟨rfl, rfl, rfl, fun r i _ => Dev.rd_of_regs rfl r i⟩
      · exact .refl d

theorem Dev.forwardRelays_keepsBoot (d : Dev) : d.KeepsBoot d.forwardRelays :=
  ((d.forwardRelay_keepsBoot 1).trans (Dev.forwardRelay_keepsBoot _ 2)).trans (Dev.forwardRelay_keepsBoot _ 3)

/-! ### The choice of slot (R555) -/

theorem Dev.bootSlot_eq (d : Dev) : d.bootSlot =
    if d.firmwareGood (d.boot.slot d.chooseSlot.slot).bytes then some d.chooseSlot
    else if d.firmwareGood (d.boot.slot (1 - d.chooseSlot.slot)).bytes then
      some { d.chooseSlot with slot := 1 - d.chooseSlot.slot, state := .confirmed, left := 0 }
    else none := (rfl)

theorem Dev.bootSlot_good {d : Dev} {c : SlotChoice} (h : d.bootSlot = some c) : d.firmwareGood (d.boot.slot c.slot).bytes = true := by
  rw [d.bootSlot_eq] at h
  split at h
  next good =>
    obtain rfl := Option.some.inj h
    exact good
  next =>
    split at h
    next good =>
      obtain rfl := Option.some.inj h
      exact good
    next => cases h

/-- Of a slot and the other, one is A and one is B. -/
theorem Boot.slots_cases (b : Boot) (n : Nat) : b.slot n = b.slotA ∧ b.slot (1 - n) = b.slotB ∨ b.slot n = b.slotB ∧ b.slot (1 - n) = b.slotA := by
  cases n with
  | zero => exact .inl ⟨rfl, rfl⟩
  | succ n => exact .inr ⟨rfl, by rw [Nat.sub_eq_zero_of_le (Nat.succ_pos n)]; rfl⟩

theorem Dev.bootSlot_none {d : Dev} (h : d.bootSlot = none) : d.firmwareGood d.boot.slotA.bytes = false ∧ d.firmwareGood d.boot.slotB.bytes = false := by
  rw [d.bootSlot_eq] at h
  split at h
  next => cases h
  next chosen =>
    split at h
    next => cases h
    next other =>
      rw [Bool.not_eq_true] at chosen other
      rcases d.boot.slots_cases d.chooseSlot.slot with ⟨a, b⟩ | ⟨b, a⟩
      · exact ⟨a ▸ chosen, b ▸ other⟩
      · exact ⟨a ▸ other, b ▸ chosen⟩

theorem Boot.slot_setSlot_same (b : Boot) (n : Nat) (x : FwSlot) : (b.setSlot n x).slot n = x := by
  by_cases h : n = 0 <;> simp [Boot.slot, Boot.setSlot, h]

theorem Boot.slot_setSlot_other (b : Boot) {n m : Nat} (x : FwSlot) (h : m = 0 ∧ n ≠ 0 ∨ m ≠ 0 ∧ n = 0) : (b.setSlot n x).slot m = b.slot m := by
  rcases h with ⟨rfl, h⟩ | ⟨h, rfl⟩ <;> simp [Boot.slot, Boot.setSlot, h]

theorem Boot.setSlot_frame (b : Boot) (n : Nat) (x : FwSlot) : (b.setSlot n x).running = b.running ∧ (b.setSlot n x).state = b.state := by
  unfold Boot.setSlot
  split
  · exact ⟨rfl, rfl⟩
  · exact ⟨rfl, rfl⟩

theorem settle_ep_firmwareReady (d : Dev) : (settle d).ep.firmwareReady = d.ep.firmwareReady := by
  obtain ⟨w, n, e⟩ := settle_eq_ep d
  rw [e]

/-! ### Stages (R544, R545) -/

theorem Dev.failure_bootFails (d : Dev) (code : Nat) : (d.bootFails code).rd Reg.bootState_failure = code := Dev.rd_wr_same _ _ _ _

/-- The first stage of the flash as the stage finds it, where the board has written none. -/
theorem Dev.bootFirst_eq (d : Dev) : d.bootFirst true none =
    if imageSigned 1 d.boot.first0 then d.wr Reg.bootState_stage 0 1
    else if imageSigned 1 d.boot.first1 then (d.wr Reg.bootState_firstCopy 0 1).wr Reg.bootState_stage 0 1
    else d.bootFails 2 := (rfl)

theorem Dev.bootFirst_failure {d : Dev} (h : d.rd Reg.bootState_failure = 0) : (d.bootFirst true none).rd Reg.bootState_failure =
    if imageSigned 1 d.boot.first0 = true ∨ imageSigned 1 d.boot.first1 = true then 0 else 2 := by
  rw [d.bootFirst_eq]
  by_cases first0 : imageSigned 1 d.boot.first0 = true
  · rw [if_pos first0, if_pos (.inl first0), Dev.rd_wr_off_ne _ _ _ _ _ _ (.inr (by decide)), h]
  rw [if_neg first0]
  by_cases first1 : imageSigned 1 d.boot.first1 = true
  · rw [if_pos first1, if_pos (.inr first1), Dev.rd_wr_off_ne _ _ _ _ _ _ (.inr (by decide)), Dev.rd_wr_off_ne _ _ _ _ _ _ (.inr (by decide)), h]
  · rw [if_neg first1, if_neg (not_or.2 ⟨first0, first1⟩), Dev.failure_bootFails]

theorem Dev.bootFirst_copy {d : Dev} (first0 : imageSigned 1 d.boot.first0 = false) (first1 : imageSigned 1 d.boot.first1 = true) :
    (d.bootFirst true none).flag Reg.bootState_firstCopy = true := by
  rw [d.bootFirst_eq, if_neg (ne_true_of_eq_false first0), if_pos first1, Dev.flag, Dev.rd_wr_off_ne _ _ _ _ _ _ (.inr (by decide)),
    Dev.rd_wr_same]
  rfl

/-- A stage has passed, or the boot has failed. -/
def Dev.Passed (d : Dev) (n : Nat) : Prop := d.rd Reg.bootState_stage = n ∨ d.rd Reg.bootState_failure ≠ 0

theorem Dev.passed_wr (d : Dev) (n : Nat) : (d.wr Reg.bootState_stage 0 n).Passed n := .inl (Dev.rd_wr_same _ _ _ _)

theorem Dev.passed_bootFails (d : Dev) {code : Nat} (h : code ≠ 0) (n : Nat) : (d.bootFails code).Passed n :=
  .inr (by rw [Dev.failure_bootFails]; exact h)

theorem Dev.Passed.ite {a b : Dev} {c : Prop} [Decidable c] {n : Nat} (yes : a.Passed n) (no : b.Passed n) : (if c then a else b).Passed n := by
  split
  exacts [yes, no]

theorem Dev.bootFirst_passed (d : Dev) (flash : Bool) (board : Option FlashImage) : (d.bootFirst flash board).Passed 1 :=
  .ite (Dev.passed_bootFails _ (by decide) 1) (.ite (Dev.passed_wr _ 1) (.ite (Dev.passed_wr _ 1) (Dev.passed_bootFails _ (by decide) 1)))

theorem Dev.bootMemory_passed (d : Dev) (trained : List Nat) (verified : Nat) : (d.bootMemory trained verified).Passed 4 := by
  unfold Dev.bootMemory
  extract_lets
  split
  · exact Dev.passed_bootFails _ (by decide) 4
  · exact Dev.passed_wr _ 4

/-! ### Firmware started (R555, R559) -/

/-- The slot entry of the choice recorded. -/
def Dev.choiceRecorded (d : Dev) : Dev :=
  match d.chooseSlot.entry with
  | some x => if d.bootSlot.isSome || byteAt x 1 != 0 then d.appendLedger 7 .none 0 0 x else d
  | none => d

/-- A choice in force. -/
def Boot.chosen (b : Boot) (c : SlotChoice) (goodA goodB : Bool) : Boot :=
  { b with running := c.slot, state := c.state, trialLeft := c.left, confirmed := c.confirmed,
           slotA := { b.slotA with verified := goodA }, slotB := { b.slotB with verified := goodB } }

/-- Firmware runs from the chosen slot. -/
def Dev.firmwareRuns (d : Dev) (c : SlotChoice) : Dev :=
  let d := d.updBoot fun b => b.chosen c (d.firmwareGood b.slotA.bytes) (d.firmwareGood b.slotB.bytes)
  let d := (d.showSlots.wr Reg.bootState_slot 0 c.slot).wr Reg.bootState_stage 0 6
  { d with ep := { d.ep with firmwareReady := true } }

/-- What boot found is reported. -/
def Dev.bootReported (d : Dev) : Dev :=
  let d := d.boot.clamped.foldl (fun (d : Dev) a => d.attend { bit := Bit.clamped, code := 1, area := a }) d
  let d := if d.ledger.identity then d else d.beginLasting (bootCause 1)
  if d.rd Reg.bootLedger_rejected = 0 then d else d.beginLasting (bootCause 2)

theorem Dev.bootFirmware_none {d : Dev} (h : d.bootSlot = none) : d.bootFirmware = d.choiceRecorded.bootFails 4 := by
  delta Dev.bootFirmware Dev.choiceRecorded
  simp only [h] <;> rfl

theorem Dev.bootFirmware_some {d : Dev} {c : SlotChoice} (h : d.bootSlot = some c) :
    d.bootFirmware = (d.choiceRecorded.firmwareRuns c).bootReported.forwardRelays := by
  delta Dev.bootFirmware Dev.choiceRecorded
  simp only [h]
  rfl

theorem Dev.bootReported_keepsBoot (d : Dev) : d.KeepsBoot d.bootReported := by
  have clamped := Dev.KeepsBoot.foldl (fun (d : Dev) (a : Nat) => d.attend_keepsBoot { bit := Bit.clamped, code := 1, area := a }) d.boot.clamped d
  have identity (e : Dev) : e.KeepsBoot (if e.ledger.identity then e else e.beginLasting (bootCause 1)) :=
    .ite (.refl e) (e.beginLasting_keepsBoot _)
  have rejected (e : Dev) : e.KeepsBoot (if e.rd Reg.bootLedger_rejected = 0 then e else e.beginLasting (bootCause 2)) :=
    .ite (.refl e) (e.beginLasting_keepsBoot _)
  exact (clamped.trans (identity _)).trans (rejected _)

theorem Dev.firmwareRuns_spec (d : Dev) (c : SlotChoice) : (d.firmwareRuns c).ep.firmwareReady = true ∧ (d.firmwareRuns c).boot.running = c.slot ∧
    (d.firmwareRuns c).boot.state = c.state ∧ (d.firmwareRuns c).rd Reg.bootState_stage = 6 := by
  have kept : (d.firmwareRuns c).boot = d.boot.chosen c (d.firmwareGood d.boot.slotA.bytes) (d.firmwareGood d.boot.slotB.bytes) := by
    unfold Dev.firmwareRuns
    dsimp only
    rw [Dev.wr_boot, Dev.wr_boot, (Dev.showSlots_keepsBoot _).boot, Dev.updBoot]
  exact ⟨rfl, by rw [kept]; rfl, by rw [kept]; rfl, Dev.rd_wr_same _ _ _ _⟩

theorem Dev.bootFirmware_spec {d : Dev} {c : SlotChoice} (h : d.bootSlot = some c) : d.bootFirmware.ep.firmwareReady = true ∧
    d.bootFirmware.boot.running = c.slot ∧ d.bootFirmware.boot.state = c.state ∧ d.bootFirmware.rd Reg.bootState_stage = 6 := by
  obtain ⟨ready, running, state, stage⟩ := d.choiceRecorded.firmwareRuns_spec c
  have kept := (d.choiceRecorded.firmwareRuns c).bootReported_keepsBoot.trans (Dev.forwardRelays_keepsBoot _)
  rw [Dev.bootFirmware_some h, kept.ready, kept.boot, kept.rd _ _ rfl]
  exact ⟨ready, running, state, stage⟩

theorem Dev.bootFirmware_failure {d : Dev} (h : d.bootSlot = none) : d.bootFirmware.rd Reg.bootState_failure = 4 := by
  rw [Dev.bootFirmware_none h, Dev.failure_bootFails]

theorem Dev.bootFirmware_passed (d : Dev) : d.bootFirmware.Passed 6 := by
  cases h : d.bootSlot with
  | none => exact .inr (by rw [Dev.bootFirmware_failure h]; decide)
  | some c => exact .inl (Dev.bootFirmware_spec h).2.2.2

theorem Dev.bootStage_passed (d : Dev) (r : BootReport) : (d.bootStage r).Passed (stageOf r) := by
  cases r with
  | firstStage flash board => exact d.bootFirst_passed flash board
  | configuration => exact Dev.passed_wr _ 2
  | identity ok => exact Dev.passed_wr _ 3
  | memory trained verified => exact d.bootMemory_passed trained verified
  | selfTest failed good => exact Dev.passed_wr _ 5
  | firmware => exact d.bootFirmware_passed

/-! ### Staging (R533, R543, R552) -/

/-- Flash steps of a job are under way. -/
def Dev.jobStarted (d : Dev) (j : FlashJob) : Dev :=
  Dev.updBoot { d with ledger := { d.ledger with stepping := true } } fun b => { b with job := some j }

theorem Dev.runJob_steps (d : Dev) {j : FlashJob} (h : j.erases ≠ 0) : d.runJob j = d.jobStarted j := if_neg (by omega)

/-- A copy of the configuration that the one in use is not, erased. -/
def Boot.copyErased (b : Boot) (copy : Nat) : Boot :=
  if copy = 0 then { b with copy1 := { factory := none, owner := none } } else { b with copy0 := { factory := none, owner := none } }

section
variable {d : Dev} {q i : Nat} {f : Fetched} (started : f.started = false) (reading : f.reading = false) (job : d.boot.job = none)

section
variable (o : OwnerSection) (verifies : Bool) (taken : d.takeCommand q i 0x1A05 = some f)
include started reading job taken

theorem configStageEffect_eq : configStageEffect q i o verifies d =
    if !verifies then d.complete q i 0x11 0x1A
    else if d.boot.owner.any fun x => o.sequence ≤ x.sequence then d.complete q i 0x85 0x1A
    else ((d.updBoot fun b => b.copyErased (d.rd Reg.bootConfig_copy)).startCommand q i).runJob
      { queue := q, index := i, erases := 4,
        programs := ceilDiv (64 + ((d.boot.factory.map fun x => x.bytes.length).getD 0) + o.bytes.length) 65536, section_ := some o } := by
  simp only [configStageEffect, taken, started, reading, job, Option.isSome_none, Bool.or_self, Bool.false_eq_true, if_false]
  rfl

end

/-- The slot not running, erased by the first piece. -/
def Boot.slotErased (b : Boot) (n : Nat) : Boot := { b.setSlot n {} with staging := true }

section
variable (taken : d.takeCommand q i 0x1A02 = some f)
include taken

theorem fwStageEffect_busy (h : f.started = true ∨ f.reading = true ∨ d.boot.job ≠ none) : fwStageEffect q i d = d := by
  have busy : (f.started || f.reading || d.boot.job.isSome) = true := by
    rcases h with h | h | h
    · simp [h]
    · simp [h]
    · simp [Option.isSome_iff_ne_none.2 h]
  simp only [fwStageEffect, taken]
  rw [if_pos busy]

include started reading job

theorem fwStageEffect_eq : fwStageEffect q i d =
    if 12582912 < le f.entry 8 4 + f.data.length then d.complete q i 0x85 0x1A
    else if (byteAt f.entry 24).testBit 0 then
      if le f.entry 8 4 ≠ 0 then d.complete q i 0x85 0x1A
      else (((d.updBoot fun b => b.slotErased (1 - d.boot.running)).wr Reg.bootFirmware_other 0 4).startCommand q i).runJob
        { queue := q, index := i, erases := 192, programs := ceilDiv f.data.length 65536 }
    else if !d.boot.staging || le f.entry 8 4 ≠ (d.boot.slot (1 - d.boot.running)).bytes.length then d.complete q i 0x85 0x1A
    else (d.startCommand q i).runJob { queue := q, index := i, erases := 0, programs := ceilDiv f.data.length 65536 } := by
  simp only [fwStageEffect, taken, started, reading, job, Option.isSome_none, Bool.or_self, Bool.false_eq_true, if_false]
  rfl

end

end

/-! ### Flash steps and the firmware switch (R533, R553, R555) -/

theorem flashStepDoneEffect_none {d : Dev} (ok : Bool) (h : d.boot.job = none) : flashStepDoneEffect ok d = d := by
  simp only [flashStepDoneEffect, h]

section
variable {d : Dev} {j : FlashJob} (h : d.boot.job = some j)
include h

theorem flashStepDoneEffect_fails : flashStepDoneEffect false d =
    ((d.dropJob.count Reg.bootFlashCounters_failures).beginLasting (bootCause 3)).complete j.queue j.index 0x80 0x1A := by
  simp only [flashStepDoneEffect, h]
  rfl

theorem flashStepDoneEffect_programmed (none_ : j.erases = 0) :
    flashStepDoneEffect true d = d.flushAppends.runJob { j with programs := j.programs - 1 } := by
  simp only [flashStepDoneEffect, h]
  rw [if_neg (by decide), if_neg (by omega), if_neg (by omega)]

theorem flashStepDoneEffect_erased (some_ : j.erases ≠ 0) :
    flashStepDoneEffect true d = (d.count Reg.bootFlashCounters_erased).flushAppends.runJob { j with erases := j.erases - 1 } := by
  simp only [flashStepDoneEffect, h]
  rw [if_neg (by decide), if_pos (Nat.pos_of_ne_zero some_), if_pos (Nat.pos_of_ne_zero some_)]

end

section
variable {d : Dev} {q i : Nat} {f : Fetched} (taken : d.takeCommand q i 0x1A03 = some f) (started : f.started = false)
  (switching : d.boot.switching = none)
include taken started switching

/-- FW_ACTIVATE refuses in its order, or the switch begins. -/
theorem fwActivateEffect_eq : ∃ w, w.boot.switching = some (q, i) ∧ fwActivateEffect q i d =
    if d.rd Reg.yardState ≠ 2 then d.complete q i 0x81 0x1A
    else if d.otherCommand q i then d.complete q i 0x82 0x1A
    else if !(d.boot.slot (1 - d.boot.running)).verified then d.complete q i 0x83 0x1A
    else w := by
  simp only [fwActivateEffect, taken, started, switching, Option.isSome_none, Bool.or_self, Bool.false_eq_true, if_false]
  exact ⟨Dev.updBoot _ fun b => { b with switching := some (q, i) }, rfl, rfl⟩

end

/-- The boot's record once the new firmware runs, and once the old one goes on. -/
def Boot.switched (b : Boot) (left : Nat) : Boot :=
  { b with running := 1 - b.running, state := .trial, trialLeft := left, switching := none, heldReset := none }
def Boot.switchRefused (b : Boot) : Boot :=
  { b.setSlot (1 - b.running) { b.slot (1 - b.running) with verified := false } with switching := none, heldReset := none }

section
variable {d : Dev} {q i : Nat} (switching : d.boot.switching = some (q, i)) (held : d.boot.heldReset = none)
include switching held

theorem firmwareSwitchDoneEffect_boot (verified : Bool) : let w := firmwareSwitchDoneEffect verified d
    w.boot = (if verified then d.boot.switched (d.rd Reg.bootTrialBoots) else d.boot.switchRefused) ∧ w.mem = d.mem := by
  cases verified with
  | true =>
    have kept := ((d.updBoot fun b => b.switched (d.rd Reg.bootTrialBoots)).showSlots_keepsBoot.trans (Dev.endBoot_keepsBoot _ q i 0
      (imageVersion ((d.updBoot fun b => b.switched (d.rd Reg.bootTrialBoots)).showSlots.boot.slot (1 - d.boot.running)).bytes))).trans
      (Dev.forwardRelays_keepsBoot _)
    have eq : firmwareSwitchDoneEffect true d = ((d.updBoot fun b => b.switched (d.rd Reg.bootTrialBoots)).showSlots.endBoot q i 0
      (imageVersion ((d.updBoot fun b => b.switched (d.rd Reg.bootTrialBoots)).showSlots.boot.slot (1 - d.boot.running)).bytes)).forwardRelays := by
      simp only [firmwareSwitchDoneEffect, switching, held]
      rfl
    rw [eq]
    exact ⟨kept.boot, kept.mem⟩
  | false =>
    have kept := (((d.updBoot Boot.switchRefused).appendLedger_keepsBoot 7 .none 0 0 d.boot.switchRefused.slotEntry).trans
      (Dev.showSlots_keepsBoot _)).trans ((Dev.endBoot_keepsBoot _ q i 0x11 0).trans (Dev.forwardRelays_keepsBoot _))
    have eq : firmwareSwitchDoneEffect false d = ((((d.updBoot Boot.switchRefused).appendLedger 7 .none 0 0
      d.boot.switchRefused.slotEntry).showSlots).endBoot q i 0x11 0).forwardRelays := by
      simp only [firmwareSwitchDoneEffect, switching, held]
      rfl
    rw [eq]
    exact ⟨kept.boot, kept.mem⟩

end

/-- The boot's record once the running slot is confirmed. -/
def Boot.confirm (b : Boot) : Boot := { b with state := .confirmed, trialLeft := 0, confirmed := b.running }

theorem fwConfirmEffect_trial {d : Dev} {q i : Nat} {f : Fetched} (taken : d.takeCommand q i 0x1A04 = some f) (trial : d.boot.state = .trial) :
    (fwConfirmEffect q i d).boot = d.boot.confirm ∧ (fwConfirmEffect q i d).mem = d.mem := by
  have kept := (((d.updBoot Boot.confirm).appendLedger_keepsBoot 7 .none 0 0 d.boot.confirm.slotEntry).trans (Dev.showSlots_keepsBoot _)).trans
    (Dev.endBoot_keepsBoot _ q i 0 0)
  have eq : fwConfirmEffect q i d = ((((d.updBoot Boot.confirm).appendLedger 7 .none 0 0 d.boot.confirm.slotEntry).showSlots).endBoot q i 0 0) := by
    simp only [fwConfirmEffect, taken, trial]
    rfl
  rw [eq]
  exact ⟨kept.boot, kept.mem⟩

end Sys2Proof.Machine
end

section
/-! SUPPORT. The statement about boot and trust, settled (R533, R543 to R545, R551 to R556). -/

namespace Sys2Proof.BootFamily
open Sys2Proof.Machine Sys2Proof.Safety

/-- Settles O60, clause by clause: each effect as its cases give it, the choice of slot, and what completions and relays leave of the boot. -/
theorem bootAndTrust : Obligations.BootAndTrust := by
  refine ⟨fun s r h => ?stage, fun d => ⟨fun c => Dev.bootSlot_good, fun good => ?chosen, Dev.bootSlot_none⟩,
    fun s q i o v f h taken started reading job => ?config, fun s q i f h taken => ?piece, fun s ok h => ?flash,
    fun s q i f h taken started switching => ?activate, fun s v h => ?switched, fun s q i f h taken => ?confirm, fun s q i f h taken => ?attest,
    fun s q i f h taken => ?exported⟩
  case stage =>
    refine ⟨fun out => leads_of rfl h (if_neg ?_), fun alive next => yields_of rfl h ?_⟩
    · rintro ⟨alive, next⟩
      exact out.elim (· alive) (· next)
    · rw [settle_rd, settle_rd, settle_flag, settle_boot, settle_ep_firmwareReady, show bootStageCompleteEffect r s.dev = s.dev.bootStage r from
        if_pos ⟨alive, next⟩]
      refine ⟨s.dev.bootStage_passed r, ?_, ?_, ?_, ?_⟩
      · rintro rfl; exact Dev.bootFirst_failure alive
      · rintro rfl; exact Dev.bootFirst_copy
      · rintro c rfl runs
        obtain ⟨ready, running, state, -⟩ := Dev.bootFirmware_spec runs
        exact ⟨ready, running, state⟩
      · rintro rfl; exact Dev.bootFirmware_failure
  case chosen => exact d.bootSlot_eq.trans (if_pos good)
  case config =>
    have eff := configStageEffect_eq started reading job o v taken
    refine ⟨?_, ?_, ?_⟩
    · rintro rfl
      exact leads_of rfl h (eff.trans (if_pos rfl))
    · rintro rfl ⟨x, owner, old⟩
      exact leads_of rfl h (eff.trans ((if_neg (by decide)).trans (if_pos (by simp [owner, old]))))
    · rintro rfl new
      refine yields_of rfl h ?_
      rw [if_neg (by decide), if_neg ?_, Dev.runJob_steps _ (Nat.succ_ne_zero _)] at eff
      · rw [settle_boot, settle_ledger, settle_mem, eff]
        refine ⟨⟨_, rfl, rfl, rfl, rfl, rfl⟩, rfl, ?_, ?_, rfl⟩
        · split
          next copy => simp [Dev.jobStarted, Dev.updBoot, Dev.startCommand, Boot.copyErased, copy]
          next copy => simp [Dev.jobStarted, Dev.updBoot, Dev.startCommand, Boot.copyErased, copy]
        · by_cases copy : s.dev.rd Reg.bootConfig_copy = 0 <;> simp [Dev.jobStarted, Dev.updBoot, Dev.startCommand, Boot.copyErased, copy]
      · rw [Option.any_eq_true]
        rintro ⟨x, owner, old⟩
        exact absurd (new x owner) (Nat.not_lt.2 (by simpa using old))
  case piece =>
    intro first offset other
    refine ⟨fun busy => leads_of rfl h (fwStageEffect_busy taken busy), fun started reading job => ?_⟩
    have eff := fwStageEffect_eq started reading job taken
    refine ⟨fun refused => leads_of rfl h ?_, fun later staging place fits => leads_of rfl h ?_, fun now start fits => yields_of rfl h ?_⟩
    · by_cases beyond : 12582912 < le f.entry 8 4 + f.data.length
      · exact eff.trans (if_pos beyond)
      rw [eff, if_neg beyond]
      rcases refused with exceeds | ⟨isFirst, off⟩ | ⟨notFirst, off⟩
      · exact absurd exceeds beyond
      · rw [if_pos isFirst, if_pos off]
      · rw [if_neg (ne_true_of_eq_false notFirst), if_pos]
        rw [Bool.or_eq_true, Bool.not_eq_true', decide_eq_true_iff]
        exact off
    · rw [eff, if_neg (Nat.not_lt.2 fits), if_neg (ne_true_of_eq_false later), if_neg]
      rw [Bool.or_eq_true, Bool.not_eq_true', decide_eq_true_iff, not_or, Bool.not_eq_false, not_not]
      exact ⟨staging, place⟩
    · have small : ¬12582912 < le f.entry 8 4 + f.data.length := by
        rw [show le f.entry 8 4 = 0 from start]
        omega
      rw [if_neg small, if_pos now, if_neg (not_not.2 start), Dev.runJob_steps _ (Nat.succ_ne_zero _)] at eff
      rw [settle_boot, eff]
      have boot (n : Nat) : Boot.slot { s.dev.boot.slotErased (1 - s.dev.boot.running) with
          job := some { queue := q, index := i, erases := 192, programs := ceilDiv f.data.length 65536 } } n =
          (s.dev.boot.setSlot (1 - s.dev.boot.running) {}).slot n := rfl
      refine ⟨rfl, ?_, fun low => ?_, _, rfl, rfl, rfl, rfl, rfl⟩
      · exact congrArg FwSlot.bytes ((boot _).trans (Boot.slot_setSlot_same _ _ _))
      · exact (boot _).trans (Boot.slot_setSlot_other _ _ (by omega))
  case flash =>
    refine ⟨fun none_ => leads_of rfl h (flashStepDoneEffect_none ok none_), fun j job => ⟨?_, ?_, ?_⟩⟩
    · rintro rfl
      exact leads_of rfl h (flashStepDoneEffect_fails job)
    · rintro rfl none_
      exact leads_of rfl h (flashStepDoneEffect_programmed job none_)
    · rintro rfl some_
      exact leads_of rfl h (flashStepDoneEffect_erased job some_)
  case activate =>
    obtain ⟨w, begins, eff⟩ := fwActivateEffect_eq taken started switching
    refine ⟨fun active => leads_of rfl h (eff.trans (if_pos active)), fun quiesced pending => leads_of rfl h ?_,
      fun quiesced idle unstaged => leads_of rfl h ?_, fun quiesced idle staged => yields_of rfl h ?_⟩
    · rw [eff, if_neg (not_not.2 quiesced), if_pos pending]
    · rw [eff, if_neg (not_not.2 quiesced), if_neg (ne_true_of_eq_false idle), if_pos (by rw [unstaged]; rfl)]
    · rw [settle_boot, eff, if_neg (not_not.2 quiesced), if_neg (ne_true_of_eq_false idle), if_neg (by rw [staged]; decide)]
      exact begins
  case switched =>
    refine ⟨fun none_ => leads_of rfl h (by simp only [firmwareSwitchDoneEffect, none_]), fun q i switching held => ⟨?_, ?_⟩⟩
    · rintro rfl
      obtain ⟨boot, mem⟩ := firmwareSwitchDoneEffect_boot switching held true
      refine yields_of rfl h ?_
      rw [settle_boot, settle_mem, boot, mem]
      exact ⟨rfl, rfl, rfl, rfl, rfl⟩
    · rintro rfl
      obtain ⟨boot, mem⟩ := firmwareSwitchDoneEffect_boot switching held false
      have kept := Boot.setSlot_frame s.dev.boot (1 - s.dev.boot.running) { s.dev.boot.slot (1 - s.dev.boot.running) with verified := false }
      refine yields_of rfl h ?_
      rw [settle_boot, settle_mem, boot, mem]
      refine ⟨rfl, kept.1, kept.2, ?_, rfl⟩
      exact congrArg FwSlot.verified (Boot.slot_setSlot_same s.dev.boot _ _)
  case confirm =>
    refine ⟨fun done => leads_of rfl h ?_, fun trial => yields_of rfl h ?_⟩
    · simp only [fwConfirmEffect, taken]
      exact if_pos done
    · obtain ⟨boot, mem⟩ := fwConfirmEffect_trial taken trial
      rw [settle_boot, settle_mem, boot, mem]
      exact ⟨rfl, rfl, rfl, rfl, rfl⟩
  case attest =>
    obtain ⟨length, table⟩ := s.dev.attestBytes_spec (slice f.entry 8 32)
    refine ⟨fun none_ => leads_of rfl h ?_, fun key waits => leads_of rfl h ?_, fun key may => ⟨_, length, table, leads_of rfl h ?_⟩⟩
    · simp only [attestEffect, taken]
      exact if_pos (by rw [none_]; rfl)
    · simp only [attestEffect, taken]
      rw [if_neg (by rw [key]; decide), if_pos (by rw [waits]; rfl)]
    · simp only [attestEffect, taken]
      rw [if_neg (by rw [key]; decide), if_neg (by rw [may]; decide)]
      rfl
  case exported =>
    refine ⟨fun waits => leads_of rfl h ?_, fun may => ⟨halfBytes s.dev.ledger.half0 ++ halfBytes s.dev.ledger.half1, ?_, leads_of rfl h ?_⟩⟩
    · simp only [ledgerExportEffect, taken]
      exact if_pos (by rw [waits]; rfl)
    · rw [List.length_append, length_halfBytes, length_halfBytes]
    · simp only [ledgerExportEffect, taken]
      exact if_neg (by rw [may]; decide)

end Sys2Proof.BootFamily
end

section
/-! The statement on the interrupt wire (R92, R94), settled. -/

namespace Sys2Proof.Machine

/-- Powered hours are no part of what the wire depends on. -/
theorem tick_wireLevel (d : Dev) : (tick d).wireLevel = d.wireLevel := by
  unfold tick
  split
  · dsimp only
    split
    · exact Dev.wireLevel_congr rfl rfl (fun _ => Dev.rd_wr_obj_ne _ _ _ _ (by decide) _ _) (Dev.rd_wr_obj_ne _ _ _ _ (by decide) _ _)
    · rfl
  · rfl

theorem tick_ep (d : Dev) : (tick d).ep = d.ep := by
  unfold tick
  split
  · dsimp only
    split <;> rfl
  · rfl

open Sys2Proof.Safety in
/-- A command that answers a next state leaves the wire at its level: it has no effect, or settles the wire after it. -/
theorem exec_wireFollows {c : Instr} {s t : State} (h : wireFollows s) (e : exec c s = .next t) : wireFollows t := by
  obtain ⟨f, isAct⟩ := exec_is_act c
  rw [isAct] at e
  rcases act_cases c f s with ⟨-, refused⟩ | ⟨-, -, held⟩ | ⟨-, -, ran⟩
  · rw [refused] at e; cases e
  · rw [held] at e; cases e; exact h
  · rw [ran] at e; cases e
    exact (settle_intaWire _).trans (settle_wireLevel _).symm

end Sys2Proof.Machine

namespace Sys2Proof.HostFamily
open Sys2Proof.Machine Sys2Proof.Safety

/-- Settles O3, by the kinds of step: a command settles the wire after its effect, and a tick of the clock moves nothing the wire depends on. -/
theorem wireInvariant : Obligations.WireInvariant := by
  refine ⟨fun s t follows stepped => ?_, fun s follows low => ?_⟩
  · obtain ⟨d, pending⟩ := s
    cases pending with
    | nil =>
      cases stepped
      exact (congrArg Endpoint.intaWire (tick_ep d)).trans (follows.trans (tick_wireLevel d).symm)
    | cons c rest => exact exec_wireFollows (s := { dev := d, pending := rest }) follows stepped
  · rw [show s.dev.ep.intaWire = s.dev.wireLevel from follows, Dev.wireLevel]
    rcases low with low | low <;> simp [low]

end Sys2Proof.HostFamily
end

section
/-! SUPPORT. Queues: what their doorbells do, when a record is written, and when a queue becomes pending (R47, R80, R81, R84, R85, R93). -/

namespace Sys2Proof.Machine

theorem Tbl.put_put {κ α : Type} [DecidableEq κ] (t : Tbl κ α) (k : κ) (a b : α) : (t.put k a).put k b = t.put k b := by
  induction t with
  | nil => simp [Tbl.put]
  | cons e t ih => by_cases h : e.1 = k <;> simp [Tbl.put, h, ih]

@[simp] theorem Dev.setQueue_setQueue (d : Dev) (q : Nat) (x y : Queue) : (d.setQueue q x).setQueue q y = d.setQueue q y := by
  simp only [Dev.setQueue, Tbl.put_put]

/-! ### Doorbells (R73, R81) -/

section
variable {d : Dev} {q v size : Nat} {good : Nat → Dev → Dev}

theorem Dev.doorbell_closed (closed : d.barOpen = false) : d.doorbell q v size good = d.send .unsupportedRequest := if_pos (by rw [closed]; rfl)

variable (bar : d.barOpen = true)
include bar

theorem Dev.doorbell_early (early : d.ep.firmwareReady = false) : d.doorbell q v size good = d := by
  simp [Dev.doorbell, bar, early]

variable (ready : d.ep.firmwareReady = true)
include ready

theorem Dev.doorbell_good (on : d.flag Reg.hostQueueEnable q = true) (fits : v % 65536 < size) :
    d.doorbell q v size good = good (v % 65536) d := by
  simp [Dev.doorbell, bar, ready, on, Nat.not_le.2 fits]

theorem Dev.doorbell_bad (bad : d.flag Reg.hostQueueEnable q = false ∨ size ≤ v % 65536) :
    d.doorbell q v size good = d.setQueue q { d.queue q with badDoorbell := true } := by
  have off : (!d.flag Reg.hostQueueEnable q || decide (size ≤ v % 65536)) = true := by
    rcases bad with h | h <;> simp [h]
  simp [Dev.doorbell, bar, ready, off]

end

/-! ### Completion (R80, R84, R85) -/

theorem phase_byte (b : Bool) : Byte.ofNat' (b2n b) = if b then 1 else 0 := by cases b <;> rfl

/-- A command with its result kept, unless it has one already. -/
def Fetched.finish (w detail : Nat) (f : Fetched) : Fetched := if f.done = none then { f with done := some (w, detail) } else f

theorem Fetched.finish_of_none {f : Fetched} (h : f.done = none) (w detail : Nat) : f.finish w detail = { f with done := some (w, detail) } :=
  if_pos h

/-- A completion keeps the command's result, and then writes what may be written. -/
theorem Dev.complete_eq (d : Dev) (q i code area detail : Nat) : d.complete q i code area detail =
    (d.updFetched q i (Fetched.finish (d.resultWord code area) (detail % 2 ^ 32))).flushQueue q := rfl

/-- While the device may not write host memory no record is written (R91). -/
theorem Dev.flushQueue_held {d : Dev} (h : d.canMaster = false) (q : Nat) : d.flushQueue q = d := if_neg (by rw [h]; decide)

theorem Dev.complete_held {d : Dev} (h : d.canMaster = false) (q i code area detail : Nat) : d.complete q i code area detail =
    d.updFetched q i (Fetched.finish (d.resultWord code area) (detail % 2 ^ 32)) := Dev.flushQueue_held (by exact h) q

/-- A command that has not completed holds back every record behind it (R84). -/
theorem Dev.flushQueue_blocked {d : Dev} {q : Nat} {g : Fetched} {rest : List Fetched} (at_ : (d.queue q).inflight = g :: rest)
    (open_ : g.done = none) : d.flushQueue q = if d.canMaster then d.updatePending q else d := by
  have none_ : d.flushRecords (g :: rest).length q = d := by simp only [List.length_cons, Dev.flushRecords, at_, open_]
  simp only [Dev.flushQueue, at_, none_]
  rfl

/-- The last command in flight has its record written, and draining ends (R80, R85). -/
theorem Dev.flushQueue_last {d : Dev} {q : Nat} {f : Fetched} {w n : Nat} (at_ : (d.queue q).inflight = [f]) (done : f.done = some (w, n))
    (master : d.canMaster = true) : d.flushQueue q =
      ((d.writeRecord q f [] w n).setQueue q { (d.writeRecord q f [] w n).queue q with draining := false }).updatePending q := by
  have one : d.flushRecords [f].length q = d.writeRecord q f [] w n := by simp only [List.length_singleton, Dev.flushRecords, at_, done]
  have empty : ((d.writeRecord q f [] w n).queue q).inflight = [] := by simp [Dev.writeRecord]
  simp only [Dev.flushQueue, at_, one, master, empty, if_true]

/-- The device once a record has been written for the last command in flight of a queue. -/
theorem Dev.writeRecord_setQueue (d : Dev) (q : Nat) (f : Fetched) (w n : Nat) :
    (d.writeRecord q f [] w n).setQueue q { (d.writeRecord q f [] w n).queue q with draining := false } =
      (let x := d.queue q
      let tail := (x.cqTail + 1) % d.cqSize q
      Dev.setQueue (d.send (.hostWrite (d.rd Reg.hostQueueConfig_cqPage q * 4096 + x.cqTail * 16) (completionRecord w f.tag x.sqHead n x.phase))) q
        { x with inflight := [], cqTail := tail, phase := (if tail = 0 then !x.phase else x.phase), waits := x.waits ++ [d.now],
                 draining := false }) := by
  simp [Dev.writeRecord]
  rfl

theorem Dev.updFetched_only {d : Dev} {q : Nat} {f : Fetched} (at_ : (d.queue q).inflight = [f]) (g : Fetched → Fetched) :
    d.updFetched q f.index g = d.setQueue q { d.queue q with inflight := [g f] } := by
  simp [Dev.updFetched, at_]

/-- The only command in flight completes: its record is written at the ring's tail (R80, R84). -/
theorem Dev.complete_only {d : Dev} {q : Nat} {f : Fetched} (at_ : (d.queue q).inflight = [f]) (open_ : f.done = none)
    (master : d.canMaster = true) (code area detail : Nat) : d.complete q f.index code area detail =
      (let x := d.queue q
      let tail := (x.cqTail + 1) % d.cqSize q
      Dev.setQueue (d.send (.hostWrite (d.rd Reg.hostQueueConfig_cqPage q * 4096 + x.cqTail * 16)
          (completionRecord (d.resultWord code area) f.tag x.sqHead (detail % 2 ^ 32) x.phase))) q
        { x with inflight := [], cqTail := tail, phase := (if tail = 0 then !x.phase else x.phase), waits := x.waits ++ [d.now],
                 draining := false }).updatePending q := by
  rw [Dev.complete_eq, Dev.updFetched_only at_, Fetched.finish_of_none open_]
  have same : (d.setQueue q { d.queue q with inflight := [{ f with done := some (d.resultWord code area, detail % 2 ^ 32) }] }).canMaster = true :=
    master
  rw [Dev.flushQueue_last (by rw [Dev.queue_setQueue_same]) rfl same, Dev.writeRecord_setQueue]
  simp [Dev.send, Dev.setQueue, Dev.queue, Tbl.put_put]
  rfl

theorem Dev.updatePending_inflight (d : Dev) (q : Nat) : ((d.updatePending q).queue q).inflight = (d.queue q).inflight := by
  unfold Dev.updatePending
  dsimp only
  split
  · rw [Dev.queue_setQueue_same]
  · split
    · rw [Dev.queue_setQueue_same]
    · rfl

/-- A command behind one that has not completed keeps its result, and no record is written (R84). -/
theorem Dev.complete_behind {d : Dev} {q : Nat} {f g : Fetched} (at_ : (d.queue q).inflight = [g, f]) (open_ : f.done = none)
    (first : g.done = none) (other : g.index ≠ f.index) (code area detail : Nat) :
    (d.complete q f.index code area detail).sent = d.sent ∧ ((d.complete q f.index code area detail).queue q).inflight =
      [g, { f with done := some (d.resultWord code area, detail % 2 ^ 32) }] := by
  have kept : ((d.updFetched q f.index (Fetched.finish (d.resultWord code area) (detail % 2 ^ 32))).queue q).inflight =
      [g, { f with done := some (d.resultWord code area, detail % 2 ^ 32) }] := by
    simp [Dev.updFetched, at_, other, Fetched.finish_of_none open_]
  rw [Dev.complete_eq, Dev.flushQueue_blocked kept first]
  split
  · exact ⟨Dev.updatePending_sent _ q, (Dev.updatePending_inflight _ q).trans kept⟩
  · exact ⟨rfl, kept⟩

/-! ### When a queue is pending (R93) -/

theorem Dev.updatePending_rises {d : Dev} {q : Nat} (some_ : (d.queue q).waits ≠ [])
    (enough : d.rd Reg.hostQueueConfig_cqThreshold q ≤ (d.queue q).waits.length) : ((d.updatePending q).queue q).pending = true := by
  simp [Dev.updatePending, some_, enough]

theorem Dev.updatePending_falls {d : Dev} {q : Nat} (none_ : (d.queue q).waits = []) (read : (d.queue q).cqHead = (d.queue q).cqTail) :
    ((d.updatePending q).queue q).pending = false := by
  simp [Dev.updatePending, none_, read]

theorem cqDelayExpiryEffect_due {d : Dev} {q t : Nat} {rest : List Nat} (at_ : (d.queue q).waits = t :: rest)
    (delay : d.rd Reg.hostQueueConfig_cqDelay q ≠ 0) (due : t + d.rd Reg.hostQueueConfig_cqDelay q ≤ d.now) :
    cqDelayExpiryEffect q d = d.setQueue q { d.queue q with pending := true } := by
  simp only [cqDelayExpiryEffect, at_]
  rw [if_pos (by simp [delay, due])]

theorem cqDelayExpiryEffect_early {d : Dev} {q : Nat} (h : (d.queue q).waits = [] ∨ d.rd Reg.hostQueueConfig_cqDelay q = 0 ∨
    ∃ t rest, (d.queue q).waits = t :: rest ∧ d.now < t + d.rd Reg.hostQueueConfig_cqDelay q) : cqDelayExpiryEffect q d = d := by
  cases at_ : (d.queue q).waits with
  | nil => simp only [cqDelayExpiryEffect, at_]
  | cons t rest =>
    simp only [cqDelayExpiryEffect, at_]
    rw [if_neg]
    rw [Bool.and_eq_true, bne_iff_ne, decide_eq_true_iff]
    rintro ⟨delay, due⟩
    rcases h with none_ | zero | ⟨t', rest', at', early⟩
    · simp [at_] at none_
    · exact delay zero
    · rw [at_] at at'
      cases at'
      omega

end Sys2Proof.Machine
end

section
/-! The statements on queues and their records, settled (R47, R80 to R85, R93). -/

namespace Sys2Proof.HostFamily
open Sys2Proof.Machine Sys2Proof.Safety

/-- A doorbell leads where its queue and the device's state say. -/
theorem leads_doorbell {c : Instr} {f : Dev → Dev} {s : State} {q v size : Nat} {good : Nat → Dev → Dev} (x : exec c s = act c f s)
    (e : f s.dev = s.dev.doorbell q v size good) (h : ready c s) :
    (s.dev.barOpen = false → leads c s (s.dev.send .unsupportedRequest)) ∧
    (s.dev.barOpen = true → s.dev.ep.firmwareReady = false → leads c s s.dev) ∧
    (s.dev.barOpen = true → s.dev.ep.firmwareReady = true →
      (s.dev.flag Reg.hostQueueEnable q = true → v % 65536 < size → leads c s (good (v % 65536) s.dev)) ∧
      (s.dev.flag Reg.hostQueueEnable q = false ∨ size ≤ v % 65536 → leads c s (s.dev.setQueue q { s.dev.queue q with badDoorbell := true }))) := by
  have lead {d : Dev} (eq : s.dev.doorbell q v size good = d) : leads c s d := leads_of x h (e.trans eq)
  exact ⟨fun closed => lead (Dev.doorbell_closed closed), fun bar early => lead (Dev.doorbell_early bar early),
    fun bar served => ⟨fun on fits => lead (Dev.doorbell_good bar served on fits), fun bad => lead (Dev.doorbell_bad bar served bad)⟩⟩

/-- Settles O14, by the cases of a doorbell. -/
theorem queueDoorbells : Obligations.QueueDoorbells := by
  intro s q v d x w
  have tail := leads_doorbell (c := .sqTail q v) (f := sqTailEffect q v) (s := s) rfl rfl
  have head := leads_doorbell (c := .cqHead q v) (f := cqHeadEffect q v) (s := s) rfl rfl
  exact ⟨tail, head⟩

/-- Settles O16, by what a completion finds in flight: the command alone, mastering or not, or another before it; and by the cases of the
delay and of the pending rule. -/
theorem completionRecord : Obligations.CompletionRecord := by
  refine ⟨fun d q code area detail f open_ => ⟨fun only master => ?_, fun only held => ?_,
      fun g behind first other => Dev.complete_behind behind open_ first other code area detail⟩,
    fun s q h => ⟨fun t rest at_ delay due => leads_of rfl h (cqDelayExpiryEffect_due at_ delay due),
      fun early => leads_of rfl h (cqDelayExpiryEffect_early early)⟩,
    fun d q => ⟨Dev.updatePending_rises, Dev.updatePending_falls⟩⟩
  · rw [Dev.complete_only only open_ master]
    simp only [Machine.completionRecord, phase_byte]
  · rw [Dev.complete_held held, Dev.updFetched_only only, Fetched.finish_of_none open_]

end Sys2Proof.HostFamily
end

section
/-! SUPPORT. Fetching: which queue an entry comes from, what a fetch does, and what issuing host reads leaves alone (R69, R79, R83, R84). -/

namespace Sys2Proof.Machine

/-! ### The rotation (R84) -/

/-- The queue whose turn it is can be fetched from. -/
theorem Dev.fetchable_of_nextFetch {d : Dev} {q : Nat} (h : d.nextFetch = some q) : d.fetchable q = true := by
  unfold Dev.nextFetch at h
  split at h
  next again =>
    obtain rfl := Option.some.inj h
    exact ((Bool.and_eq_true _ _).mp again).2
  next => exact List.find?_some h

theorem Dev.fetchable_iff (d : Dev) (q : Nat) : d.fetchable q = true ↔ d.dictReady = true ∧ d.ep.busMaster = true ∧ d.ep.power = .d0 ∧
    d.flag Reg.hostQueueEnable q = true ∧ (d.queue q).sqHead ≠ (d.queue q).sqTail ∧
    (d.queue q).waits.length + (d.queue q).inflight.length < d.cqSize q ∧ ∀ b ∈ d.held, b.parked = true → b.ringDone = true := by
  simp only [Dev.fetchable, Dev.canMaster, Bool.and_eq_true, bne_iff_ne, beq_iff_eq, decide_eq_true_iff, Bool.not_eq_true', List.any_eq_false,
    Bool.not_eq_false, not_and, and_assoc]

/-! ### One fetch (R79) -/

/-- The command that a fetch takes from the head of a queue. -/
def Dev.headCommand (d : Dev) (q : Nat) (entry : List Byte) : Fetched := { order := d.fetchCount, index := (d.queue q).sqHead, entry }

/-- The device once the entry at the head of a queue is in flight. -/
def Dev.withFetched (d : Dev) (q : Nat) (entry : List Byte) : Dev :=
  let run := if d.fetchRun < 4 ∧ d.fetchTurn = q then d.fetchRun + 1 else 1
  Dev.setQueue { d with fetchCount := d.fetchCount + 1, fetchTurn := q, fetchRun := run } q
    { d.queue q with sqHead := ((d.queue q).sqHead + 1) % d.sqSize q, inflight := (d.queue q).inflight ++ [d.headCommand q entry] }

theorem commandFetchEffect_turn {d : Dev} {q : Nat} (turn : d.nextFetch = some q) (entry : List Byte) : commandFetchEffect q entry d =
    if badCommand entry then (d.withFetched q entry).complete q (d.queue q).sqHead 0x83 0x02 else (d.withFetched q entry).issueReads := by
  have mine : (d.nextFetch != some q) = false := by simp [turn]
  simp only [commandFetchEffect, mine, Bool.false_eq_true, if_false, Bool.and_eq_true, beq_iff_eq, decide_eq_true_iff]
  rfl

theorem commandFetchEffect_other {d : Dev} {q : Nat} (other : d.nextFetch ≠ some q) (entry : List Byte) : commandFetchEffect q entry d = d :=
  if_pos (by simp [other])

/-! ### Host reads issued (R69) -/

/-- From `d` to `e` only how far the reads of commands in flight are issued may have changed. -/
structure Dev.IssuedMore (d e : Dev) : Prop where
  frame : ∃ qs, e = { d with queues := qs }
  inflight : ∀ q, (e.queue q).inflight.map (fun f => (f.index, f.entry, f.data, f.done)) =
    (d.queue q).inflight.map fun f => (f.index, f.entry, f.data, f.done)

theorem Dev.IssuedMore.refl (d : Dev) : d.IssuedMore d := ⟨⟨_, rfl⟩, fun _ => rfl⟩

theorem Dev.IssuedMore.trans {a b c : Dev} (h : a.IssuedMore b) (k : b.IssuedMore c) : a.IssuedMore c := by
  obtain ⟨⟨qs, rfl⟩, same⟩ := h
  obtain ⟨⟨qs', rfl⟩, same'⟩ := k
  exact ⟨⟨qs', rfl⟩, fun q => (same' q).trans (same q)⟩

/-- One command's reads issued further. -/
theorem Dev.updIssued_issuedMore (d : Dev) (q i : Nat) (upto : Fetched → Nat) :
    d.IssuedMore (d.updFetched q i fun g => { g with issued := upto g }) := by
  refine ⟨⟨_, rfl⟩, fun p => ?_⟩
  by_cases h : q = p
  · subst h
    rw [Dev.updFetched, Dev.queue_setQueue_same, List.map_map]
    refine List.map_congr_left fun f _ => ?_
    rw [Function.comp]
    split <;> rfl
  · rw [Dev.updFetched, Dev.queue_setQueue_ne _ _ h]

theorem Dev.issueReads_issuedMore (d : Dev) : d.IssuedMore d.issueReads := by
  unfold Dev.issueReads
  split
  · exact .refl d
  · dsimp only
    refine List.foldlRecOn (motive := fun x : Dev × Nat => d.IssuedMore x.1) _ _ (Dev.IssuedMore.refl d) fun x more e _ => ?_
    dsimp only
    split
    · exact more
    · exact more.trans (Dev.updIssued_issuedMore _ _ _ _)

theorem Dev.issueReads_held {d : Dev} (h : d.canMaster = false) : d.issueReads = d := if_pos (by rw [h]; rfl)

end Sys2Proof.Machine
end

section
/-! The statement on fetching, settled (R69, R79, R83, R84). -/

namespace Sys2Proof.HostFamily
open Sys2Proof.Machine Sys2Proof.Safety

/-- Settles O15, by whose turn it is. -/
theorem commandFetch : Obligations.CommandFetch := by
  refine ⟨fun s q entry h => ⟨fun turn => ?mine, fun other => leads_of rfl h (commandFetchEffect_other other entry)⟩, fun d => ?issued⟩
  case mine =>
    obtain ⟨-, rest⟩ := (s.dev.fetchable_iff q).1 (Dev.fetchable_of_nextFetch turn)
    have eff := commandFetchEffect_turn turn entry
    refine ⟨fun good => leads_of rfl h ?_, fun bad => leads_of rfl h ?_, rest⟩
    · exact eff.trans (if_neg (ne_true_of_eq_false good))
    · exact eff.trans (if_pos bad)
  case issued =>
    obtain ⟨⟨qs, eq⟩, inflight⟩ := d.issueReads_issuedMore
    refine ⟨?_, ?_, ?_, ?_, Dev.issueReads_held, inflight⟩ <;> rw [eq]

end Sys2Proof.HostFamily
end

section
/-! SUPPORT. Data read from the host: each outcome of a read, and what logging an error leaves (R101). -/

namespace Sys2Proof.Machine

/-! ### What counting and attention events leave alone -/

theorem Dev.Noted.ep {d e : Dev} (h : d.Noted e) : e.ep = d.ep := by obtain ⟨f, r, a, w, rfl⟩ := h; rfl
theorem Dev.Noted.sent {d e : Dev} (h : d.Noted e) : e.sent = d.sent := by obtain ⟨f, r, a, w, rfl⟩ := h; rfl
theorem Dev.Noted.queues {d e : Dev} (h : d.Noted e) : e.queues = d.queues := by obtain ⟨f, r, a, w, rfl⟩ := h; rfl

@[simp] theorem Dev.attend_ep (d : Dev) (c : Cause) : (d.attend c).ep = d.ep := (d.attend_noted c).ep
@[simp] theorem Dev.attend_sent (d : Dev) (c : Cause) : (d.attend c).sent = d.sent := (d.attend_noted c).sent
@[simp] theorem Dev.attend_queues (d : Dev) (c : Cause) : (d.attend c).queues = d.queues := (d.attend_noted c).queues

/-! ### Errors logged (R101) -/

/-- The severity of an uncorrectable error, whether it is masked, and whether its message is enabled. -/
def Dev.errorFatal (d : Dev) (error : Nat) : Bool := (d.cfgReg .aerUncorrectableSeverity 0x00462030).testBit error
def Dev.errorMasked (d : Dev) (error : Nat) : Bool := (d.cfgReg .aerUncorrectableMask 0x00400000).testBit error
def Dev.errorEnabled (d : Dev) (error : Nat) : Bool :=
  (d.cfgReg .command 0).testBit 8 || (d.cfgReg .deviceControl 0x2000).testBit (if d.errorFatal error then 2 else 1)

/-- An error logged sets its status bit, and raises LINK once its message has been sent, if it is sent at all. -/
theorem Dev.logUncorrectable_eq (d : Dev) (error code : Nat) : ∃ e : Dev, e.ep.aerUncorrectable = d.ep.aerUncorrectable ||| 2 ^ error ∧
    e.sent = d.sent ∧ d.logUncorrectable error code = Dev.attend
      (if d.errorEnabled error && !d.errorMasked error then e.send (.aerMessage (d.errorFatal error) error) else e)
      { bit := Bit.link, code, area := 0x02 } := by
  refine ⟨_, ?_, ?_, rfl⟩
  · split <;> split <;> rfl
  · split <;> split <;> rfl

theorem Dev.aerUncorrectable_logUncorrectable (d : Dev) (error code : Nat) :
    (d.logUncorrectable error code).ep.aerUncorrectable = d.ep.aerUncorrectable ||| 2 ^ error := by
  obtain ⟨e, bit, -, eq⟩ := d.logUncorrectable_eq error code
  rw [eq, Dev.attend_ep]
  split
  · exact bit
  · exact bit

theorem Dev.sent_logUncorrectable (d : Dev) (error code : Nat) : (d.logUncorrectable error code).sent =
    if d.errorEnabled error && !d.errorMasked error then .aerMessage (d.errorFatal error) error :: d.sent else d.sent := by
  obtain ⟨e, -, sent, eq⟩ := d.logUncorrectable_eq error code
  rw [eq, Dev.attend_sent]
  split
  · exact congrArg _ sent
  · exact sent

/-! ### Outcomes of a read -/

section
variable {d : Dev} {q i : Nat} {f : Fetched} (reading : d.reader q i = some f)
include reading

theorem hostReadCompletionEffect_data (bytes : List Byte) : hostReadCompletionEffect q i (.data bytes) d =
    (d.updFetched q i fun g => { g with data := (g.data ++ bytes).take f.issued }).issueReads := by
  simp only [hostReadCompletionEffect, reading]

theorem hostReadCompletionEffect_refused {r : HostReadResult} (h : r = .unsupported ∨ r = .aborted) :
    hostReadCompletionEffect q i r d = (d.complete q i 0x80 0x02).issueReads := by
  rcases h with rfl | rfl
  · simp only [hostReadCompletionEffect, reading]
  · simp only [hostReadCompletionEffect, reading]

theorem hostReadCompletionEffect_poisoned : hostReadCompletionEffect q i .poisoned d =
    ((d.logUncorrectable aerPoisoned 0x81).complete q i 0x81 0x02).issueReads := by
  simp only [hostReadCompletionEffect, reading]

theorem completionTimeoutEffect_reading : completionTimeoutEffect q i d =
    ((d.logUncorrectable aerTimeout 0x80).complete q i 0x80 0x02).issueReads := by
  simp only [completionTimeoutEffect, reading]

end

section
variable {d : Dev} {q i : Nat} (none_ : d.reader q i = none)
include none_

theorem hostReadCompletionEffect_none (r : HostReadResult) : hostReadCompletionEffect q i r d =
    if r = .poisoned ∧ d.fetchingAt q i = true then d.logUncorrectable aerPoisoned 0x81 else d := by
  simp only [hostReadCompletionEffect, none_, Bool.and_eq_true, beq_iff_eq]

theorem completionTimeoutEffect_none : completionTimeoutEffect q i d =
    if d.fetchingAt q i then d.logUncorrectable aerTimeout 0x80 else d := by
  simp only [completionTimeoutEffect, none_]

end

end Sys2Proof.Machine
end

section
/-! The statement on data read from the host, settled (R101). -/

namespace Sys2Proof.HostFamily
open Sys2Proof.Machine Sys2Proof.Safety

/-- Settles O21, by whether a command reads, and by the outcome of the read. -/
theorem hostReads : Obligations.HostReads := by
  refine ⟨fun s q i f reading => ?command, fun s q i r none_ => ?entry, fun d error code => ?logged⟩
  case command =>
    exact ⟨fun bytes h => leads_of rfl h (hostReadCompletionEffect_data reading bytes),
      fun r refused h => leads_of rfl h (hostReadCompletionEffect_refused reading refused),
      fun h => leads_of rfl h (hostReadCompletionEffect_poisoned reading), fun h => leads_of rfl h (completionTimeoutEffect_reading reading)⟩
  case entry =>
    refine ⟨fun h other => leads_of rfl h ?_, fun h fetching => leads_of rfl h ?_,
      fun h => leads_of rfl h (completionTimeoutEffect_none none_)⟩
    · rw [hostReadCompletionEffect_none none_, if_neg]
      rintro ⟨poisoned, fetching⟩
      exact other.elim (· poisoned) fun h => absurd (h.symm.trans fetching) (by decide)
    · rw [hostReadCompletionEffect_none none_, if_pos ⟨rfl, fetching⟩]
  case logged =>
    intro fatal e
    have sent : e.sent = _ := d.sent_logUncorrectable error code
    refine ⟨d.aerUncorrectable_logUncorrectable error code, d.attentionBit_logUncorrectable error code, ?_, fun masked => ?_⟩
    · rw [sent]
      split
      · exact .inr rfl
      · exact .inl rfl
    · have silent : d.errorMasked error = true := masked
      rw [sent, silent, Bool.not_true, Bool.and_false]
      exact if_neg (by decide)

end Sys2Proof.HostFamily
end

section
/-! SUPPORT. BAR0 and BAR2: each outcome of an access, and where a write stores (R62, R72, R74, R75, R92, R101). -/

namespace Sys2Proof.Machine

/-! ### BAR0 -/

/-- Locations beyond the mailboxes lie in no request region. -/
theorem Dev.mailboxAt_beyond (d : Dev) {o : Nat} (h : 0x10000 ≤ o) : d.mailboxAt o = none := by
  simp [Dev.mailboxAt, Nat.not_lt.2 h]

theorem Dev.inRequest_beyond (d : Dev) {o : Nat} (h : 0x10000 ≤ o) (n : Nat) : d.inRequest o n = none := by
  rw [Dev.inRequest, d.mailboxAt_beyond h]; rfl

section
variable {d : Dev} (bar : d.barOpen = true)
include bar

theorem bar0BadAccessEffect_counted {w : Bool} {o n : Nat} (known : d.bar0Known o = true) (bad : d.accepted w o n = false) :
    bar0BadAccessEffect w o n d = if w then d.count Reg.hostBar0BadAccess
      else (d.count Reg.hostBar0BadAccess).send (.readCompletion (List.replicate (min n 4096) 0#8) false) := by
  simp [bar0BadAccessEffect, bar, known, bad]

theorem bar0RegisterWriteEffect_poisoned (o : Nat) (data : List Byte) :
    bar0RegisterWriteEffect o data true d = (d.count Reg.hostBar0BadAccess).logUncorrectable aerPoisoned 0 := by
  simp [bar0RegisterWriteEffect, bar]

theorem bar0RegisterWriteEffect_request {o m k : Nat} {data : List Byte} (at_ : d.inRequest o data.length = some (m, k)) :
    bar0RegisterWriteEffect o data false d = d.writeRequest m k data := by
  simp [bar0RegisterWriteEffect, bar, at_]

/-- A 32-bit write of a register beyond the mailboxes. -/
theorem bar0RegisterWriteEffect_register {o : Nat} {data : List Byte} (beyond : 0x10000 ≤ o) (within : o < 0x10018) (aligned : o % 4 = 0)
    (four : data.length = 4) : bar0RegisterWriteEffect o data false d = d.writeRegister o (leNat data) := by
  have known : d.bar0Known o = true := by simp [Dev.bar0Known, beyond, within]
  simp [bar0RegisterWriteEffect, bar, d.inRequest_beyond beyond, known, Dev.accepted, four, aligned]

theorem mailboxClearEffect_open (v : Nat) : mailboxClearEffect v d =
    if v.testBit 2 then { d with ep := { d.ep with mailboxPending := false } } else d := by
  simp [mailboxClearEffect, bar, Dev.writeRegister, d.mailboxAt_beyond (o := 0x10014) (by decide)]

end

/-! ### BAR2 -/

section
variable {d : Dev} (bar : d.barOpen = true)
include bar

theorem bar2ReadEffect_early (early : d.ep.memoryReady = false) (o n : Nat) (x : List EccEvent) :
    bar2ReadEffect o n x d = d.send (.readCompletion (List.replicate n 0#8) false) := by
  simp [bar2ReadEffect, bar, early]

/-- A read that meets no poison answers what memory holds, and zeros where there is none. -/
theorem bar2ReadEffect_clean {o n : Nat} {x : List EccEvent} (trained : d.ep.memoryReady = true)
    (clean : ∀ i, i < n → (d.eccAndSlots x).mapped (o + i) = true → (d.eccAndSlots x).poisoned (o + i) 1 = false) :
    bar2ReadEffect o n x d = (d.eccAndSlots x).send (.readCompletion
      ((List.range n).map fun i => if (d.eccAndSlots x).mapped (o + i) then (d.eccAndSlots x).getByte (o + i) else 0#8) false) := by
  have none_ : (List.range n).find? (fun i => (d.eccAndSlots x).mapped (o + i) && (d.eccAndSlots x).poisoned (o + i) 1) = none := by
    refine List.find?_eq_none.2 fun i mem => ?_
    rw [Bool.and_eq_true]
    rintro ⟨mapped, poisoned⟩
    exact absurd (poisoned.symm.trans (clean i (List.mem_range.1 mem) mapped)) (by decide)
  simp only [bar2ReadEffect, bar, trained, none_, Bool.not_true, Bool.false_eq_true, if_false]

theorem bar2WriteEffect_discarded (off : d.flag Reg.hostBar2WriteEnable = false) (o : Nat) (data : List Byte) :
    bar2WriteEffect o data false d = d.count Reg.hostBar2Discarded := by
  simp [bar2WriteEffect, bar, off]

theorem bar2WriteEffect_stored {o : Nat} {data : List Byte} (on : d.flag Reg.hostBar2WriteEnable = true) (trained : d.ep.memoryReady = true)
    (some_ : data ≠ []) (within : o + data.length ≤ lpddrEnd) : bar2WriteEffect o data false d = d.store o data := by
  have room : data.length ≤ lpddrEnd - o := Nat.le_sub_of_add_le' within
  simp [bar2WriteEffect, bar, on, trained, List.take_of_length_le room, List.drop_of_length_le room, Dev.storeBar2, some_]

end

/-- From `d` to `e` device memory keeps its canonical form, and every byte outside `n` bytes at `o` reads as before. -/
def Dev.WritesWithin (o n : Nat) (d e : Dev) : Prop :=
  Memory.wf d.memFree d.mem → Memory.wf e.memFree e.mem ∧ ∀ a, a < o ∨ o + n ≤ a → e.getByte a = d.getByte a

theorem Dev.WritesWithin.trans {o n : Nat} {a b c : Dev} (h : a.WritesWithin o n b) (k : b.WritesWithin o n c) : a.WritesWithin o n c := by
  intro wf
  obtain ⟨wf', same⟩ := h wf
  obtain ⟨wf'', same'⟩ := k wf'
  exact ⟨wf'', fun x out => (same' x out).trans (same x out)⟩

theorem Dev.sameMemory.writesWithin {d e : Dev} (h : d.sameMemory e) (o n : Nat) : d.WritesWithin o n e := by
  intro wf
  refine ⟨?_, fun a _ => h.getByte a⟩
  rw [h.1, h.2]
  exact wf

theorem Dev.WritesWithin.ite {o n : Nat} {d a b : Dev} {c : Prop} [Decidable c] (yes : d.WritesWithin o n a) (no : d.WritesWithin o n b) :
    d.WritesWithin o n (if c then a else b) := by
  split
  exacts [yes, no]

theorem Dev.sameMemory.refl (d : Dev) : d.sameMemory d := ⟨rfl, rfl⟩

/-- What BAR2 stores at an address stays within the bytes it is given. -/
theorem Dev.storeBar2_writesWithin (d : Dev) {o n a : Nat} {bytes : List Byte} (poisoned : Bool)
    (inside : bytes = [] ∨ o ≤ a ∧ a + bytes.length ≤ o + n) : d.WritesWithin o n (d.storeBar2 a bytes poisoned) := by
  unfold Dev.storeBar2
  split
  · exact (Dev.sameMemory.refl d).writesWithin o n
  next some_ =>
    have fits := inside.resolve_left some_
    have stored : d.WritesWithin o n (d.store a bytes) := fun wf =>
      ⟨d.store_wf a bytes wf, fun x out => d.getByte_store_ne a x bytes wf (by omega)⟩
    refine .ite (stored.trans ?_) stored
    exact (Dev.foldl_sameMemory _ (fun d k => d.poisonAt_sameMemory _) _ _).writesWithin o n

/-- A write to BAR2 changes no byte outside those written, whatever of it is discarded, poisoned or split at the Vat (R74, R75). -/
theorem bar2WriteEffect_writesWithin (o : Nat) (data : List Byte) (p : Bool) (d : Dev) :
    d.WritesWithin o data.length (bar2WriteEffect o data p d) := by
  have start : d.WritesWithin o data.length d := (Dev.sameMemory.refl d).writesWithin _ _
  unfold bar2WriteEffect
  refine .ite ((show d.sameMemory (d.send _) from ⟨rfl, rfl⟩).writesWithin _ _) ?_
  extract_lets e low high at_ vat trained f g
  have logged : d.WritesWithin o data.length e := .ite ((d.logUncorrectable_sameMemory _ _).writesWithin _ _) start
  have counted (x : Dev) : x.WritesWithin o data.length (x.count Reg.hostBar2Discarded) := (x.count_sameMemory _ _ _).writesWithin _ _
  have lowFits : o + low.length ≤ o + data.length := by simp [low]
  have highFits : vat = [] ∨ o ≤ at_ ∧ at_ + vat.length ≤ o + data.length := by
    by_cases short : data.length ≤ lpddrEnd - o
    · exact .inl (by simp [vat, high, List.drop_of_length_le short])
    · have upper : vat.length ≤ data.length - (lpddrEnd - o) := by simp [vat, high]
      have same : vatBase = lpddrEnd := rfl
      exact .inr (by omega)
  have stored : e.WritesWithin o data.length f := .ite (e.storeBar2_writesWithin p (.inr ⟨Nat.le_refl o, lowFits⟩))
    ((Dev.sameMemory.refl e).writesWithin _ _)
  have all := (logged.trans stored).trans (f.storeBar2_writesWithin p highFits)
  exact .ite (logged.trans (counted e)) (.ite (all.trans (counted _)) all)

end Sys2Proof.Machine
end

section
/-! The statements on the BARs, settled (R62, R72, R74, R75, R92, R101). -/

namespace Sys2Proof.HostFamily
open Sys2Proof.Machine Sys2Proof.Safety

/-- Settles O17, by the kinds of access. -/
theorem barRegisters : Obligations.BarRegisters := by
  refine ⟨fun s w o n h => ⟨fun closed => leads_of rfl h (if_pos (by rw [closed]; rfl)),
      fun bar known bad => leads_of rfl h (bar0BadAccessEffect_counted bar known bad)⟩, fun s o data p h => ?write, fun s v h => ?clear⟩
  case write =>
    refine ⟨fun closed => leads_of rfl h (if_pos (by rw [closed]; rfl)), ?_, ?_⟩
    · rintro bar rfl
      exact leads_of rfl h (bar0RegisterWriteEffect_poisoned bar o data)
    · rintro bar rfl
      refine ⟨?_, ?_, fun m k at_ => leads_of rfl h (bar0RegisterWriteEffect_request bar at_)⟩
      · rintro rfl four
        refine leads_of rfl h ((bar0RegisterWriteEffect_register bar (by decide) (by decide) (by decide) four).trans ?_)
        simp [Dev.writeRegister, s.dev.mailboxAt_beyond (o := 0x10004) (by decide)]
      · rintro rfl four
        refine leads_of rfl h ((bar0RegisterWriteEffect_register bar (by decide) (by decide) (by decide) four).trans ?_)
        simp [Dev.writeRegister, s.dev.mailboxAt_beyond (o := 0x10008) (by decide)]
  case clear =>
    refine ⟨fun closed => leads_of rfl h (if_neg (by rw [closed]; decide)), fun bar set => leads_of rfl h ?_, fun bar unset => leads_of rfl h ?_⟩
    · rw [mailboxClearEffect_open bar, if_pos set]
    · rw [mailboxClearEffect_open bar, if_neg (ne_true_of_eq_false unset)]

/-- Settles O18, by the outcomes of a read and of a write, and by what a write to BAR2 leaves of memory. -/
theorem barMemory : Obligations.BarMemory := by
  refine ⟨fun s o n x h bar => ⟨fun early => leads_of rfl h (bar2ReadEffect_early bar early o n x),
      fun trained clean => leads_of rfl h (bar2ReadEffect_clean bar trained clean)⟩,
    fun s o data h bar => ⟨fun off => leads_of rfl h (bar2WriteEffect_discarded bar off o data),
      fun on trained some_ within => leads_of rfl h (bar2WriteEffect_stored bar on trained some_ within)⟩,
    fun s t o data p wf ran => ?frame⟩
  rcases act_cases (.bar2Write o data p) (bar2WriteEffect o data p) s with ⟨-, refused⟩ | ⟨-, -, held⟩ | ⟨-, -, acted⟩
  · cases refused.symm.trans ran
  · cases held.symm.trans ran
    exact ⟨wf, fun _ _ => rfl⟩
  · cases acted.symm.trans ran
    obtain ⟨wf', same⟩ := bar2WriteEffect_writesWithin o data p s.dev wf
    refine ⟨?_, fun a out => (settle_getByte _ a).trans (same a out)⟩
    rw [memoryCanonical, settle_memFree, settle_mem]
    exact wf'

end Sys2Proof.HostFamily
end

section
/-! SUPPORT. The link, and configuration requests: training, what each request answers, and the fields a write keeps (R69, R96, R98, R101). -/

namespace Sys2Proof.Machine

/-! ### The link (R96, R101) -/

/-- A link that trains records its rate, width and mode, and raises LINK where an earlier rate or width has changed. -/
theorem Dev.trainLink_eq (d : Dev) (rate width : Nat) (flit : Bool) : d.trainLink rate width flit =
    (let t : Dev := { d.setLink rate width flit with ep := { d.ep with linkTrained := true, trainedBefore := true } }
    if d.ep.trainedBefore = true ∧ ¬(d.rd Reg.hostLinkState_rate = rate ∧ d.rd Reg.hostLinkState_width = width)
    then t.attend { bit := Bit.link, area := 0x02 } else t) := by
  simp only [Dev.trainLink, Bool.and_eq_true, Bool.or_eq_true, bne_iff_ne, not_and_or]
  rfl

/-! ### Configuration requests (R69, R98) -/

/-- Registers that a write leaves as they are. -/
def readOnlyRegister (r : CfgReg) : Prop := r ∈ [CfgReg.vendorId, .deviceId, .revisionId, .classCode, .subsystemVendorId, .subsystemId,
    .interruptPin, .serialNumber, .pmCapabilities, .noSoftReset, .deviceCapabilities, .linkCapabilities, .linkStatus, .deviceCapabilities2] ∨
  ∃ k, r = .capability k ∨ r = .extendedCapability k

theorem Dev.cfgWrite_readOnly (d : Dev) {r : CfgReg} (h : readOnlyRegister r) (v : Nat) : d.cfgWrite r v = d := by
  rcases h with h | ⟨k, rfl | rfl⟩
  · simp only [List.mem_cons, List.not_mem_nil, or_false] at h
    rcases h with rfl | rfl | rfl | rfl | rfl | rfl | rfl | rfl | rfl | rfl | rfl | rfl | rfl | rfl <;> rfl
  · rfl
  · rfl

/-- What the capability registers say of payload size, function-level reset, rate, width and ASPM (R69, R70). -/
theorem Dev.cfgRead_supported (d : Dev) : bits (d.cfgRead .deviceCapabilities) 0 3 = 2 ∧ (d.cfgRead .deviceCapabilities).testBit 28 = true ∧
    bits (d.cfgRead .linkCapabilities) 0 4 = 6 ∧ bits (d.cfgRead .linkCapabilities) 4 6 = 16 ∧ bits (d.cfgRead .linkCapabilities) 10 2 = 0 := by
  rw [show d.cfgRead .deviceCapabilities = 2 + 0x8000 + 2 ^ 28 from rfl, show d.cfgRead .linkCapabilities = 6 + 16 * 16 + 2 ^ 22 from rfl]
  decide

section
variable {d : Dev} (served : d.cfgServed = true)
include served

theorem configurationRequestEffect_read (r : CfgReg) :
    configurationRequestEffect (.read r) d = d.served.send (.configCompletion (d.cfgRead r)) := if_neg (by rw [served]; decide)

theorem configurationRequestEffect_write (r : CfgReg) (v : Nat) :
    configurationRequestEffect (.write r v) d = (d.served.send (.configCompletion 0)).cfgWrite r v := if_neg (by rw [served]; decide)

end

theorem settle_cfgReg (d : Dev) (r : CfgReg) (k : Nat) : (settle d).cfgReg r k = d.cfgReg r k := by
  obtain ⟨x, n, e⟩ := settle_eq_ep d
  rw [e]; rfl

/-- What a register written last reads. -/
theorem Dev.cfgReg_setCfg_same (d : Dev) (r : CfgReg) (v k : Nat) : (d.setCfg r v).cfgReg r k = v := Tbl.getD_put_same _ _ _ _

/-! ### Device Control (R69) -/

/-- Max_Payload_Size reads as it was set, and a change of Max_Read_Request_Size leaves it alone. -/
theorem bits_payload_setBits (v x : Nat) : bits (setBits v 5 3 x) 5 3 = x % 8 := by
  simp only [bits, setBits, Nat.shiftLeft_eq, Nat.shiftRight_eq_div_pow]
  omega

theorem bits_payload_setBits_readSize (v x : Nat) : bits (setBits v 12 3 x) 5 3 = bits v 5 3 := by
  simp only [bits, setBits, Nat.shiftLeft_eq, Nat.shiftRight_eq_div_pow]
  omega

/-- A payload size of none supported keeps the one in force. -/
theorem Dev.payload_deviceControlAfter (d : Dev) (v : Nat) : bits (d.deviceControlAfter v) 5 3 ≤ 2 ∨
    bits (d.deviceControlAfter v) 5 3 = bits (d.cfgReg .deviceControl 0x2000) 5 3 := by
  unfold Dev.deviceControlAfter
  extract_lets old masked sized
  have payload : bits sized 5 3 ≤ 2 ∨ bits sized 5 3 = bits old 5 3 := by
    by_cases beyond : 2 < bits masked 5 3
    · refine .inr ?_
      rw [show sized = setBits masked 5 3 (bits old 5 3) from if_pos beyond, bits_payload_setBits]
      exact Nat.mod_mod _ 8
    · rw [show sized = masked from if_neg beyond]
      exact .inl (Nat.not_lt.1 beyond)
  split
  · rw [bits_payload_setBits_readSize]
    exact payload
  · exact payload

end Sys2Proof.Machine
end

section
/-! The statement on the link and configuration requests, settled (R69, R70, R96, R98, R101). -/

namespace Sys2Proof.HostFamily
open Sys2Proof.Machine Sys2Proof.Safety

/-- Settles O22, by the kinds of request. -/
theorem linkAndConfiguration : Obligations.LinkAndConfiguration := by
  refine ⟨fun s rate width flit h => leads_of rfl h (Dev.trainLink_eq _ rate width flit),
    fun s rate width flit h => ⟨fun untrained => leads_of rfl h (if_neg (ne_true_of_eq_false untrained)), fun trained => leads_of rfl h (if_pos trained)⟩,
    fun s x h => ⟨fun early => leads_of rfl h (if_pos (by rw [early]; rfl)), fun served => ⟨?_, ?_, fun v => ?_⟩⟩,
    fun d v _ => d.payload_deviceControlAfter v, fun d => ⟨rfl, rfl, rfl, rfl, rfl, d.cfgRead_supported⟩⟩
  · rintro r rfl
    exact leads_of rfl h (configurationRequestEffect_read served r)
  · rintro r v rfl readOnly
    exact leads_of rfl h ((configurationRequestEffect_write served r v).trans (Dev.cfgWrite_readOnly _ readOnly v))
  · rintro rfl
    refine yields_of rfl h ?_
    rw [settle_cfgReg, configurationRequestEffect_write served]
    exact ⟨Dev.cfgReg_setCfg_same _ _ _ _, mem_sent_settle List.mem_cons_self⟩

end Sys2Proof.HostFamily
end

section
/-! SUPPORT. Mastering that ends: the commands it fails, and what fails them leaves alone (R90, R91, R99). -/

namespace Sys2Proof.Machine

/-! ### Commands that fail -/

/-- A command done with MASTER_DISABLED of area 0x02 (R90). -/
def Fetched.masterLost (f : Fetched) : Bool := f.done.any fun r => bits r.1 0 8 == 0x33 && bits r.1 24 8 == 0x02

theorem Fetched.index_finish (f : Fetched) (w n : Nat) : (f.finish w n).index = f.index := by
  unfold Fetched.finish; split <;> rfl

/-- A result once formed stays. -/
theorem Fetched.finish_of_masterLost {f : Fetched} (h : f.masterLost = true) (w n : Nat) : f.finish w n = f := by
  refine if_neg fun open_ => ?_
  rw [Fetched.masterLost, open_] at h
  cases h

theorem Dev.resultWord_masterDisabled (d : Dev) :
    bits (d.resultWord 0x33 0x02) 0 8 = 0x33 ∧ bits (d.resultWord 0x33 0x02) 24 8 = 0x02 := by
  have word : d.resultWord 0x33 0x02 = d.statusWord 0x33 0x02 := by
    unfold Dev.resultWord Dev.standing
    rw [if_neg (by decide)]
  rw [word]
  exact d.statusWord_bytes 0x33 0x02

theorem Fetched.masterLost_finish {f : Fetched} (h : f.done = none) {w : Nat} (code : bits w 0 8 = 0x33) (area : bits w 24 8 = 0x02) (n : Nat) :
    (f.finish w n).masterLost = true := by
  rw [Fetched.finish_of_none h]
  simp only [Fetched.masterLost, Option.any_some, Bool.and_eq_true, beq_iff_eq]
  exact ⟨code, area⟩

/-- Commands, by queue and index, completed with MASTER_DISABLED. -/
def Dev.failAll (d : Dev) (lost : List (Nat × Nat)) : Dev := lost.foldl (fun d k => d.complete k.1 k.2 0x33 0x02) d

/-- The commands with a host read still to issue. -/
def Dev.lostReads (d : Dev) : List (Nat × Nat) := d.queues.flatMap fun e => (e.2.inflight.filter Fetched.unissued).map fun f => (e.1, f.index)

theorem Dev.failReads_eq (d : Dev) : d.failReads = d.failAll d.lostReads := rfl

theorem Dev.lostReads_eq_nil {d : Dev} (h : ∀ e ∈ d.queues, e.2.inflight.filter Fetched.unissued = []) : d.lostReads = [] :=
  List.flatMap_eq_nil_iff.2 fun e mem => by rw [h e mem]; rfl

theorem Dev.mem_lostReads {d : Dev} {q : Nat} {f : Fetched} (mem : f ∈ (d.queue q).inflight) (h : f.unissued = true) :
    (q, f.index) ∈ d.lostReads := by
  unfold Dev.queue Tbl.getD at mem
  cases at_ : d.queues.find? q with
  | none => simp [at_] at mem
  | some x =>
    rw [at_] at mem
    exact List.mem_flatMap.2 ⟨(q, x), Tbl.mem_of_find? at_, List.mem_map.2 ⟨f, List.mem_filter.2 ⟨mem, h⟩, rfl⟩⟩

/-- A command in flight after one has completed while the device may not write host memory: itself, or itself done. -/
theorem Dev.mem_complete_held {d : Dev} (held : d.canMaster = false) {q : Nat} {f : Fetched} (mem : f ∈ (d.queue q).inflight) (k i code area : Nat) :
    (if k = q ∧ f.index = i then f.finish (d.resultWord code area) 0 else f) ∈ ((d.complete k i code area).queue q).inflight := by
  rw [Dev.complete_held held, Dev.updFetched]
  by_cases here : k = q
  · subst here
    rw [Dev.queue_setQueue_same]
    exact List.mem_map.2 ⟨f, mem, by simp⟩
  · rw [Dev.queue_setQueue_ne _ _ here, if_neg fun h => here h.1]
    exact mem

/-- While the device may not write host memory, completing commands sends nothing, and each of them that had not completed is lost. -/
theorem Dev.failAll_spec (lost : List (Nat × Nat)) : ∀ {d : Dev}, d.canMaster = false →
    (d.failAll lost).canMaster = false ∧ (d.failAll lost).sent = d.sent ∧
    ∀ q f, f ∈ (d.queue q).inflight → f.masterLost = true ∨ f.done = none ∧ (q, f.index) ∈ lost →
      ∃ g ∈ ((d.failAll lost).queue q).inflight, g.index = f.index ∧ g.masterLost = true := by
  induction lost with
  | nil => exact fun held => ⟨held, rfl, fun q f mem done => ⟨f, mem, rfl, done.resolve_right fun h => List.not_mem_nil h.2⟩⟩
  | cons k rest ih =>
    intro d held
    have first : (d.complete k.1 k.2 0x33 0x02).canMaster = false ∧ (d.complete k.1 k.2 0x33 0x02).sent = d.sent := by
      rw [Dev.complete_held held]
      exact ⟨held, rfl⟩
    obtain ⟨held', sent, fails⟩ := ih first.1
    refine ⟨held', sent.trans first.2, fun q f mem done => ?_⟩
    have after := Dev.mem_complete_held held mem k.1 k.2 0x33 0x02
    by_cases this : k.1 = q ∧ f.index = k.2
    · rw [if_pos this] at after
      have lost : (f.finish (d.resultWord 0x33 0x02) 0).masterLost = true := by
        rcases done with done | ⟨open_, -⟩
        · rw [Fetched.finish_of_masterLost done]; exact done
        · exact Fetched.masterLost_finish open_ d.resultWord_masterDisabled.1 d.resultWord_masterDisabled.2 0
      obtain ⟨g, mem', index, lost'⟩ := fails q _ after (.inl lost)
      exact ⟨g, mem', index.trans (f.index_finish _ _), lost'⟩
    · rw [if_neg this] at after
      refine fails q f after (done.imp_right fun ⟨open_, mem'⟩ => ⟨open_, (List.mem_cons.1 mem').resolve_left fun eq => this ?_⟩)
      rw [← eq]
      exact ⟨rfl, rfl⟩

/-! ### Mastering ends (R90, R99) -/

theorem Fetched.open_of_unissued {f : Fetched} (h : f.unissued = true) : f.done = none :=
  beq_iff_eq.1 ((Bool.and_eq_true _ _).mp h).1

/-- The device with mastering off and its end raised as a cause. -/
def Dev.masterEnded (d : Dev) (ep : Endpoint) (detail : Nat) : Dev := Dev.attend { d with ep } (masterDisabledCause detail)

theorem busMasterEnableClearEffect_set {d : Dev} (served : d.cfgServed = true) (on : d.ep.busMaster = true) :
    busMasterEnableClearEffect d = (d.served.masterEnded { d.served.ep with busMaster := false } 1).failReads := by
  have on' : d.served.ep.busMaster = true := on
  rw [busMasterEnableClearEffect, if_pos served, Dev.clearMaster, if_pos on']
  rfl

theorem busMasterEnableClearEffect_clear {d : Dev} (served : d.cfgServed = true) (off : d.ep.busMaster = false) :
    busMasterEnableClearEffect d = d.served := (if_pos served).trans (if_neg (ne_true_of_eq_false off))

theorem d3hotEntryEffect_d0 {d : Dev} (served : d.cfgServed = true) (on : d.ep.power = .d0) :
    d3hotEntryEffect d = (d.served.masterEnded { d.served.ep with power := .d3hot } 3).failReads := by
  have awake : d.served.ep.power ≠ .d3hot := by rw [show d.served.ep.power = .d0 from on]; decide
  rw [d3hotEntryEffect, if_pos (by rw [served, on]; rfl), Dev.enterD3, if_neg awake]
  rfl

theorem Dev.failReads_nothing {d : Dev} {ep : Endpoint} {detail : Nat} (h : ∀ e ∈ d.queues, e.2.inflight.filter Fetched.unissued = []) :
    (d.masterEnded ep detail).failReads = d.masterEnded ep detail := by
  have same : (d.masterEnded ep detail).queues = d.queues := Dev.attend_queues _ _
  rw [Dev.failReads_eq, Dev.lostReads_eq_nil (by rw [same]; exact h)]
  rfl

/-- From `d` to `e` mastering has ended: nothing has been written to the host, and every command with a host read still to issue is lost. -/
def Dev.MasteringLost (d e : Dev) : Prop :=
  e.canMaster = false ∧ (∀ a b, .hostWrite a b ∈ e.sent → .hostWrite a b ∈ d.sent) ∧
    ∀ q f, f ∈ (d.queue q).inflight → f.unissued = true → ∃ g ∈ (e.queue q).inflight, g.index = f.index ∧ g.masterLost = true

theorem Dev.masterEnded_failReads (d : Dev) {ep : Endpoint} (detail : Nat) (off : (ep.busMaster && ep.power == .d0) = false) :
    d.MasteringLost (d.masterEnded ep detail).failReads := by
  have held : (d.masterEnded ep detail).canMaster = false := by rw [Dev.canMaster, Dev.masterEnded, Dev.attend_ep]; exact off
  have queue (q : Nat) : (d.masterEnded ep detail).queue q = d.queue q := by rw [Dev.queue, Dev.masterEnded, Dev.attend_queues, Dev.queue]
  obtain ⟨held', sent, fails⟩ := Dev.failAll_spec (d.masterEnded ep detail).lostReads held
  have silent : (d.masterEnded ep detail).failReads.sent = d.sent := sent.trans (Dev.attend_sent _ _)
  refine ⟨held', fun a b mem => silent ▸ mem, fun q f mem open_ => ?_⟩
  have mem' : f ∈ ((d.masterEnded ep detail).queue q).inflight := by rw [queue]; exact mem
  exact fails q f mem' (.inr ⟨Fetched.open_of_unissued open_, Dev.mem_lostReads mem' open_⟩)

theorem settle_canMaster (d : Dev) : (settle d).canMaster = d.canMaster := by
  obtain ⟨x, n, e⟩ := settle_eq_ep d
  rw [e]; rfl

theorem settle_queue (d : Dev) (q : Nat) : (settle d).queue q = d.queue q := by rw [Dev.queue, settle_queues, Dev.queue]

theorem Dev.MasteringLost.settled {d e : Dev} (h : d.MasteringLost e) : d.MasteringLost (settle e) := by
  obtain ⟨held, writes, fails⟩ := h
  exact ⟨(settle_canMaster e).trans held, fun a b mem => writes a b (hostWrite_mem_settle mem), fun q f mem open_ => by
    rw [settle_queue]; exact fails q f mem open_⟩

/-! ### Mastering resumes (R91) -/

theorem busMasterEnableSetEffect_clear {d : Dev} (served : d.cfgServed = true) (off : d.ep.busMaster = false) : busMasterEnableSetEffect d =
    (List.range 64).foldl (fun d q => d.flushQueue q)
      { d.served with ep := { d.served.ep with busMaster := true }, held := d.held.map fun b => { b with parked := !b.ringDone } } :=
  (if_pos served).trans (if_neg (ne_true_of_eq_false off))

theorem busMasterEnableSetEffect_set {d : Dev} (served : d.cfgServed = true) (on : d.ep.busMaster = true) : busMasterEnableSetEffect d = d.served :=
  (if_pos served).trans (if_pos on)

/-- With Interrupt Disable set the wire is low. -/
theorem Dev.wireLevel_of_intDisable {d : Dev} (h : d.ep.intDisable = true) : d.wireLevel = false := by
  simp [Dev.wireLevel, h]

end Sys2Proof.Machine
end

section
/-! The statements on mastering, settled (R84, R90 to R92, R99). -/

namespace Sys2Proof.HostFamily
open Sys2Proof.Machine Sys2Proof.Safety

/-- Settles O19: mastering that ends raises its cause, and fails the commands with a host read still to issue. -/
theorem masteringEnds : Obligations.MasteringEnds := by
  refine ⟨fun s h served => ⟨fun off => leads_of rfl h (busMasterEnableClearEffect_clear served off), fun on none_ => leads_of rfl h ?_⟩,
    fun s h served on none_ => leads_of rfl h ?_, fun c s which h served => ?_⟩
  · exact (busMasterEnableClearEffect_set served on).trans (Dev.failReads_nothing none_)
  · exact (d3hotEntryEffect_d0 served on).trans (Dev.failReads_nothing none_)
  · rcases which with ⟨rfl, on⟩ | ⟨rfl, on⟩
    · refine yields_of (P := s.dev.MasteringLost) rfl h ?_
      rw [busMasterEnableClearEffect_set served on]
      exact (s.dev.served.masterEnded_failReads 1 rfl).settled
    · refine yields_of (P := s.dev.MasteringLost) rfl h ?_
      rw [d3hotEntryEffect_d0 served on]
      exact (s.dev.served.masterEnded_failReads 3 (Bool.and_false _)).settled

/-- Settles O20, by whether mastering was off, and by the bit each command sets. -/
theorem masteringResumes : Obligations.MasteringResumes := by
  refine ⟨fun s h served => ⟨fun on => leads_of rfl h (busMasterEnableSetEffect_set served on),
      fun off => leads_of rfl h (busMasterEnableSetEffect_clear served off)⟩,
    fun s h served => ⟨leads_of rfl h (if_pos served), yields_of rfl h ?_⟩, fun c which s runs unserved => ?_⟩
  · rw [settle_intaWire]
    exact Dev.wireLevel_of_intDisable (by rw [interruptDisableSetEffect, if_pos served])
  · have idle : ¬s.dev.cfgServed = true := ne_true_of_eq_false unserved
    have idle' (b : Bool) : ¬(s.dev.cfgServed && b) = true := by rw [unserved]; exact Bool.false_ne_true
    simp only [List.mem_cons, List.not_mem_nil, or_false] at which
    rcases which with rfl | rfl | rfl | rfl | rfl | rfl
    · exact leads_of rfl ⟨rfl, runs⟩ (if_neg idle)
    · exact leads_of rfl ⟨rfl, runs⟩ (if_neg idle)
    · exact leads_of rfl ⟨rfl, runs⟩ (if_neg idle)
    · exact leads_of rfl ⟨rfl, runs⟩ (if_neg (idle' _))
    · exact leads_of rfl ⟨rfl, runs⟩ (if_neg (idle' _))
    · exact leads_of rfl ⟨rfl, runs⟩ (if_neg idle)

end Sys2Proof.HostFamily
end

section
/-! SUPPORT. Fundamental reset and power: what notices of a reset change, and what a device at its defaults keeps (R94, R97, R525, R569). -/

namespace Sys2Proof.Machine

/-! ### The wire with every interrupt masked (R92) -/

theorem Dev.wireLevel_of_masked {d : Dev} (h : d.ep.intEnable = 0) : d.wireLevel = false := by
  simp [Dev.wireLevel, Dev.irqPending, h]

/-- With every interrupt masked a wire that is low stays low. -/
theorem settle_of_masked {d : Dev} (masked : d.ep.intEnable = 0) (low : d.ep.intaWire = false) : settle d = d :=
  settle_of_level ((Dev.wireLevel_of_masked masked).trans low.symm)

/-! ### Notices of a reset (R525) -/

/-- `e` is `d` but for fields of objects, Coupling ports and what was sent, and nothing more was written to the host. -/
def Dev.Told (d e : Dev) : Prop :=
  (∃ r n c, e = { d with regs := r, sent := n, coup := c }) ∧ ∀ a b, .hostWrite a b ∈ e.sent → .hostWrite a b ∈ d.sent

theorem Dev.Told.refl (d : Dev) : d.Told d := ⟨⟨_, _, _, rfl⟩, fun _ _ mem => mem⟩

theorem Dev.Told.trans {a b c : Dev} (h : a.Told b) (k : b.Told c) : a.Told c := by
  obtain ⟨⟨r, n, x, rfl⟩, writes⟩ := h
  obtain ⟨⟨r', n', x', rfl⟩, writes'⟩ := k
  exact ⟨⟨r', n', x', rfl⟩, fun p q mem => writes p q (writes' p q mem)⟩

theorem Dev.noticeSent_told (d : Dev) (p : Nat) : d.Told (d.noticeSent p) := by
  unfold Dev.noticeSent
  split
  · exact ⟨⟨_, _, _, rfl⟩, fun a b mem => (List.mem_cons.1 mem).resolve_left (by rintro ⟨⟩)⟩
  · exact .refl d

theorem Dev.sendNotices_told (d : Dev) : d.Told d.sendNotices := by
  rw [Dev.sendNotices_eq]
  exact List.foldlRecOn _ _ (Dev.Told.refl d) fun e told p _ => told.trans (e.noticeSent_told p)

theorem Dev.dropWire_told (d : Dev) : d.Told d.dropWire := by
  unfold Dev.dropWire
  split
  · exact ⟨⟨_, _, _, rfl⟩, fun a b mem => (List.mem_cons.1 mem).resolve_left (by rintro ⟨⟩)⟩
  · exact .refl d

/-! ### A device at its defaults (R97) -/

theorem Boot.settled_of_idle {b : Boot} (h : b.job = none) (copy : Nat) : b.settled copy = b := by
  rw [Boot.settled, h]

theorem Dev.rd_fresh0 (d : Dev) (r : Reg) (i : Nat) : d.fresh0.rd r i = r.obj.dfltAt r.off := rfl

/-- Memory is lost: unlisted bytes read a free value that none read before (R97). -/
theorem Dev.fresh0_memFree_ne (d : Dev) : d.fresh0.memFree ≠ d.memFree := by
  unfold Dev.fresh0
  cases h : d.memFree <;> simp

/-- The device that a fundamental reset starts from: every block at its defaults, the other devices told, the wire low. -/
def Dev.restarted (d : Dev) : Dev := d.sendNotices.dropWire.fresh0

/-- What a fundamental reset leaves: the island's own state and the straps, on the device at its defaults (R97, R569). -/
theorem fundamentalResetEffect_eq (d : Dev) : ∃ tap dio, fundamentalResetEffect d =
    Dev.wr { d.restarted with now := d.now, pwrgood := true, perstLow := false, tap, dio } Reg.pinsStraps 0 (d.rd Reg.pinsStraps) := by
  obtain ⟨⟨r, n, c, eq⟩, -⟩ := d.sendNotices_told.trans (Dev.dropWire_told _)
  have now : d.sendNotices.dropWire.now = d.now := by rw [eq]
  rw [← now]
  exact ⟨_, _, rfl⟩

/-- What the notices keep, the device at its defaults keeps: the trip latch, the flash, and the free values memory takes. -/
theorem Dev.restarted_spec (d : Dev) : d.restarted.pw = { tripped := d.pw.tripped } ∧ d.restarted.ledger.half0 = d.ledger.half0 ∧
    d.restarted.ledger.half1 = d.ledger.half1 ∧ (d.boot.job = none → d.restarted.boot.copy0 = d.boot.copy0 ∧
      d.restarted.boot.copy1 = d.boot.copy1 ∧ d.restarted.boot.slotA = d.boot.slotA ∧ d.restarted.boot.slotB = d.boot.slotB) ∧
    d.restarted.memFree ≠ d.memFree := by
  obtain ⟨⟨r, n, c, eq⟩, -⟩ := d.sendNotices_told.trans (Dev.dropWire_told _)
  have lost := Dev.fresh0_memFree_ne d.sendNotices.dropWire
  unfold Dev.restarted
  rw [eq] at lost ⊢
  refine ⟨rfl, rfl, rfl, fun idle => ?_, lost⟩
  rw [Dev.fresh0, Boot.settled_of_idle idle]
  exact ⟨rfl, rfl, rfl, rfl⟩

end Sys2Proof.Machine
end

section
/-! The statement on fundamental reset and power, settled (R94, R97, R509, R569, R570). -/

namespace Sys2Proof.HostFamily
open Sys2Proof.Machine Sys2Proof.Safety

/-- Settles O25: each event of the rails leaves the device at its defaults but for what its effect puts back, and the wire is low. -/
theorem fundamentalReset : Obligations.FundamentalReset := by
  refine ⟨fun s h => yields_of rfl h ?reset,
    fun s a b h => ⟨fun off => leads_of rfl h (if_neg (ne_true_of_eq_false off)), fun on => leads_of rfl h (if_pos on)⟩,
    fun s => ⟨fun h on => yields_of rfl h ?fall, fun h => yields_of rfl h ?removal⟩⟩
  case reset =>
    obtain ⟨pw, half0, half1, boot, memFree⟩ := s.dev.restarted_spec
    obtain ⟨tap, dio, eff⟩ := fundamentalResetEffect_eq s.dev
    rw [eff, settle_of_masked rfl rfl]
    refine ⟨fun r i other => ?_, Dev.rd_wr_same _ _ _ _, rfl, rfl, rfl, rfl, rfl, rfl, rfl, rfl, pw, half0, half1, boot, rfl, memFree, rfl, rfl,
      rfl, rfl⟩
    rw [Dev.rd_wr, if_neg fun same => other ⟨same.1.symm, same.2.symm⟩]
    exact Dev.rd_fresh0 s.dev.sendNotices.dropWire r i
  case fall =>
    rw [show pwrgoodFallEffect s.dev = s.dev.fresh0 from if_pos on, settle_of_masked rfl rfl]
    exact ⟨rfl, rfl, rfl, rfl, rfl, rfl⟩
  case removal =>
    rw [settle_of_masked rfl rfl]
    exact ⟨rfl, rfl, rfl, rfl, rfl⟩

end Sys2Proof.HostFamily
end

section
/-! SUPPORT. Hot and function-level reset: what each part of one changes, and the fields it puts back (R57, R90, R97, R100, R598). -/

namespace Sys2Proof.Machine

/-! ### Fields put back -/

theorem Tbl.find?_filter {κ α : Type} [DecidableEq κ] (t : Tbl κ α) (p : κ → Bool) (k : κ) :
    Tbl.find? (t.filter fun e => p e.1) k = if p k then t.find? k else none := by
  induction t with
  | nil => simp
  | cons e t ih =>
    by_cases same : e.1 = k
    · subst same
      cases keep : p e.1 <;> simp [Tbl.find?, keep, ih]
    · cases keep : p e.1 <;> simp [Tbl.find?, keep, ih, same]

/-- A field reads as before where it is kept, and its default where it is not. -/
theorem Dev.rd_filter (d : Dev) (p : RegKey → Bool) (r : Reg) (i : Nat) :
    ({ d with regs := d.regs.filter fun e => p e.1 } : Dev).rd r i = if p ⟨r.obj, i, r.off⟩ then d.rd r i else r.obj.dfltAt r.off := by
  simp only [Dev.rd, Tbl.getD, Tbl.find?_filter]
  split <;> rfl

theorem Dev.rd_clearObj (d : Dev) (o : Obj) (r : Reg) (i : Nat) :
    (d.clearObj o).rd r i = if r.obj = o then r.obj.dfltAt r.off else d.rd r i := by
  rw [Dev.clearObj, d.rd_filter fun k => !(k.obj == o)]
  by_cases h : r.obj = o <;> simp [h]

/-- Objects cleared read their defaults, and every other field as before. -/
theorem Dev.foldl_clearObj (os : List Obj) : ∀ d : Dev, (∃ g, os.foldl Dev.clearObj d = { d with regs := g }) ∧
    ∀ r i, (os.foldl Dev.clearObj d).rd r i = if r.obj ∈ os then r.obj.dfltAt r.off else d.rd r i := by
  induction os with
  | nil => exact fun d => ⟨⟨_, rfl⟩, fun r i => by simp⟩
  | cons o os ih =>
    intro d
    obtain ⟨⟨g, eq⟩, rd⟩ := ih (d.clearObj o)
    refine ⟨⟨g, eq⟩, fun r i => (rd r i).trans ?_⟩
    rw [Dev.rd_clearObj]
    by_cases here : r.obj = o <;> by_cases later : r.obj ∈ os <;> simp [here, later]

/-! ### Configuration space (R90, R97) -/

/-- The endpoint once configuration space has been reset. -/
def Dev.configReset (d : Dev) (kind : Nat) : Endpoint :=
  let cfg : Tbl Nat Nat := if kind = resetHot then d.ep.cfg.filter fun e => stickyKey e.1
    else Tbl.put (d.ep.cfg.filter fun (e : Nat × Nat) => functionKey e.1) 5 (0x2000 + 32 * payloadSize d.ep.cfg)
  { d.ep with busMaster := false, memorySpace := false, intDisable := false, power := .d0, answered := false, cfg,
              linkTrained := d.ep.linkTrained && kind != resetHot }

theorem Dev.resetConfig_eq (d : Dev) (kind : Nat) : d.resetConfig kind =
    if d.ep.busMaster && kind != resetHot then Dev.attend { d with ep := d.configReset kind } (masterDisabledCause 1)
    else { d with ep := d.configReset kind } := rfl

theorem Dev.resetConfig_noted (d : Dev) (kind : Nat) : Dev.Noted { d with ep := d.configReset kind } (d.resetConfig kind) := by
  rw [Dev.resetConfig_eq]
  split
  · exact Dev.attend_noted _ _
  · exact .refl _

theorem Dev.rd_resetConfig (d : Dev) (kind : Nat) (r : Reg) (i : Nat) (n : r.obj.ofAttention = false) : (d.resetConfig kind).rd r i = d.rd r i := by
  rw [Dev.resetConfig_eq]
  split
  · exact Dev.rd_attend _ _ r i n
  · exact Dev.rd_of_regs rfl r i

/-- A function-level reset raises nothing where mastering was off. -/
theorem Dev.resetConfig_attention {d : Dev} {kind : Nat} (off : d.ep.busMaster = false) : (d.resetConfig kind).attention = d.attention := by
  rw [Dev.resetConfig_eq, off]; rfl

/-! ### Attention and the logs (R57, R96) -/

/-- The device with attention state and the logs cleared, before the link's loss is recorded. -/
theorem Dev.clearAttention_spec (d : Dev) : (∃ g m, d.clearAttention =
      { d with attention := 0, logWrapped := false, lp := { d.lp with logWrapped := false }, mailboxes := m, regs := g }) ∧
    ∀ r i, d.clearAttention.rd r i = if r.obj ∈ hotObjects then r.obj.dfltAt r.off else d.rd r i := by
  obtain ⟨⟨g, eq⟩, rd⟩ := Dev.foldl_clearObj hotObjects
    { d with attention := 0, logWrapped := false, lp := { d.lp with logWrapped := false }, mailboxes := d.mailboxes.map fun e => (e.1, { e.2 with mirror := 0 }) }
  exact ⟨⟨g, _, eq⟩, rd⟩

/-- LINK_DOWN as the log's first cause (R96). -/
def linkDownCause : Cause := { bit := Bit.link, code := 0x32, area := 0x02 }

theorem Dev.linkDownFirst_none {d : Dev} (h : d.ep.linkDownPending = false) : d.linkDownFirst = d := if_neg (ne_true_of_eq_false h)

/-- While the link is down its loss stays to be recorded. -/
theorem Dev.linkDownFirst_down {d : Dev} (h : d.ep.linkDownPending = true) (down : d.ep.linkTrained = false) :
    d.linkDownFirst = d.attend linkDownCause := by
  have stays : (!d.ep.linkTrained) = d.ep.linkDownPending := by rw [h, down]; rfl
  rw [Dev.linkDownFirst, if_pos h, stays]; rfl

theorem Dev.linkDownFirst_noted {d : Dev} (down : d.ep.linkTrained = false) : d.Noted d.linkDownFirst := by
  cases h : d.ep.linkDownPending with
  | false => rw [Dev.linkDownFirst_none h]; exact .refl d
  | true => rw [Dev.linkDownFirst_down h down]; exact d.attend_noted _

theorem Dev.rd_linkDownFirst {d : Dev} (down : d.ep.linkTrained = false) (r : Reg) (i : Nat) (n : r.obj.ofAttention = false) :
    d.linkDownFirst.rd r i = d.rd r i := by
  cases h : d.ep.linkDownPending with
  | false => rw [Dev.linkDownFirst_none h]
  | true => rw [Dev.linkDownFirst_down h down]; exact d.rd_attend _ r i n

/-- An event of a log that is empty is its first entry. -/
theorem Dev.attend_empty {d : Dev} {c : Cause} (head : d.rd Reg.dictionaryAttentionLogHead = 0) (wrapped : d.logWrapped = false) :
    d.attend c = d.record c := by
  have room : d.logFull = false := by simp [Dev.logFull, head, wrapped, overwrites]
  simp [Dev.attend, room]

/-! ### Reports (R100) -/

theorem Dev.reportQueue_regs (d : Dev) (kind q : Nat) : ∃ g, d.reportQueue kind q = { d with regs := g } := by
  unfold Dev.reportQueue
  split
  · exact ⟨_, rfl⟩
  · exact ⟨_, rfl⟩

theorem Dev.rd_reportQueue_ne (d : Dev) (kind q : Nat) (r : Reg) (i : Nat) (n : r.obj ≠ .hostQueueResetReport ∨ q ≠ i) :
    (d.reportQueue kind q).rd r i = d.rd r i := by
  have miss (off : Nat) : ¬((⟨.hostQueueResetReport, off⟩ : Reg) = r ∧ q = i) := by
    rintro ⟨rfl, same⟩
    exact n.elim (· rfl) (· same)
  unfold Dev.reportQueue
  split
  · rfl
  · simp only [Dev.rd_wr, miss, if_false]

/-- The report of a queue: the first of the commands fetched and not completed, their count, RESET_DISCARDED, and the reset. -/
def Dev.ReportStands (d : Dev) (kind sequence q first count : Nat) : Prop :=
  d.rd Reg.hostQueueResetReport_first q = first ∧ d.rd Reg.hostQueueResetReport_count q = count ∧
    bits (d.rd Reg.hostQueueResetReport_status q) 0 8 = 0x82 ∧ bits (d.rd Reg.hostQueueResetReport_status q) 24 8 = 0x02 ∧
    d.rd Reg.hostQueueResetReport_kind q = kind ∧ d.rd Reg.hostQueueResetReport_sequence q = sequence

theorem Dev.ReportStands.congr {d e : Dev} {kind sequence q first count : Nat} (h : d.ReportStands kind sequence q first count)
    (rd : ∀ off, e.rd ⟨.hostQueueResetReport, off⟩ q = d.rd ⟨.hostQueueResetReport, off⟩ q) : e.ReportStands kind sequence q first count := by
  unfold Dev.ReportStands
  rw [rd, rd, rd, rd, rd]
  exact h

theorem Dev.reportQueue_stands {d : Dev} {q : Nat} {f : Fetched} {fs : List Fetched} (at_ : (d.queue q).inflight = f :: fs) (kind : Nat) :
    (d.reportQueue kind q).ReportStands kind d.ep.resetSequence q f.index (fs.length + 1) := by
  obtain ⟨code, area⟩ := Dev.statusWord_bytes
    ((d.wr Reg.hostQueueResetReport_first q f.index).wr Reg.hostQueueResetReport_count q (fs.length + 1)) 0x82 0x02
  simp only [Dev.reportQueue, at_, Dev.ReportStands]
  simp only [Dev.rd_wr]
  simp [code, area]

/-- The reports of all queues. -/
def Dev.reportAll (d : Dev) (kind : Nat) : Dev := (List.range 64).foldl (fun d q => d.reportQueue kind q) d

theorem Dev.foldl_reportQueue_regs (kind : Nat) (l : List Nat) : ∀ d : Dev, ∃ g, l.foldl (fun d q => d.reportQueue kind q) d = { d with regs := g } := by
  induction l with
  | nil => exact fun d => ⟨_, rfl⟩
  | cons q l ih =>
    intro d
    obtain ⟨g, eq⟩ := d.reportQueue_regs kind q
    obtain ⟨g', eq'⟩ := ih (d.reportQueue kind q)
    exact ⟨g', eq'.trans (by rw [eq])⟩

theorem Dev.rd_foldl_reportQueue_ne (kind : Nat) (r : Reg) (i : Nat) (l : List Nat) : r.obj ≠ .hostQueueResetReport ∨ i ∉ l → ∀ d : Dev,
    (l.foldl (fun d q => d.reportQueue kind q) d).rd r i = d.rd r i := by
  induction l with
  | nil => exact fun _ d => rfl
  | cons q l ih =>
    intro n d
    refine (ih (n.imp_right fun h mem => h (List.mem_cons_of_mem _ mem)) _).trans (d.rd_reportQueue_ne kind q r i (n.imp_right ?_))
    rintro h rfl
    exact h List.mem_cons_self

theorem Dev.foldl_reportQueue_stands (kind : Nat) {q : Nat} {f : Fetched} {fs : List Fetched} (l : List Nat) : q ∈ l → ∀ d : Dev,
    (d.queue q).inflight = f :: fs →
      (l.foldl (fun d q => d.reportQueue kind q) d).ReportStands kind d.ep.resetSequence q f.index (fs.length + 1) := by
  induction l with
  | nil => exact fun h => absurd h List.not_mem_nil
  | cons k l ih =>
    intro mem d at_
    by_cases later : q ∈ l
    · obtain ⟨g, eq⟩ := d.reportQueue_regs kind k
      have at' : ((d.reportQueue kind k).queue q).inflight = f :: fs := by rw [eq]; exact at_
      have ep : (d.reportQueue kind k).ep = d.ep := by rw [eq]
      have stands := ih later _ at'
      rw [ep] at stands
      exact stands
    · obtain rfl := (List.mem_cons.1 mem).resolve_right later
      exact (Dev.reportQueue_stands at_ kind).congr fun off => Dev.rd_foldl_reportQueue_ne kind _ q l (.inr later) _

/-! ### Blocks torn down (R97, R458, R598) -/

/-- Memory is undefined: unlisted bytes read a free value that none read before (R598). -/
theorem Dev.tearDown_memFree_ne (d : Dev) : d.tearDown.memFree ≠ d.memFree ∧ d.tearDown.memFree ≠ none := by
  unfold Dev.tearDown
  cases h : d.memFree <;> simp

/-- What tearing the blocks down depends on of the fields of objects is their fields alone. -/
theorem Dev.tearDown_setRegs (d : Dev) (g : Tbl RegKey Nat) : ∃ g', Dev.tearDown { d with regs := g } = { d.tearDown with regs := g' } := ⟨_, rfl⟩

theorem Dev.rd_tearDown_ne (d : Dev) (r : Reg) (i : Nat) (kept : r.obj ∉ tornObjects) (idle : r ∉ busyFlags) : d.tearDown.rd r i = d.rd r i := by
  have eq : d.tearDown.rd r i = ({ d with regs := d.regs.filter fun e => !(tornObjects.contains e.1.obj || busyFlags.contains ⟨e.1.obj, e.1.off⟩) } : Dev).rd r i :=
    Dev.rd_of_regs rfl r i
  rw [eq, d.rd_filter fun k => !(tornObjects.contains k.obj || busyFlags.contains ⟨k.obj, k.off⟩), if_pos]
  simp only [Bool.not_eq_true', Bool.or_eq_false_iff, List.contains_eq_mem, decide_eq_false_iff_not]
  exact ⟨kept, idle⟩

/-! ### Block values (R105, R598) -/

theorem Dev.applyStations_spec (d : Dev) : (∃ g, d.applyStations = { d with regs := g }) ∧
    ∀ r i, r.obj ≠ .junctionPortConfig → d.applyStations.rd r i = d.rd r i := by
  unfold Dev.applyStations
  split
  · exact ⟨⟨_, rfl⟩, fun _ _ _ => rfl⟩
  · refine List.foldlRecOn (motive := fun e => (∃ g, e = { d with regs := g }) ∧ ∀ r i, r.obj ≠ .junctionPortConfig → e.rd r i = d.rd r i)
      _ _ ⟨⟨_, rfl⟩, fun _ _ _ => rfl⟩ fun e kept x _ => ?_
    obtain ⟨⟨g, rfl⟩, rd⟩ := kept
    exact ⟨⟨_, rfl⟩, fun r i n => (Dev.rd_wr_obj_ne _ _ _ _ n.symm _ _).trans (rd r i n)⟩

/-- With an empty list of values the blocks' objects are back at their defaults, but for the ports' station addresses. -/
theorem Dev.applyBlockValues_spec {d : Dev} (h : d.valueList = []) : (∃ g, d.applyBlockValues = { d with regs := g }) ∧
    ∀ r i, r.obj ≠ .junctionPortConfig →
      d.applyBlockValues.rd r i = if resetObject r.obj then r.obj.dfltAt r.off else d.rd r i := by
  have eq : d.applyBlockValues = Dev.applyStations { d with regs := d.regs.filter fun e => !resetObject e.1.obj } := by
    have list : Dev.valueList { d with regs := d.regs.filter fun e => !resetObject e.1.obj } = [] := h
    rw [Dev.applyBlockValues, list]; rfl
  obtain ⟨⟨g, stations⟩, rd⟩ := Dev.applyStations_spec { d with regs := d.regs.filter fun e => !resetObject e.1.obj }
  rw [eq]
  refine ⟨⟨g, stations⟩, fun r i n => (rd r i n).trans ?_⟩
  rw [d.rd_filter fun k => !resetObject k.obj]
  cases resetObject r.obj <;> rfl

theorem Dev.safeLines_dio (d : Dev) : ∃ x, d.safeLines = { d with dio := x } := by
  unfold Dev.safeLines
  have start : ∃ x, d = { d with dio := x } := ⟨d.dio, rfl⟩
  refine List.foldlRecOn (motive := fun e => ∃ x, e = { d with dio := x }) _ _ start fun e kept k _ => ?_
  obtain ⟨x, rfl⟩ := kept
  exact ⟨_, rfl⟩

end Sys2Proof.Machine
end

section
/-! SUPPORT. A whole reset: what a hot or function-level reset leaves of the endpoint, the blocks, memory and the objects (R57, R90, R96 to
R100, R593, R598). -/

namespace Sys2Proof.Machine

/-! ### The parts of a reset -/

/-- The device once the other devices are told and, by a hot reset, attention and the logs are cleared. -/
def Dev.logsReset (d : Dev) (kind : Nat) : Dev :=
  if kind = resetHot then d.sendNotices.clearAttention.linkDownFirst else d.sendNotices

/-- The device once its queues are reported and its blocks are at their block values. -/
def Dev.blocksReset (d : Dev) (kind : Nat) : Dev := ((d.resetEndpoint kind).reportAll kind).dropJob.tearDown.applyBlockValues.safeLines

theorem Dev.boot_resetConfig (d : Dev) (kind : Nat) : (d.resetConfig kind).boot = d.boot := by
  obtain ⟨f, g, a, w, eq⟩ := d.resetConfig_noted kind
  rw [eq]

theorem Dev.reset_eq {d : Dev} (h : d.boot.switching = none) (kind : Nat) :
    d.reset kind = ((d.resetConfig kind).logsReset kind).blocksReset kind := by
  simp only [Dev.reset, Dev.boot_resetConfig, h]
  rfl

/-- During a firmware switch a reset of configuration space alone is made, and the rest is held (R593). -/
theorem Dev.reset_switching {d : Dev} (h : d.boot.switching.isSome = true) (kind : Nat) : ∃ k, d.reset kind =
    { d.resetConfig kind with boot := { d.boot with heldReset := some k } } := by
  obtain ⟨x, some_⟩ := Option.isSome_iff_exists.1 h
  simp only [Dev.reset, Dev.boot_resetConfig, some_]
  exact ⟨_, rfl⟩

/-! ### Notices and logs -/

/-- The mark that the LPDDR6 log's head has wrapped goes with the log that a hot reset clears (R473). -/
def Lpddr.logReset (l : Lpddr) (kind : Nat) : Lpddr := { l with logWrapped := kind != resetHot && l.logWrapped }

/-- What notices and the clearing of the logs change, and what a hot reset leaves of fields outside the attention log. -/
theorem Dev.logsReset_spec {d : Dev} {kind : Nat} (down : kind = resetHot → d.ep.linkTrained = false) :
    (∃ f g a w n c m, d.logsReset kind =
      { d with free := f, regs := g, attention := a, logWrapped := w, sent := n, coup := c, mailboxes := m, lp := d.lp.logReset kind }) ∧
    (∀ a b, .hostWrite a b ∈ (d.logsReset kind).sent → .hostWrite a b ∈ d.sent) ∧
    (kind ≠ resetHot → (d.logsReset kind).attention = d.attention) ∧
    ∀ r i, r.obj.ofAttention = false → r.obj ≠ .couplingPortState →
      (d.logsReset kind).rd r i = if kind = resetHot ∧ r.obj ∈ hotObjects then r.obj.dfltAt r.off else d.rd r i := by
  obtain ⟨⟨g, n, c, told⟩, writes⟩ := d.sendNotices_told
  obtain ⟨-, -, rd⟩ := d.sendNotices_frame
  by_cases hot : kind = resetHot
  · subst hot
    obtain ⟨⟨g', m, cleared⟩, rd'⟩ := d.sendNotices.clearAttention_spec
    have down' : d.sendNotices.clearAttention.ep.linkTrained = false := by rw [cleared, told]; exact down rfl
    have noted := Dev.linkDownFirst_noted down'
    have sent : d.sendNotices.clearAttention.linkDownFirst.sent = d.sendNotices.sent := by rw [noted.sent, cleared]
    rw [show d.logsReset resetHot = d.sendNotices.clearAttention.linkDownFirst from if_pos rfl]
    simp only [true_and]
    refine ⟨?_, fun a b mem => writes a b (sent ▸ mem), fun other => absurd rfl other, fun r i quiet port => ?_⟩
    · obtain ⟨f, g'', a, w, eq⟩ := noted
      rw [eq, cleared, told]
      exact ⟨_, _, _, _, _, _, _, rfl⟩
    · rw [Dev.rd_linkDownFirst down' r i quiet, rd', rd r i port]
  · rw [show d.logsReset kind = d.sendNotices from if_neg hot]
    simp only [hot, false_and, if_false]
    refine ⟨?_, writes, fun _ => by rw [told], fun r i _ port => rd r i port⟩
    have same : d.lp.logReset kind = d.lp := by rw [Lpddr.logReset, bne_iff_ne.2 hot]; rfl
    rw [told, same]
    exact ⟨_, _, _, _, _, _, _, rfl⟩

/-! ### Blocks -/

/-- Objects whose fields move by name where blocks are reset, whatever their area. -/
def movedWithBlocks : List Obj := [.junctionPortConfig, .hostQueueResetReport] ++ tornObjects ++ busyFlags.map Reg.obj

theorem Dev.dropJob_none {d : Dev} (h : d.boot.job = none) : d.dropJob = d := by rw [Dev.dropJob, h]

theorem Dev.rd_setDio (d : Dev) (x : Tbl Nat DioLine) (r : Reg) (i : Nat) : ({ d with dio := x } : Dev).rd r i = d.rd r i := rfl

section
variable {d : Dev} {kind : Nat} (job : d.boot.job = none) (list : d.valueList = [])
include job list

/-- Beside the blocks torn down, only fields of objects and the discrete lines change. -/
theorem Dev.blocksReset_frame : ∃ g x, d.blocksReset kind = { (d.resetEndpoint kind).tearDown with regs := g, dio := x } := by
  obtain ⟨g, reports⟩ := Dev.foldl_reportQueue_regs kind (List.range 64) (d.resetEndpoint kind)
  have idle : ((d.resetEndpoint kind).reportAll kind).dropJob = { d.resetEndpoint kind with regs := g } :=
    (Dev.dropJob_none (by rw [Dev.reportAll, reports]; exact job)).trans reports
  obtain ⟨g', torn⟩ := (d.resetEndpoint kind).tearDown_setRegs g
  have list' : ({ (d.resetEndpoint kind).tearDown with regs := g' } : Dev).valueList = [] := list
  obtain ⟨⟨g'', values⟩, -⟩ := Dev.applyBlockValues_spec list'
  unfold Dev.blocksReset
  rw [idle, torn, values]
  obtain ⟨x, lines⟩ := Dev.safeLines_dio { (d.resetEndpoint kind).tearDown with regs := g'' }
  exact ⟨g'', x, lines⟩

/-- A field reads its block value, or what it read once the queues were reported. -/
theorem Dev.rd_blocksReset (r : Reg) (i : Nat) (stations : r.obj ≠ .junctionPortConfig) :
    (resetObject r.obj = true → (d.blocksReset kind).rd r i = r.obj.dfltAt r.off) ∧
    (resetObject r.obj = false → r.obj ∉ tornObjects → r ∉ busyFlags →
      (d.blocksReset kind).rd r i = ((d.resetEndpoint kind).reportAll kind).rd r i) := by
  obtain ⟨g, reports⟩ := Dev.foldl_reportQueue_regs kind (List.range 64) (d.resetEndpoint kind)
  have reports' : (d.resetEndpoint kind).reportAll kind = { d.resetEndpoint kind with regs := g } := reports
  have idle : ((d.resetEndpoint kind).reportAll kind).dropJob = (d.resetEndpoint kind).reportAll kind :=
    Dev.dropJob_none (by rw [reports']; exact job)
  have list' : ((d.resetEndpoint kind).reportAll kind).tearDown.valueList = [] := by rw [reports']; exact list
  obtain ⟨-, rd⟩ := Dev.applyBlockValues_spec list'
  obtain ⟨x, lines⟩ := Dev.safeLines_dio ((d.resetEndpoint kind).reportAll kind).tearDown.applyBlockValues
  have values : (d.blocksReset kind).rd r i =
      if resetObject r.obj then r.obj.dfltAt r.off else ((d.resetEndpoint kind).reportAll kind).tearDown.rd r i := by
    unfold Dev.blocksReset
    rw [idle, lines, Dev.rd_setDio, rd r i stations]
  refine ⟨fun block => values.trans (if_pos block), fun other kept still => values.trans ?_⟩
  exact (if_neg (ne_true_of_eq_false other)).trans (Dev.rd_tearDown_ne _ r i kept still)

/-- A field that the blocks do not move reads as before. -/
theorem Dev.rd_blocksReset_kept {r : Reg} (i : Nat) (fixed : r.obj ∉ movedWithBlocks) (other : resetObject r.obj = false) :
    (d.blocksReset kind).rd r i = d.rd r i := by
  have parts : (r.obj ≠ .junctionPortConfig ∧ r.obj ≠ .hostQueueResetReport) ∧ r.obj ∉ tornObjects ∧ r.obj ∉ busyFlags.map Reg.obj := by
    simp only [movedWithBlocks, List.mem_append, List.mem_cons, not_or] at fixed
    tauto
  obtain ⟨⟨stations, report⟩, kept, still⟩ := parts
  rw [(Dev.rd_blocksReset job list r i stations).2 other kept fun mem => still (List.mem_map_of_mem mem), Dev.reportAll,
    Dev.rd_foldl_reportQueue_ne kind r i _ (.inl report)]
  exact Dev.rd_of_regs rfl r i

end

end Sys2Proof.Machine
end

section
/-! SUPPORT. A whole reset, by what it leaves: the endpoint, the blocks, memory, the objects, attention and the reports (R57, R90, R96 to
R100, R598). -/

namespace Sys2Proof.Machine

/-- With every interrupt masked the wire settles low. -/
theorem settle_masked {d : Dev} (h : d.ep.intEnable = 0) : ∃ n, settle d = { d with ep := { d.ep with intaWire := false }, sent := n } := by
  obtain ⟨x, n, eq⟩ := settle_eq_ep d
  have low := (settle_intaWire d).trans (Dev.wireLevel_of_masked h)
  rw [eq] at low ⊢
  obtain rfl : x = false := low
  exact ⟨n, rfl⟩

/-- What a reset leaves of the endpoint, `down` being whether LINK_DOWN stays to be recorded. -/
def Dev.EndpointReset (d : Dev) (down : Bool) (kind : Nat) (e : Dev) : Prop :=
  e.ep.busMaster = false ∧ e.ep.memorySpace = false ∧ e.ep.intDisable = false ∧ e.ep.power = .d0 ∧ e.ep.intEnable = 0 ∧
    e.ep.genSeen = 0 ∧ e.ep.mailboxPending = false ∧ e.ep.intaWire = false ∧ e.ep.lastReset = kind ∧
    e.ep.resetSequence = (d.ep.resetSequence + 1) % 65536 ∧ e.ep.firmwareReady = d.ep.firmwareReady ∧
    e.ep.selftestDone = d.ep.selftestDone ∧ e.ep.memoryReady = d.ep.memoryReady ∧ e.ep.linkDownPending = down

/-- What a reset leaves of the blocks. -/
def Dev.BlocksGone (d e : Dev) : Prop :=
  e.queues = [] ∧ e.streams = [] ∧ e.clips = [] ∧ e.trackSets = [] ∧ e.pools = [] ∧ e.held = [] ∧ e.waiters = [] ∧ e.frames = [] ∧
    e.handedUnits = [] ∧ e.contexts = d.contexts.filter (fun x => x.1 == 0)

/-- What a reset leaves of memory and of what lies beside the blocks. -/
def Dev.MemoryUndefined (d : Dev) (kind : Nat) (e : Dev) : Prop :=
  e.mem = [] ∧ e.memFree ≠ d.memFree ∧ e.memFree ≠ none ∧ e.poison = d.poison ∧ e.lp = d.lp.logReset kind ∧ e.pw = d.pw ∧
    e.ledger = d.ledger ∧ e.boot = d.boot

/-- Objects whose fields a reset moves by name, whatever their area. -/
def movedByReset : List Obj :=
  [.dictionaryAttentionLog, .dictionaryAttentionCause, .dictionaryAttentionLogHead, .couplingPortState] ++ movedWithBlocks

/-- Settable objects of the areas that go on through a reset are moved by none of its parts, but for the read pointer of the LPDDR6 log. -/
theorem Obj.fixed_of_kept {o : Obj} (settable : o.info.access = .rw ∨ o.info.access = .rws) (area : o.area ∈ [0x15, 0x16, 0x17, 0x18, 0x1A, 0x1B])
    (other : o ≠ .lpddr6LogRead) : o ∉ movedByReset ∧ resetObject o = false ∧ o ∉ hotObjects := by
  have none_ : ∀ x ∈ movedByReset ++ hotObjects, ¬((x.info.access = .rw ∨ x.info.access = .rws) ∧
    x.area ∈ [0x15, 0x16, 0x17, 0x18, 0x1A, 0x1B] ∧ x ≠ .lpddr6LogRead) := by decide
  have outside : o ∉ movedByReset ++ hotObjects := fun mem => none_ o mem ⟨settable, area, other⟩
  rw [List.mem_append, not_or] at outside
  refine ⟨outside.1, ?_, outside.2⟩
  simp only [List.mem_cons, List.not_mem_nil, or_false] at area
  rcases area with h | h | h | h | h | h <;> simp [resetObject, h]

section
variable {d : Dev} {kind : Nat} (switching : d.boot.switching = none) (job : d.boot.job = none) (list : d.valueList = [])

theorem Dev.linkTrained_resetConfig (h : kind = resetHot) : (d.resetConfig kind).ep.linkTrained = false := by
  rw [(d.resetConfig_noted kind).ep, h]
  exact Bool.and_false _

/-- The device whose blocks are about to be reset. -/
theorem Dev.prepared_frame : ∃ f g a w n c m, (d.resetConfig kind).logsReset kind =
    { d with free := f, regs := g, attention := a, logWrapped := w, sent := n, coup := c, mailboxes := m, ep := d.configReset kind, lp := d.lp.logReset kind } := by
  obtain ⟨f, g, a, w, config⟩ := d.resetConfig_noted kind
  obtain ⟨⟨f', g', a', w', n, c, m, logs⟩, -⟩ := (d.resetConfig kind).logsReset_spec Dev.linkTrained_resetConfig
  rw [logs, config]
  exact ⟨_, _, _, _, _, _, _, rfl⟩

include switching job list

/-- All that a reset leaves, but for fields of objects. -/
theorem Dev.reset_spec : (d.reset kind).ep = (Dev.resetEndpoint { d with ep := d.configReset kind } kind).ep ∧
    d.BlocksGone (d.reset kind) ∧ d.MemoryUndefined kind (d.reset kind) ∧
    (d.reset kind).attention = ((d.resetConfig kind).logsReset kind).attention ∧
    (d.reset kind).sent = ((d.resetConfig kind).logsReset kind).sent := by
  obtain ⟨f, g, a, w, n, c, m, prepared⟩ := d.prepared_frame (kind := kind)
  have job' : ((d.resetConfig kind).logsReset kind).boot.job = none := by rw [prepared]; exact job
  have list' : ((d.resetConfig kind).logsReset kind).valueList = [] := by rw [prepared]; exact list
  obtain ⟨g', x, blocks⟩ := Dev.blocksReset_frame (kind := kind) job' list'
  obtain ⟨fresh, some_⟩ := Dev.tearDown_memFree_ne (((d.resetConfig kind).logsReset kind).resetEndpoint kind)
  rw [Dev.reset_eq switching, blocks]
  rw [prepared] at fresh some_ ⊢
  exact ⟨rfl, ⟨rfl, rfl, rfl, rfl, rfl, rfl, rfl, rfl, rfl, rfl⟩, ⟨rfl, fresh, some_, rfl, rfl, rfl, rfl, rfl⟩, rfl, rfl⟩

/-- A field reads its block value where its object has one. -/
theorem Dev.rd_reset_block {r : Reg} (i : Nat) (block : resetObject r.obj = true) (stations : r.obj ≠ .junctionPortConfig) :
    (d.reset kind).rd r i = r.obj.dfltAt r.off := by
  obtain ⟨f, g, a, w, n, c, m, prepared⟩ := d.prepared_frame (kind := kind)
  rw [Dev.reset_eq switching]
  exact (Dev.rd_blocksReset (by rw [prepared]; exact job) (by rw [prepared]; exact list) r i stations).1 block

/-- A field that the blocks do not move reads as once the logs were reset. -/
theorem Dev.rd_reset_logs {r : Reg} (i : Nat) (fixed : r.obj ∉ movedWithBlocks) (other : resetObject r.obj = false) :
    (d.reset kind).rd r i = ((d.resetConfig kind).logsReset kind).rd r i := by
  obtain ⟨f, g, a, w, n, c, m, prepared⟩ := d.prepared_frame (kind := kind)
  rw [Dev.reset_eq switching]
  exact Dev.rd_blocksReset_kept (by rw [prepared]; exact job) (by rw [prepared]; exact list) i fixed other

/-- A field that no part of a reset moves reads as before, or is a cleared log's. -/
theorem Dev.rd_reset_kept {r : Reg} (i : Nat) (fixed : r.obj ∉ movedByReset) (other : resetObject r.obj = false) :
    (d.reset kind).rd r i = if kind = resetHot ∧ r.obj ∈ hotObjects then r.obj.dfltAt r.off else d.rd r i := by
  have parts : r.obj.ofAttention = false ∧ r.obj ≠ .couplingPortState ∧ r.obj ∉ movedWithBlocks := by
    simp only [movedByReset, List.mem_append, List.mem_cons, List.not_mem_nil, or_false, not_or] at fixed
    obtain ⟨⟨log, cause, head, port⟩, blocks⟩ := fixed
    simp [Obj.ofAttention, log, cause, head, port, blocks]
  obtain ⟨quiet, port, blocks⟩ := parts
  obtain ⟨-, -, -, rd⟩ := (d.resetConfig kind).logsReset_spec Dev.linkTrained_resetConfig
  rw [Dev.rd_reset_logs switching job list i blocks other, rd r i quiet port, Dev.rd_resetConfig d kind r i quiet]

end

end Sys2Proof.Machine
end

section
/-! SUPPORT. A whole reset: what it leaves of attention and of the reset reports, and which commands make one (R57, R96 to R100). -/

namespace Sys2Proof.Machine

/-! ### Attention after a hot reset (R57, R96) -/

/-- A hot reset clears attention and the log before the link's loss is recorded. -/
theorem Dev.logsReset_hot (d : Dev) : ∃ a : Dev, (d.resetConfig resetHot).logsReset resetHot = a.linkDownFirst ∧
    a.ep = d.configReset resetHot ∧ a.attention = 0 ∧ a.logWrapped = false ∧ a.rd Reg.dictionaryAttentionLogHead = 0 := by
  obtain ⟨⟨r, n, c, told⟩, -⟩ := (d.resetConfig resetHot).sendNotices_told
  obtain ⟨⟨g, m, cleared⟩, rd⟩ := (d.resetConfig resetHot).sendNotices.clearAttention_spec
  refine ⟨_, if_pos rfl, ?_, by rw [cleared], by rw [cleared], (rd _ _).trans (if_pos (by decide))⟩
  rw [cleared, told, (d.resetConfig_noted resetHot).ep]

section
variable {d : Dev} (switching : d.boot.switching = none) (job : d.boot.job = none) (list : d.valueList = [])
include switching job list

/-- Where the link has not gone down, a hot reset leaves no attention bit and an empty log. -/
theorem Dev.reset_linkUp (up : d.ep.linkDownPending = false) :
    (d.reset resetHot).attention = 0 ∧ (d.reset resetHot).rd Reg.dictionaryAttentionLogHead = 0 := by
  obtain ⟨a, logs, ep, clear, -, head⟩ := d.logsReset_hot
  obtain ⟨-, -, -, attention, -⟩ := Dev.reset_spec (kind := resetHot) switching job list
  rw [Dev.linkDownFirst_none (by rw [ep]; exact up)] at logs
  rw [attention, Dev.rd_reset_logs switching job list _ (by decide) (by decide), logs]
  exact ⟨clear, head⟩

/-- Where the link has gone down, LINK stands after a hot reset, with LINK_DOWN as the log's only entry. -/
theorem Dev.reset_linkDown (down : d.ep.linkDownPending = true) : let e := d.reset resetHot
    e.attentionBit Bit.link = true ∧ e.rd Reg.dictionaryAttentionLogHead = 1 ∧ e.rd Reg.dictionaryAttentionLog_bit 0 = Bit.link ∧
      bits (e.rd Reg.dictionaryAttentionLog_status 0) 0 8 = 0x32 := by
  intro e
  obtain ⟨a, logs, ep, -, unwrapped, head⟩ := d.logsReset_hot
  obtain ⟨-, -, -, attention, -⟩ := Dev.reset_spec (kind := resetHot) switching job list
  rw [Dev.linkDownFirst_down (by rw [ep]; exact down) (by rw [ep]; exact Bool.and_false _)] at logs
  have rd (r : Reg) (i : Nat) (fixed : r.obj ∉ movedWithBlocks) (other : resetObject r.obj = false) : e.rd r i = (a.record linkDownCause).rd r i := by
    rw [← Dev.attend_empty head unwrapped, ← logs]
    exact Dev.rd_reset_logs switching job list i fixed other
  obtain ⟨-, status, bit, -⟩ := a.rd_record_log linkDownCause
  rw [head] at status bit
  refine ⟨?_, ?_, (rd _ _ (by decide) (by decide)).trans bit, ?_⟩
  · rw [Dev.attentionBit, attention, logs]
    exact a.attentionBit_attend (c := linkDownCause) (by decide) (by decide)
  · rw [rd _ _ (by decide) (by decide), Dev.rd_record_head, head]
    rfl
  · rw [rd _ _ (by decide) (by decide), status]
    exact (Dev.statusWord_bytes _ _ _).1

end

/-! ### Reports (R100) -/

/-- A queue with nothing in flight keeps the report it has. -/
theorem Dev.rd_foldl_reportQueue_idle (kind off : Nat) {q : Nat} (l : List Nat) : ∀ d : Dev, (d.queue q).inflight = [] →
    (l.foldl (fun d q => d.reportQueue kind q) d).rd ⟨.hostQueueResetReport, off⟩ q = d.rd ⟨.hostQueueResetReport, off⟩ q := by
  induction l with
  | nil => exact fun d _ => rfl
  | cons k l ih =>
    intro d idle
    obtain ⟨g, eq⟩ := d.reportQueue_regs kind k
    have idle' : ((d.reportQueue kind k).queue q).inflight = [] := by rw [eq]; exact idle
    refine (ih _ idle').trans ?_
    by_cases here : k = q
    · rw [here, Dev.reportQueue, idle]
    · exact d.rd_reportQueue_ne kind k _ q (.inr here)

section
variable {d : Dev} {kind : Nat} (switching : d.boot.switching = none) (job : d.boot.job = none) (list : d.valueList = []) {q : Nat}
include switching job list

/-- The report of a queue after a reset is the one formed before its blocks were torn down. -/
theorem Dev.rd_reset_report (off : Nat) : (d.reset kind).rd ⟨.hostQueueResetReport, off⟩ q =
    ((((d.resetConfig kind).logsReset kind).resetEndpoint kind).reportAll kind).rd ⟨.hostQueueResetReport, off⟩ q := by
  obtain ⟨f, g, a, w, n, c, m, prepared⟩ := d.prepared_frame (kind := kind)
  rw [Dev.reset_eq switching]
  refine (Dev.rd_blocksReset (by rw [prepared]; exact job) (by rw [prepared]; exact list) ⟨.hostQueueResetReport, off⟩ q (by decide : Obj.hostQueueResetReport ≠ _)).2
    (show resetObject .hostQueueResetReport = false by decide) (show Obj.hostQueueResetReport ∉ tornObjects by decide) fun mem => ?_
  exact absurd (List.mem_map_of_mem (f := Reg.obj) mem) (show Obj.hostQueueResetReport ∉ busyFlags.map Reg.obj by decide)

theorem Dev.reset_report {f : Fetched} {fs : List Fetched} (few : q < 64) (at_ : (d.queue q).inflight = f :: fs) :
    (d.reset kind).ReportStands kind ((d.ep.resetSequence + 1) % 65536) q f.index (fs.length + 1) := by
  obtain ⟨f', g, a, w, n, c, m, prepared⟩ := d.prepared_frame (kind := kind)
  have at' : ((((d.resetConfig kind).logsReset kind).resetEndpoint kind).queue q).inflight = f :: fs := by rw [prepared]; exact at_
  have sequence : (((d.resetConfig kind).logsReset kind).resetEndpoint kind).ep.resetSequence = (d.ep.resetSequence + 1) % 65536 := by rw [prepared]; rfl
  have stands := Dev.foldl_reportQueue_stands kind (List.range 64) (List.mem_range.2 few) _ at'
  rw [sequence] at stands
  exact stands.congr fun off => Dev.rd_reset_report switching job list off

theorem Dev.reset_reportKept (idle : (d.queue q).inflight = []) (off : Nat) :
    (d.reset kind).rd ⟨.hostQueueResetReport, off⟩ q = d.rd ⟨.hostQueueResetReport, off⟩ q := by
  obtain ⟨f', g, a, w, n, c, m, prepared⟩ := d.prepared_frame (kind := kind)
  have idle' : ((((d.resetConfig kind).logsReset kind).resetEndpoint kind).queue q).inflight = [] := by rw [prepared]; exact idle
  obtain ⟨-, -, -, rd⟩ := (d.resetConfig kind).logsReset_spec Dev.linkTrained_resetConfig
  have logs : ((d.resetConfig kind).logsReset kind).rd ⟨.hostQueueResetReport, off⟩ q = d.rd ⟨.hostQueueResetReport, off⟩ q := by
    rw [rd _ _ rfl (by decide : Obj.hostQueueResetReport ≠ _), Dev.rd_resetConfig d kind ⟨.hostQueueResetReport, off⟩ q rfl, if_neg]
    exact fun h => absurd h.2 (show Obj.hostQueueResetReport ∉ hotObjects by decide)
  rw [Dev.rd_reset_report switching job list, Dev.reportAll, Dev.rd_foldl_reportQueue_idle kind off _ _ idle', ← logs]
  exact Dev.rd_of_regs rfl _ _

end

/-! ### Commands that reset (R96 to R99) -/

/-- The device as a reset finds it: `d`, with the fall of the link counted and to be recorded where `down` says so. -/
structure Dev.Meets (d : Dev) (down : Bool) (x : Dev) : Prop where
  frame : ∃ f g, x = { d with free := f, regs := g, ep := { d.ep with linkDownPending := down } }
  rd : ∀ r i, r.obj ≠ .hostLinkDowns → x.rd r i = d.rd r i

theorem Dev.Meets.refl (d : Dev) : d.Meets d.ep.linkDownPending d := ⟨⟨_, _, rfl⟩, fun _ _ _ => rfl⟩

/-- The device once DL_Down is counted. -/
def Dev.linkFell (d : Dev) : Dev :=
  { d.count Reg.hostLinkDowns with ep := { (d.count Reg.hostLinkDowns).ep with linkDownPending := true } }

theorem Dev.linkFell_meets (d : Dev) : d.Meets true d.linkFell := by
  refine ⟨?_, fun r i n => (Dev.rd_of_regs rfl r i).trans (d.rd_count_ne Reg.hostLinkDowns 0 1 n.symm r.off i)⟩
  unfold Dev.linkFell Dev.count
  dsimp only
  split
  · exact ⟨_, _, rfl⟩
  · exact ⟨_, _, rfl⟩

open Sys2Proof.Safety in
/-- What a command that resets does: the reset of its kind, on the device as it finds it. -/
theorem exec_reset {c : Instr} {kind : Nat} {s : State}
    (which : c = .hotReset ∧ kind = 2 ∨ c = .dlDown ∧ kind = 2 ∨ c = .functionLevelReset ∧ kind = 3 ∧ s.dev.cfgServed = true ∨
      c = .d3hotToD0 ∧ kind = 4 ∧ s.dev.cfgServed = true ∧ s.dev.ep.power = .d3hot) :
    ∃ f x, exec c s = act c f s ∧ f s.dev = x.reset kind ∧ s.dev.Meets (s.dev.ep.linkDownPending || c == .dlDown) x := by
  have same {c : Instr} (h : (c == .dlDown) = false) : s.dev.Meets (s.dev.ep.linkDownPending || c == .dlDown) s.dev := by
    rw [h, Bool.or_false]
    exact .refl _
  rcases which with ⟨rfl, rfl⟩ | ⟨rfl, rfl⟩ | ⟨rfl, rfl, served⟩ | ⟨rfl, rfl, served, asleep⟩
  · exact ⟨hotResetEffect, s.dev, rfl, rfl, same rfl⟩
  · refine ⟨dlDownEffect, s.dev.linkFell, rfl, rfl, ?_⟩
    rw [show (Instr.dlDown == .dlDown) = true from rfl, Bool.or_true]
    exact s.dev.linkFell_meets
  · exact ⟨functionLevelResetEffect, s.dev, rfl, if_pos served, same rfl⟩
  · exact ⟨d3hotToD0Effect, s.dev, rfl, if_pos (by rw [served, asleep]; rfl), same rfl⟩

section
variable {d x : Dev} {down : Bool} {kind : Nat} (meets : d.Meets down x) (switching : d.boot.switching = none) (job : d.boot.job = none)
  (list : d.valueList = [])
include meets switching job list

theorem Dev.Meets.preconditions : x.boot.switching = none ∧ x.boot.job = none ∧ x.valueList = [] := by
  obtain ⟨⟨f, g, rfl⟩, -⟩ := meets
  exact ⟨switching, job, list⟩

/-- The endpoint, the blocks and memory once the wire has settled after a reset. -/
theorem Dev.Meets.reset : d.EndpointReset down kind (settle (x.reset kind)) ∧ d.BlocksGone (settle (x.reset kind)) ∧
    d.MemoryUndefined kind (settle (x.reset kind)) := by
  obtain ⟨switching', job', list'⟩ := meets.preconditions switching job list
  obtain ⟨ep, blocks, memory, -, -⟩ := Dev.reset_spec (kind := kind) switching' job' list'
  obtain ⟨n, settled⟩ := settle_masked (d := x.reset kind) (by rw [ep]; rfl)
  obtain ⟨⟨f, g, rfl⟩, -⟩ := meets
  rw [settled, Dev.EndpointReset]
  dsimp only
  rw [ep]
  exact ⟨⟨rfl, rfl, rfl, rfl, rfl, rfl, rfl, rfl, rfl, rfl, rfl, rfl, rfl, rfl⟩, blocks, memory⟩

/-- Settable objects of the areas that go on read as before the command. -/
theorem Dev.Meets.rd_kept {o : Obj} (settable : o.info.access = .rw ∨ o.info.access = .rws)
    (area : o.area ∈ [0x15, 0x16, 0x17, 0x18, 0x1A, 0x1B]) (other : o ≠ .lpddr6LogRead) (off i : Nat) :
    (x.reset kind).rd ⟨o, off⟩ i = d.rd ⟨o, off⟩ i := by
  obtain ⟨switching', job', list'⟩ := meets.preconditions switching job list
  obtain ⟨fixed, block, log⟩ := Obj.fixed_of_kept settable area other
  have kept := Dev.rd_reset_kept (kind := kind) switching' job' list' (r := ⟨o, off⟩) i fixed block
  rw [if_neg fun h => log h.2] at kept
  refine kept.trans (meets.rd _ i ?_)
  rintro rfl
  exact absurd area (by decide)

end

end Sys2Proof.Machine
end

section
/-! SUPPORT. A reset that comes while firmware switches: configuration space alone is reset, and the rest is held (R98, R593). -/

namespace Sys2Proof.Machine

/-- From `d` to `e` configuration space alone has been reset, the rest of the reset being held. -/
def Dev.ResetHeld (d e : Dev) : Prop :=
  e.ep.busMaster = false ∧ e.ep.memorySpace = false ∧ e.boot.heldReset.isSome = true ∧ e.cfgServed = false ∧
    e.queues = d.queues ∧ e.contexts = d.contexts ∧ e.streams = d.streams ∧ e.mem = d.mem ∧ e.memFree = d.memFree ∧
    ∀ o i off, o ≠ .dictionaryAttentionLog → o ≠ .dictionaryAttentionCause → o ≠ .dictionaryAttentionLogHead → e.rd ⟨o, off⟩ i = d.rd ⟨o, off⟩ i

/-- While a reset is held no configuration request is served (R593). -/
theorem Dev.cfgServed_held {d : Dev} (h : d.boot.heldReset.isSome = true) : d.cfgServed = false := by
  obtain ⟨k, some_⟩ := Option.isSome_iff_exists.1 h
  rw [Dev.cfgServed, some_]
  exact Bool.and_false _

theorem Dev.reset_held {d : Dev} (switching : d.boot.switching.isSome = true) (kind : Nat) : d.ResetHeld (settle (d.reset kind)) := by
  obtain ⟨k, eq⟩ := Dev.reset_switching switching kind
  obtain ⟨x, n, settled⟩ := settle_eq_ep (d.reset kind)
  obtain ⟨f, g, a, w, config⟩ := d.resetConfig_noted kind
  have held : (settle (d.reset kind)).boot.heldReset.isSome = true := by rw [settled, eq]; rfl
  have unserved := Dev.cfgServed_held held
  refine ⟨?_, ?_, held, unserved, ?_, ?_, ?_, ?_, ?_, fun o i off log cause head => ?_⟩
  case refine_8 =>
    have quiet : o.ofAttention = false := by simp [Obj.ofAttention, log, cause, head]
    rw [settle_rd, eq, ← Dev.rd_resetConfig d kind ⟨o, off⟩ i quiet]
    exact Dev.rd_of_regs rfl _ _
  all_goals (rw [settled, eq, config] <;> rfl)

end Sys2Proof.Machine
end

section
/-! The statements on hot and function-level reset, settled (R57, R90, R96 to R100, R593, R598). -/

namespace Sys2Proof.HostFamily
open Sys2Proof.Machine Sys2Proof.Safety

/-- Settles O23: each command that resets makes the reset of its kind, and each group of what the reset leaves follows from its parts. -/
theorem resetTearsDown : Obligations.ResetTearsDown := by
  refine ⟨fun c kind s h which switching job list => ?_, fun s h switching job list room => ?counted⟩
  · obtain ⟨f, x, isAct, eff, meets⟩ := exec_reset which
    obtain ⟨switching', job', list'⟩ := meets.preconditions switching job list
    obtain ⟨endpoint, blocks, memory⟩ := meets.reset (kind := kind) switching job list
    refine yields_of isAct h ?_
    rw [eff]
    refine ⟨endpoint, blocks, memory, fun o i off block stations => ?_, fun o i off settable area other => ?_, ?_, ?_, ?_, fun soft off => ?_⟩
    · rw [settle_rd]
      exact Dev.rd_reset_block switching' job' list' i block stations
    · rw [settle_rd]
      exact meets.rd_kept switching job list settable area other off i
    · rintro rfl
      rw [settle_rd, settle_rd]
      exact ⟨(Dev.rd_reset_kept switching' job' list' 0 (by decide) (by decide)).trans (if_pos (by decide)),
        (Dev.rd_reset_kept switching' job' list' 0 (by decide) (by decide)).trans (if_pos (by decide))⟩
    · rintro rfl up
      rw [settle_attention, settle_rd]
      obtain ⟨⟨g, r, eq⟩, -⟩ := meets
      exact Dev.reset_linkUp switching' job' list' (by rw [eq]; exact up)
    · rintro rfl down
      rw [settle_attentionBit, settle_rd, settle_rd, settle_rd]
      obtain ⟨⟨g, r, eq⟩, -⟩ := meets
      exact Dev.reset_linkDown switching' job' list' (by rw [eq]; exact down)
    · obtain ⟨-, -, -, attention, -⟩ := Dev.reset_spec (kind := kind) switching' job' list'
      obtain ⟨-, -, kept, -⟩ := (x.resetConfig kind).logsReset_spec (kind := kind) Dev.linkTrained_resetConfig
      obtain ⟨⟨g, r, eq⟩, -⟩ := meets
      rw [settle_attention, attention, kept soft, Dev.resetConfig_attention (by rw [eq]; exact off), eq]
  case counted =>
    obtain ⟨switching', job', list'⟩ := s.dev.linkFell_meets.preconditions switching job list
    refine yields_of (f := dlDownEffect) rfl h ?_
    rw [settle_rd, show dlDownEffect s.dev = s.dev.linkFell.reset resetHot from rfl,
      Dev.rd_reset_kept switching' job' list' 0 (by decide) (by decide), if_neg (by decide)]
    exact (Dev.rd_of_regs rfl _ _).trans (Dev.rd_count_same room)

/-- Settles O24, by whether firmware switches. -/
theorem resetReport : Obligations.ResetReport := by
  refine ⟨fun c kind s h which switching job list => ?_, fun c s which h switching => ?_⟩
  · have which' : ∃ f, exec c s = act c f s ∧ f s.dev = s.dev.reset kind := by
      rcases which with ⟨rfl, rfl⟩ | ⟨rfl, rfl, served⟩
      · exact ⟨hotResetEffect, rfl, rfl⟩
      · exact ⟨functionLevelResetEffect, rfl, if_pos served⟩
    obtain ⟨f, isAct, eff⟩ := which'
    obtain ⟨-, -, -, -, sent⟩ := Dev.reset_spec (kind := kind) switching job list
    obtain ⟨-, writes, -, -⟩ := (s.dev.resetConfig kind).logsReset_spec (kind := kind) Dev.linkTrained_resetConfig
    refine yields_of isAct h ?_
    rw [eff]
    refine ⟨fun a b mem => ?_, fun q few => ⟨fun f fs at_ => ?_, fun idle off => ?_⟩⟩
    · have written := hostWrite_mem_settle mem
      rw [sent] at written
      have before := writes a b written
      rw [(s.dev.resetConfig_noted kind).sent] at before
      exact before
    · exact (Dev.reset_report (kind := kind) switching job list few at_).congr fun off => settle_rd _ _ _
    · rw [settle_rd]
      exact Dev.reset_reportKept switching job list idle off
  · rcases which with rfl | ⟨rfl, served⟩
    · exact yields_of (f := hotResetEffect) rfl h (Dev.reset_held switching resetHot)
    · refine yields_of (f := functionLevelResetEffect) rfl h ?_
      rw [show functionLevelResetEffect s.dev = s.dev.reset resetFunction from if_pos served]
      exact Dev.reset_held switching resetFunction

end Sys2Proof.HostFamily
end
